-- ==== Sys2Proof/Word.lean ====
section
/-! DEFINITION. The word and byte types of the model: registers are 32 bits wide, memory is addressed by the byte (00_scope, Registers and R8). -/

namespace Sys2Proof

/-- A register of the block: 32 bits (00_scope, Registers). -/
abbrev Word := BitVec 32

/-- The smallest addressable unit of memory. -/
abbrev Byte := BitVec 8

end Sys2Proof
end

