-- ==== Sys2Proof/Syntax.lean ====
section
/-! DEFINITION. The commands of the block: one constructor per row of spec/opcode_table.json. The rows of the table have no
fields; the operands here are what each row's rule says it acts on. A row that carries out a Soloc command names the
command by its tracking tag; its fields are in the packet the tracking entry holds. A row that comes about by time carries
the timebase value it happens at; one that a sensor or a partner module drives carries the reading or the message. -/

namespace Sys2Proof

/-- The two interrupt targets (16_interrupt_controller). -/
inductive IrqTarget where
  | host | mgmt
  deriving DecidableEq, Repr

/-- The items of R291, whose fields of the Fabric block apply together. -/
inductive FabPart where
  /-- Route-table entries and FAB_ROUTE_CFG, between two routing decisions. -/
  | routes
  /-- BREAKWATER_RATE, REPLAY_LIMIT, FAB_TELEM and PORT_CTRL.EN, between two flits. -/
  | flits
  /-- DATELINE, DIM, ALLOW_X4, LANE_MAP.DISABLE and TC_CREDITS of a port, at its next training. -/
  | port (p : Fin 8)
  /-- FAB_MODULE_ID, when every port is DOWN or disabled. -/
  | moduleId
  deriving DecidableEq, Repr

/-- What forward error correction made of a received flit's codewords (R272, R275). -/
inductive FecResult where
  /-- Decoded, with this many symbols corrected. -/
  | decoded (symbols : Nat)
  /-- A codeword was uncorrectable. -/
  | uncorrectable
  deriving DecidableEq, Repr

/-- What a port's training found (R269, R283): whether a partner answered, its ID and port, its credit division as the
partner's TC_CREDITS word, and the mask of good lanes (bit 8: the spare). -/
structure Training where
  partner : Bool
  partnerId : Nat
  partnerPort : Nat
  credits : Word
  goodLanes : Nat
  deriving DecidableEq, Repr

/-- What identifies a message of the fabric: its source or destination module, class, number, RESENT (R272, R273). -/
structure MsgHead where
  peer : Nat
  tc : Nat
  msg : Nat
  resent : Bool
  deriving DecidableEq, Repr

/-- What the trainings and tests of a boot find (R394 to R397, R408). `training`: for each stack, none where both trainings failed,
else the failed lanes as (channel, pseudo-channel, lanes); `failing`: physical tiles; `cables` and `clocks`: the
connectors J2A (bit 0) and J2B (bit 1) that report a cable, and whose reference clock is there; `lanes`: each port's bad lanes (bit 8: the spare); the host link; the
milliseconds taken. -/
structure Boot where
  training : List (Option (List (Nat × Nat × Nat)))
  skerry : Bool
  failing : List Nat
  cables : Nat
  clocks : Nat
  lanes : List Nat
  generation : Nat
  width : Nat
  ms : Nat
  deriving DecidableEq, Repr

/-- The messages of the fabric by what they carry (R272 and the owning chapters). -/
inductive MsgWhat where
  | signal | soloc | refuse | expandRequest | expandReply | directory | scale | telemetry | ack
  | gatherRequest | gatherReply | redirect | contribution | piece | treePiece | chunk | migrationCopy
  deriving DecidableEq, Repr

/-- What a write to the MSI-X structures changes (R324): one vector's control word, or the function's enable and mask. -/
inductive MsixControl where
  | vector (v : Fin 64) (value : Word)
  | function (enable mask : Bool)
  deriving DecidableEq, Repr

/-- What a message says: its numbers and its bytes. Where the spec gives no byte layout of a payload, only this content is
modelled, and its bytes on the lanes are Config.payload's (log entry 20). -/
structure Content where
  what : MsgWhat
  args : List Nat
  data : List Byte
  deriving DecidableEq, Repr

/-- What a module asks of another while it carries out a SAMPLE, a RANDOM_WALK or a gather (R82, R86, R95). -/
inductive Ask where
  /-- One row of a SAMPLE: graph, key, hop, mode, fanout, CAP_RULE, whether weights are wanted, node. -/
  | row (graph k0 k1 hop mode fanout : Nat) (capRule weights : Bool) (node : Nat)
  /-- One step of a walk, carried by the owner of its current node: graph, key, walk, start node, the step's number, the current node,
  the previous one (none at step 1 and where no test is made), RETURN_P and INOUT_Q (R84, R86). -/
  | step (graph k0 k1 walk start t node : Nat) (prev : Option Nat) (p q : Nat)
  /-- Whether `target` is in the row of `node` (R86). -/
  | member (graph node target : Nat)
  /-- One row of a table for a gather: table, row, tide. -/
  | tableRow (table row tide : Nat)
  /-- One contribution to a row of a table: table, row, tide, its number within the command, FS48 codes (R100, R101). -/
  | contribute (table row tide number : Nat) (codes : List Nat)
  /-- A migrating row offered to its destination: table, row (R111). -/
  | takeRow (table row : Nat)
  /-- The switch of a migrating row: table, row, tide (R111). -/
  | switchRow (table row tide : Nat)
  /-- A remote image of a CHECKPOINT written at the destination: address, length (R266). -/
  | image (address bytes : Nat)
  deriving DecidableEq, Repr

/-- The answer to an ask, or one message of it: a status and detail where it failed, flags, numbers, weights, bytes (256: a
byte lost to an uncorrectable error). -/
structure Answer where
  status : Nat
  detail : Nat
  flags : Nat
  nums : List Nat
  weights : List Nat
  bytes : List Nat
  last : Bool
  deriving DecidableEq, Repr

/-- A chunk of a reduction: the fields of its header and its lanes (Chunk header). `emax` none: NONE. -/
structure Chunk where
  group : Nat
  tree : Nat
  overRange : Bool
  saturated : Bool
  down : Bool
  fromBackup : Bool
  pass2 : Bool
  layer : Nat
  step : Nat
  chunk : Nat
  e : Int
  emax : Option Int
  count : Nat
  rank : Nat
  nonfinite : Nat
  lanes : List Nat
  deriving DecidableEq, Repr

/-- The values a closing, opening or scale round combines (R302): the round (0: opening round or SCALE_ROUND, 1 and 2: the
closing round of that pass), and whether they travel down. -/
structure RoundValues where
  group : Nat
  layer : Nat
  step : Nat
  round : Nat
  down : Bool
  overRange : Bool
  saturated : Bool
  nonfinite : Nat
  emax : Option Int
  count : Nat
  deriving DecidableEq, Repr

/-- A piece of an ALL_GATHER, ALL_TO_ALL or BROADCAST: its name, the sender's rank, the piece's index, the length of the
block it belongs to, whether it travels down a tree, its bytes (R313, R314). -/
structure Piece where
  opcode : Nat
  group : Nat
  layer : Nat
  step : Nat
  rank : Nat
  index : Nat
  total : Nat
  down : Bool
  bytes : List Byte
  deriving DecidableEq, Repr

/-- A migrating row as it is copied: row-map entry, slot, optimizer state, gradient-buffer row (R111). -/
structure RowImage where
  entry : Nat
  slot : List Byte
  state : List Byte
  grad : List Byte
  deriving DecidableEq, Repr


/-- The commands of the block: one constructor per row of the table of operations and events (95_what_each_step_holds),
in the table's order; each is one indivisible step. -/
inductive Instr where
  /-- DOORBELL (R31): A write to RING_TAIL advances the submission ring's tail if the advance fits in the free granules, and otherwise is ignored and sets TAIL_ERR. -/
  | doorbell (ring : Fin 16) (value : Word)
  /-- PACKET_FETCH (R33): The command processor takes a granted ring's next readable packet, gives it a tag and either holds it on its wait conditions or queues it for dispatch. -/
  | packetFetch
  /-- COMMAND_COMPLETE (R50): A command that finishes executing makes its writes visible, performs its signals and posts its reply. -/
  | commandComplete (tag : Fin 1024)
  /-- REPLY_DEFERRED_POST (R36): A reply held because its completion ring was full or inactive is written once the ring is active and has a free entry, with REPLY_DELAYED set. -/
  | replyDeferredPost (ring : Fin 16)
  /-- COMMAND_TIMEOUT (R56): A command's timeout expiry completes it with TIMEOUT, or with TIDE_UNAVAILABLE when it was waiting for a tide or a slot. -/
  | commandTimeout (tag : Fin 1024) (time : Nat)
  /-- CPL_HEAD_WRITE (R36): A write of CPL_HEAD frees completion-ring entries for waiting replies. -/
  | cplHeadWrite (ring : Fin 16) (value : Word)
  /-- FLUSH (R59): Cancels the ring's undispatched commands and remaining packets with CANCELLED 0x02, then sets RING_HEAD to RING_TAIL. -/
  | flush (ring : Fin 16)
  /-- CANCEL_WAITING (R59): Cancels every tagged, undispatched command of the ring with CANCELLED 0x01. -/
  | cancelWaiting (ring : Fin 16)
  /-- ADDR_ERR_CLEAR (R426): A write of 1 to ADDR_ERR clears it and lets the ring read packets again. -/
  | addrErrClear (ring : Fin 16)
  /-- FORMAT_ERR_CLEAR (R40): A write of 1 to FORMAT_ERR clears it, and reading resumes at RING_HEAD. -/
  | formatErrClear (ring : Fin 16)
  /-- SWITCH_REFUSED_CLEAR (R63): A write of 1 to SWITCH_REFUSED clears it and lets the ring read packets again. -/
  | switchRefusedClear (ring : Fin 16)
  /-- COMMIT_REQUEST (R65): A write of COMMIT = 1 to a block's commit register requests that its pending shadows be applied, and sets APPLYING. -/
  | commitRequest (block ring : Fin 16)
  /-- COMMIT_APPLY (R12): At the block's quiet point, all of its pending shadows are applied together and descriptors are loaded, after which dispatch resumes. -/
  | commitApply (block ring : Fin 16)
  /-- FABRIC_COMMIT_PART_APPLY (R291): One part of a Fabric commit applies at its own moment: between routing decisions, between flits, at port training, or when all ports are down. -/
  | fabricCommitPartApply (part : FabPart)
  /-- EVC_VALUE_WRITE (R46): A write sets an event counter's value at once, and waits and watches are evaluated again. -/
  | evcValueWrite (counter : Fin 4096) (value : Word)
  /-- EVC_ADD_WRITE (R45): A write atomically adds to an event counter, and waits and watches are evaluated again. -/
  | evcAddWrite (counter : Fin 4096) (value : Word)
  /-- EVC_WATCH_WRITE (R45): A write to a watch's configuration or threshold evaluates the watch again, and it fires if its condition becomes true. -/
  | evcWatchWrite (watch : Fin 64) (threshold : Bool) (value : Word)
  /-- NOP (R48): Completes as soon as it is ready. -/
  | nop (tag : Fin 1024)
  /-- FENCE (R48): Holds the ring and completes when every earlier packet of the ring has completed. -/
  | fence (tag : Fin 1024)
  /-- SIGNAL (R48): Completes when ready and signals the header target and up to four more body targets. -/
  | signal (tag : Fin 1024)
  /-- WAIT (R48): Holds the ring until the command is ready. -/
  | wait (tag : Fin 1024)
  /-- CONFIG_COMMIT (R415): Requests a commit of each named block and completes when all of them are applied. -/
  | configCommit (tag : Fin 1024)
  /-- SLOT_SWITCH (R63): Changes the ring's active model slot, or is refused and stops the ring. -/
  | slotSwitch (tag : Fin 1024)
  /-- QUERY (R344): The management core writes the latest telemetry record or a fresh sensor dump. -/
  | query (tag : Fin 1024)
  /-- COPY (R249): The bay DMA copies rows of bytes, or fills them with a pattern. -/
  | copy (tag : Fin 1024)
  /-- TRANSPOSE_COPY (R250): The bay DMA writes each packed source element (r, c) to destination element (c, r). -/
  | transposeCopy (tag : Fin 1024)
  /-- STORE_COMPRESSED (R179): Quantises a dense tensor and writes it in the three-level bitmap compressed form. -/
  | storeCompressed (tag : Fin 1024)
  /-- CONVERT (R137): Decodes a tensor, optionally rotates it, and quantises it into the output format. -/
  | convert (tag : Fin 1024)
  /-- SAMPLE (R77): The sampler draws multi-hop neighbourhoods of the seeds and writes the canonical sample block. -/
  | sample (tag : Fin 1024)
  /-- RANDOM_WALK (R84): Runs W walks of L steps from each start node, biased or not, and writes the walk paths. -/
  | randomWalk (tag : Fin 1024)
  /-- GATHER (R94): Fetches table rows by index through the row maps and writes them out densely. -/
  | gather (tag : Fin 1024)
  /-- GATHER_POOL (R97): Fetches bags of rows and pools each bag, split into segments, in FP32. -/
  | gatherPool (tag : Fin 1024)
  /-- SCATTER_ADD (R100): Converts gradient rows to FS48 and adds them exactly into their owners' gradient buffers. -/
  | scatterAdd (tag : Fin 1024)
  /-- ROW_REPLACE (R104): Writes new rows into free slots and flips their row-map entries atomically. -/
  | rowReplace (tag : Fin 1024)
  /-- ROW_MIGRATE (R111): Announces rows and copies them to a destination module, which takes ownership at the next tide advance. -/
  | rowMigrate (tag : Fin 1024)
  /-- MATMUL (R146): Computes the forward product on the named engines, in blocks assigned to arrays. -/
  | matmul (tag : Fin 1024)
  /-- MATMUL_DGRAD (R146): Computes the data gradient on Ebb-D, against the exact tide that the forward command recorded. -/
  | matmulDgrad (tag : Fin 1024)
  /-- MATMUL_WGRAD (R158): Computes the weight gradient on Ebb-W, optionally writing FS48 ready for REDUCE. -/
  | matmulWgrad (tag : Fin 1024)
  /-- OPERATION_ENQUEUE (R53): An operation held by the bay dispatcher enters its tile engine queue once the queue has room. -/
  | operationEnqueue (tag : Fin 1024)
  /-- SERIALISED_OPERATION_START (R153): An operation whose accumulator rows overlap an earlier one starts only after the earlier one writes its last output. -/
  | serialisedOperationStart (tag : Fin 1024)
  /-- VECTOR_RUN (R196): Loads the program on each named tile, checks it, runs the inbound transfers, the instructions and the outbound transfers. -/
  | vectorRun (tag : Fin 1024)
  /-- REDUCE (R300): Converts the source to FS48 lanes and reduces it exactly over the group's trees, chunk by chunk. -/
  | reduce (tag : Fin 1024)
  /-- SCALE_ROUND (R312): Finds the group's EMAX by a closing round, then converts the source at E_fresh and writes the scale record. -/
  | scaleRound (tag : Fin 1024)
  /-- ALL_GATHER (R313): Writes each member's block at its rank's offset on every member. -/
  | allGather (tag : Fin 1024)
  /-- ALL_TO_ALL (R313): Sends block j of each member to member j. -/
  | allToAll (tag : Fin 1024)
  /-- BROADCAST (R313): Writes the root's block on every member. -/
  | broadcast (tag : Fin 1024)
  /-- UPDATE (R258): The skerry die applies the optimizer to master state and writes the new quantised tide. -/
  | update (tag : Fin 1024)
  /-- CHECKPOINT (R266): Captures the model slot's state into a signed-digest image, with the header written last. -/
  | checkpoint (tag : Fin 1024)
  /-- RESTORE (R268): Checks a checkpoint image and restores the slot's state, counters and tides from it. -/
  | restore (tag : Fin 1024)
  /-- TIDE_RETIRE (R222): Moves the named tides to RETIRING, discards their holds, and completes once they retire. -/
  | tideRetire (tag : Fin 1024)
  /-- TIDE_WAIT_EXIT (R214): A MATMUL or MATMUL_DGRAD waiting for its tide resolves it when a suitable tide becomes present, and proceeds. -/
  | tideWaitExit (tag : Fin 1024)
  /-- UPDATE_SLOT_WAIT_EXIT (R223): An UPDATE waiting for a FREE version slot, or for CURRENT, takes a slot and proceeds. -/
  | updateSlotWaitExit (tag : Fin 1024)
  /-- CHECKPOINT_WAIT_EXIT (R266): A CHECKPOINT proceeds once every earlier UPDATE of its slot has completed. -/
  | checkpointWaitExit (tag : Fin 1024)
  /-- ATTEST (R388): Takes a snapshot of the measurements and writes a signed attestation report. -/
  | attest (tag : Fin 1024)
  /-- MEASURE_PROGRAM (R389): Hashes a slot's program image and extends M6 with the result. -/
  | measureProgram (tag : Fin 1024)
  /-- UNDERTOW (R380): Arms, or disarms, a fault-injection rule in its slot. -/
  | undertow (tag : Fin 1024)
  /-- SELF_TEST (R374): Holds dispatch to the named bays, tests their tiles and remaps or marks failing ones. -/
  | selfTest (tag : Fin 1024) (failing : List Nat)
  /-- SLOT_RELEASE (R105): An old row slot returns to the free ring once every read that began before the flip has completed. -/
  | slotRelease (table slot : Nat)
  /-- MIGRATE_GRACE_EXPIRY (R111): After MIGRATE_GRACE, the source stops forwarding a migrated row, releases its slot and answers with redirects. -/
  | migrateGraceExpiry (table row time : Nat)
  /-- HOTROW_SNAPSHOT (R109): Every PERIOD_MS, each bay writes its hot-row table and halves its counters. -/
  | hotrowSnapshot (time : Nat)
  /-- KAT_GO (R169): A write of GO evaluates the tide generator on the KAT key and counter into KAT_OUT. -/
  | katGo
  /-- PW_DEMOTE_WRITE (R141): Clears a layer's promotion for commands from FROM_TIDE onwards. -/
  | pwDemoteWrite (value : Word)
  /-- PW_EVENT_SERVICE (R341): Firmware records a promotion in telemetry and the error log and clears PW_EVENT.PENDING. -/
  | pwEventService
  /-- PATROL_SCRUB (R246): At SCRUB_RATE, scrub reads the next codeword, corrects and writes it back, or logs it as uncorrectable. -/
  | patrolScrub (stack : Fin 8)
  /-- CHANNEL_FENCE (R245): A channel failing at run time is fenced, and its reads and writes fail until the next training. -/
  | channelFence (stack : Fin 8) (channel : Fin 16)
  /-- STACK_THERMAL_CHECK (R247): At each 1 ms tick, each stack's temperature applies or ends the refresh, throttle, pause and shutdown actions. -/
  | stackThermalCheck (temps : List Nat) (time : Nat)
  /-- HBM_HOLD_WRITE (R421): Setting or clearing HOLD stops or restarts new accesses to a stack. -/
  | hbmHoldWrite (value : Word)
  /-- HBM_PHY_TUNE_WRITE (R422): A write to HBM_PHY_TUNE takes effect at once, safely only while the stack is held idle. -/
  | hbmPhyTuneWrite (stack : Fin 8) (value : Word)
  /-- WEIGHT_REBUILD (R366): An uncorrectable granule of a rebuildable tide is quantised again from master state and delivered. -/
  | weightRebuild (tag : Fin 1024)
  /-- TABLE_ROW_REBUILD (R367): An uncorrectable table row slot is rewritten from master state, or its request is reissued. -/
  | tableRowRebuild (tag : Fin 1024)
  /-- PRODUCER_RERUN (R369): An uncorrectable activation is recovered by rerunning the recorded producer, after which the reader reads again. -/
  | producerRerun (tag : Fin 1024)
  /-- MESH_FLIT_RESEND (R362): The sending mesh node resends an uncorrectable mesh flit, up to 4 times. -/
  | meshFlitResend (bay : Fin 8) (attempts : Nat)
  /-- TILE_FAULT (R373): The bay controller stops a faulty tile, remaps it to a spare and replays its queued operations. -/
  | tileFault (tile : Fin 512)
  /-- ERRLOG_MERGE_INTERVAL (R376): At the end of each 1 ms interval, merged corrected events are written as one error-log record. -/
  | errlogMergeInterval (time : Nat)
  /-- FLIT_RECEIVE (R275): A received flit is FEC- and CRC-checked, acknowledged or NAKed, its credit taken, and delivered or forwarded. -/
  | flitReceive (port : Fin 8) (fec : FecResult) (flit : List Byte)
  /-- FLIT_TRANSMIT (R279): At a flit boundary, the transmitter sends the next flit by class arbitration, credit and Breakwater budget. -/
  | flitTransmit (port : Fin 8) (time : Nat)
  /-- LINK_REPLAY (R275): On a NAK, the sender resends every flit from ACK + 1 onwards from its replay buffer. -/
  | linkReplay (port : Fin 8) (time : Nat)
  /-- REPLAY_LIMIT_EXCEEDED (R277): An exhausted replay budget abandons replay and starts a retraining of the link. -/
  | replayLimitExceeded (port : Fin 8) (time : Nat)
  /-- LANE_LOSS_OF_LOCK (R283): A lane losing lock starts a retraining of the port. -/
  | laneLossOfLock (port : Fin 8) (lane : Fin 9)
  /-- RETRAIN (R283): A write of PORT_CTRL.RETRAIN starts a retraining of the port with all lanes retested. -/
  | retrain (port : Fin 8)
  /-- PORT_TRAINING_DONE (R283): A port training ends UP_X8, UP_X4 or FAILED, and a FAILED port is rerouted around. -/
  | portTrainingDone (port : Fin 8) (result : Training)
  /-- ADAPTIVE_FALLBACK (R280): A TC2 or TC3 message held without credit for ADAPT_NS takes an alternate port. -/
  | adaptiveFallback (port : Fin 8) (time : Nat)
  /-- SIGNAL_MESSAGE (R288): A remote signal is applied once at its destination and acknowledged. -/
  | signalMessage (head : MsgHead) (counter increment sender : Nat)
  /-- SOLOC_MESSAGE (R37): A remote Soloc packet is checked and either written into the target ring as a doorbell or refused. -/
  | solocMessage (head : MsgHead) (packet : List Byte)
  /-- REFUSE_MESSAGE (R289): A REFUSE reply sets RELAY_STATUS to REFUSED with its reason. -/
  | refuseMessage (head : MsgHead) (reason : Nat)
  /-- E2E_ACK (R274): An end-to-end acknowledgement lets the sending command apply its local signals or complete. -/
  | e2eAck (head acked : MsgHead) (answers : List (Ask × Answer))
  /-- RELAY_GO (R289): A write of RELAY_CTRL.GO sends RELAY_DATA as a Soloc message to DEST. -/
  | relayGo (value : Word)
  /-- RELAY_TIMEOUT (R289): With no reply within CMD_TIMEOUT_MIN, RELAY_STATUS becomes TIMEOUT. -/
  | relayTimeout (time : Nat)
  /-- EXPAND_REQUEST (R82): The owner's sampler draws a remote node's neighbours and replies with them. -/
  | expandRequest (head : MsgHead) (sender : Nat) (ask : Ask)
  /-- EXPAND_REPLY (R82): Neighbours from a remote expansion enter the requester's sample. -/
  | expandReply (head : MsgHead) (sender : Nat) (ask : Ask) (answer : Answer)
  /-- GATHER_REQUEST (R95): The owner serves a batch of remote row requests from its gather units without a tag. -/
  | gatherRequest (head : MsgHead) (requester sender : Nat) (asks : List Ask)
  /-- GATHER_REPLY (R95): Returned rows are written at every output position that names them. -/
  | gatherReply (head : MsgHead) (sender : Nat) (answers : List (Ask × Answer))
  /-- REDIRECT (R113): A redirect updates the requester's owner directory and the request is resent. -/
  | redirect (head : MsgHead) (sender : Nat) (ask : Ask) (owner index tide : Nat)
  /-- CONTRIBUTION_RECEIVE (R101): The owner adds a remote gradient contribution into the row's FS48 accumulators and acknowledges it. -/
  | contributionReceive (head : MsgHead) (requester sender : Nat) (asks : List Ask)
  /-- MIGRATION_COPY_RECEIVE (R111): The destination takes a guest entry and stores a migrating row's slot, state and gradient row. -/
  | migrationCopyReceive (head : MsgHead) (table row tide : Nat) (switch : Bool) (image : RowImage)
  /-- DIRECTORY_MESSAGE (R111): An owner-directory update is written into the receiving module's directory. -/
  | directoryMessage (head : MsgHead) (table row tide owner previous index : Nat)
  /-- CHUNK_RECEIVE (R300): The port adders take a chunk from a child, a backup or the module, sum it and forward it up or down the tree. -/
  | chunkReceive (head : MsgHead) (port : Fin 8) (chunk : Chunk)
  /-- COLL_DEADLINE_EXPIRY (R307): A reduction slot past its deadline is waited for or excluded under COLL_MISSING_POLICY. -/
  | collDeadlineExpiry (group layer time : Nat)
  /-- SCALE_MESSAGE (R302): Closing-round values are combined up tree 0 and sent back down to every member. -/
  | scaleMessage (head : MsgHead) (port : Fin 8) (values : RoundValues)
  /-- REDUCTION_DISCARD (R309): An open reduction with no local REDUCE by COLL_DEADLINE after its closing round is discarded. -/
  | reductionDiscard (group layer step : Nat)
  /-- COLLECTIVE_PIECE_RECEIVE (R314): A piece of an ALL_GATHER, ALL_TO_ALL or BROADCAST is written for the receiver's matching command. -/
  | collectivePieceReceive (head : MsgHead) (port : Fin 8) (piece : Piece)
  /-- TELEMETRY_FRAME (R290): A received telemetry frame is written into TELEM_RX under the odd-even SEQ protocol. -/
  | telemetryFrame (port : Fin 8) (head : MsgHead) (payload : List Byte)
  /-- TELEMETRY_PERIOD (R339): At each period boundary, the module samples and writes a telemetry record and sends its frames. -/
  | telemetryPeriod (time : Nat)
  /-- IRQ_CLAIM (R331): A read of a claim register returns the best claimable source and makes it active, or returns 1,023. -/
  | irqClaim (target : IrqTarget)
  /-- IRQ_COMPLETE (R332): A write of an active ID to a complete register ends that source's service. -/
  | irqComplete (target : IrqTarget) (value : Word)
  /-- IRQ_GLOBAL_ENABLE_WRITE (R335): Enables or disables delivery to the host or the management core at once. -/
  | irqGlobalEnableWrite (value : Word)
  /-- COALESCE_TIMER_EXPIRY (R336): A vector's coalescing time limit expires and it sends its owed message. -/
  | coalesceTimerExpiry (vector : Fin 64) (time : Nat)
  /-- MSIX_VECTOR_CONTROL_WRITE (R324): An unmask or a non-zero address in an MSI-X entry sends that vector's pending message. -/
  | msixVectorControlWrite (control : MsixControl)
  /-- WATCHDOG_EXPIRY (R338): A missing watchdog refresh halts the management core and holds the bay voltages. -/
  | watchdogExpiry (time : Nat)
  /-- MCTP_CONTROL_MESSAGE (R345): An MCTP control message received over SMBus is answered. -/
  | mctpControlMessage (command argument : Nat)
  /-- PLDM_GET_SENSOR (R345): A PLDM request reads a sensor. -/
  | pldmGetSensor (sensor : Nat)
  /-- PLDM_SET_EFFECTER (R342): A PLDM request sets the board power ceiling. -/
  | pldmSetEffecter (effecter value : Nat)
  /-- GOVERNOR_TICK (R351): Every 1 ms, the governor takes one voltage action per bay. -/
  | governorTick (watts : Nat) (time : Nat)
  /-- FLOOR_MONITOR_WINDOW (R348): At the end of each 10 µs window, a bay enters or leaves the below-floor state from its gauge step count. -/
  | floorMonitorWindow (rates : List Nat) (time : Nat)
  /-- JUNCTION_CHECK (R353): The die's hottest sensor triggers throttle, pause or thermal trip. -/
  | junctionCheck (temps : List Int) (time : Nat)
  /-- FAST_LIMITER (R358): The hardware limiter stretches handshakes above 1,900 W of 100 µs mean and releases below 1,650 W. -/
  | fastLimiter (watts time : Nat)
  /-- DROOP_DETECT (R357): A supply droop beyond DROOP_CFG.MV stretches the bay's handshakes until the supply recovers. -/
  | droopDetect (bay : Fin 8) (millivolts : Nat)
  /-- TILE_POWER_GATE (R355): A tile idle for IDLE_US is power-gated. -/
  | tilePowerGate (tile : Fin 512) (time : Nat)
  /-- TILE_WAKE (R356): An operation for a gated tile wakes it within its bay's tile interval. -/
  | tileWake (tile : Fin 512)
  /-- PWR_NOW_READ (R358): A read of PWR_NOW returns the peak and resets it. -/
  | pwrNowRead
  /-- INPUT_OUT_OF_RANGE (R409): The 54 V input leaving 48 to 56 V sets POWER_EVENT.INPUT_RANGE. -/
  | inputOutOfRange (millivolts : Nat)
  /-- UNDERVOLTAGE_LOCKOUT (R409): The input below 45 V for 100 µs removes every supply, and all state is lost. -/
  | undervoltageLockout (millivolts : Nat)
  /-- OVERVOLTAGE (R409): The input above 58 V for 100 µs removes every supply, as undervoltage lockout does. -/
  | overvoltage (millivolts : Nat)
  /-- POWER_ON_RESET (R394): The input rising through 48 V, or a thermal trip, runs the boot phases to Soloc ready. -/
  | powerOnReset (boot : Boot)
  /-- WARM_RESET (R398): PERST# or a PCIe hot reset repeats the boot phases from the ROM. -/
  | warmReset (boot : Boot)
  /-- FUNCTION_LEVEL_RESET (R325): Stops host requests, resets the data plane and resets the function's configuration state. -/
  | functionLevelReset
  /-- DATA_PLANE (R398): A keyed write of RESET_CTRL.DATA_PLANE stops and restarts the data plane. -/
  | dataPlane
  /-- BAY_RESET (R400): A keyed write of RESET_CTRL.BAY stops a bay, faults its commands and restarts it with a self-test. -/
  | bayReset (bay : Fin 8) (failing : List Nat)
  /-- D3HOT_ENTRY (R326): Entry to D3hot stops the command processor from reading rings. -/
  | d3hotEntry
  /-- D3HOT_EXIT (R326): A return from D3hot to D0 performs a function-level reset. -/
  | d3hotExit
  /-- HOST_LINK_DOWN (R327): The host link going down sets LINK_DOWN, and outstanding host reads fault their commands. -/
  | hostLinkDown
  /-- BUS_MASTER_ENABLE_CHANGE (R323): Clearing Bus Master Enable stops requests to the host, and setting it releases waiting replies. -/
  | busMasterEnableChange (enable memorySpace : Bool)
  /-- BAR2_RESIZE (R319): A Resizable BAR write while Memory Space Enable is 0 sets the new BAR2 size. -/
  | bar2Resize (log2 : Nat)
  /-- BAR2_READ (R320): A host read through BAR2 returns stored data, with 0xFF in faulty bytes. -/
  | bar2Read (offset length : Nat)
  /-- BAR2_WRITE (R320): A host write through BAR2 writes the bytes that are not faulty. -/
  | bar2Write (offset : Nat) (data : List Byte)
  /-- BAR0_INVALID_ACCESS (R318): A misaligned or wrongly sized BAR0 access is discarded or reads 0, and sets BAR0_FAULT. -/
  | bar0InvalidAccess (write : Bool) (offset size : Nat)
  /-- GET_CERTS (R387): A mailbox request that returns the device certificate chain. -/
  | getCerts
  /-- DEBUG_CHALLENGE (R391): A mailbox request that returns a fresh challenge and the serial. -/
  | debugChallenge
  /-- DEBUG_RESPONSE (R391): A signed response to the challenge that unlocks debug features, or is rejected. -/
  | debugResponse
  /-- REVOKE (R392): A signed request that blows the REVOKED fuse of a key slot. -/
  | revoke
  /-- ADVANCE_SVN (R393): Raises the fused SVN within the running components' SVNs. -/
  | advanceSvn
  /-- EXTEND_HOST (R385): Extends M7 with a host-supplied digest. -/
  | extendHost
  /-- REGISTER_WRITE (R11): A write to a register with no row of its own acts according to its access type. -/
  | registerWrite (offset : Nat) (value : Word)
  /-- HOST_COMPLETION_TIMEOUT (R327): An outstanding module read of host memory that is not completed within the host-set completion timeout ends, and its command completes with DEVICE_FAULT, detail 0x02. -/
  | hostCompletionTimeout (tag : Fin 1024)
  /-- HOST_LINK_UP (R315): The host link trains and comes up outside a reset, setting HOST_LINK_STATUS and SPEED_DOWN when it is below 6.0 x16. -/
  | hostLinkUp (generation width : Nat)
  /-- LO_REGISTER_READ (R9): A read of a _LO register latches the matching _HI register for the next read of _HI. -/
  | loRegisterRead (offset : Nat)
  /-- DESTINATION_SWITCH (R111): At the switch, the destination takes the resent row data if any, sets its GUEST_PENDING entry to VALID and acknowledges. -/
  | destinationSwitch (table row : Nat)
  /-- SMBUS_ADDRESS_RESOLUTION (R345): An SMBus Address Resolution Protocol exchange reassigns the module's 7-bit SMBus address. -/
  | smbusAddressResolution (address : Nat)
  deriving DecidableEq, Repr

end Sys2Proof
end

