-- ==== Sys2Proof/Decode.lean ====
section
/-! DEFINITION. Commands from words: the table of operations and events gives none of its rows any bits, so no word spells a
command. The Soloc packets, which have an encoding, are decoded where the command processor reads them (Machine/Rings.lean). -/

namespace Sys2Proof

/-- The command that a word spells by the table's bits: none, for no row of the table gives bits. -/
def decodeTableWord (_nbits _w : Nat) : Option Instr := none

end Sys2Proof
end

