-- ==== Sys2Proof/Machine/Bits.lean ====
section
/-! DEFINITION. Bit fields of a word, and little-endian byte order (R8), as the one place where either is decided. -/

namespace Sys2Proof.Machine

/-- Bits `hi` down to `lo` of a number (R8: NAME[hi:lo], inclusive). -/
def bits (n hi lo : Nat) : Nat := (n >>> lo) % 2 ^ (hi + 1 - lo)

/-- One bit of a number. -/
def bit (n i : Nat) : Bool := n.testBit i

/-- Field `hi:lo` of a register word. -/
def fld (w : Word) (hi lo : Nat) : Nat := bits w.toNat hi lo

/-- One bit of a register word. -/
def flag (w : Word) (i : Nat) : Bool := w.toNat.testBit i

/-- The mask of the bits `hi` down to `lo`. -/
def maskOf (hi lo : Nat) : Nat := (2 ^ (hi + 1 - lo) - 1) <<< lo

/-- A word with its field `hi:lo` replaced by the low bits of `v`. -/
def setFld (w : Word) (hi lo v : Nat) : Word :=
  BitVec.ofNat 32 ((w.toNat &&& (0xFFFFFFFF ^^^ maskOf hi lo)) ||| ((v % 2 ^ (hi + 1 - lo)) <<< lo))

/-- A word with one bit set or cleared. -/
def setFlag (w : Word) (i : Nat) (b : Bool) : Word := setFld w i i (if b then 1 else 0)

/-- A Bool as a bit. -/
def b2n (b : Bool) : Nat := if b then 1 else 0

/-- A number from bytes, least significant first (R8). -/
def leNat : List Byte → Nat
  | [] => 0
  | b :: bs => b.toNat + 256 * leNat bs

/-- The `n` low bytes of a number, least significant first (R8). -/
def toLE : Nat → Nat → List Byte
  | 0, _ => []
  | n + 1, v => BitVec.ofNat 8 v :: toLE n (v / 256)

/-- The field of `size` bytes at `off` of a byte list, as a number; bytes beyond the end read 0. -/
def leAt (bs : List Byte) (off size : Nat) : Nat := leNat ((bs.drop off).take size)

/-- The list `[a, a + 1, …, a + n - 1]`. -/
def seqFrom (a : Nat) : Nat → List Nat
  | 0 => []
  | n + 1 => a :: seqFrom (a + 1) n

/-- Division rounding up. -/
def ceilDiv (a b : Nat) : Nat := (a + b - 1) / b

/-- A number as a signed value of `w` bits. -/
def signed (w n : Nat) : Int := if n % 2 ^ w < 2 ^ (w - 1) then (n % 2 ^ w : Nat) else ((n % 2 ^ w : Nat) : Int) - 2 ^ w

/-- A signed value as its `w`-bit two's complement code. -/
def unsigned (w : Nat) (x : Int) : Nat := (x % (2 ^ w : Nat)).toNat

/-- Number of set bits among the low `w` bits. -/
def popcount (n : Nat) : Nat → Nat
  | 0 => 0
  | w + 1 => popcount n w + b2n (n.testBit w)

/-- The saturating 32-bit increment of the counters of R11's kind "saturates". -/
def satAdd32 (a k : Nat) : Nat := if a + k ≤ 0xFFFFFFFF then a + k else 0xFFFFFFFF

end Sys2Proof.Machine
end

