-- ==== Sys2Proof/Machine/Num.lean ====
section
/-! DEFINITION. Exact values and their rounding: dyadic numbers m x 2^e, the special values, round to nearest even into a
binary format (05_number_formats, 07_accumulation_and_rounding). -/

namespace Sys2Proof.Machine

open Sys2Proof

/-- A value on the numeric paths. `lost` is a value that depends on an uncorrectable byte (R371); `fin m e` is m x 2^e with
m not 0; the sign of zero is kept (R163). -/
inductive Val where
  | nan
  | lost
  | inf (neg : Bool)
  | zero (neg : Bool)
  | fin (m e : Int)
  deriving DecidableEq, Repr

/-- A finite value from m x 2^e; zero is +0. -/
def Val.of (m e : Int) : Val := if m = 0 then .zero false else .fin m e

/-- An integer as a value. -/
def Val.ofInt (m : Int) : Val := Val.of m 0

/-- Whether a value is a number other than infinity. -/
def Val.finite : Val → Bool
  | .zero _ => true
  | .fin _ _ => true
  | _ => false

/-- Whether a value is a zero. -/
def Val.isZero : Val → Bool
  | .zero _ => true
  | _ => false

/-- The sign of a value; NaN counts as positive. -/
def Val.neg? : Val → Bool
  | .inf n => n
  | .zero n => n
  | .fin m _ => decide (m < 0)
  | _ => false

/-- The value with its sign inverted. -/
def Val.negate : Val → Val
  | .inf n => .inf !n
  | .zero n => .zero !n
  | .fin m e => .fin (-m) e
  | v => v

/-- The magnitude. -/
def Val.abs : Val → Val
  | .inf _ => .inf false
  | .zero _ => .zero false
  | .fin m e => .fin m.natAbs e
  | v => v

/-- The significand, 0 for a zero and for the special values. -/
def Val.sig : Val → Int
  | .fin m _ => m
  | _ => 0

/-- The exponent, 0 for a zero and for the special values. -/
def Val.exp : Val → Int
  | .fin _ e => e
  | _ => 0

/-- The significand at exponent `q`, exact when q is at most the value's exponent. -/
def Val.sigAt (v : Val) (q : Int) : Int := v.sig * 2 ^ (v.exp - q).toNat

/-- The product of two values (R173). -/
def Val.mul : Val → Val → Val
  | .lost, _ => .lost
  | _, .lost => .lost
  | .nan, _ => .nan
  | _, .nan => .nan
  | .inf _, .zero _ => .nan
  | .zero _, .inf _ => .nan
  | .inf a, b => .inf (a != b.neg?)
  | a, .inf b => .inf (a.neg? != b)
  | .zero a, b => .zero (a != b.neg?)
  | a, .zero b => .zero (a.neg? != b)
  | .fin m e, .fin n f => .fin (m * n) (e + f)

/-- The exact sum of two values; a sum of zeros is −0 only when both are (R163, R174). -/
def Val.add : Val → Val → Val
  | .lost, _ => .lost
  | _, .lost => .lost
  | .nan, _ => .nan
  | _, .nan => .nan
  | .inf a, .inf b => if a = b then .inf a else .nan
  | .inf a, _ => .inf a
  | _, .inf b => .inf b
  | .zero a, .zero b => .zero (a && b)
  | .zero _, v => v
  | v, .zero _ => v
  | .fin m e, .fin n f => Val.of (m * 2 ^ (e - min e f).toNat + n * 2 ^ (f - min e f).toNat) (min e f)

/-- The exact difference. -/
def Val.sub (a b : Val) : Val := a.add b.negate

/-- The value times 2^k. -/
def Val.scale (k : Int) : Val → Val
  | .fin m e => .fin m (e + k)
  | v => v

/-- Whether one finite value is less than another. -/
def Val.ltFin (a b : Val) : Bool := decide (a.sigAt (min a.exp b.exp) < b.sigAt (min a.exp b.exp))

/-- The order of the extended real line, −0 equal to +0; false with a NaN. -/
def Val.lt : Val → Val → Bool
  | .nan, _ => false
  | _, .nan => false
  | .lost, _ => false
  | _, .lost => false
  | .inf a, .inf b => a && !b
  | .inf a, _ => a
  | _, .inf b => !b
  | a, b => Val.ltFin a b

/-- Equality of the extended real line; false with a NaN. -/
def Val.eqv (a b : Val) : Bool :=
  match a, b with
  | .nan, _ => false
  | _, .nan => false
  | .lost, _ => false
  | _, .lost => false
  | a, b => !Val.lt a b && !Val.lt b a

/-- Base-2 logarithm of a positive number, rounded down. -/
def log2 (n : Nat) : Nat := Nat.log2 n

/-- m x 2^e / 2^q rounded to the nearest integer, ties to even. -/
def rneShift (m : Nat) (e q : Int) : Nat :=
  if q ≤ e then m * 2 ^ (e - q).toNat
  else
    let d := 2 ^ (q - e).toNat
    let n := m / d
    let r := m % d
    if d < 2 * r ∨ (2 * r = d ∧ n % 2 = 1) then n + 1 else n

/-- A value times 2^k rounded to the nearest integer, ties to even; 0 for a special value. -/
def Val.rneInt (v : Val) (k : Int) : Int :=
  match v with
  | .fin m e => if m < 0 then -(rneShift m.natAbs (e + k) 0 : Int) else (rneShift m.natAbs (e + k) 0 : Int)
  | _ => 0

/-- A binary floating-point format: exponent and mantissa bits, bias, the largest finite value as significand and exponent,
whether it has infinities and NaN (R117). -/
structure FloatFmt where
  ebits : Nat
  mbits : Nat
  bias : Nat
  maxSig : Nat
  maxExp : Int
  hasInf : Bool
  hasNan : Bool
  deriving DecidableEq, Repr

/-- IEEE 754 binary32. -/
def fp32 : FloatFmt := ⟨8, 23, 127, 2 ^ 24 - 1, 104, true, true⟩
/-- bfloat16. -/
def bf16 : FloatFmt := ⟨8, 7, 127, 255, 120, true, true⟩
/-- IEEE 754 binary16. -/
def fp16 : FloatFmt := ⟨5, 10, 15, 2047, 5, true, true⟩
/-- E5M2: largest finite 57,344. -/
def e5m2 : FloatFmt := ⟨5, 2, 15, 7, 13, true, true⟩
/-- E4M3: largest finite 448, one NaN code, no infinities. -/
def e4m3 : FloatFmt := ⟨4, 3, 7, 7, 6, false, true⟩
/-- E3M2: largest finite 28. -/
def e3m2 : FloatFmt := ⟨3, 2, 3, 7, 2, false, false⟩
/-- E2M3: largest finite 7.5. -/
def e2m3 : FloatFmt := ⟨2, 3, 1, 15, -1, false, false⟩
/-- E2M1: largest finite 6. -/
def e2m1 : FloatFmt := ⟨2, 1, 1, 3, 1, false, false⟩

/-- Total bits of a format. -/
def FloatFmt.width (f : FloatFmt) : Nat := 1 + f.ebits + f.mbits

/-- The largest finite value. -/
def FloatFmt.maxVal (f : FloatFmt) : Val := .fin f.maxSig f.maxExp

/-- The least exponent of a unit in the last place: that of the subnormals. -/
def FloatFmt.qmin (f : FloatFmt) : Int := 1 - (f.bias : Int) - f.mbits

/-- The exponent of a unit in the last place of a value near m x 2^e. -/
def FloatFmt.quantum (f : FloatFmt) (m : Nat) (e : Int) : Int := max ((log2 m : Int) + e - (f.mbits : Int)) f.qmin

/-- Round to nearest even with unlimited exponent range upwards, the sign kept (R129, "without a limit"). -/
def FloatFmt.round (f : FloatFmt) (v : Val) : Val :=
  match v with
  | .fin m e =>
    let q := f.quantum m.natAbs e
    let n := rneShift m.natAbs e q
    if n = 0 then .zero (decide (m < 0)) else .fin (if m < 0 then -(n : Int) else n) q
  | v => v

/-- Whether a finite value lies beyond the largest finite value of a format. -/
def FloatFmt.beyond (f : FloatFmt) (v : Val) : Bool := Val.ltFin f.maxVal v.abs

/-- Round to nearest even with overflow to infinity (R164). -/
def FloatFmt.rne (f : FloatFmt) (v : Val) : Val :=
  match f.round v with
  | .fin m e => if f.beyond (.fin m e) then .inf (decide (m < 0)) else .fin m e
  | w => w

/-- Round to nearest even, clamped to the largest finite value: rne_sat of R129. -/
def FloatFmt.rneSat (f : FloatFmt) (v : Val) : Val :=
  match f.round v with
  | .fin m e =>
    if f.beyond (.fin m e) then (if m < 0 then f.maxVal.negate else f.maxVal) else .fin m e
  | w => w

/-- The code of a value representable in the format; infinities and NaN as the format has them. -/
def FloatFmt.encode (f : FloatFmt) (v : Val) : Nat :=
  let top := 2 ^ (f.ebits + f.mbits)
  match v with
  | .zero n => if n then top else 0
  | .inf n => (if n then top else 0) + (2 ^ f.ebits - 1) * 2 ^ f.mbits
  | .fin m e =>
    let a := m.natAbs
    let q := f.quantum a e
    let n := rneShift a e q
    let code := if n < 2 ^ f.mbits then n else ((q - f.qmin + 1).toNat) * 2 ^ f.mbits + (n - 2 ^ f.mbits)
    (if m < 0 then top else 0) + code
  | _ => if f.ebits = 4 then 0x7F else (2 ^ f.ebits - 1) * 2 ^ f.mbits + 2 ^ (f.mbits - 1)

/-- The value of a code (R117). -/
def FloatFmt.decode (f : FloatFmt) (code : Nat) : Val :=
  let n := bit code (f.ebits + f.mbits)
  let x := bits code (f.ebits + f.mbits - 1) f.mbits
  let m := code % 2 ^ f.mbits
  if f.hasInf && x = 2 ^ f.ebits - 1 then (if m = 0 then .inf n else .nan)
  else if f.hasNan && !f.hasInf && x = 2 ^ f.ebits - 1 && m = 2 ^ f.mbits - 1 then .nan
  else if x = 0 then (if m = 0 then .zero n else .fin (if n then -(m : Int) else m) f.qmin)
  else
    let s := 2 ^ f.mbits + m
    .fin (if n then -(s : Int) else s) (f.qmin + (x : Int) - 1)

/-- The value a binary32 word holds. -/
def f32 (w : Nat) : Val := fp32.decode w

/-- The binary32 word of a value already rounded; NaN is 0x7FC0_0000 (R174). -/
def toF32 (v : Val) : Nat := fp32.encode v

/-- The exact quotient of two finite values with b not 0, to far beyond any format's precision, with its remainder kept as a
sticky last bit, so that rounding it once rounds the exact quotient. -/
def Val.quot (a b : Val) : Val :=
  let n := a.sig.natAbs * 2 ^ (400 + log2 b.sig.natAbs)
  let q := n / b.sig.natAbs
  let s := if n % b.sig.natAbs = 0 then 2 * q else 2 * q + 1
  let e := a.exp - b.exp - 400 - (log2 b.sig.natAbs : Int) - 1
  if a.isZero then .zero (a.neg? != b.neg?) else .fin (if a.neg? != b.neg? then -(s : Int) else s) e

/-- The exact quotient with the special values of IEEE 754, to be rounded once. -/
def Val.div : Val → Val → Val
  | .lost, _ => .lost
  | _, .lost => .lost
  | .nan, _ => .nan
  | _, .nan => .nan
  | .inf _, .inf _ => .nan
  | .inf a, b => .inf (a != b.neg?)
  | a, .inf b => .zero (a.neg? != b)
  | .zero _, .zero _ => .nan
  | .zero a, b => .zero (a != b.neg?)
  | a, .zero b => .inf (a.neg? != b)
  | a, b => Val.quot a b

/-- Integer square root, rounded down, by bisection on `fuel` bits. -/
def isqrt (n : Nat) : Nat → Nat → Nat
  | 0, acc => acc
  | fuel + 1, acc => if (acc + 2 ^ fuel) * (acc + 2 ^ fuel) ≤ n then isqrt n fuel (acc + 2 ^ fuel) else isqrt n fuel acc

/-- The square root of a positive value with a sticky last bit. -/
def Val.root (v : Val) : Val :=
  let odd := v.exp % 2 = 1
  let n := v.sig.natAbs * (if odd then 2 else 1) * 2 ^ 200
  let e := if odd then (v.exp - 1) / 2 else v.exp / 2
  let r := isqrt n (log2 n / 2 + 1) 0
  .fin (if r * r = n then 2 * r else 2 * r + 1) (e - 100 - 1)

/-- The square root with the special values of IEEE 754, to be rounded once. -/
def Val.sqrt : Val → Val
  | .fin m e => if m < 0 then .nan else Val.root (.fin m e)
  | .inf n => if n then .nan else .inf false
  | v => v

/-- Binary32 sum, product, difference, quotient and square root, each rounded once to nearest even. -/
def fadd (a b : Val) : Val := fp32.rne (a.add b)
/-- Binary32 difference. -/
def fsub (a b : Val) : Val := fp32.rne (a.sub b)
/-- Binary32 product. -/
def fmul (a b : Val) : Val := fp32.rne (a.mul b)
/-- Binary32 quotient. -/
def fdiv (a b : Val) : Val := fp32.rne (a.div b)
/-- Binary32 square root. -/
def fsqrt (a : Val) : Val := fp32.rne a.sqrt

/-- The least n with c x 2^n at or above v, for positive values: ceil_log2(v / c) of R129. -/
def ceilLog2Ratio (v c : Val) : Int :=
  let n := (log2 v.sig.natAbs : Int) + v.exp - (log2 c.sig.natAbs : Int) - c.exp
  if Val.ltFin (c.scale (n - 1)) v then (if Val.ltFin (c.scale n) v then n + 1 else n) else n - 1

/-- A value clamped between two integers. -/
def clampInt (x lo hi : Int) : Int := max lo (min hi x)

end Sys2Proof.Machine
end

