-- ==== Sys2Proof/Machine/Ecc.lean ====
section
/-! DEFINITION. The codes that protect memory: the Reed–Solomon code of HBM and skerry memory (R240, R253) and the interleaved
codewords of the SRAMs (R243). An error pattern of a 64-byte word is the mask of its wrong symbols, data byte j at bit j and check byte i
at bit 64 + i; of an SRAM word the mask of its wrong bits, data bit i at bit i and the check bits from bit 512 on. -/

namespace Sys2Proof.Machine

open Sys2Proof

/-! ## The field of R240 -/

/-- α × a in GF(2^8) with x^8 + x^4 + x^3 + x^2 + 1. -/
def gfTimesAlpha (a : Nat) : Nat := if a < 128 then 2 * a else (2 * a) ^^^ 0x11D

/-- a × b in the field, over the bits of b from the highest. -/
def gfMul (a b : Nat) : Nat :=
  (seqFrom 0 8).foldl (fun acc i => gfTimesAlpha acc ^^^ (if bit b (7 - i) then a else 0)) 0

/-- α^n. -/
def gfAlpha : Nat → Nat
  | 0 => 1
  | n + 1 => gfTimesAlpha (gfAlpha n)

/-- A polynomial, highest coefficient first, times (x − r). -/
def timesRoot (p : List Nat) (r : Nat) : List Nat :=
  ((p ++ [0]).zip (0 :: p)).map (fun (c : Nat × Nat) => c.1 ^^^ gfMul c.2 r)

/-- g(x) = (x − α^0) … (x − α^7), highest coefficient first. -/
def rsGenerator : List Nat := (seqFrom 0 8).foldl (fun p i => timesRoot p (gfAlpha i)) [1]

/-- The remainder taken one data byte further: the eight coefficients from x^7 down. -/
def rsStep (rem : List Nat) (d : Byte) : List Nat :=
  let lead := rem.headD 0 ^^^ d.toNat
  ((rem.drop 1 ++ [0]).zip (rsGenerator.drop 1)).map (fun (c : Nat × Nat) => c.1 ^^^ gfMul lead c.2)

/-- The check bytes of 64 data bytes: the remainder of the data polynomial, check byte i the coefficient of x^(7 − i) (R240). -/
def rsCheck (data : List Byte) : List Byte := (data.foldl rsStep (List.replicate 8 0)).map (BitVec.ofNat 8)

/-- The codeword of 72 symbols: data byte j is the coefficient of x^(71 − j), the check bytes follow. -/
def rsCodeword (data : List Byte) : List Byte := data ++ rsCheck data

/-- The value of a polynomial, highest coefficient first, at α^i. -/
def rsSyndrome (word : List Byte) (i : Nat) : Nat := word.foldl (fun acc c => gfMul acc (gfAlpha i) ^^^ c.toNat) 0

/-- Whether a word is a codeword: it has the roots α^0 to α^7. -/
def rsValid (word : List Byte) : Bool := (seqFrom 0 8).all (fun i => decide (rsSyndrome word i = 0))

/-- The symbols that a burst of `n` adjacent bits from bit `lo` on touches, bit b of symbol j at position 8j + b (R241). -/
def burstSymbols (lo n : Nat) : Nat :=
  ((seqFrom lo n).map (fun i => i / 8)).foldl (fun m j => m ||| 2 ^ j) 0

/-! ## Decoding (R241, R243, R254) -/

/-- What the decoder makes of a 64-byte codeword or SRAM word; `lost`: in a fenced channel; `miscorrected`: beyond what the code
guarantees to detect, and decoded to another codeword; `undetected`: an error beside a package that SKERRY_ECC names. -/
inductive WordState where
  | good | corrected | uncorrectable | lost | miscorrected | undetected
  deriving DecidableEq, Repr

/-- Wrong symbols of a codeword. -/
def wrongSymbols (m : Nat) : Nat := popcount m 72

/-- The GUARDED decoder corrects 3 symbols and detects 5; the WIDE one corrects 4. `missed`: what becomes of a pattern beyond that. -/
def rsDecode (wide missed : Bool) (m : Nat) : WordState :=
  let n := wrongSymbols m
  if n = 0 then .good else if n ≤ (if wide then 4 else 3) then .corrected
  else if !wide && decide (n ≤ 5) then .uncorrectable
  else if missed then .miscorrected else .uncorrectable

/-- The symbols of a codeword that one package of a lockstep group holds: data byte j is in package j div 8, the check bytes in package
8 (R253). -/
def packageMask (package : Nat) : Nat := 0xFF <<< (8 * package)

/-- The decoder with the symbols of one package as erasures: they are corrected, and a further error is neither corrected nor detected
(R254). -/
def erasureDecode (package m : Nat) : WordState :=
  if m = 0 then .good
  else if m &&& packageMask package = m then .corrected else .undetected

/-- Wrong bits of one of the 16 codewords of an SRAM word: bit i belongs to codeword i mod 16, the check bits likewise. -/
def sramErrors (m c : Nat) : Nat := ((seqFrom 0 39).filter (fun k => bit m (16 * k + c))).length

/-- The decoder of an SRAM word: single errors corrected, double errors detected, in each codeword. -/
def sramDecode (missed : Bool) (m : Nat) : WordState :=
  let n := (seqFrom 0 16).map (sramErrors m)
  if n.all (fun k => decide (k = 0)) then .good
  else if n.all (fun k => decide (k ≤ 1)) then .corrected
  else if n.any (fun k => decide (k = 2)) then .uncorrectable
  else if missed then .miscorrected else .uncorrectable

end Sys2Proof.Machine
end

