-- ==== Sys2Proof/Config.lean ====
section
/-! DEFINITION. What an implementation fixes and what the spec leaves open: opaque constants without a body, so that no
proof can see a value of one. -/

namespace Sys2Proof

/-- The 64 fuse bits behind SERIAL, set at manufacture (R418). -/
opaque Config.serialBits : BitVec 64

/-- SERIAL: never 0 and never all ones, otherwise without structure (R418). -/
def Config.serial : BitVec 64 :=
  if Config.serialBits = 0 ∨ Config.serialBits = BitVec.allOnes 64 then 1 else Config.serialBits

/-- The PCI vendor ID, Valbitia's assigned ID (R2, R316). -/
opaque Config.vendorId : BitVec 16

/-- The word that the conversion of a NaN to a word type gives: the format of the input and its code (R201, R25; log entry 3). -/
opaque Config.nanWord : Nat → Nat → Nat

/-- The byte that an undefined location holds: the number names the occasion that left it undefined (log entry 4). -/
opaque Config.freeByte : Nat → Nat → Byte

/-- The n-th free value (log entry 3); every use of one advances the counter of State. -/
opaque Config.freeValue : Nat → Nat

/-- SYNDROME of an error-log record, whose class-specific contents the spec does not lay out (R375; log entry 3): the class, the unit, the
address, the time and SEQ. -/
opaque Config.syndrome : Nat → Nat → Nat → Nat → Nat → Nat

/-- The byte that a word delivers where a symbol or bit of it is wrong: its error pattern and the location. -/
opaque Config.garbledByte : Nat → Nat → Byte

/-- Whether a word with more errors than its code guarantees to detect is taken for another codeword (R241, R243): the location and the
error pattern. -/
opaque Config.undetected : Nat → Nat → Bool

/-- The payload bytes of a message whose layout the spec does not give (R272: "formats set by the owning chapter"). -/
opaque Config.payload : Content → List Byte

/-- The counter of a row of the count-min sketch that a key falls on: row of the sketch, table, row ID (R108). -/
opaque Config.sketchColumn : Nat → Nat → Nat → Nat

/-- Which of the values within the bound of R200 a function of the vector engine answers: function, binary32 code. -/
opaque Config.vecFunction : Nat → Nat → Nat

/-- The fuses as manufacture left them (R381): the hash of each key slot, PROGRAMMED, REVOKED, the SVN, the lab-mode fuse, the
identity seed (log entry 6). -/
opaque Config.keyHash : Nat → List Byte
opaque Config.keyProgrammed : Nat → Bool
opaque Config.keyRevoked : Nat → Bool
opaque Config.fusedSvn : BitVec 6
opaque Config.labFuseOpen : Bool
opaque Config.identitySeed : List Byte

/-- The 64 MiB configuration flash, which no interface writes (R381, R382). -/
opaque Config.flash : Nat → Byte

/-- ML-DSA-65 of FIPS 204, which the spec names and does not define: the public key of a seed, whether a signature verifies (public
key, context, message, signature), and a hedged signature (seed, context, message, the occasion) (log entry 31). -/
opaque Config.identityKey : List Byte → List Byte
opaque Config.mldsaVerify : List Byte → List Byte → List Byte → List Byte → Bool
opaque Config.mldsaSign : List Byte → List Byte → List Byte → Nat → List Byte

/-- The certificate chain of flash as GET_CERTS gives it: count, then each certificate's length and DER (R387, R390; log entry 37). -/
opaque Config.certChain : List Byte

/-- The MCTP base versions that Get MCTP Version Support names, each as one number; the spec gives none (R345, log entry 36). -/
opaque Config.mctpVersions : List Nat

/-- A byte of the challenge of a debug unlock: the occasion and the byte's number (R391, log entry 3). -/
opaque Config.challengeByte : Nat → Nat → Byte

end Sys2Proof
end

