-- ==== Sys2Proof/Machine/RegTable.lean ====
section
/-! DEFINITION. The register tables of the spec (23_register_map and the owning chapters): one row per register, with its
BAR0 offset, its repetition, the half of a 64-bit pair it is, and its fields with access type, reset value and legal
encodings. Offsets below 0x10_0000 are block b at b x 0x1_0000 (R413); the MSI-X structures follow at 0x10_0000 (R317). -/

namespace Sys2Proof.Machine

/-- The access types of R11; `cnt` is the saturating counter register that "a write of 0 clears, and other writes are ignored". -/
inductive Acc where
  | ro | rw | w1c | w1s | wo | rws | cnt
  deriving DecidableEq, Repr

/-- The half of a 64-bit pair a register is (R9, R10). -/
inductive Half where
  | whole | lo | hi
  deriving DecidableEq, Repr

/-- One field of a register: its bits, access type, reset value and, where the spec lists them, the legal encodings (R14). -/
structure Field where
  hi : Nat
  lo : Nat
  acc : Acc
  reset : Nat
  ok : List (Nat × Nat)
  deriving DecidableEq, Repr

/-- One row of a register table: BAR0 offset of the first instance, repetition as (count, stride) pairs, pair half, fields. -/
structure RegRow where
  off : Nat
  dims : List (Nat × Nat)
  half : Half
  fields : List Field
  deriving DecidableEq, Repr

/-- Identity block (0x0), part 0. -/
def regRows0_0 : List RegRow := [
  ⟨0x0, [], .whole, [⟨15, 0, .ro, 0x3f03, []⟩]⟩, -- DEV_ID: DEVICE (R418)
  ⟨0x4, [], .whole, [⟨15, 8, .ro, 0x11, []⟩, ⟨7, 4, .ro, 1, []⟩, ⟨3, 0, .ro, 1, []⟩]⟩, -- REV_ID: COMPUTE_STEP SKERRY_STEP BOARD (R418)
  ⟨0x8, [], .whole, [⟨23, 20, .ro, 8, []⟩, ⟨19, 16, .ro, 8, []⟩, ⟨15, 12, .ro, 4, []⟩, ⟨11, 4, .ro, 0x40, []⟩, ⟨3, 0, .ro, 8, []⟩]⟩, -- CAPS0: STACKS PORTS SPARES TILES BAYS (R418)
  ⟨0xc, [], .whole, [⟨31, 24, .ro, 1, []⟩, ⟨23, 16, .ro, 0x40, []⟩, ⟨15, 8, .ro, 0x10, []⟩, ⟨5, 5, .ro, 1, []⟩, ⟨4, 4, .ro, 1, []⟩, ⟨3, 3, .ro, 1, []⟩, ⟨2, 2, .ro, 1, []⟩, ⟨1, 1, .ro, 1, []⟩, ⟨0, 0, .ro, 1, []⟩]⟩, -- CAPS1: SOLOC SLOTS RINGS BAR2_1T UNDERTOW PREDICTION ESCAPES TIDE3 HBM_8G (R418)
  ⟨0x10, [], .lo, [⟨31, 0, .ro, 0, []⟩]⟩, -- SERIAL_LO: SERIAL (R418)
  ⟨0x14, [], .hi, [⟨31, 0, .ro, 0, []⟩]⟩, -- SERIAL_HI: SERIAL (R418)
  ⟨0x18, [], .whole, [⟨7, 0, .ro, 0, []⟩]⟩, -- BAY_ENABLE_MASK: ENABLED (R397)
  ⟨0x1c, [], .whole, [⟨31, 31, .ro, 0, []⟩, ⟨30, 30, .ro, 0, []⟩, ⟨27, 24, .ro, 0, []⟩, ⟨18, 16, .ro, 0, []⟩, ⟨15, 0, .ro, 0, []⟩]⟩, -- BOOT_STATUS: READY FAILED PHASE LAST_RESET BOOT_MS (R401)
  ⟨0x20, [], .whole, [⟨31, 16, .wo, 0, []⟩, ⟨15, 8, .w1s, 0, []⟩, ⟨0, 0, .w1s, 0, []⟩]⟩, -- RESET_CTRL: KEY BAY DATA_PLANE (R398)
  ⟨0x100, [(512, 0x4)], .whole, [⟨31, 31, .ro, 0, []⟩, ⟨9, 0, .ro, 0, []⟩]⟩, -- TILE_MAP: REMAPPED PHYS (R419)
  ⟨0x900, [(8, 0x4)], .whole, [⟨11, 8, .ro, 0, []⟩, ⟨7, 4, .ro, 0, []⟩, ⟨3, 0, .ro, 0, []⟩]⟩ -- SPARE_STATE: FAILED IN_USE GOOD (R419)
  ]

/-- The register rows of the Identity block. -/
def regRows0 : List RegRow := regRows0_0

/-- Command rings block (0x1), part 0. -/
def regRows1_0 : List RegRow := [
  ⟨0x10000, [(16, 0x100)], .lo, [⟨31, 12, .rws, 0, []⟩]⟩, -- RING_BASE_LO: BASE (R29)
  ⟨0x10004, [(16, 0x100)], .hi, [⟨15, 0, .rws, 0, []⟩]⟩, -- RING_BASE_HI: BASE (R29)
  ⟨0x10008, [(16, 0x100)], .whole, [⟨3, 0, .rws, 0, [(0, 0), (6, 12)]⟩]⟩, -- RING_SIZE: LOG2 (R29)
  ⟨0x1000c, [(16, 0x100)], .whole, [⟨25, 16, .rws, 0, []⟩, ⟨8, 8, .rws, 0, []⟩, ⟨2, 0, .rws, 7, []⟩]⟩, -- RING_PRIO: TAG_LIMIT REMOTE_EN PRIO (R34)
  ⟨0x10010, [(16, 0x100)], .whole, [⟨11, 0, .ro, 0, []⟩]⟩, -- RING_HEAD: INDEX (R30)
  ⟨0x10014, [(16, 0x100)], .whole, [⟨11, 0, .rw, 0, []⟩]⟩, -- RING_TAIL: INDEX (R31)
  ⟨0x10018, [(16, 0x100)], .lo, [⟨31, 12, .rws, 0, []⟩]⟩, -- CPL_BASE_LO: BASE (R29)
  ⟨0x1001c, [(16, 0x100)], .hi, [⟨15, 0, .rws, 0, []⟩]⟩, -- CPL_BASE_HI: BASE (R29)
  ⟨0x10020, [(16, 0x100)], .whole, [⟨3, 0, .rws, 0, [(0, 0), (6, 12)]⟩]⟩, -- CPL_SIZE: LOG2 (R29)
  ⟨0x10024, [(16, 0x100)], .whole, [⟨11, 0, .rw, 0, []⟩]⟩, -- CPL_HEAD: INDEX (R36)
  ⟨0x10028, [(16, 0x100)], .whole, [⟨11, 0, .ro, 0, []⟩]⟩, -- CPL_TAIL: INDEX (R36)
  ⟨0x1002c, [(16, 0x100)], .whole, [⟨10, 10, .w1c, 0, []⟩, ⟨9, 9, .w1s, 0, []⟩, ⟨8, 8, .w1s, 0, []⟩, ⟨7, 7, .w1c, 0, []⟩, ⟨6, 6, .w1c, 0, []⟩, ⟨5, 5, .w1c, 0, []⟩, ⟨4, 4, .w1c, 0, []⟩, ⟨3, 3, .ro, 0, []⟩, ⟨2, 2, .ro, 0, []⟩, ⟨1, 1, .ro, 0, []⟩, ⟨0, 0, .ro, 0, []⟩]⟩, -- RING_STATUS: SWITCH_REFUSED FLUSH CANCEL_WAITING ADDR_ERR REMOTE_REFUSED FORMAT_ERR TAIL_ERR HELD CPL_FULL TAG_WAIT ACTIVE (R31)
  ⟨0x10030, [(16, 0x100)], .whole, [⟨2, 2, .ro, 0, []⟩, ⟨1, 1, .ro, 0, []⟩, ⟨0, 0, .w1s, 0, []⟩]⟩, -- RING_COMMIT: APPLYING PENDING COMMIT (R65)
  ⟨0x11000, [], .whole, [⟨26, 16, .ro, 0, []⟩, ⟨10, 0, .ro, 0, []⟩]⟩, -- CMD_TAGS_IN_FLIGHT: URGENT TOTAL (R53)
  ⟨0x11004, [], .whole, [⟨8, 0, .rw, 0x40, [(0, 256)]⟩]⟩, -- CMD_URGENT_RESERVE: RESERVE (R53)
  ⟨0x11008, [], .whole, [⟨19, 0, .rw, 0x7d0, [(2000, 1000000)]⟩]⟩, -- CMD_TIMEOUT_MIN: MIN_US (R57)
  ⟨0x1100c, [], .whole, [⟨31, 0, .cnt, 0, []⟩]⟩, -- CMD_STALL_COUNT: COUNT (R53)
  ⟨0x11010, [(16, 0x4)], .whole, [⟨6, 6, .ro, 0, []⟩, ⟨5, 0, .ro, 0, []⟩]⟩ -- SLOT_ACTIVE: SWITCHING SLOT (R62)
  ]

/-- The register rows of the Command rings block. -/
def regRows1 : List RegRow := regRows1_0

/-- Interrupts block (0x2), part 0. -/
def regRows2_0 : List RegRow := [
  ⟨0x20000, [], .whole, [⟨1, 1, .rw, 0, []⟩, ⟨0, 0, .rw, 0, []⟩]⟩, -- IRQ_GLOBAL_ENABLE: MGMT_EN HOST_EN (R335)
  ⟨0x20004, [], .whole, [⟨3, 0, .rws, 0, [(0, 8)]⟩]⟩, -- IRQ_GROUP_SPLIT: GROUP_BITS (R329)
  ⟨0x20008, [], .whole, [⟨2, 2, .ro, 0, []⟩, ⟨1, 1, .ro, 0, []⟩, ⟨0, 0, .w1s, 0, []⟩]⟩, -- IRQ_COMMIT: APPLYING PENDING COMMIT (R65)
  ⟨0x20010, [], .whole, [⟨9, 0, .ro, 0x3ff, []⟩]⟩, -- IRQ_CLAIM_HOST: ID (R331)
  ⟨0x20014, [], .whole, [⟨9, 0, .wo, 0, []⟩]⟩, -- IRQ_COMPLETE_HOST: ID (R332)
  ⟨0x20018, [], .whole, [⟨9, 0, .ro, 0x3ff, []⟩]⟩, -- IRQ_CLAIM_MGMT: ID (R331)
  ⟨0x2001c, [], .whole, [⟨9, 0, .wo, 0, []⟩]⟩, -- IRQ_COMPLETE_MGMT: ID (R332)
  ⟨0x20020, [], .whole, [⟨0, 0, .w1c, 0, []⟩]⟩, -- IRQ_STATUS: BAD_COMPLETE (R332)
  ⟨0x21000, [(1023, 0x4)], .whole, [⟨31, 31, .rws, 0, []⟩, ⟨30, 30, .ro, 0, []⟩, ⟨29, 29, .rws, 0, []⟩, ⟨25, 24, .rws, 0, [(0, 1)]⟩, ⟨21, 16, .rws, 0, []⟩, ⟨7, 0, .rws, 0x80, []⟩]⟩, -- IRQ_SRC_CFG: EN KIND NO_COAL TARGET VECTOR PRIO (R328)
  ⟨0x22000, [(32, 0x4)], .whole, [⟨31, 0, .ro, 0, []⟩]⟩, -- IRQ_PENDING: PENDING (R329)
  ⟨0x22100, [(32, 0x4)], .whole, [⟨31, 0, .ro, 0, []⟩]⟩, -- IRQ_ACTIVE: ACTIVE (R329)
  ⟨0x23000, [(64, 0x8)], .whole, [⟨31, 16, .rws, 0, []⟩, ⟨7, 0, .rws, 1, [(1, 255)]⟩]⟩, -- VEC_COAL: TIME_US COUNT (R336)
  ⟨0x23004, [(64, 0x8)], .whole, [⟨31, 31, .ro, 0, []⟩, ⟨7, 0, .ro, 0, []⟩]⟩ -- VEC_COAL_STATUS: TIMER_RUN OWED (R336)
  ]

/-- The register rows of the Interrupts block. -/
def regRows2 : List RegRow := regRows2_0

/-- Timebase and telemetry block (0x3), part 0. -/
def regRows3_0 : List RegRow := [
  ⟨0x30000, [], .lo, [⟨31, 0, .ro, 0, []⟩]⟩, -- TIMEBASE_LO: NS (R420)
  ⟨0x30004, [], .hi, [⟨31, 0, .ro, 0, []⟩]⟩, -- TIMEBASE_HI: NS (R420)
  ⟨0x30010, [], .whole, [⟨16, 0, .rws, 0x3e8, [(100, 100000)]⟩]⟩, -- TELEM_PERIOD: US (R339)
  ⟨0x30014, [], .whole, [⟨2, 2, .ro, 0, []⟩, ⟨1, 1, .ro, 0, []⟩, ⟨0, 0, .w1s, 0, []⟩]⟩, -- TELEM_COMMIT: APPLYING PENDING COMMIT (R65)
  ⟨0x30018, [], .lo, [⟨31, 8, .rws, 0, []⟩]⟩, -- TELEM_RING_LO: BASE (R340)
  ⟨0x3001c, [], .hi, [⟨15, 0, .rws, 0, []⟩]⟩, -- TELEM_RING_HI: BASE (R340)
  ⟨0x30020, [], .whole, [⟨4, 0, .rws, 0, [(0, 0), (4, 16)]⟩]⟩, -- TELEM_RING_SIZE: LOG2 (R340)
  ⟨0x30024, [], .whole, [⟨31, 0, .ro, 0, []⟩]⟩, -- TELEM_HEAD: SEQ (R340)
  ⟨0x30030, [], .whole, [⟨2, 0, .ro, 0, []⟩]⟩, -- MGMT_STATUS: STATE (R338)
  ⟨0x30034, [], .whole, [⟨31, 31, .rws, 0, []⟩, ⟨27, 24, .rws, 0xf, []⟩, ⟨12, 0, .rws, 0x40, [(0, 4096)]⟩]⟩, -- MGMT_POLICY: HOTROW_EN HOTROW_RING MAX_MIG (R343)
  ⟨0x30038, [], .whole, [⟨15, 0, .ro, 0, []⟩]⟩, -- MGMT_BMC_CEILING: W (R342)
  ⟨0x3003c, [], .whole, [⟨3, 3, .w1c, 0, []⟩, ⟨2, 2, .w1c, 0, []⟩, ⟨1, 1, .w1c, 0, []⟩, ⟨0, 0, .w1c, 0, []⟩]⟩, -- MGMT_EVENT: RING_ERR BMC_CEILING TELEM_LATE WDOG (R338)
  ⟨0x30100, [(8, 0x4)], .whole, [⟨15, 0, .ro, 0, []⟩]⟩ -- RATE_BAY: RATE (R347)
  ]

/-- The register rows of the Timebase and telemetry block. -/
def regRows3 : List RegRow := regRows3_0

/-- Power block (0x4), part 0. -/
def regRows4_0 : List RegRow := [
  ⟨0x40000, [], .whole, [⟨10, 0, .rws, 0, [(0, 0), (600, 1650)]⟩]⟩, -- PWR_CEILING: W (R358)
  ⟨0x40004, [], .whole, [⟨31, 16, .ro, 0, []⟩, ⟨15, 0, .ro, 0, []⟩]⟩, -- PWR_NOW: PEAK_W W (R358)
  ⟨0x40008, [], .whole, [⟨2, 2, .ro, 0, []⟩, ⟨1, 1, .ro, 0, []⟩, ⟨0, 0, .w1s, 0, []⟩]⟩, -- PWR_COMMIT: APPLYING PENDING COMMIT (R65)
  ⟨0x4000c, [], .whole, [⟨11, 0, .rws, 0x960, [(1950, 2800)]⟩]⟩, -- GOV_TARGET: MSTEPS (R352)
  ⟨0x40010, [], .whole, [⟨27, 16, .rws, 0xfa, [(250, 4000)]⟩, ⟨15, 8, .rws, 0xa, [(10, 255)]⟩, ⟨7, 0, .rws, 0xa, [(10, 255)]⟩]⟩, -- STAGE_INTERVAL: BAY_US TILE ENGINE (R354)
  ⟨0x40014, [], .whole, [⟨31, 31, .rws, 1, []⟩, ⟨15, 0, .rws, 0x32, [(50, 65535)]⟩]⟩, -- GATE_CFG: EN IDLE_US (R355)
  ⟨0x40018, [], .whole, [⟨6, 0, .rws, 0x1e, [(20, 100)]⟩]⟩, -- DROOP_CFG: MV (R357)
  ⟨0x40020, [], .whole, [⟨31, 31, .ro, 0, []⟩, ⟨15, 8, .w1c, 0, []⟩, ⟨7, 0, .ro, 0, []⟩]⟩, -- FLOOR_STATUS: ANY STICKY BELOW (R348)
  ⟨0x40024, [], .whole, [⟨31, 0, .cnt, 0, []⟩]⟩, -- FLOOR_TIME: US (R348)
  ⟨0x40028, [], .whole, [⟨6, 6, .w1c, 0, []⟩, ⟨5, 5, .w1c, 0, []⟩, ⟨4, 4, .w1c, 0, []⟩, ⟨3, 3, .w1c, 0, []⟩, ⟨2, 2, .w1c, 0, []⟩, ⟨1, 1, .w1c, 0, []⟩, ⟨0, 0, .w1c, 0, []⟩]⟩, -- POWER_EVENT: INPUT_RANGE FAST_LIMIT JUNCTION_PAUSE JUNCTION_THROTTLE DROOP CEILING BELOW_FLOOR (R348)
  ⟨0x4002c, [], .whole, [⟨31, 0, .cnt, 0, []⟩]⟩, -- DROOP_EVENTS: COUNT (R357)
  ⟨0x40100, [(8, 0x4)], .whole, [⟨31, 28, .ro, 0, []⟩, ⟨9, 0, .ro, 0x2ee, []⟩]⟩, -- BAY_VDD: LIMIT MV (R351)
  ⟨0x40200, [(16, 0x4)], .whole, [⟨31, 0, .ro, 0, []⟩]⟩ -- TILE_GATED: GATED (R355)
  ]

/-- The register rows of the Power block. -/
def regRows4 : List RegRow := regRows4_0

/-- Memory block (0x5), part 0. -/
def regRows5_0 : List RegRow := [
  ⟨0x50000, [(16, 0x20)], .lo, [⟨31, 21, .rws, 0, []⟩]⟩, -- PLACE_WIN_BASE_LO: BASE (R233)
  ⟨0x50004, [(16, 0x20)], .hi, [⟨15, 0, .rws, 0, []⟩]⟩, -- PLACE_WIN_BASE_HI: BASE (R233)
  ⟨0x50008, [(16, 0x20)], .lo, [⟨31, 21, .rws, 0, []⟩]⟩, -- PLACE_WIN_LIMIT_LO: LIMIT (R233)
  ⟨0x5000c, [(16, 0x20)], .hi, [⟨15, 0, .rws, 0, []⟩]⟩, -- PLACE_WIN_LIMIT_HI: LIMIT (R233)
  ⟨0x50010, [(16, 0x20)], .lo, [⟨31, 18, .rws, 0, []⟩]⟩, -- PLACE_WIN_PBASE_LO: PBASE (R233)
  ⟨0x50014, [(16, 0x20)], .hi, [⟨4, 0, .rws, 0, []⟩]⟩, -- PLACE_WIN_PBASE_HI: PBASE (R233)
  ⟨0x50018, [(16, 0x20)], .whole, [⟨31, 31, .rws, 0, []⟩, ⟨1, 0, .rws, 0, [(0, 2)]⟩]⟩, -- PLACE_WIN_MODE: EN MODE (R233)
  ⟨0x5001c, [(16, 0x20)], .whole, [⟨2, 0, .rws, 0, []⟩]⟩, -- PLACE_WIN_STACK: STACK (R233)
  ⟨0x50400, [], .whole, [⟨2, 2, .ro, 0, []⟩, ⟨1, 1, .ro, 0, []⟩, ⟨0, 0, .w1s, 0, []⟩]⟩, -- MEM_COMMIT: APPLYING PENDING COMMIT (R65)
  ⟨0x50404, [], .whole, [⟨31, 16, .ro, 0, []⟩, ⟨15, 0, .ro, 1, []⟩]⟩, -- MEM_WIN_STATUS: ERR LOADED (R235)
  ⟨0x50410, [], .whole, [⟨0, 0, .rws, 0, []⟩]⟩, -- HBM_ECC_MODE: MODE (R241)
  ⟨0x50414, [], .whole, [⟨1, 0, .rws, 0, [(0, 2)]⟩]⟩, -- HBM_REPAIR_POLICY: POLICY (R244)
  ⟨0x50418, [], .whole, [⟨12, 0, .rws, 4, [(0, 4096)]⟩]⟩, -- SCRUB_RATE: KGRAN (R246)
  ⟨0x5041c, [], .whole, [⟨0, 0, .rws, 1, []⟩]⟩, -- HBM_SPEED: BIN (R232)
  ⟨0x50420, [], .whole, [⟨15, 8, .ro, 0, []⟩, ⟨7, 0, .rw, 0, []⟩]⟩, -- HBM_HOLD: IDLE HOLD (R421)
  ⟨0x50440, [], .lo, []⟩, -- HOST_BAR2_MAP_LO:  (R319)
  ⟨0x50444, [], .hi, [⟨15, 4, .rws, 0, []⟩]⟩, -- HOST_BAR2_MAP_HI: BASE (R319)
  ⟨0x50448, [], .whole, [⟨19, 16, .ro, 0, []⟩, ⟨12, 8, .ro, 0, []⟩, ⟨0, 0, .ro, 0, []⟩]⟩, -- HOST_LINK_STATUS: SPEED WIDTH FLIT (R315)
  ⟨0x5044c, [], .whole, [⟨3, 3, .w1c, 0, []⟩, ⟨2, 2, .w1c, 0, []⟩, ⟨1, 1, .w1c, 0, []⟩, ⟨0, 0, .w1c, 0, []⟩]⟩, -- HOST_EVENT: BAR0_FAULT LINK_DOWN SPEED_DOWN BAR2_FAULT (R318)
  ⟨0x50450, [], .whole, [⟨31, 0, .cnt, 0, []⟩]⟩, -- HOST_BAR2_FAULTS: COUNT (R320)
  ⟨0x50800, [(8, 0x40)], .whole, [⟨23, 16, .ro, 0, []⟩, ⟨10, 8, .ro, 0, []⟩, ⟨2, 0, .ro, 0, []⟩]⟩, -- STACK_STATE: TEMP ACTION STATE (R247)
  ⟨0x50804, [(8, 0x40)], .whole, [⟨31, 16, .ro, 0, []⟩, ⟨15, 0, .ro, 0, []⟩]⟩, -- STACK_CHANNELS: FENCED MAPPED_OUT (R244)
  ⟨0x50808, [(8, 0x40)], .whole, [⟨16, 0, .ro, 0, []⟩]⟩, -- STACK_CAPACITY: MIB (R244)
  ⟨0x5080c, [(8, 0x40)], .whole, [⟨7, 0, .ro, 0, []⟩]⟩ -- STACK_REPAIR: LANES_SPARED (R244)
  ]

/-- Memory block (0x5), part 1. -/
def regRows5_1 : List RegRow := [
  ⟨0x50810, [(8, 0x40)], .whole, [⟨31, 0, .cnt, 0, []⟩]⟩, -- STACK_CE: COUNT (R242)
  ⟨0x50814, [(8, 0x40)], .whole, [⟨31, 0, .cnt, 0, []⟩]⟩, -- STACK_UE: COUNT (R242)
  ⟨0x50818, [(8, 0x40)], .whole, [⟨31, 0, .ro, 0, []⟩]⟩, -- STACK_SCRUB_PASSES: COUNT (R246)
  ⟨0x5081c, [(8, 0x40)], .whole, [⟨3, 3, .w1c, 0, []⟩, ⟨2, 2, .w1c, 0, []⟩, ⟨1, 1, .w1c, 0, []⟩, ⟨0, 0, .w1c, 0, []⟩]⟩, -- STACK_THERMAL_EVENTS: SHUTDOWN PAUSE THROTTLE REFRESH2X (R248)
  ⟨0x50c00, [(8, 0x4)], .whole, [⟨23, 16, .rw, 0, []⟩, ⟨15, 8, .rw, 0, []⟩, ⟨7, 0, .rw, 0, []⟩]⟩ -- HBM_PHY_TUNE: WR_DESKEW RD_DESKEW VREF_TRIM (R422)
  ]

/-- The register rows of the Memory block. -/
def regRows5 : List RegRow := regRows5_0 ++ regRows5_1

/-- Fabric block (0x6), part 0. -/
def regRows6_0 : List RegRow := [
  ⟨0x60000, [(8, 0x1000)], .whole, [⟨31, 31, .rws, 0, []⟩, ⟨30, 30, .w1s, 0, []⟩, ⟨29, 29, .rws, 0, []⟩, ⟨28, 28, .rws, 1, []⟩, ⟨10, 8, .rws, 0, []⟩]⟩, -- PORT_CTRL: EN RETRAIN DATELINE ALLOW_X4 DIM (R269)
  ⟨0x60004, [(8, 0x1000)], .whole, [⟨31, 20, .ro, 0, []⟩, ⟨19, 16, .ro, 0, []⟩, ⟨10, 8, .ro, 0, []⟩, ⟨0, 0, .ro, 0, []⟩]⟩, -- PORT_STATUS: PARTNER_ID PARTNER_PORT STATE SPARE_USED (R269)
  ⟨0x60008, [(8, 0x1000)], .whole, [⟨24, 16, .ro, 0, []⟩, ⟨15, 12, .ro, 0xf, []⟩, ⟨8, 0, .rws, 0, []⟩]⟩, -- LANE_MAP: FAILED SPARE_FOR DISABLE (R283)
  ⟨0x6000c, [(8, 0x1000)], .whole, [⟨31, 24, .rws, 0x18, []⟩, ⟨23, 16, .rws, 0x20, []⟩, ⟨15, 8, .rws, 0x20, []⟩, ⟨7, 0, .rws, 8, []⟩]⟩, -- TC_CREDITS: TC3 TC2 TC1 TC0 (R278)
  ⟨0x60010, [(8, 0x1000)], .whole, [⟨29, 24, .rws, 0x10, [(1, 63)]⟩, ⟨7, 0, .rws, 0x32, [(1, 200)]⟩]⟩, -- BREAKWATER_RATE: BURST RATE (R286)
  ⟨0x60014, [(8, 0x1000)], .whole, [⟨25, 16, .rws, 0x40, [(16, 1000)]⟩, ⟨5, 0, .rws, 8, [(1, 32)]⟩]⟩, -- REPLAY_LIMIT: TIME_US COUNT (R277)
  ⟨0x60018, [(8, 0x1000)], .whole, [⟨6, 6, .w1c, 0, []⟩, ⟨5, 5, .w1c, 0, []⟩, ⟨4, 4, .w1c, 0, []⟩, ⟨3, 3, .w1c, 0, []⟩, ⟨2, 2, .w1c, 0, []⟩, ⟨1, 1, .w1c, 0, []⟩, ⟨0, 0, .w1c, 0, []⟩]⟩, -- PORT_EVENT: PARTNER_CHANGED TC0_OVER REROUTE FAILED DEGRADED_X4 LANE_FAILOVER REPLAY (R284)
  ⟨0x60020, [(8, 0x1000)], .whole, [⟨31, 0, .cnt, 0, []⟩]⟩, -- FEC_CORR_SYM: COUNT (R272/R275/R286/R287)
  ⟨0x60024, [(8, 0x1000)], .whole, [⟨31, 0, .cnt, 0, []⟩]⟩, -- FEC_UNCORR: COUNT (R272/R275/R286/R287)
  ⟨0x60028, [(8, 0x1000)], .whole, [⟨31, 0, .cnt, 0, []⟩]⟩, -- CRC_ERR: COUNT (R272/R275/R286/R287)
  ⟨0x6002c, [(8, 0x1000)], .whole, [⟨31, 0, .cnt, 0, []⟩]⟩, -- REPLAYS: COUNT (R272/R275/R286/R287)
  ⟨0x60030, [(8, 0x1000)], .whole, [⟨31, 0, .cnt, 0, []⟩]⟩, -- RETRAINS: COUNT (R272/R275/R286/R287)
  ⟨0x60034, [(8, 0x1000)], .whole, [⟨31, 0, .cnt, 0, []⟩]⟩, -- BREAKWATER_WAITS: COUNT (R272/R275/R286/R287)
  ⟨0x60038, [(8, 0x1000)], .whole, [⟨31, 0, .cnt, 0, []⟩]⟩, -- TC0_TRANSIT_OVER: COUNT (R272/R275/R286/R287)
  ⟨0x6003c, [(8, 0x1000)], .whole, [⟨31, 0, .cnt, 0, []⟩]⟩, -- PROTO_ERR: COUNT (R272/R275/R286/R287)
  ⟨0x60040, [(8, 0x1000)], .lo, [⟨31, 0, .ro, 0, []⟩]⟩, -- TX_FLITS_LO: COUNT (R279)
  ⟨0x60044, [(8, 0x1000)], .hi, [⟨31, 0, .ro, 0, []⟩]⟩, -- TX_FLITS_HI: COUNT (R279)
  ⟨0x60048, [(8, 0x1000)], .lo, [⟨31, 0, .ro, 0, []⟩]⟩, -- RX_FLITS_LO: COUNT (R275)
  ⟨0x6004c, [(8, 0x1000)], .hi, [⟨31, 0, .ro, 0, []⟩]⟩, -- RX_FLITS_HI: COUNT (R275)
  ⟨0x68000, [], .whole, [⟨2, 2, .ro, 0, []⟩, ⟨1, 1, .ro, 0, []⟩, ⟨0, 0, .w1s, 0, []⟩]⟩, -- FAB_COMMIT: APPLYING PENDING COMMIT (R291)
  ⟨0x68004, [], .whole, [⟨11, 0, .rws, 0, []⟩]⟩, -- FAB_MODULE_ID: ID (R270)
  ⟨0x68008, [], .whole, [⟨31, 31, .rws, 0, []⟩, ⟨15, 0, .rws, 0x1f4, [(50, 65535)]⟩]⟩, -- FAB_ROUTE_CFG: ADAPT_EN ADAPT_NS (R280)
  ⟨0x6800c, [], .whole, [⟨7, 0, .rws, 0, []⟩]⟩, -- FAB_TELEM: PORTS (R290)
  ⟨0x68010, [], .whole, [⟨31, 31, .w1s, 0, []⟩, ⟨27, 16, .rw, 0, []⟩, ⟨8, 0, .rw, 0, [(64, 64), (80, 80), (96, 96), (112, 112), (128, 128), (144, 144), (160, 160), (176, 176), (192, 192), (208, 208), (224, 224), (240, 240), (256, 256)]⟩]⟩ -- RELAY_CTRL: GO DEST BYTES (R289)
  ]

/-- Fabric block (0x6), part 1. -/
def regRows6_1 : List RegRow := [
  ⟨0x68014, [], .whole, [⟨15, 8, .ro, 0, []⟩, ⟨2, 0, .ro, 0, []⟩]⟩, -- RELAY_STATUS: REASON RESULT (R289)
  ⟨0x68018, [], .whole, [⟨31, 0, .cnt, 0, []⟩]⟩, -- FAB_NOROUTE: COUNT (R282)
  ⟨0x68100, [(64, 0x4)], .whole, [⟨31, 0, .rw, 0, []⟩]⟩, -- RELAY_DATA: DATA (R289)
  ⟨0x69000, [(8, 0x100)], .whole, [⟨31, 0, .ro, 0, []⟩]⟩, -- TELEM_RX_SEQ: SEQ (R290)
  ⟨0x69004, [(8, 0x100)], .whole, [⟨11, 0, .ro, 0, []⟩]⟩, -- TELEM_RX_SRC: SRC (R290)
  ⟨0x69008, [(8, 0x100)], .lo, [⟨31, 0, .ro, 0, []⟩]⟩, -- TELEM_RX_TIMESTAMP_LO: TIME (R290)
  ⟨0x6900c, [(8, 0x100)], .hi, [⟨31, 0, .ro, 0, []⟩]⟩, -- TELEM_RX_TIMESTAMP_HI: TIME (R290)
  ⟨0x69010, [(8, 0x100), (60, 0x4)], .whole, [⟨31, 0, .ro, 0, []⟩]⟩, -- TELEM_RX_PAYLOAD: DATA (R290)
  ⟨0x6c000, [(4096, 0x4)], .whole, [⟨15, 12, .rws, 0xf, [(0, 7), (15, 15)]⟩, ⟨11, 8, .rws, 0xf, [(0, 7), (15, 15)]⟩, ⟨3, 0, .rws, 0xf, [(0, 7), (15, 15)]⟩]⟩ -- ROUTE_TABLE: ALT2 ALT1 PRIMARY (R280)
  ]

/-- The register rows of the Fabric block. -/
def regRows6 : List RegRow := regRows6_0 ++ regRows6_1

/-- Collectives block (0x7), part 0. -/
def regRows7_0 : List RegRow := [
  ⟨0x70000, [], .whole, [⟨2, 2, .ro, 0, []⟩, ⟨1, 1, .ro, 0, []⟩, ⟨0, 0, .w1s, 0, []⟩]⟩, -- COLL_COMMIT: APPLYING PENDING COMMIT (R65)
  ⟨0x70004, [], .whole, [⟨19, 0, .rws, 0x1388, [(500, 1000000)]⟩]⟩, -- COLL_DEADLINE: US (R307)
  ⟨0x70008, [], .whole, [⟨0, 0, .rws, 0, []⟩]⟩, -- COLL_NONFINITE_POLICY: POLICY (R303)
  ⟨0x7000c, [], .whole, [⟨0, 0, .rws, 0, []⟩]⟩, -- COLL_MISSING_POLICY: POLICY (R307)
  ⟨0x70010, [], .whole, [⟨3, 0, .rws, 3, []⟩]⟩, -- FS48_GUARD_BITS: BITS (R301)
  ⟨0x70014, [], .whole, [⟨9, 8, .rws, 0, [(0, 2)]⟩, ⟨1, 0, .rws, 0, [(0, 2)]⟩]⟩, -- PAIR_PORT_CFG: P7_ROLE P6_ROLE (R306)
  ⟨0x70020, [], .lo, [⟨31, 7, .rws, 0, []⟩]⟩, -- COLL_GROUP_TABLE_LO: BASE (R297)
  ⟨0x70024, [], .hi, [⟨15, 0, .rws, 0, []⟩]⟩, -- COLL_GROUP_TABLE_HI: BASE (R297)
  ⟨0x70028, [], .whole, [⟨6, 0, .rws, 0, [(0, 64)]⟩]⟩, -- COLL_GROUP_ENTRIES: ENTRIES (R297)
  ⟨0x70030, [], .lo, [⟨31, 21, .rws, 0, []⟩]⟩, -- COLL_BUF_LO: BASE (R311)
  ⟨0x70034, [], .hi, [⟨15, 0, .rws, 0, []⟩]⟩, -- COLL_BUF_HI: BASE (R311)
  ⟨0x70038, [], .whole, [⟨15, 15, .rws, 0, []⟩, ⟨11, 0, .rws, 0, []⟩]⟩, -- COLL_LATE_CTR: EN COUNTER (R307)
  ⟨0x70040, [], .whole, [⟨6, 0, .ro, 0, []⟩]⟩, -- COLL_STATUS: OPEN (R307)
  ⟨0x70044, [], .whole, [⟨2, 2, .w1c, 0, []⟩, ⟨1, 1, .w1c, 0, []⟩, ⟨0, 0, .w1c, 0, []⟩]⟩, -- COLL_EVENT: SATURATED EXCLUDED LATE (R307)
  ⟨0x70050, [], .whole, [⟨31, 0, .cnt, 0, []⟩]⟩, -- COLL_DUP_DISCARDS: COUNT (R306)
  ⟨0x70054, [], .whole, [⟨31, 0, .cnt, 0, []⟩]⟩, -- COLL_LATE_DISCARDS: COUNT (R307)
  ⟨0x70058, [], .whole, [⟨31, 0, .cnt, 0, []⟩]⟩, -- COLL_REREDUCE: COUNT (R303)
  ⟨0x70060, [], .lo, [⟨31, 0, .ro, 0, []⟩]⟩, -- COLL_GROUP_LOADED_LO: LOADED (R297)
  ⟨0x70064, [], .hi, [⟨31, 0, .ro, 0, []⟩]⟩ -- COLL_GROUP_LOADED_HI: LOADED (R297)
  ]

/-- The register rows of the Collectives block. -/
def regRows7 : List RegRow := regRows7_0

/-- Graph block (0x8), part 0. -/
def regRows8_0 : List RegRow := [
  ⟨0x80000, [], .whole, [⟨2, 2, .ro, 0, []⟩, ⟨1, 1, .ro, 0, []⟩, ⟨0, 0, .w1s, 0, []⟩]⟩, -- GRAPH_COMMIT: APPLYING PENDING COMMIT (R65)
  ⟨0x80100, [], .whole, [⟨16, 0, .rws, 0x10000, [(256, 65536)]⟩]⟩, -- DEDUP_CAP: CAP (R80)
  ⟨0x80104, [], .whole, [⟨19, 8, .rws, 0x100, [(1, 4095)]⟩, ⟨3, 0, .rws, 0, [(0, 12)]⟩]⟩, -- SAMPLE_CACHE_CFG: MAX_DEG MIB (R88)
  ⟨0x80108, [], .lo, [⟨31, 6, .rws, 0, []⟩]⟩, -- GRAPH_TABLE_LO: BASE (R69)
  ⟨0x8010c, [], .hi, [⟨15, 0, .rws, 0, []⟩]⟩, -- GRAPH_TABLE_HI: BASE (R69)
  ⟨0x80110, [], .whole, [⟨8, 0, .rws, 0, [(0, 256)]⟩]⟩, -- GRAPH_TABLE_ENTRIES: ENTRIES (R69)
  ⟨0x80120, [(8, 0x4)], .whole, [⟨31, 0, .ro, 0, []⟩]⟩, -- GRAPH_LOADED: LOADED (R69)
  ⟨0x80200, [(8, 0x10)], .lo, [⟨31, 0, .ro, 0, []⟩]⟩, -- SAMPLE_BAY_CTR_EDGES_LO: EDGES (R88)
  ⟨0x80204, [(8, 0x10)], .hi, [⟨31, 0, .ro, 0, []⟩]⟩, -- SAMPLE_BAY_CTR_EDGES_HI: EDGES (R88)
  ⟨0x80208, [(8, 0x10)], .whole, [⟨31, 0, .ro, 0, []⟩]⟩, -- SAMPLE_BAY_CTR_ROW_HITS: ROW_HITS (R88)
  ⟨0x8020c, [(8, 0x10)], .whole, [⟨31, 0, .ro, 0, []⟩]⟩, -- SAMPLE_BAY_CTR_ROW_MISSES: ROW_MISSES (R88)
  ⟨0x80300, [], .whole, [⟨16, 0, .rws, 0x1000, [(256, 65536)]⟩]⟩, -- HUB_SPLIT: SPLIT (R99)
  ⟨0x80304, [], .whole, [⟨15, 0, .rws, 0x7d0, [(500, 65535)]⟩]⟩, -- MIGRATE_GRACE: GRACE_US (R111)
  ⟨0x80308, [], .whole, [⟨31, 0, .rws, 0x400, [(1, 4294967295)]⟩]⟩, -- HOTROW_THRESH: THRESH (R108)
  ⟨0x8030c, [], .whole, [⟨31, 31, .rws, 1, []⟩, ⟨7, 0, .rws, 0x64, [(1, 255)]⟩]⟩, -- HOTROW_CFG: EN PERIOD_MS (R109)
  ⟨0x80310, [], .lo, [⟨31, 20, .rws, 0, []⟩]⟩, -- HOTROW_SNAP_LO: BASE (R109)
  ⟨0x80314, [], .hi, [⟨15, 0, .rws, 0, []⟩]⟩, -- HOTROW_SNAP_HI: BASE (R109)
  ⟨0x80318, [], .lo, [⟨31, 7, .rws, 0, []⟩]⟩, -- TABLE_TABLE_LO: BASE (R90)
  ⟨0x8031c, [], .hi, [⟨15, 0, .rws, 0, []⟩]⟩, -- TABLE_TABLE_HI: BASE (R90)
  ⟨0x80320, [], .whole, [⟨8, 0, .rws, 0, [(0, 256)]⟩]⟩, -- TABLE_ENTRIES: ENTRIES (R90)
  ⟨0x80324, [], .whole, [⟨12, 0, .ro, 0, []⟩]⟩, -- MIGRATE_STATUS: OUTSTANDING (R110)
  ⟨0x80340, [(8, 0x4)], .whole, [⟨31, 0, .ro, 0, []⟩]⟩, -- TABLE_LOADED: LOADED (R90)
  ⟨0x80400, [(8, 0x20)], .lo, [⟨31, 0, .ro, 0, []⟩]⟩, -- GATHER_BAY_CTR_LOCAL_ROWS_LO: LOCAL_ROWS (R95/R96)
  ⟨0x80404, [(8, 0x20)], .hi, [⟨31, 0, .ro, 0, []⟩]⟩ -- GATHER_BAY_CTR_LOCAL_ROWS_HI: LOCAL_ROWS (R95/R96)
  ]

/-- Graph block (0x8), part 1. -/
def regRows8_1 : List RegRow := [
  ⟨0x80408, [(8, 0x20)], .lo, [⟨31, 0, .ro, 0, []⟩]⟩, -- GATHER_BAY_CTR_SERVED_REMOTE_LO: SERVED_REMOTE (R95/R96)
  ⟨0x8040c, [(8, 0x20)], .hi, [⟨31, 0, .ro, 0, []⟩]⟩, -- GATHER_BAY_CTR_SERVED_REMOTE_HI: SERVED_REMOTE (R95/R96)
  ⟨0x80410, [(8, 0x20)], .lo, [⟨31, 0, .ro, 0, []⟩]⟩, -- GATHER_BAY_CTR_REQUESTED_REMOTE_LO: REQUESTED_REMOTE (R95/R96)
  ⟨0x80414, [(8, 0x20)], .hi, [⟨31, 0, .ro, 0, []⟩]⟩, -- GATHER_BAY_CTR_REQUESTED_REMOTE_HI: REQUESTED_REMOTE (R95/R96)
  ⟨0x80418, [(8, 0x20)], .lo, [⟨31, 0, .ro, 0, []⟩]⟩, -- GATHER_BAY_CTR_GRANULES_LO: GRANULES (R95/R96)
  ⟨0x8041c, [(8, 0x20)], .hi, [⟨31, 0, .ro, 0, []⟩]⟩ -- GATHER_BAY_CTR_GRANULES_HI: GRANULES (R95/R96)
  ]

/-- The register rows of the Graph block. -/
def regRows8 : List RegRow := regRows8_0 ++ regRows8_1

/-- Numerics block (0x9), part 0. -/
def regRows9_0 : List RegRow := [
  ⟨0x90000, [], .whole, [⟨0, 0, .rws, 0, []⟩]⟩, -- ROUND_MODE: MODE (R165)
  ⟨0x90004, [], .whole, [⟨2, 2, .rws, 1, []⟩, ⟨1, 1, .rws, 1, []⟩, ⟨0, 0, .rws, 1, []⟩]⟩, -- SR_ENABLE: WGRAD DGRAD MATMUL (R165)
  ⟨0x90008, [], .whole, [⟨2, 2, .ro, 0, []⟩, ⟨1, 1, .ro, 0, []⟩, ⟨0, 0, .w1s, 0, []⟩]⟩, -- NUM_COMMIT: APPLYING PENDING COMMIT (R65)
  ⟨0x90040, [(2, 0x4)], .whole, [⟨31, 0, .rw, 0, []⟩]⟩, -- KAT_KEY: K (R169)
  ⟨0x90048, [(4, 0x4)], .whole, [⟨31, 0, .rw, 0, []⟩]⟩, -- KAT_CTR: C (R169)
  ⟨0x90058, [(4, 0x4)], .whole, [⟨31, 0, .ro, 0, []⟩]⟩, -- KAT_OUT: O (R169)
  ⟨0x90068, [], .whole, [⟨1, 1, .ro, 0, []⟩, ⟨0, 0, .w1s, 0, []⟩]⟩, -- KAT_CTRL: BUSY GO (R169)
  ⟨0x90100, [], .whole, [⟨0, 0, .rws, 0, []⟩]⟩, -- ESCAPE_ENABLE: EN (R129)
  ⟨0x90110, [(4, 0x4)], .whole, [⟨31, 0, .rws, 0, []⟩]⟩, -- PW_THRESH: FRACTION (R139)
  ⟨0x90120, [], .lo, [⟨31, 7, .rws, 0, []⟩]⟩, -- PW_TABLE_LO: BASE (R142)
  ⟨0x90124, [], .hi, [⟨15, 0, .rws, 0, []⟩]⟩, -- PW_TABLE_HI: BASE (R142)
  ⟨0x90128, [], .whole, [⟨31, 31, .rws, 0, []⟩, ⟨27, 16, .rws, 0, []⟩, ⟨15, 15, .rws, 0, []⟩, ⟨10, 0, .rws, 0, [(0, 1024)]⟩]⟩, -- PW_CTRL: AUTO COUNTER SIGNAL_EN LAYERS (R139)
  ⟨0x9012c, [], .whole, [⟨31, 31, .w1c, 0, []⟩, ⟨9, 0, .ro, 0, []⟩]⟩, -- PW_EVENT: PENDING LAST_LAYER (R139)
  ⟨0x90130, [], .whole, [⟨31, 16, .wo, 0, []⟩, ⟨9, 0, .wo, 0, []⟩]⟩, -- PW_DEMOTE: FROM_TIDE LAYER (R141)
  ⟨0x90140, [], .whole, [⟨1, 0, .rws, 0, [(0, 2)]⟩]⟩, -- PRED_MODE: MODE (R190)
  ⟨0x90150, [], .lo, [⟨31, 0, .ro, 0, []⟩]⟩, -- SPARSE_SKIPS_LO: SPARSE_SKIPS (R183/R186/R188)
  ⟨0x90154, [], .hi, [⟨31, 0, .ro, 0, []⟩]⟩, -- SPARSE_SKIPS_HI: SPARSE_SKIPS (R183/R186/R188)
  ⟨0x90158, [], .lo, [⟨31, 0, .ro, 0, []⟩]⟩, -- PRED_SKIPS_LO: PRED_SKIPS (R183/R186/R188)
  ⟨0x9015c, [], .hi, [⟨31, 0, .ro, 0, []⟩]⟩, -- PRED_SKIPS_HI: PRED_SKIPS (R183/R186/R188)
  ⟨0x90160, [], .lo, [⟨31, 0, .ro, 0, []⟩]⟩, -- PRED_MISSES_LO: PRED_MISSES (R183/R186/R188)
  ⟨0x90164, [], .hi, [⟨31, 0, .ro, 0, []⟩]⟩, -- PRED_MISSES_HI: PRED_MISSES (R183/R186/R188)
  ⟨0x90168, [], .lo, [⟨31, 0, .ro, 0, []⟩]⟩, -- PRED_SHADOW_LO: PRED_SHADOW (R183/R186/R188)
  ⟨0x9016c, [], .hi, [⟨31, 0, .ro, 0, []⟩]⟩, -- PRED_SHADOW_HI: PRED_SHADOW (R183/R186/R188)
  ⟨0x90200, [(8, 0x20)], .lo, [⟨31, 0, .ro, 0, []⟩]⟩ -- ARRAY_BAY_CTR_FLOOD_STEPS_LO: FLOOD_STEPS (R159)
  ]

/-- Numerics block (0x9), part 1. -/
def regRows9_1 : List RegRow := [
  ⟨0x90204, [(8, 0x20)], .hi, [⟨31, 0, .ro, 0, []⟩]⟩, -- ARRAY_BAY_CTR_FLOOD_STEPS_HI: FLOOD_STEPS (R159)
  ⟨0x90208, [(8, 0x20)], .lo, [⟨31, 0, .ro, 0, []⟩]⟩, -- ARRAY_BAY_CTR_EBB_D_STEPS_LO: EBB_D_STEPS (R159)
  ⟨0x9020c, [(8, 0x20)], .hi, [⟨31, 0, .ro, 0, []⟩]⟩, -- ARRAY_BAY_CTR_EBB_D_STEPS_HI: EBB_D_STEPS (R159)
  ⟨0x90210, [(8, 0x20)], .lo, [⟨31, 0, .ro, 0, []⟩]⟩, -- ARRAY_BAY_CTR_EBB_W_STEPS_LO: EBB_W_STEPS (R159)
  ⟨0x90214, [(8, 0x20)], .hi, [⟨31, 0, .ro, 0, []⟩]⟩, -- ARRAY_BAY_CTR_EBB_W_STEPS_HI: EBB_W_STEPS (R159)
  ⟨0x90218, [(8, 0x20)], .lo, [⟨31, 0, .ro, 0, []⟩]⟩, -- ARRAY_BAY_CTR_FEED_STALLS_LO: FEED_STALLS (R159)
  ⟨0x9021c, [(8, 0x20)], .hi, [⟨31, 0, .ro, 0, []⟩]⟩, -- ARRAY_BAY_CTR_FEED_STALLS_HI: FEED_STALLS (R159)
  ⟨0x90300, [(8, 0x10)], .lo, [⟨31, 0, .ro, 0, []⟩]⟩, -- VEC_BAY_CTR_STEPS_LO: STEPS (R208)
  ⟨0x90304, [(8, 0x10)], .hi, [⟨31, 0, .ro, 0, []⟩]⟩, -- VEC_BAY_CTR_STEPS_HI: STEPS (R208)
  ⟨0x90308, [(8, 0x10)], .whole, [⟨31, 0, .ro, 0, []⟩]⟩, -- VEC_BAY_CTR_INSTRS: INSTRS (R208)
  ⟨0x9030c, [(8, 0x10)], .whole, [⟨31, 0, .ro, 0, []⟩]⟩ -- VEC_BAY_CTR_LOADS: LOADS (R196)
  ]

/-- The register rows of the Numerics block. -/
def regRows9 : List RegRow := regRows9_0 ++ regRows9_1

/-- RAS block (0xa), part 0. -/
def regRows10_0 : List RegRow := [
  ⟨0xa0000, [], .whole, [⟨2, 2, .ro, 0, []⟩, ⟨1, 1, .ro, 0, []⟩, ⟨0, 0, .w1s, 0, []⟩]⟩, -- RAS_COMMIT: APPLYING PENDING COMMIT (R65)
  ⟨0xa0010, [], .lo, [⟨31, 12, .rws, 0, []⟩]⟩, -- ERRLOG_BASE_LO: BASE (R375)
  ⟨0xa0014, [], .hi, [⟨15, 0, .rws, 0, []⟩]⟩, -- ERRLOG_BASE_HI: BASE (R375)
  ⟨0xa0018, [], .whole, [⟨4, 0, .rws, 0, [(0, 0), (6, 16)]⟩]⟩, -- ERRLOG_SIZE: LOG2 (R375)
  ⟨0xa001c, [], .whole, [⟨15, 0, .ro, 0, []⟩]⟩, -- ERRLOG_TAIL: INDEX (R375)
  ⟨0xa0020, [], .whole, [⟨15, 0, .rw, 0, []⟩]⟩, -- ERRLOG_HEAD: INDEX (R375)
  ⟨0xa0024, [], .whole, [⟨31, 0, .cnt, 0, []⟩]⟩, -- ERRLOG_DROPPED: COUNT (R375)
  ⟨0xa0030, [], .lo, [⟨31, 12, .rws, 0, []⟩]⟩, -- REPLAY_LOG_LO: BASE (R368)
  ⟨0xa0034, [], .hi, [⟨15, 0, .rws, 0, []⟩]⟩, -- REPLAY_LOG_HI: BASE (R368)
  ⟨0xa0038, [], .whole, [⟨3, 0, .rws, 0, [(0, 0), (8, 14)]⟩]⟩, -- REPLAY_LOG_SIZE: LOG2 (R368)
  ⟨0xa0040, [], .whole, [⟨2, 2, .rws, 1, []⟩, ⟨1, 1, .rws, 1, []⟩, ⟨0, 0, .rws, 1, []⟩]⟩, -- RAS_POLICY: MARK REMAP AUTO_REPLAY (R369/R371/R373)
  ⟨0xa0050, [], .whole, [⟨9, 9, .w1c, 0, []⟩, ⟨8, 8, .w1c, 0, []⟩, ⟨7, 7, .w1c, 0, []⟩, ⟨6, 6, .w1c, 0, []⟩, ⟨5, 5, .w1c, 0, []⟩, ⟨4, 4, .w1c, 0, []⟩, ⟨3, 3, .w1c, 0, []⟩, ⟨2, 2, .w1c, 0, []⟩, ⟨1, 1, .w1c, 0, []⟩, ⟨0, 0, .w1c, 0, []⟩]⟩, -- RAS_EVENT: UNDERTOW_FIRED LOG_FULL REPLAY_FAILED POISON_DELIVERED NO_SPARE TILE_REMAPPED CHANNEL_FENCED SKERRY_UE SRAM_UE HBM_UE (R375)
  ⟨0xa0060, [], .whole, [⟨31, 0, .cnt, 0, []⟩]⟩, -- RAS_REPLAYS: COUNT (R369)
  ⟨0xa0064, [], .whole, [⟨31, 0, .cnt, 0, []⟩]⟩, -- RAS_REBUILDS: COUNT (R366)
  ⟨0xa0068, [], .whole, [⟨31, 0, .cnt, 0, []⟩]⟩ -- RAS_TILE_REMAPS: COUNT (R373)
  ]

/-- The register rows of the RAS block. -/
def regRows10 : List RegRow := regRows10_0

/-- Undertow block (0xb), part 0. -/
def regRows11_0 : List RegRow := [
  ⟨0xb0000, [], .whole, [⟨2, 2, .ro, 0, []⟩, ⟨1, 1, .ro, 0, []⟩, ⟨0, 0, .w1s, 0, []⟩]⟩, -- UW_COMMIT: APPLYING PENDING COMMIT (R65)
  ⟨0xb0004, [], .whole, [⟨31, 31, .ro, 1, []⟩, ⟨15, 0, .ro, 0, []⟩]⟩, -- UW_STATUS: LOCKED ARMED (R378)
  ⟨0xb0008, [], .whole, [⟨15, 0, .wo, 0, []⟩]⟩, -- UW_DISARM: RULES (R380)
  ⟨0xb0100, [(16, 0x4)], .whole, [⟨31, 0, .ro, 0, []⟩]⟩ -- UW_FIRED: COUNT (R380)
  ]

/-- The register rows of the Undertow block. -/
def regRows11 : List RegRow := regRows11_0

/-- Security mailbox block (0xc), part 0. -/
def regRows12_0 : List RegRow := [
  ⟨0xc0000, [], .whole, [⟨31, 24, .ro, 0, []⟩, ⟨23, 16, .ro, 0, []⟩, ⟨9, 8, .ro, 0, []⟩, ⟨7, 0, .ro, 0, []⟩]⟩, -- SEC_BOOT_STATUS: FAIL_COMP FAIL_REASON BOOT_SLOT COPY_B (R383)
  ⟨0xc0004, [], .whole, [⟨21, 16, .ro, 0, []⟩, ⟨8, 8, .ro, 0, []⟩, ⟨7, 0, .ro, 0, []⟩]⟩, -- SEC_FUSES: SVN LAB_FUSE_OPEN KEY_SLOTS (R381)
  ⟨0xc0008, [], .whole, [⟨10, 8, .ro, 0, []⟩, ⟨6, 4, .ro, 0, []⟩, ⟨1, 1, .ro, 0, []⟩, ⟨0, 0, .ro, 0, []⟩]⟩, -- SEC_STATE: UNLOCK_FAILS DEBUG_MASK DEBUG_UNLOCKED LAB_MODE (R391)
  ⟨0xc0010, [], .whole, [⟨31, 31, .w1s, 0, []⟩, ⟨7, 0, .rw, 0, []⟩]⟩, -- SEC_MBOX_CMD: GO OP (R390)
  ⟨0xc0018, [], .lo, [⟨31, 8, .rw, 0, []⟩]⟩, -- SEC_MBOX_BUF_LO: BASE (R390)
  ⟨0xc001c, [], .hi, [⟨15, 0, .rw, 0, []⟩]⟩, -- SEC_MBOX_BUF_HI: BASE (R390)
  ⟨0xc0020, [], .whole, [⟨12, 0, .rw, 0, []⟩]⟩, -- SEC_MBOX_LEN: BYTES (R390)
  ⟨0xc0024, [], .whole, [⟨28, 16, .ro, 0, []⟩, ⟨2, 0, .ro, 0, []⟩]⟩, -- SEC_MBOX_STATUS: OUT_BYTES RESULT (R390)
  ⟨0xc0028, [], .whole, [⟨3, 3, .w1c, 0, []⟩, ⟨2, 2, .w1c, 0, []⟩, ⟨1, 1, .w1c, 0, []⟩, ⟨0, 0, .w1c, 0, []⟩]⟩ -- SEC_EVENT: LOG_OVF REVOKED DEBUG_UNLOCKED MBOX_DONE (R390)
  ]

/-- The register rows of the Security mailbox block. -/
def regRows12 : List RegRow := regRows12_0

/-- Skerry block (0xd), part 0. -/
def regRows13_0 : List RegRow := [
  ⟨0xd0000, [], .whole, [⟨2, 2, .ro, 0, []⟩, ⟨1, 1, .ro, 0, []⟩, ⟨0, 0, .w1s, 0, []⟩]⟩, -- SKERRY_COMMIT: APPLYING PENDING COMMIT (R65)
  ⟨0xd0004, [], .whole, [⟨2, 0, .ro, 0, []⟩]⟩, -- SKERRY_STATUS: STATE (R395)
  ⟨0xd0010, [], .lo, [⟨31, 8, .rws, 0, []⟩]⟩, -- PGROUP_TABLE_LO: BASE (R255)
  ⟨0xd0014, [], .hi, [⟨15, 0, .rws, 0, []⟩]⟩, -- PGROUP_TABLE_HI: BASE (R255)
  ⟨0xd0018, [], .whole, [⟨12, 0, .rws, 0, [(0, 4096)]⟩]⟩, -- PGROUP_ENTRIES: ENTRIES (R255)
  ⟨0xd0020, [], .whole, [⟨11, 8, .rws, 0xf, [(0, 8), (15, 15)]⟩, ⟨7, 4, .rws, 0xf, [(0, 8), (15, 15)]⟩, ⟨0, 0, .rws, 0, []⟩]⟩, -- SKERRY_ECC: ERASE1 ERASE0 MODE (R254)
  ⟨0xd0024, [], .whole, [⟨31, 0, .cnt, 0, []⟩]⟩, -- SKERRY_CE: COUNT (R254)
  ⟨0xd0028, [], .whole, [⟨31, 0, .cnt, 0, []⟩]⟩, -- SKERRY_UE: COUNT (R254)
  ⟨0xd0030, [], .lo, [⟨31, 0, .ro, 0, []⟩]⟩, -- UPDATE_PARAMS_LO: COUNT (R265)
  ⟨0xd0034, [], .hi, [⟨31, 0, .ro, 0, []⟩]⟩, -- UPDATE_PARAMS_HI: COUNT (R265)
  ⟨0xd0040, [], .whole, [⟨1, 0, .rws, 2, [(2, 3)]⟩]⟩, -- TIDE_SLOTS: COUNT (R225)
  ⟨0xd0044, [], .whole, [⟨31, 16, .ro, 0, []⟩, ⟨15, 0, .ro, 0, []⟩]⟩, -- TIDE_WAITS: UPDATES READERS (R225)
  ⟨0xd0048, [], .whole, [⟨31, 31, .w1c, 0, []⟩, ⟨30, 30, .w1c, 0, []⟩]⟩, -- TIDE_EVENT: SLOT_WAIT UNAVAILABLE (R223)
  ⟨0xd0080, [(128, 0x4)], .whole, [⟨31, 0, .ro, 0, []⟩]⟩ -- PGROUP_LOADED: LOADED (R255)
  ]

/-- The register rows of the Skerry block. -/
def regRows13 : List RegRow := regRows13_0

/-- Model slots block (0xe), part 0. -/
def regRows14_0 : List RegRow := [
  ⟨0xe0000, [], .lo, [⟨31, 12, .rws, 0, []⟩]⟩, -- SLOT_TABLE_LO: BASE (R61)
  ⟨0xe0004, [], .hi, [⟨15, 0, .rws, 0, []⟩]⟩, -- SLOT_TABLE_HI: BASE (R61)
  ⟨0xe0008, [], .lo, [⟨31, 0, .ro, 0, []⟩]⟩, -- SLOT_LOADED_LO: LOADED (R61)
  ⟨0xe000c, [], .hi, [⟨31, 0, .ro, 0, []⟩]⟩, -- SLOT_LOADED_HI: LOADED (R61)
  ⟨0xe0010, [], .whole, [⟨2, 2, .ro, 0, []⟩, ⟨1, 1, .ro, 0, []⟩, ⟨0, 0, .w1s, 0, []⟩]⟩ -- SLOTS_COMMIT: APPLYING PENDING COMMIT (R65)
  ]

/-- The register rows of the Model slots block. -/
def regRows14 : List RegRow := regRows14_0

/-- Event counters block (0xf), part 0. -/
def regRows15_0 : List RegRow := [
  ⟨0xf0000, [(4096, 0x8)], .whole, [⟨31, 0, .rw, 0, []⟩]⟩, -- EVC_VALUE: VALUE (R46)
  ⟨0xf0004, [(4096, 0x8)], .whole, [⟨31, 0, .wo, 0, []⟩]⟩, -- EVC_ADD: ADD (R45)
  ⟨0xf8000, [(64, 0x8)], .whole, [⟨31, 31, .rw, 0, []⟩, ⟨17, 16, .rw, 0, [(1, 2)]⟩, ⟨11, 0, .rw, 0, []⟩]⟩, -- EVC_WATCH_CFG: EN MODE COUNTER (R45)
  ⟨0xf8004, [(64, 0x8)], .whole, [⟨31, 0, .rw, 0, []⟩]⟩ -- EVC_WATCH_THRESH: THRESHOLD (R45)
  ]

/-- The register rows of the Event counters block. -/
def regRows15 : List RegRow := regRows15_0

/-- MSI-X table and pending-bit array block (0x10), part 0. -/
def regRows16_0 : List RegRow := [
  ⟨0x100000, [(64, 0x10)], .whole, [⟨31, 0, .rw, 0, []⟩]⟩, -- MSIX_ADDR_LO: ADDR (R324)
  ⟨0x100004, [(64, 0x10)], .whole, [⟨31, 0, .rw, 0, []⟩]⟩, -- MSIX_ADDR_HI: ADDR (R324)
  ⟨0x100008, [(64, 0x10)], .whole, [⟨31, 0, .rw, 0, []⟩]⟩, -- MSIX_DATA: DATA (R324)
  ⟨0x10000c, [(64, 0x10)], .whole, [⟨0, 0, .rw, 1, []⟩]⟩, -- MSIX_CTRL: MASK (R324)
  ⟨0x101000, [(2, 0x4)], .whole, [⟨31, 0, .ro, 0, []⟩]⟩ -- MSIX_PBA: PENDING (R324)
  ]

/-- The register rows of the MSI-X table and pending-bit array block. -/
def regRows16 : List RegRow := regRows16_0

/-- The rows of block b; block 16 stands for offsets from 0x10_0000. -/
def regRowsOf : Nat → List RegRow
  | 0 => regRows0
  | 1 => regRows1
  | 2 => regRows2
  | 3 => regRows3
  | 4 => regRows4
  | 5 => regRows5
  | 6 => regRows6
  | 7 => regRows7
  | 8 => regRows8
  | 9 => regRows9
  | 10 => regRows10
  | 11 => regRows11
  | 12 => regRows12
  | 13 => regRows13
  | 14 => regRows14
  | 15 => regRows15
  | 16 => regRows16
  | _ => []

/-! ## Offsets by name -/

abbrev Reg.DEV_ID : Nat := 0x0
abbrev Reg.REV_ID : Nat := 0x4
abbrev Reg.CAPS0 : Nat := 0x8
abbrev Reg.CAPS1 : Nat := 0xc
abbrev Reg.SERIAL_LO : Nat := 0x10
abbrev Reg.SERIAL_HI : Nat := 0x14
abbrev Reg.BAY_ENABLE_MASK : Nat := 0x18
abbrev Reg.BOOT_STATUS : Nat := 0x1c
abbrev Reg.RESET_CTRL : Nat := 0x20
abbrev Reg.TILE_MAP (n : Nat) : Nat := 0x100 + 0x4 * n
abbrev Reg.SPARE_STATE (n : Nat) : Nat := 0x900 + 0x4 * n
abbrev Reg.RING_BASE_LO (n : Nat) : Nat := 0x10000 + 0x100 * n
abbrev Reg.RING_BASE_HI (n : Nat) : Nat := 0x10004 + 0x100 * n
abbrev Reg.RING_SIZE (n : Nat) : Nat := 0x10008 + 0x100 * n
abbrev Reg.RING_PRIO (n : Nat) : Nat := 0x1000c + 0x100 * n
abbrev Reg.RING_HEAD (n : Nat) : Nat := 0x10010 + 0x100 * n
abbrev Reg.RING_TAIL (n : Nat) : Nat := 0x10014 + 0x100 * n
abbrev Reg.CPL_BASE_LO (n : Nat) : Nat := 0x10018 + 0x100 * n
abbrev Reg.CPL_BASE_HI (n : Nat) : Nat := 0x1001c + 0x100 * n
abbrev Reg.CPL_SIZE (n : Nat) : Nat := 0x10020 + 0x100 * n
abbrev Reg.CPL_HEAD (n : Nat) : Nat := 0x10024 + 0x100 * n
abbrev Reg.CPL_TAIL (n : Nat) : Nat := 0x10028 + 0x100 * n
abbrev Reg.RING_STATUS (n : Nat) : Nat := 0x1002c + 0x100 * n
abbrev Reg.RING_COMMIT (n : Nat) : Nat := 0x10030 + 0x100 * n
abbrev Reg.CMD_TAGS_IN_FLIGHT : Nat := 0x11000
abbrev Reg.CMD_URGENT_RESERVE : Nat := 0x11004
abbrev Reg.CMD_TIMEOUT_MIN : Nat := 0x11008
abbrev Reg.CMD_STALL_COUNT : Nat := 0x1100c
abbrev Reg.SLOT_ACTIVE (n : Nat) : Nat := 0x11010 + 0x4 * n
abbrev Reg.IRQ_GLOBAL_ENABLE : Nat := 0x20000
abbrev Reg.IRQ_GROUP_SPLIT : Nat := 0x20004
abbrev Reg.IRQ_COMMIT : Nat := 0x20008
abbrev Reg.IRQ_CLAIM_HOST : Nat := 0x20010
abbrev Reg.IRQ_COMPLETE_HOST : Nat := 0x20014
abbrev Reg.IRQ_CLAIM_MGMT : Nat := 0x20018
abbrev Reg.IRQ_COMPLETE_MGMT : Nat := 0x2001c
abbrev Reg.IRQ_STATUS : Nat := 0x20020
abbrev Reg.IRQ_SRC_CFG (n : Nat) : Nat := 0x21000 + 0x4 * n
abbrev Reg.IRQ_PENDING (n : Nat) : Nat := 0x22000 + 0x4 * n
abbrev Reg.IRQ_ACTIVE (n : Nat) : Nat := 0x22100 + 0x4 * n
abbrev Reg.VEC_COAL (n : Nat) : Nat := 0x23000 + 0x8 * n
abbrev Reg.VEC_COAL_STATUS (n : Nat) : Nat := 0x23004 + 0x8 * n
abbrev Reg.TIMEBASE_LO : Nat := 0x30000
abbrev Reg.TIMEBASE_HI : Nat := 0x30004
abbrev Reg.TELEM_PERIOD : Nat := 0x30010
abbrev Reg.TELEM_COMMIT : Nat := 0x30014
abbrev Reg.TELEM_RING_LO : Nat := 0x30018
abbrev Reg.TELEM_RING_HI : Nat := 0x3001c
abbrev Reg.TELEM_RING_SIZE : Nat := 0x30020
abbrev Reg.TELEM_HEAD : Nat := 0x30024
abbrev Reg.MGMT_STATUS : Nat := 0x30030
abbrev Reg.MGMT_POLICY : Nat := 0x30034
abbrev Reg.MGMT_BMC_CEILING : Nat := 0x30038
abbrev Reg.MGMT_EVENT : Nat := 0x3003c
abbrev Reg.RATE_BAY (n : Nat) : Nat := 0x30100 + 0x4 * n
abbrev Reg.PWR_CEILING : Nat := 0x40000
abbrev Reg.PWR_NOW : Nat := 0x40004
abbrev Reg.PWR_COMMIT : Nat := 0x40008
abbrev Reg.GOV_TARGET : Nat := 0x4000c
abbrev Reg.STAGE_INTERVAL : Nat := 0x40010
abbrev Reg.GATE_CFG : Nat := 0x40014
abbrev Reg.DROOP_CFG : Nat := 0x40018
abbrev Reg.FLOOR_STATUS : Nat := 0x40020
abbrev Reg.FLOOR_TIME : Nat := 0x40024
abbrev Reg.POWER_EVENT : Nat := 0x40028
abbrev Reg.DROOP_EVENTS : Nat := 0x4002c
abbrev Reg.BAY_VDD (n : Nat) : Nat := 0x40100 + 0x4 * n
abbrev Reg.TILE_GATED (n : Nat) : Nat := 0x40200 + 0x4 * n
abbrev Reg.PLACE_WIN_BASE_LO (n : Nat) : Nat := 0x50000 + 0x20 * n
abbrev Reg.PLACE_WIN_BASE_HI (n : Nat) : Nat := 0x50004 + 0x20 * n
abbrev Reg.PLACE_WIN_LIMIT_LO (n : Nat) : Nat := 0x50008 + 0x20 * n
abbrev Reg.PLACE_WIN_LIMIT_HI (n : Nat) : Nat := 0x5000c + 0x20 * n
abbrev Reg.PLACE_WIN_PBASE_LO (n : Nat) : Nat := 0x50010 + 0x20 * n
abbrev Reg.PLACE_WIN_PBASE_HI (n : Nat) : Nat := 0x50014 + 0x20 * n
abbrev Reg.PLACE_WIN_MODE (n : Nat) : Nat := 0x50018 + 0x20 * n
abbrev Reg.PLACE_WIN_STACK (n : Nat) : Nat := 0x5001c + 0x20 * n
abbrev Reg.MEM_COMMIT : Nat := 0x50400
abbrev Reg.MEM_WIN_STATUS : Nat := 0x50404
abbrev Reg.HBM_ECC_MODE : Nat := 0x50410
abbrev Reg.HBM_REPAIR_POLICY : Nat := 0x50414
abbrev Reg.SCRUB_RATE : Nat := 0x50418
abbrev Reg.HBM_SPEED : Nat := 0x5041c
abbrev Reg.HBM_HOLD : Nat := 0x50420
abbrev Reg.HOST_BAR2_MAP_LO : Nat := 0x50440
abbrev Reg.HOST_BAR2_MAP_HI : Nat := 0x50444
abbrev Reg.HOST_LINK_STATUS : Nat := 0x50448
abbrev Reg.HOST_EVENT : Nat := 0x5044c
abbrev Reg.HOST_BAR2_FAULTS : Nat := 0x50450
abbrev Reg.STACK_STATE (n : Nat) : Nat := 0x50800 + 0x40 * n
abbrev Reg.STACK_CHANNELS (n : Nat) : Nat := 0x50804 + 0x40 * n
abbrev Reg.STACK_CAPACITY (n : Nat) : Nat := 0x50808 + 0x40 * n
abbrev Reg.STACK_REPAIR (n : Nat) : Nat := 0x5080c + 0x40 * n
abbrev Reg.STACK_CE (n : Nat) : Nat := 0x50810 + 0x40 * n
abbrev Reg.STACK_UE (n : Nat) : Nat := 0x50814 + 0x40 * n
abbrev Reg.STACK_SCRUB_PASSES (n : Nat) : Nat := 0x50818 + 0x40 * n
abbrev Reg.STACK_THERMAL_EVENTS (n : Nat) : Nat := 0x5081c + 0x40 * n
abbrev Reg.HBM_PHY_TUNE (n : Nat) : Nat := 0x50c00 + 0x4 * n
abbrev Reg.PORT_CTRL (n : Nat) : Nat := 0x60000 + 0x1000 * n
abbrev Reg.PORT_STATUS (n : Nat) : Nat := 0x60004 + 0x1000 * n
abbrev Reg.LANE_MAP (n : Nat) : Nat := 0x60008 + 0x1000 * n
abbrev Reg.TC_CREDITS (n : Nat) : Nat := 0x6000c + 0x1000 * n
abbrev Reg.BREAKWATER_RATE (n : Nat) : Nat := 0x60010 + 0x1000 * n
abbrev Reg.REPLAY_LIMIT (n : Nat) : Nat := 0x60014 + 0x1000 * n
abbrev Reg.PORT_EVENT (n : Nat) : Nat := 0x60018 + 0x1000 * n
abbrev Reg.FEC_CORR_SYM (n : Nat) : Nat := 0x60020 + 0x1000 * n
abbrev Reg.FEC_UNCORR (n : Nat) : Nat := 0x60024 + 0x1000 * n
abbrev Reg.CRC_ERR (n : Nat) : Nat := 0x60028 + 0x1000 * n
abbrev Reg.REPLAYS (n : Nat) : Nat := 0x6002c + 0x1000 * n
abbrev Reg.RETRAINS (n : Nat) : Nat := 0x60030 + 0x1000 * n
abbrev Reg.BREAKWATER_WAITS (n : Nat) : Nat := 0x60034 + 0x1000 * n
abbrev Reg.TC0_TRANSIT_OVER (n : Nat) : Nat := 0x60038 + 0x1000 * n
abbrev Reg.PROTO_ERR (n : Nat) : Nat := 0x6003c + 0x1000 * n
abbrev Reg.TX_FLITS_LO (n : Nat) : Nat := 0x60040 + 0x1000 * n
abbrev Reg.TX_FLITS_HI (n : Nat) : Nat := 0x60044 + 0x1000 * n
abbrev Reg.RX_FLITS_LO (n : Nat) : Nat := 0x60048 + 0x1000 * n
abbrev Reg.RX_FLITS_HI (n : Nat) : Nat := 0x6004c + 0x1000 * n
abbrev Reg.FAB_COMMIT : Nat := 0x68000
abbrev Reg.FAB_MODULE_ID : Nat := 0x68004
abbrev Reg.FAB_ROUTE_CFG : Nat := 0x68008
abbrev Reg.FAB_TELEM : Nat := 0x6800c
abbrev Reg.RELAY_CTRL : Nat := 0x68010
abbrev Reg.RELAY_STATUS : Nat := 0x68014
abbrev Reg.FAB_NOROUTE : Nat := 0x68018
abbrev Reg.RELAY_DATA (n : Nat) : Nat := 0x68100 + 0x4 * n
abbrev Reg.TELEM_RX_SEQ (n : Nat) : Nat := 0x69000 + 0x100 * n
abbrev Reg.TELEM_RX_SRC (n : Nat) : Nat := 0x69004 + 0x100 * n
abbrev Reg.TELEM_RX_TIMESTAMP_LO (n : Nat) : Nat := 0x69008 + 0x100 * n
abbrev Reg.TELEM_RX_TIMESTAMP_HI (n : Nat) : Nat := 0x6900c + 0x100 * n
abbrev Reg.TELEM_RX_PAYLOAD (n : Nat) (i : Nat) : Nat := 0x69010 + 0x100 * n + 0x4 * i
abbrev Reg.ROUTE_TABLE (n : Nat) : Nat := 0x6c000 + 0x4 * n
abbrev Reg.COLL_COMMIT : Nat := 0x70000
abbrev Reg.COLL_DEADLINE : Nat := 0x70004
abbrev Reg.COLL_NONFINITE_POLICY : Nat := 0x70008
abbrev Reg.COLL_MISSING_POLICY : Nat := 0x7000c
abbrev Reg.FS48_GUARD_BITS : Nat := 0x70010
abbrev Reg.PAIR_PORT_CFG : Nat := 0x70014
abbrev Reg.COLL_GROUP_TABLE_LO : Nat := 0x70020
abbrev Reg.COLL_GROUP_TABLE_HI : Nat := 0x70024
abbrev Reg.COLL_GROUP_ENTRIES : Nat := 0x70028
abbrev Reg.COLL_BUF_LO : Nat := 0x70030
abbrev Reg.COLL_BUF_HI : Nat := 0x70034
abbrev Reg.COLL_LATE_CTR : Nat := 0x70038
abbrev Reg.COLL_STATUS : Nat := 0x70040
abbrev Reg.COLL_EVENT : Nat := 0x70044
abbrev Reg.COLL_DUP_DISCARDS : Nat := 0x70050
abbrev Reg.COLL_LATE_DISCARDS : Nat := 0x70054
abbrev Reg.COLL_REREDUCE : Nat := 0x70058
abbrev Reg.COLL_GROUP_LOADED_LO : Nat := 0x70060
abbrev Reg.COLL_GROUP_LOADED_HI : Nat := 0x70064
abbrev Reg.GRAPH_COMMIT : Nat := 0x80000
abbrev Reg.DEDUP_CAP : Nat := 0x80100
abbrev Reg.SAMPLE_CACHE_CFG : Nat := 0x80104
abbrev Reg.GRAPH_TABLE_LO : Nat := 0x80108
abbrev Reg.GRAPH_TABLE_HI : Nat := 0x8010c
abbrev Reg.GRAPH_TABLE_ENTRIES : Nat := 0x80110
abbrev Reg.GRAPH_LOADED (n : Nat) : Nat := 0x80120 + 0x4 * n
abbrev Reg.SAMPLE_BAY_CTR_EDGES_LO (n : Nat) : Nat := 0x80200 + 0x10 * n
abbrev Reg.SAMPLE_BAY_CTR_EDGES_HI (n : Nat) : Nat := 0x80204 + 0x10 * n
abbrev Reg.SAMPLE_BAY_CTR_ROW_HITS (n : Nat) : Nat := 0x80208 + 0x10 * n
abbrev Reg.SAMPLE_BAY_CTR_ROW_MISSES (n : Nat) : Nat := 0x8020c + 0x10 * n
abbrev Reg.HUB_SPLIT : Nat := 0x80300
abbrev Reg.MIGRATE_GRACE : Nat := 0x80304
abbrev Reg.HOTROW_THRESH : Nat := 0x80308
abbrev Reg.HOTROW_CFG : Nat := 0x8030c
abbrev Reg.HOTROW_SNAP_LO : Nat := 0x80310
abbrev Reg.HOTROW_SNAP_HI : Nat := 0x80314
abbrev Reg.TABLE_TABLE_LO : Nat := 0x80318
abbrev Reg.TABLE_TABLE_HI : Nat := 0x8031c
abbrev Reg.TABLE_ENTRIES : Nat := 0x80320
abbrev Reg.MIGRATE_STATUS : Nat := 0x80324
abbrev Reg.TABLE_LOADED (n : Nat) : Nat := 0x80340 + 0x4 * n
abbrev Reg.GATHER_BAY_CTR_LOCAL_ROWS_LO (n : Nat) : Nat := 0x80400 + 0x20 * n
abbrev Reg.GATHER_BAY_CTR_LOCAL_ROWS_HI (n : Nat) : Nat := 0x80404 + 0x20 * n
abbrev Reg.GATHER_BAY_CTR_SERVED_REMOTE_LO (n : Nat) : Nat := 0x80408 + 0x20 * n
abbrev Reg.GATHER_BAY_CTR_SERVED_REMOTE_HI (n : Nat) : Nat := 0x8040c + 0x20 * n
abbrev Reg.GATHER_BAY_CTR_REQUESTED_REMOTE_LO (n : Nat) : Nat := 0x80410 + 0x20 * n
abbrev Reg.GATHER_BAY_CTR_REQUESTED_REMOTE_HI (n : Nat) : Nat := 0x80414 + 0x20 * n
abbrev Reg.GATHER_BAY_CTR_GRANULES_LO (n : Nat) : Nat := 0x80418 + 0x20 * n
abbrev Reg.GATHER_BAY_CTR_GRANULES_HI (n : Nat) : Nat := 0x8041c + 0x20 * n
abbrev Reg.ROUND_MODE : Nat := 0x90000
abbrev Reg.SR_ENABLE : Nat := 0x90004
abbrev Reg.NUM_COMMIT : Nat := 0x90008
abbrev Reg.KAT_KEY (n : Nat) : Nat := 0x90040 + 0x4 * n
abbrev Reg.KAT_CTR (n : Nat) : Nat := 0x90048 + 0x4 * n
abbrev Reg.KAT_OUT (n : Nat) : Nat := 0x90058 + 0x4 * n
abbrev Reg.KAT_CTRL : Nat := 0x90068
abbrev Reg.ESCAPE_ENABLE : Nat := 0x90100
abbrev Reg.PW_THRESH (n : Nat) : Nat := 0x90110 + 0x4 * n
abbrev Reg.PW_TABLE_LO : Nat := 0x90120
abbrev Reg.PW_TABLE_HI : Nat := 0x90124
abbrev Reg.PW_CTRL : Nat := 0x90128
abbrev Reg.PW_EVENT : Nat := 0x9012c
abbrev Reg.PW_DEMOTE : Nat := 0x90130
abbrev Reg.PRED_MODE : Nat := 0x90140
abbrev Reg.SPARSE_SKIPS_LO : Nat := 0x90150
abbrev Reg.SPARSE_SKIPS_HI : Nat := 0x90154
abbrev Reg.PRED_SKIPS_LO : Nat := 0x90158
abbrev Reg.PRED_SKIPS_HI : Nat := 0x9015c
abbrev Reg.PRED_MISSES_LO : Nat := 0x90160
abbrev Reg.PRED_MISSES_HI : Nat := 0x90164
abbrev Reg.PRED_SHADOW_LO : Nat := 0x90168
abbrev Reg.PRED_SHADOW_HI : Nat := 0x9016c
abbrev Reg.ARRAY_BAY_CTR_FLOOD_STEPS_LO (n : Nat) : Nat := 0x90200 + 0x20 * n
abbrev Reg.ARRAY_BAY_CTR_FLOOD_STEPS_HI (n : Nat) : Nat := 0x90204 + 0x20 * n
abbrev Reg.ARRAY_BAY_CTR_EBB_D_STEPS_LO (n : Nat) : Nat := 0x90208 + 0x20 * n
abbrev Reg.ARRAY_BAY_CTR_EBB_D_STEPS_HI (n : Nat) : Nat := 0x9020c + 0x20 * n
abbrev Reg.ARRAY_BAY_CTR_EBB_W_STEPS_LO (n : Nat) : Nat := 0x90210 + 0x20 * n
abbrev Reg.ARRAY_BAY_CTR_EBB_W_STEPS_HI (n : Nat) : Nat := 0x90214 + 0x20 * n
abbrev Reg.ARRAY_BAY_CTR_FEED_STALLS_LO (n : Nat) : Nat := 0x90218 + 0x20 * n
abbrev Reg.ARRAY_BAY_CTR_FEED_STALLS_HI (n : Nat) : Nat := 0x9021c + 0x20 * n
abbrev Reg.VEC_BAY_CTR_STEPS_LO (n : Nat) : Nat := 0x90300 + 0x10 * n
abbrev Reg.VEC_BAY_CTR_STEPS_HI (n : Nat) : Nat := 0x90304 + 0x10 * n
abbrev Reg.VEC_BAY_CTR_INSTRS (n : Nat) : Nat := 0x90308 + 0x10 * n
abbrev Reg.VEC_BAY_CTR_LOADS (n : Nat) : Nat := 0x9030c + 0x10 * n
abbrev Reg.RAS_COMMIT : Nat := 0xa0000
abbrev Reg.ERRLOG_BASE_LO : Nat := 0xa0010
abbrev Reg.ERRLOG_BASE_HI : Nat := 0xa0014
abbrev Reg.ERRLOG_SIZE : Nat := 0xa0018
abbrev Reg.ERRLOG_TAIL : Nat := 0xa001c
abbrev Reg.ERRLOG_HEAD : Nat := 0xa0020
abbrev Reg.ERRLOG_DROPPED : Nat := 0xa0024
abbrev Reg.REPLAY_LOG_LO : Nat := 0xa0030
abbrev Reg.REPLAY_LOG_HI : Nat := 0xa0034
abbrev Reg.REPLAY_LOG_SIZE : Nat := 0xa0038
abbrev Reg.RAS_POLICY : Nat := 0xa0040
abbrev Reg.RAS_EVENT : Nat := 0xa0050
abbrev Reg.RAS_REPLAYS : Nat := 0xa0060
abbrev Reg.RAS_REBUILDS : Nat := 0xa0064
abbrev Reg.RAS_TILE_REMAPS : Nat := 0xa0068
abbrev Reg.UW_COMMIT : Nat := 0xb0000
abbrev Reg.UW_STATUS : Nat := 0xb0004
abbrev Reg.UW_DISARM : Nat := 0xb0008
abbrev Reg.UW_FIRED (n : Nat) : Nat := 0xb0100 + 0x4 * n
abbrev Reg.SEC_BOOT_STATUS : Nat := 0xc0000
abbrev Reg.SEC_FUSES : Nat := 0xc0004
abbrev Reg.SEC_STATE : Nat := 0xc0008
abbrev Reg.SEC_MBOX_CMD : Nat := 0xc0010
abbrev Reg.SEC_MBOX_BUF_LO : Nat := 0xc0018
abbrev Reg.SEC_MBOX_BUF_HI : Nat := 0xc001c
abbrev Reg.SEC_MBOX_LEN : Nat := 0xc0020
abbrev Reg.SEC_MBOX_STATUS : Nat := 0xc0024
abbrev Reg.SEC_EVENT : Nat := 0xc0028
abbrev Reg.SKERRY_COMMIT : Nat := 0xd0000
abbrev Reg.SKERRY_STATUS : Nat := 0xd0004
abbrev Reg.PGROUP_TABLE_LO : Nat := 0xd0010
abbrev Reg.PGROUP_TABLE_HI : Nat := 0xd0014
abbrev Reg.PGROUP_ENTRIES : Nat := 0xd0018
abbrev Reg.SKERRY_ECC : Nat := 0xd0020
abbrev Reg.SKERRY_CE : Nat := 0xd0024
abbrev Reg.SKERRY_UE : Nat := 0xd0028
abbrev Reg.UPDATE_PARAMS_LO : Nat := 0xd0030
abbrev Reg.UPDATE_PARAMS_HI : Nat := 0xd0034
abbrev Reg.TIDE_SLOTS : Nat := 0xd0040
abbrev Reg.TIDE_WAITS : Nat := 0xd0044
abbrev Reg.TIDE_EVENT : Nat := 0xd0048
abbrev Reg.PGROUP_LOADED (n : Nat) : Nat := 0xd0080 + 0x4 * n
abbrev Reg.SLOT_TABLE_LO : Nat := 0xe0000
abbrev Reg.SLOT_TABLE_HI : Nat := 0xe0004
abbrev Reg.SLOT_LOADED_LO : Nat := 0xe0008
abbrev Reg.SLOT_LOADED_HI : Nat := 0xe000c
abbrev Reg.SLOTS_COMMIT : Nat := 0xe0010
abbrev Reg.EVC_VALUE (n : Nat) : Nat := 0xf0000 + 0x8 * n
abbrev Reg.EVC_ADD (n : Nat) : Nat := 0xf0004 + 0x8 * n
abbrev Reg.EVC_WATCH_CFG (n : Nat) : Nat := 0xf8000 + 0x8 * n
abbrev Reg.EVC_WATCH_THRESH (n : Nat) : Nat := 0xf8004 + 0x8 * n
abbrev Reg.MSIX_ADDR_LO (n : Nat) : Nat := 0x100000 + 0x10 * n
abbrev Reg.MSIX_ADDR_HI (n : Nat) : Nat := 0x100004 + 0x10 * n
abbrev Reg.MSIX_DATA (n : Nat) : Nat := 0x100008 + 0x10 * n
abbrev Reg.MSIX_CTRL (n : Nat) : Nat := 0x10000c + 0x10 * n
abbrev Reg.MSIX_PBA (n : Nat) : Nat := 0x101000 + 0x4 * n

end Sys2Proof.Machine
end

