-- ==== Sys2Proof/Machine/Sparse.lean ====
section
/-! DEFINITION. Sparse data by key in one canonical form: keys strictly rising, and no entry equal to what an unlisted key
reads as. Memory, the register file and the codeword error patterns are held so. -/

namespace Sys2Proof.Machine

/-- What key `k` holds: its entry, or the value `d k` of an unlisted key. -/
def Sparse.get {β : Type} (d : Nat → β) : List (Nat × β) → Nat → β
  | [], k => d k
  | (a, v) :: l, k => if k = a then v else Sparse.get d l k

/-- The list without the entries of `k`. -/
def Sparse.erase {β : Type} (l : List (Nat × β)) (k : Nat) : List (Nat × β) := l.filter (fun p => decide (p.1 ≠ k))

/-- A list that does not list `k`, with `k` listed in its place: behind the entries of smaller keys. -/
def Sparse.place {β : Type} (l : List (Nat × β)) (k : Nat) (v : β) : List (Nat × β) :=
  l.takeWhile (fun p => decide (p.1 < k)) ++ (k, v) :: l.dropWhile (fun p => decide (p.1 < k))

/-- A write of `v` at `k`: it lists the key, or removes it where `v` is what an unlisted key reads as. -/
def Sparse.set {β : Type} [DecidableEq β] (d : Nat → β) (l : List (Nat × β)) (k : Nat) (v : β) : List (Nat × β) :=
  if v = d k then Sparse.erase l k else Sparse.place (Sparse.erase l k) k v

/-- The canonical form, for the keys from `low` on. -/
def Sparse.wfFrom {β : Type} [DecidableEq β] (d : Nat → β) : Nat → List (Nat × β) → Bool
  | _, [] => true
  | low, (a, v) :: l => decide (low ≤ a) && (decide (v ≠ d a) && Sparse.wfFrom d (a + 1) l)

/-- The canonical form: keys strictly rising, no entry equal to what an unlisted key reads as. -/
def Sparse.wf {β : Type} [DecidableEq β] (d : Nat → β) (l : List (Nat × β)) : Bool := Sparse.wfFrom d 0 l

end Sys2Proof.Machine
end

