-- ==== Sys2Proof/Machine/Regs.lean ====
section
/-! DEFINITION. What the register tables say of one offset: which row and instance it is, its value after power-on reset,
and what a write of each access type does (R9 to R15). -/

namespace Sys2Proof.Machine

/-- The instance of a repeated register at distance `d` from the first, or none where no instance lies there. -/
def instanceAt : List (Nat × Nat) → Nat → Option Nat
  | [], d => if d = 0 then some 0 else none
  | (count, stride) :: rest, d =>
    if d / stride < count then
      (instanceAt rest (d % stride)).map (fun i => d / stride + count * i)
    else none

/-- The row that lists the offset, with the instance number. -/
def findIn : List RegRow → Nat → Option (RegRow × Nat)
  | [], _ => none
  | r :: rs, off =>
    if r.off ≤ off then
      match instanceAt r.dims (off - r.off) with
      | some i => some (r, i)
      | none => findIn rs off
    else findIn rs off

/-- The row and instance of a BAR0 offset, none where the offset is reserved (R318, R413). -/
def findReg (off : Nat) : Option (RegRow × Nat) := findIn (regRowsOf (off / 0x10000)) off

/-- The block of an offset (R413); 16 for the MSI-X structures. -/
def blockOf (off : Nat) : Nat := off / 0x10000

/-- The value of a field list with every field at its reset value. -/
def fieldsReset : List Field → Nat
  | [] => 0
  | f :: fs => (f.reset <<< f.lo) ||| fieldsReset fs

/-- Whether an interrupt ID names a source (R328, R361, R375 and the register sections of 17 and 20). -/
def srcAssigned (id : Nat) : Bool :=
  id < 32 || (64 ≤ id && id < 138) || (248 ≤ id && id < 252) ||
  (256 ≤ id && id < 320 && id % 8 ≠ 7) || (320 ≤ id && id < 327) || (336 ≤ id && id < 368) ||
  (384 ≤ id && id < 388) || (432 ≤ id && id < 436)

/-- Whether a source is of the level kind (R328). -/
def srcLevel (id : Nat) : Bool := 128 ≤ id

/-- The resets that depend on the instance or on what silicon and fuses fix; the row's own reset otherwise. -/
def resetByOffset (off i : Nat) (plain : Nat) : Nat :=
  if off = Reg.SERIAL_LO then Config.serial.toNat % 2 ^ 32
  else if off = Reg.SERIAL_HI then Config.serial.toNat / 2 ^ 32
  else if 0x100 ≤ off && off < 0x900 then (i / 64) * 68 + i % 64
  else if 0x21000 ≤ off && off < 0x22000 then
    if srcAssigned i then (if srcLevel i then 0x40000080 else 0x80) else 0
  else if off = Reg.PLACE_WIN_LIMIT_LO 0 then 0xFFE00000
  else if off = Reg.PLACE_WIN_LIMIT_HI 0 then 0x8F
  else if off = Reg.PLACE_WIN_MODE 0 then 0x80000002
  else if blockOf off = 6 && off % 0x1000 = 0 && off < 0x68000 then
    0x10000000 ||| ((if i ≤ 5 then i else 6) <<< 8)
  else if off = Reg.PW_THRESH 0 then 0x00100000
  else if off = Reg.PW_THRESH 1 then 0x04000000
  else if off = Reg.PW_THRESH 2 then 0x00010000
  else plain

/-- The value of a register after power-on reset (the Reset columns); reserved offsets read 0 (R318). -/
def resetWord (off : Nat) : Word :=
  match findReg off with
  | none => 0
  | some (r, i) => BitVec.ofNat 32 (resetByOffset off i (fieldsReset r.fields))

/-- Whether a field may take the value `v` (R14). -/
def encodingOk (f : Field) (v : Nat) : Bool :=
  f.ok.isEmpty || f.ok.any (fun p => p.1 ≤ v && v ≤ p.2)

/-- A write of the bits of `v` into the fields of access type `t`; a reserved encoding leaves its field (R14). -/
def writeFields (t : Acc) : List Field → Word → Word → Word
  | [], old, _ => old
  | f :: fs, old, v =>
    let x := fld v f.hi f.lo
    writeFields t fs (if f.acc = t && encodingOk f x then setFld old f.hi f.lo x else old) v

/-- Whether a row has a field of an access type. -/
def hasAcc (t : Acc) (fs : List Field) : Bool := fs.any (fun f => f.acc = t)

/-- The bits of the fields of one access type. -/
def accMask (t : Acc) : List Field → Nat
  | [] => 0
  | f :: fs => (if f.acc = t then maskOf f.hi f.lo else 0) ||| accMask t fs

/-- The commit key of an offset: the ring number plus 16 in the ring part of the Command rings block, the block otherwise (R414). -/
def commitKey (off : Nat) : Nat :=
  if blockOf off = 1 && off % 0x10000 < 0x1000 then 16 + (off % 0x10000) / 0x100 else blockOf off

end Sys2Proof.Machine
end

