-- ==== Sys2Proof/Machine/State.lean ====
section
/-! DEFINITION. The state of the block as plain data, holding every piece of state the spec gives the module, the queue of
waiting commands, and the state right after power-on reset, before the boot of R394 has run. -/

namespace Sys2Proof.Machine

/-- No meaning of this model faults: every row of the table has an effect in the spec, and a row that comes where the spec
gives it no occasion changes nothing (log entry 2). The one constructor is raised by nobody (safe). -/
inductive Fault where
  /-- Raised by no meaning. Safe. -/
  | none
  deriving DecidableEq, Repr

/-- The reasons for which a command may be refused by the model. -/
inductive Refusal where
  /-- Raised by a dispatch arm whose row has no meaning yet; the string is the row's mnemonic. Safe: the model stops. -/
  | notModelled (mnemonic : String)
  deriving DecidableEq, Repr

/-- What the execution of a command left for its completion (R50): status, detail, engine, result word, notes. -/
structure Done where
  status : Nat
  detail : Nat
  engine : Nat
  result : Nat
  notes : Nat
  deriving DecidableEq, Repr

/-- One remote signal that a completing command has sent, until its end-to-end acknowledgement (R50, R288). -/
structure RemoteSignal where
  dest : Nat
  msg : Nat
  deriving DecidableEq, Repr

/-- What a dispatched command waits for before it can finish. -/
inductive Wait where
  /-- MATMUL or MATMUL_DGRAD waiting for its tide (R214, R215). -/
  | tide
  /-- UPDATE waiting for its turn: CURRENT = TIDE − 1, or an earlier UPDATE of the entry (R220). -/
  | turn
  /-- UPDATE waiting for a free version slot (R223). -/
  | slot
  /-- CHECKPOINT waiting for earlier UPDATEs (R266). -/
  | checkpoint
  /-- FENCE waiting for the earlier packets of its ring (R48). -/
  | fence
  /-- CONFIG_COMMIT: the keys whose sets it requested, those it must request again, and its result word (R415). -/
  | commit (mine again : List Nat) (result : Nat)
  /-- Messages sent for the command whose answers are outstanding. -/
  | remote
  /-- Operations held by the bay dispatcher because tile-engine queues are full (R53). -/
  | queueRoom
  /-- Operations held behind an earlier operation of their accumulator rows (R153). -/
  | serialised
  /-- Operations for gated tiles, which wake one after another (R355). -/
  | gated
  /-- A recovery of the uncorrectable word at a device address runs on the command's path (R366, R367, R369); `rows`: the place of a
  wait for row slots that it met. -/
  | recovery (address : Nat) (rows : Option (Nat × Nat))
  /-- A tide named by TIDE_RETIRE that still has readers (R222): slot, entry, tides named, retired so far, holds discarded. -/
  | retiring (slot entry : Nat) (tides : List Nat) (count holds : Nat)
  /-- A host request outstanding while the host link is down (R327). -/
  | host
  /-- A ROW_MIGRATE whose rows are not all released: the last SWITCH_TIDE, rows migrated, rows skipped (R111). -/
  | migration (tide moved skipped : Nat)
  /-- A ROW_MIGRATE beyond the bound of outstanding migrations (R53). -/
  | migrationBound
  /-- Rows wait for a free slot of their table: the place reached, and the elements skipped so far (R106, R263). -/
  | rows (done skipped : Nat)
  /-- A collective whose other members' parts are outstanding (R300, R313). -/
  | collective
  /-- SELF_TEST holding dispatch until the named bays are idle (R374). -/
  | bays (mask : Nat)
  deriving DecidableEq, Repr

/-- Where a tagged command stands. -/
inductive Phase where
  /-- Its counter conditions do not yet hold together (R43). -/
  | waiting
  /-- Ready, not yet dispatched. -/
  | ready
  /-- Dispatched and not finished. -/
  | running (w : Wait)
  /-- Executed; COMMAND_COMPLETE is due. -/
  | finished (o : Done)
  /-- Remote signals sent, acknowledgements outstanding (R50). -/
  | acks (o : Done) (left : List RemoteSignal)
  /-- Completed at the given time; the reply waits for its completion ring (R36, R429). -/
  | replyHeld (o : Done) (time : Nat)
  deriving DecidableEq, Repr

/-- A version slot that a command reads or will read (R217, R218): model slot, tide-table entry, and the version slot, or the
tide where it is not yet LIVE. -/
structure Reading where
  slot : Nat
  entry : Nat
  which : Nat
  deriving DecidableEq, Repr

/-- One tracking entry: a command that holds a tag (Bounds, R53). `seq` numbers it in the order of tagging, `disp` in the order of
dispatch; `prepared`: its checks and its tide or slot are settled, and its body has begun; `reruns`: the recoveries and corrected errors
it has met; `replays`: the times it, or part of it, was replayed; `policy`: RAS_POLICY as it stood when the command was dispatched, or
left a wait of R64 (R64); `kept`: the headers and descriptors read at dispatch, by address (R181, R185); `queued`: the engine queues that
its operations have entered, with the number of the entry (R53, R153). -/
structure Entry where
  tag : Nat
  ring : Nat
  pkt : List Byte
  slot : Nat
  remote : Bool
  start : Nat
  paused : Nat
  pauseFrom : Option Nat
  seq : Nat
  phase : Phase
  touched : Bool
  notes : Nat
  overlay : List (Nat × Byte)
  outs : List (Nat × Nat)
  ins : List (Nat × Nat)
  tide : Nat
  reads : List Reading
  readsLater : List Reading
  reruns : Nat
  answers : List (Ask × Answer)
  asked : List (Ask × Nat)
  disp : Nat
  prepared : Bool
  replays : Nat
  policy : Word
  kept : List (Nat × List Byte)
  queued : List (Nat × Nat)
  deriving DecidableEq, Repr

/-- A version-slot record of a tide-table entry; STATE: 0 FREE, 1 WRITING, 2 LIVE, 3 SUPERSEDED, 4 RETIRING. -/
structure VersionSlot where
  tide : Nat
  state : Nat
  holds : Nat
  readers : Nat
  deriving DecidableEq, Repr

/-- An entry of a live tide table (Tide tables). -/
structure TideEntry where
  regionBase : Nat
  regionBytes : Nat
  vstride : Nat
  kind : Nat
  ctrl : Nat
  current : Nat
  vslots : List VersionSlot
  deriving DecidableEq, Repr

/-- A loaded model slot (R61): its descriptor's 64 bytes and its live tide table (R210). -/
structure ModelSlot where
  slot : Nat
  desc : List Byte
  tides : List TideEntry
  deriving DecidableEq, Repr

/-- A descriptor held by the module since the commit that loaded it: its index and its bytes. -/
structure Desc where
  index : Nat
  bytes : List Byte
  deriving DecidableEq, Repr

/-- A source being served, with the target and group under which it was claimed (R329, Registers of 16). -/
structure ActiveSource where
  id : Nat
  target : IrqTarget
  group : Nat
  deriving DecidableEq, Repr

/-- One MSI-X message sent to the host (R324). -/
structure MsixMessage where
  vector : Nat
  address : Nat
  data : Nat
  deriving DecidableEq, Repr

/-- The interrupt controller's state beside its registers. -/
structure IrqState where
  active : List ActiveSource
  timers : List (Nat × Nat)
  sent : List MsixMessage
  deriving DecidableEq, Repr

/-- The PCI Express configuration state the spec refers to (R2, R316, R317, R319, R323 to R326): the identity; the largest payload and
read request in bytes; the completion timeout in microseconds and whether it is disabled; then the bits that rows change. -/
structure PciState where
  vendorId : BitVec 16
  deviceId : BitVec 16
  classCode : BitVec 24
  maxPayload : Nat
  maxReadRequest : Nat
  cplTimeoutUs : Nat
  cplTimeoutOff : Bool
  busMaster : Bool
  memorySpace : Bool
  msixEnable : Bool
  functionMask : Bool
  d3hot : Bool
  bar2Log2 : Nat
  deriving DecidableEq, Repr

/-- A requested commit not yet applied: its key (the block, or 16 + ring) and its set of words (R12, R65). -/
structure Commit where
  key : Nat
  set : List (Nat × Word)
  deriving DecidableEq, Repr

/-- A range of physical locations left undefined, with the number of the occasion. -/
structure Undef where
  lo : Nat
  hi : Nat
  seed : Nat
  deriving DecidableEq, Repr

/-- Corrected events or replays of one class and unit within one interval, until the interval's end (R376): the record's
fields and the number merged. -/
structure Merged where
  cls : Nat
  unit : Nat
  interval : Nat
  bytes : List Byte
  count : Nat
  deriving DecidableEq, Repr

/-- One valid record of the replay log (R368): the packet, slot, tide read, and input and output extents. -/
structure ReplayRecord where
  pkt : List Byte
  slot : Nat
  tide : Nat
  ins : List (Nat × Nat)
  outs : List (Nat × Nat)
  answers : List (Ask × Answer)
  deriving DecidableEq, Repr

/-- One flit waiting in a port's class queue: the routing part of its header (R272) and its payload. `own`: originated here; `head`: the
first of its message to be routed here; `waited`: Breakwater has delayed it; `judged`: Undertow's rules have looked at it; `buf`: the
port and (class × 2 + VC) whose receive buffer it holds. -/
structure QFlit where
  dest : Nat
  origin : Nat
  tc : Nat
  kind : Nat
  msg : Nat
  vc : Nat
  alt : Bool
  last : Bool
  resent : Bool
  own : Bool
  head : Bool
  waited : Bool
  judged : Bool
  buf : Option (Nat × Nat)
  payload : List Byte
  deriving DecidableEq, Repr

/-- One flit in the replay buffer: its link sequence number, the flit, the CREDIT field it carried, and when it was first sent (R275
to R277). -/
structure SentFlit where
  seq : Nat
  flit : QFlit
  credit : Nat
  time : Nat
  deriving DecidableEq, Repr

/-- A fabric port beside its registers: what its transmitter and receiver hold. `queue`: the flits of its class queues; `credits` and
`owed` by class × 2 + VC; `bucket` and `transit` in 1/16,000 byte; `replays`: when replays began; `starved`: since when a class and VC
has no credit; `requested`: its training was started through RETRAIN or by setting EN (R291); `held` and `heldIn`: messages that a
REORDER rule holds, with the number of flits still to pass. -/
structure PortState where
  cable : Bool
  txSeq : Nat
  rxSeq : Nat
  discarding : Bool
  nakDue : Bool
  ackDue : Bool
  nakSeen : Bool
  replay : List SentFlit
  queue : List QFlit
  credits : List Nat
  owed : List Nat
  bucket : Nat
  bucketTime : Nat
  transit : Nat
  transitTime : Nat
  replays : List Nat
  wrr : Nat
  starved : List (Nat × Nat)
  trained : Bool
  requested : Bool
  downSince : Option Nat
  partner : Nat
  delayUntil : Nat
  held : List (Nat × QFlit)
  heldIn : List (Nat × QFlit)
  deriving DecidableEq, Repr

/-- A message delivered to this module and not yet acted on: raw, as the flits brought it; `holds`: the receive buffers, as port and
class × 2 + VC, that its flits hold until it is consumed (R278). -/
structure Inbound where
  head : MsgHead
  kind : Nat
  bytes : List Byte
  holds : List (Nat × Nat)
  deriving DecidableEq, Repr

/-- The module's part of the fabric beside its registers. `clocks`: bit 0 for J2A, bit 1 for J2B, whether the reference clock is there
(R408). -/
structure FabState where
  clocks : Nat
  ports : List PortState
  nextMsg : List (Nat × Nat)
  accepted : List (Nat × Nat)
  routes : List (Nat × Nat)
  parts : List Inbound
  inbox : List Inbound
  noRoute : List QFlit
  wire : List (Nat × List Byte)
  sent : List (MsgHead × Content)
  relayMsg : Option (Nat × Nat)
  relayStart : Nat
  deriving DecidableEq, Repr

/-- Precision watch beside its records in memory: the base and the layers loaded (R142), and the demotions whose earlier
tides still run promoted (R141): layer, PROMOTE_FROM, FROM_TIDE. -/
structure PwState where
  base : Nat
  layers : List Nat
  demoted : List (Nat × Nat × Nat)
  deriving DecidableEq, Repr

/-- A row held in a bay's adjacency cache: graph, node, bytes, and how often it was read (Shelf cache). -/
structure CacheRow where
  graph : Nat
  node : Nat
  bytes : Nat
  uses : Nat
  deriving DecidableEq, Repr

/-- A row on its way to another module, at its source (R111). Phase 0: announced; 1: copied; 2: at the switch; 3: draining;
`index` the row-map index here, `there` the one at the destination, `time` of the switch's end. -/
structure Migration where
  table : Nat
  row : Nat
  index : Nat
  dest : Nat
  tag : Nat
  phase : Nat
  there : Nat
  tide : Nat
  time : Nat
  image : RowImage
  deriving DecidableEq, Repr

/-- A row held here that is not at home here: its row-map index, its source, and the switch received, if any, as the message
to acknowledge and its image (R111). -/
structure Guest where
  table : Nat
  row : Nat
  index : Nat
  source : Nat
  switch : Option (MsgHead × Nat × RowImage)
  since : Option Nat
  deriving DecidableEq, Repr

/-- An old row slot that returns to the free ring once the commands of these numbers (`Entry.seq`) have completed (R105); `slot` with
the tier in bit 63. -/
structure Release where
  table : Nat
  slot : Nat
  readers : List Nat
  deriving DecidableEq, Repr

/-- A bay's skew measurement: the sketch's counters by (row of the sketch × 4,096 + column), and its hot rows as
(table × 2^48 + row, estimate) (R108). -/
structure HotRows where
  sketch : List (Nat × Nat)
  rows : List (Nat × Nat)
  deriving DecidableEq, Repr

/-- The gather units' state beside registers and memory (04_gather_scatter_embeddings); `snaps`: the bays whose snapshot area at
HOTROW_SNAP has been written (R109). -/
structure GatherState where
  tables : List Desc
  migrations : List Migration
  guests : List Guest
  releases : List Release
  hot : List HotRows
  hotTime : Nat
  snaps : Nat
  deriving DecidableEq, Repr

/-- One chunk of an open reduction at this module: when its first input came, which copy filled its own slot (0 none, 1 the
module's, 2 the backup's, 3 excluded), the child ports that came and those excluded, the partial sum (at the root the sum that
goes down), whether it has been sent on, the final chunk, and whether that is written at DST (R300, R307). -/
structure ChunkState where
  index : Nat
  pass2 : Bool
  first : Nat
  own : Nat
  kids : List Nat
  excluded : List Nat
  sum : Option Chunk
  sent : Bool
  final : Option Chunk
  written : Bool
  deriving DecidableEq, Repr

/-- One round of values of a reduction at this module (R302): this module's, its children's by port, whether they have gone up, the
combined values, and whether they are acted on. -/
structure RoundState where
  round : Nat
  own : Option RoundValues
  kids : List (Nat × RoundValues)
  sent : Bool
  result : Option RoundValues
  decided : Bool
  deriving DecidableEq, Repr

/-- An open reduction (R307): its name, the local command's tag and packet (no packet: none has been dispatched; no tag: it has
ended), the pass, the exponents of the first and of this pass, its chunks and rounds, whether lateness was signalled, the notes,
whether a corrected error was met, when its closing round ended, and what the local command completes with. -/
structure Reduction where
  group : Nat
  layer : Nat
  step : Nat
  tag : Option Nat
  pkt : List Byte
  pass : Nat
  e1 : Int
  e : Int
  chunks : List ChunkState
  rounds : List RoundState
  late : Bool
  notes : Nat
  corrected : Bool
  closed : Option Nat
  outcome : Option Done
  deriving DecidableEq, Repr

/-- An ALL_GATHER, ALL_TO_ALL or BROADCAST under way here: its name, tag and packet, the bytes received of each rank's block with
the block's length, and what it completes with where a write failed. -/
structure CollRun where
  opcode : Nat
  group : Nat
  layer : Nat
  step : Nat
  tag : Nat
  pkt : List Byte
  got : List (Nat × Nat × Nat)
  failed : Option Done
  deriving DecidableEq, Repr

/-- The collectives' state beside registers and memory (14_collectives_and_exact_reduction). -/
structure CollState where
  groups : List Desc
  reductions : List Reduction
  discarded : List (Nat × Nat × Nat)
  runs : List CollRun
  waiting : List Piece
  deriving DecidableEq, Repr

/-- The program store of one tile's vector engine: the image last loaded, its PROG_BASE and counts (R196). -/
structure ProgramStore where
  tile : Nat
  base : Nat
  instrs : Nat
  streams : Nat
  image : List Byte
  deriving DecidableEq, Repr

/-- Power, temperature and tiles beside their registers (18, 19): windows since a bay was last below floor; the hardware
limiter's and the droop guards' stretches; bays paused and throttled for their junction; bays shut down; tiles stopped with no
spare; when a tile last had an operation; the hold of R338; the supplies removed; the last readings: die sensors, stacks, input
in mV, input power in W; the part of a microsecond below floor not yet counted; whether THERM_TRIP# is asserted (R353, J1
signals); each bay's gauge step counts of its last windows, at most 10, the newest first. -/
structure PowerState where
  windows : List Nat
  limited : Bool
  drooping : Nat
  paused : Nat
  throttled : Nat
  bayOff : Nat
  deadTiles : List Nat
  used : List (Nat × Nat)
  hold : Bool
  off : Bool
  temps : List Int
  stackTemps : List Nat
  inputMv : Nat
  watts : Nat
  floorRem : Nat
  therm : Bool
  gauge : List (List Nat)
  deriving DecidableEq, Repr

/-- The management core beside its registers (17): SEQ of the next record, the last record, the counters as they were then by
field of the record, the input energy since power-on in mJ, the promotions, the latest promoted layer, whether one came since the last
record, microseconds below floor and slots excluded since, the SMBus address, the MCTP endpoint, the last answer to board management, and the value of the state sensor last read. -/
structure MgmtState where
  seq : Nat
  last : List Byte
  base : List (List Nat)
  energy : Nat
  promotions : Nat
  layer : Nat
  promoted : Bool
  belowUs : Nat
  excluded : Nat
  smbus : Nat
  endpoint : Nat
  answer : List Int
  stateRead : Nat
  deriving DecidableEq, Repr

/-- One fused key slot (R381). -/
structure KeySlot where
  hash : List Byte
  programmed : Bool
  revoked : Bool
  deriving DecidableEq, Repr

/-- A measurement-log entry (R386): SEQ, ACC, KIND, INDEX, TIMESTAMP, DIGEST. -/
structure Measure where
  seq : Nat
  acc : Nat
  kind : Nat
  index : Nat
  time : Nat
  digest : List Byte
  deriving DecidableEq, Repr

/-- The security engine beside its registers (20): the fuses, the accumulators with their counts, the log and whether it
overflowed, the open challenge, the reports signed, the slots measured, the SVN of each running component. -/
structure SecState where
  keys : List KeySlot
  svn : Nat
  labFuse : Bool
  acc : List (List Byte)
  counts : List Nat
  log : List Measure
  overflow : Bool
  challenge : Option (List Byte × Nat)
  reports : Nat
  measured : List Nat
  compSvn : List Nat
  deriving DecidableEq, Repr

/-- An armed Undertow rule (R378 to R380): the command's body, the eligible events and the injections since arming. -/
structure UwRule where
  rule : Nat
  body : List Byte
  events : Nat
  fired : Nat
  deriving DecidableEq, Repr

/-- A port that has never trained. -/
def PortState.idle : PortState where
  cable := false
  txSeq := 0
  rxSeq := 0
  discarding := false
  nakDue := false
  ackDue := false
  nakSeen := false
  replay := []
  queue := []
  credits := [0, 0, 0, 0, 0, 0, 0, 0]
  owed := [0, 0, 0, 0, 0, 0, 0, 0]
  bucket := 0
  bucketTime := 0
  transit := 0
  transitTime := 0
  replays := []
  wrr := 0
  starved := []
  trained := false
  requested := false
  downSince := none
  partner := 0
  delayUntil := 0
  held := []
  heldIn := []

/-- Power and readings before any reading has come: zeros (log entry 30). -/
def PowerState.fresh : PowerState where
  windows := List.replicate 8 100
  limited := false
  drooping := 0
  paused := 0
  throttled := 0
  bayOff := 0
  deadTiles := []
  used := []
  hold := false
  off := false
  temps := List.replicate 64 0
  stackTemps := List.replicate 8 0
  inputMv := 0
  watts := 0
  floorRem := 0
  therm := false
  gauge := List.replicate 8 []

/-- The management core before its first record. -/
def MgmtState.fresh : MgmtState where
  seq := 0
  last := []
  base := []
  energy := 0
  promotions := 0
  layer := 0
  promoted := false
  belowUs := 0
  excluded := 0
  smbus := 0x62
  endpoint := 0
  answer := []
  stateRead := 0

/-- The security engine with the fuses of manufacture and nothing measured (log entry 6). -/
def SecState.fused : SecState where
  keys := [⟨Config.keyHash 0, Config.keyProgrammed 0, Config.keyRevoked 0⟩, ⟨Config.keyHash 1, Config.keyProgrammed 1, Config.keyRevoked 1⟩,
           ⟨Config.keyHash 2, Config.keyProgrammed 2, Config.keyRevoked 2⟩, ⟨Config.keyHash 3, Config.keyProgrammed 3, Config.keyRevoked 3⟩]
  svn := Config.fusedSvn.toNat
  labFuse := Config.labFuseOpen
  acc := List.replicate 8 (List.replicate 32 0)
  counts := List.replicate 8 0
  log := []
  overflow := false
  challenge := none
  reports := 0
  measured := []
  compSvn := List.replicate 5 0

/-- A step of another module's walk that this module carries and that waits for the search of the previous node's row at its owner
(R86): its number, the module and tag to answer, the question, and the answers received. -/
structure ServedStep where
  number : Nat
  peer : Nat
  sender : Nat
  ask : Ask
  answers : List (Ask × Answer)
  deriving DecidableEq, Repr

/-- The state of the block. `summary`: the words in the summary queue of each bay's controller (R207). `steps`: the walk steps carried
for other modules that wait; `conts`: the bodies of the continuation packets that this module has written (R80); `posted`: the parts of
BAR2 writes that wait for a held stack, in order, each within one word, by device address (R321, R421). `errs`: for each 64-byte word,
the mask of its wrong symbols or bits (Ecc). `stale`: the CURRENT tides that a Numerics or Skerry commit left behind, as slot, entry,
tide: they are not rebuildable (R366). `holdLo`: the low half last written of each 64-bit pair (R10); `latchHi`: the high halves latched by reads of
their low halves (R9); `readOut` and `readPoisoned`: what the last read returned, a BAR2 read's bytes least significant first, and its
EP bit (R320). `scrub`: the stack-local address at which patrol scrub goes on in each stack (R246). Memory is keyed by physical location
(Mem.locate): stack s, stack-local address L at s × 2^37 + L; every other region at its device address. -/
structure State where
  pending : List Instr
  now : Nat
  regs : List (Nat × Word)
  shadow : List (Nat × Word)
  applying : List Commit
  holdLo : List (Nat × Word)
  latchHi : List (Nat × Word)
  readOut : Nat
  readPoisoned : Bool
  mem : List Host.Cell
  undef : List Undef
  errs : List (Nat × Nat)
  free : Nat
  grantNext : List Nat
  cplPhase : List Nat
  formatPosted : List Nat
  stallRem : Nat
  readSeq : Nat
  entries : List Entry
  slots : List ModelSlot
  irq : IrqState
  pci : PciState
  errSeq : Nat
  merged : List Merged
  replay : List ReplayRecord
  fab : FabState
  pw : PwState
  graphs : List Desc
  caches : List (List CacheRow)
  gath : GatherState
  pgroups : List Desc
  coll : CollState
  vstore : List ProgramStore
  replayNext : Nat
  power : PowerState
  mgmt : MgmtState
  sec : SecState
  undertow : List UwRule
  stale : List Reading
  scrub : List Nat
  posted : List (Nat × List Byte)
  steps : List ServedStep
  summary : List (List Word)
  conts : List (List Byte)
  deriving DecidableEq, Repr

/-- The block right after power-on reset: every register at its Reset value (the register file lists nothing), no
command waiting, no memory written. Boot (R394) has not run: it is the POWER_ON_RESET row. -/
def State.reset : State where
  pending := []
  now := 0
  regs := []
  shadow := []
  applying := []
  holdLo := []
  latchHi := []
  readOut := 0
  readPoisoned := false
  mem := []
  undef := []
  errs := []
  free := 0
  grantNext := []
  cplPhase := []
  formatPosted := []
  stallRem := 0
  readSeq := 0
  entries := []
  slots := []
  errSeq := 0
  merged := []
  replay := []
  fab := { clocks := 0, ports := List.replicate 8 PortState.idle, nextMsg := [], accepted := [], routes := [],
           parts := [], inbox := [], noRoute := [], wire := [], sent := [], relayMsg := none, relayStart := 0 }
  pw := { base := 0, layers := [], demoted := [] }
  graphs := []
  caches := List.replicate 8 []
  gath := { tables := [], migrations := [], guests := [], releases := [], hot := List.replicate 8 ⟨[], []⟩, hotTime := 0, snaps := 0 }
  pgroups := []
  coll := { groups := [], reductions := [], discarded := [], runs := [], waiting := [] }
  vstore := []
  replayNext := 0
  power := PowerState.fresh
  mgmt := MgmtState.fresh
  sec := SecState.fused
  undertow := []
  stale := []
  scrub := List.replicate 8 0
  posted := []
  steps := []
  summary := List.replicate 8 []
  conts := []
  irq := { active := [], timers := [], sent := [] }
  pci := { vendorId := Config.vendorId, deviceId := 0x3F03, classCode := 0x120000, maxPayload := 128, maxReadRequest := 512,
           cplTimeoutUs := 50000, cplTimeoutOff := false, busMaster := false, memorySpace := false, msixEnable := false,
           functionMask := false, d3hot := false, bar2Log2 := 36 }

/-- What an unlisted byte of memory reads as (log entry 1: zero). -/
def memDefault (_ : Nat) : Byte := 0

/-- What an unlisted codeword or SRAM word holds: no wrong symbol and no wrong bit. -/
def errDefault (_ : Nat) : Nat := 0

/-- The canonical form of memory. -/
abbrev Memory.wf (m : List Host.Cell) : Bool := Sparse.wf memDefault m

/-- The stored word of a register. -/
def State.reg (s : State) (off : Nat) : Word := Sparse.get resetWord s.regs off

/-- The state with a register's stored word replaced. -/
def State.setReg (s : State) (off : Nat) (w : Word) : State := { s with regs := Sparse.set resetWord s.regs off w }

end Sys2Proof.Machine
end

