-- ==== Sys2Proof/Machine/Irq.lean ====
section
/-! DEFINITION. The interrupt controller (16_interrupt_controller): requests, withdrawals, claims and completes, the messages
each vector owes, coalescing, MSI-X delivery, and the status bits whose changes are requests of level sources. -/

namespace Sys2Proof.Machine

open Sys2Proof

/-! ## Register bits -/

/-- A field of a stored register. -/
def State.fieldAt (s : State) (off hi lo : Nat) : Nat := fld (s.reg off) hi lo

/-- A bit of a stored register. -/
def State.bitAt (s : State) (off i : Nat) : Bool := flag (s.reg off) i

/-- The state with a field of a register replaced. -/
def State.setField (s : State) (off hi lo v : Nat) : State := s.setReg off (setFld (s.reg off) hi lo v)

/-- The state with a bit of a register set or cleared. -/
def State.setBit (s : State) (off i : Nat) (b : Bool) : State := s.setReg off (setFlag (s.reg off) i b)

/-- A saturating 32-bit counter register advanced. -/
def State.count (s : State) (off k : Nat) : State := s.setReg off (BitVec.ofNat 32 (satAdd32 (s.reg off).toNat k))

/-- A wrapping 32-bit counter register advanced. -/
def State.countWrap (s : State) (off k : Nat) : State := s.setReg off (BitVec.ofNat 32 ((s.reg off).toNat + k))

/-- The value of a 64-bit pair, `_LO` at the given offset. -/
def State.pair (s : State) (off : Nat) : Nat := (s.reg off).toNat + 2 ^ 32 * (s.reg (off + 4)).toNat

/-- The state with a 64-bit pair replaced. -/
def State.setPair (s : State) (off v : Nat) : State :=
  (s.setReg off (BitVec.ofNat 32 v)).setReg (off + 4) (BitVec.ofNat 32 (v / 2 ^ 32))

/-- A 64-bit counter pair advanced, wrapping. -/
def State.count64 (s : State) (off k : Nat) : State := s.setPair off ((s.pair off + k) % 2 ^ 64)

/-! ## Sources -/

/-- The status bit that owns a level source: its register and bit (R328, R361, R375, 13 and 17 and 20, registers). -/
def statusOf (id : Nat) : Option (Nat × Nat) :=
  if 128 ≤ id ∧ id < 138 then some (Reg.RAS_EVENT, id - 128)
  else if 248 ≤ id ∧ id < 252 then some (Reg.HOST_EVENT, id - 248)
  else if 256 ≤ id ∧ id < 320 then some (Reg.PORT_EVENT ((id - 256) / 8), id % 8)
  else if 320 ≤ id ∧ id < 327 then some (Reg.POWER_EVENT, id - 320)
  else if 336 ≤ id ∧ id < 368 then some (Reg.STACK_THERMAL_EVENTS ((id - 336) / 4), id % 4)
  else if 384 ≤ id ∧ id < 388 then some (Reg.SEC_EVENT, id - 384)
  else if 432 ≤ id ∧ id < 436 then some (Reg.MGMT_EVENT, id - 432)
  else none

/-- The interrupt ID of bit `b` of a status register, if the register owns level sources. -/
def sourceOf (off b : Nat) : Option Nat :=
  if off = Reg.RAS_EVENT ∧ b < 10 then some (128 + b)
  else if off = Reg.HOST_EVENT ∧ b < 4 then some (248 + b)
  else if off % 0x1000 = 0x18 ∧ 0x60000 ≤ off ∧ off < 0x68000 ∧ b < 7 then some (256 + 8 * ((off - 0x60000) / 0x1000) + b)
  else if off = Reg.POWER_EVENT ∧ b < 7 then some (320 + b)
  else if off % 0x40 = 0x1C ∧ 0x50800 ≤ off ∧ off < 0x50A00 ∧ b < 4 then some (336 + 4 * ((off - 0x50800) / 0x40) + b)
  else if off = Reg.SEC_EVENT ∧ b < 4 then some (384 + b)
  else if off = Reg.MGMT_EVENT ∧ b < 4 then some (432 + b)
  else none

/-- The configuration word of a source; a reserved ID reads 0 (R328). -/
def srcCfg (s : State) (id : Nat) : Word := if srcAssigned id then s.reg (Reg.IRQ_SRC_CFG id) else 0

/-- The bit of IRQ_GLOBAL_ENABLE of a target. -/
def enableBit : IrqTarget → Nat
  | .host => 0
  | .mgmt => 1

/-- The TARGET encoding of a target. -/
def targetCode : IrqTarget → Nat
  | .host => 0
  | .mgmt => 1

/-- Whether a source is pending (R329). -/
def isPending (s : State) (id : Nat) : Bool := s.bitAt (Reg.IRQ_PENDING (id / 32)) (id % 32)

/-- A source's pending bit set or cleared. -/
def setPending (s : State) (id : Nat) (b : Bool) : State := s.setBit (Reg.IRQ_PENDING (id / 32)) (id % 32) b

/-- Whether a source is active (R329). -/
def isActive (s : State) (id : Nat) : Bool := s.irq.active.any (fun a => a.id = id)

/-- The group value of a priority: its upper GROUP_BITS bits (Priority and claim). -/
def groupOf (s : State) (prio : Nat) : Nat := prio / 2 ^ (8 - s.fieldAt Reg.IRQ_GROUP_SPLIT 3 0)

/-- The sub-priority: the remaining low bits. -/
def subOf (s : State) (prio : Nat) : Nat := prio % 2 ^ (8 - s.fieldAt Reg.IRQ_GROUP_SPLIT 3 0)

/-- The running group of a target: the lowest group among its active sources (R330). -/
def runningGroup (s : State) (t : IrqTarget) : Option Nat :=
  s.irq.active.foldl (fun acc a =>
    if a.target = t then (match acc with | none => some a.group | some g => some (min g a.group)) else acc) none

/-- Whether a source is claimable by a target (R330). -/
def claimable (s : State) (t : IrqTarget) (id : Nat) : Bool :=
  let c := srcCfg s id
  isPending s id && flag c 31 && decide (fld c 25 24 = targetCode t) && s.bitAt Reg.IRQ_GLOBAL_ENABLE (enableBit t) &&
  !isActive s id &&
  (match runningGroup s t with
   | none => true
   | some g => decide (groupOf s (fld c 7 0) < g))

/-- The IDs whose pending bit is set, ascending. -/
def pendingIds (s : State) : List Nat :=
  (seqFrom 0 32).flatMap (fun i =>
    let w := s.reg (Reg.IRQ_PENDING i)
    if w = 0 then [] else ((seqFrom 0 32).filter (fun j => flag w j)).map (fun j => 32 * i + j))

/-- The claimable source with the lowest group, then sub-priority, then ID (R331). -/
def bestClaim (s : State) (t : IrqTarget) : Option Nat :=
  ((pendingIds s).filter (claimable s t)).foldl (fun acc id =>
    match acc with
    | none => some id
    | some b =>
      let k (x : Nat) := groupOf s (fld (srcCfg s x) 7 0) * 256 + subOf s (fld (srcCfg s x) 7 0)
      if k id < k b then some id else some b) none

/-- The management interrupt line: asserted while its target has a claimable source (R334). -/
def mgmtLine (s : State) : Bool := (bestClaim s .mgmt).isSome

/-! ## Messages -/

/-- Whether the host can receive a message of a vector now: HOST_EN, MSI-X enabled, nothing masked, an address, bus mastering (R323, R324,
R335). -/
def vectorOpen (s : State) (v : Nat) : Bool :=
  s.bitAt Reg.IRQ_GLOBAL_ENABLE 0 && s.pci.msixEnable && s.pci.busMaster && !s.pci.functionMask && !s.bitAt (Reg.MSIX_CTRL v) 0 &&
  decide (s.pair (Reg.MSIX_ADDR_LO v) ≠ 0)

/-- One message of a vector: sent, which clears its pending bit, or its pending bit set (R324). -/
def sendMsix (s : State) (v : Nat) : State :=
  if vectorOpen s v then
    { s.setBit (Reg.MSIX_PBA (v / 32)) (v % 32) false with
      irq := { s.irq with sent := s.irq.sent ++ [⟨v, s.pair (Reg.MSIX_ADDR_LO v), (s.reg (Reg.MSIX_DATA v)).toNat⟩] } }
  else s.setBit (Reg.MSIX_PBA (v / 32)) (v % 32) true

/-- The pending messages of every vector that is open now are sent and their pending bits cleared (R324). -/
def releaseMsix (s : State) : State :=
  (seqFrom 0 64).foldl (fun s v =>
    if s.bitAt (Reg.MSIX_PBA (v / 32)) (v % 32) && vectorOpen s v then sendMsix s v else s) s

/-- Whether some source of a vector is claimable by the host. -/
def vectorClaimable (s : State) (v : Nat) : Bool :=
  (pendingIds s).any (fun id => claimable s .host id && decide (fld (srcCfg s id) 21 16 = v))

/-- The count and the timer of a vector reset (R336). -/
def resetVector (s : State) (v : Nat) : State :=
  { s.setReg (Reg.VEC_COAL_STATUS v) 0 with irq := { s.irq with timers := s.irq.timers.filter (fun p => p.1 ≠ v) } }

/-- A vector's count or timer is reached: one message if a source of it is claimable, and the reset in any case (R336). -/
def fireVector (s : State) (v : Nat) : State :=
  let s' := resetVector s v
  if vectorClaimable s v then sendMsix s' v else s'

/-- The whole microsecond boundary at or after a time (R337). -/
def usBoundary (t : Nat) : Nat := (t + 999) / 1000 * 1000

/-- A vector owes one more message, on behalf of a source (R334, R336, R337). -/
def owe (s : State) (id : Nat) : State :=
  let c := srcCfg s id
  let v := fld c 21 16
  let owed := s.fieldAt (Reg.VEC_COAL_STATUS v) 7 0 + 1
  if flag c 29 || s.fieldAt (Reg.VEC_COAL v) 7 0 ≤ owed then fireVector s v
  else
    let s1 := (s.setField (Reg.VEC_COAL_STATUS v) 7 0 owed).setBit (Reg.VEC_COAL_STATUS v) 31
      (decide (s.fieldAt (Reg.VEC_COAL v) 31 16 ≠ 0))
    if s.irq.timers.any (fun p => decide (p.1 = v)) then s1
    else { s1 with irq := { s1.irq with timers := s1.irq.timers ++ [(v, usBoundary s.now)] } }

/-- The time limits of the vectors that owe a message, after a commit: TIMER_RUN shows whether one counts (R336, R337). -/
def runTimers (s : State) : State :=
  s.irq.timers.foldl (fun s p => s.setBit (Reg.VEC_COAL_STATUS p.1) 31 (decide (s.fieldAt (Reg.VEC_COAL p.1) 31 16 ≠ 0))) s

/-- A request of a source under R329: pending, and one message owed when the source is claimable just after it (R334). -/
def request (s : State) (id : Nat) : State :=
  if srcAssigned id then
    let s1 := setPending s id true
    if claimable s1 .host id then owe s1 id else s1
  else s

/-- Messages owed by the sources that the change from `old` to `new` made claimable by the host, or retargeted to another
vector (R334). -/
def oweNew (old new : State) : State :=
  ((pendingIds new).filter (fun id => claimable new .host id &&
      (!claimable old .host id || decide (fld (srcCfg old id) 21 16 ≠ fld (srcCfg new id) 21 16)))).foldl owe new

/-! ## Status bits -/

/-- A status bit becomes 1: a change from 0 requests its source, if it has one (R329). -/
def setStatus (s : State) (off b : Nat) : State :=
  if s.bitAt off b then s
  else
    let s1 := s.setBit off b true
    match sourceOf off b with
    | some id => request s1 id
    | none => s1

/-- A status bit is cleared: a request not yet claimed is withdrawn (R329). -/
def clearStatus (s : State) (off b : Nat) : State :=
  if s.bitAt off b then
    let s1 := s.setBit off b false
    match sourceOf off b with
    | some id => if isPending s1 id then setPending s1 id false else s1
    | none => s1
  else s

/-- A write of 1 to the bits of `v` among the W1C bits `mask` of a status register. -/
def clearStatusBits (s : State) (off v mask : Nat) : State :=
  (seqFrom 0 32).foldl (fun s b => if v.testBit b && mask.testBit b then clearStatus s off b else s) s

/-! ## Claim, complete, enable, timers, vector control -/

/-- A read of a target's claim register (R331): the source claimed and the state after, 1,023 and the state unchanged with none. -/
def claim (s : State) (t : IrqTarget) : Nat × State :=
  match bestClaim s t with
  | none => (1023, s)
  | some id =>
    let g := groupOf s (fld (srcCfg s id) 7 0)
    let s1 := setPending s id false
    let s2 := s1.setBit (Reg.IRQ_ACTIVE (id / 32)) (id % 32) true
    (id, { s2 with irq := { s2.irq with active := s2.irq.active ++ [⟨id, t, g⟩] } })

/-- A write of a target's complete register (R332). -/
def complete (s : State) (t : IrqTarget) (id : Nat) : State :=
  if id = 1023 then s
  else if s.irq.active.any (fun a => a.id = id && a.target = t) then
    let s1 := s.setBit (Reg.IRQ_ACTIVE (id / 32)) (id % 32) false
    let s2 := { s1 with irq := { s1.irq with active := s1.irq.active.filter (fun a => a.id ≠ id) } }
    let s3 := match statusOf id with
      | some (off, b) => if s2.bitAt off b then setPending s2 id true else s2
      | none => s2
    oweNew s s3
  else s.setBit Reg.IRQ_STATUS 0 true

/-- A write of IRQ_GLOBAL_ENABLE (R335): when HOST_EN returns to 1, each vector with a claimable source sends one message at
once, whatever its coalescing state; then the messages still pending in open vectors are sent (R324). -/
def writeEnable (s : State) (v : Word) : State :=
  let s1 := s.setReg Reg.IRQ_GLOBAL_ENABLE (BitVec.ofNat 32 (fld v 1 0))
  if flag v 0 && !s.bitAt Reg.IRQ_GLOBAL_ENABLE 0 then
    releaseMsix ((seqFrom 0 64).foldl (fun s v => if vectorClaimable s v then sendMsix (resetVector s v) v else s) s1)
  else s1

/-- The coalescing time limit of a vector, when there is one and it has passed by time `t` since the first message owed (R336, R337). -/
def timerDue (s : State) (v t : Nat) : Bool :=
  decide (s.fieldAt (Reg.VEC_COAL v) 31 16 ≠ 0) && s.irq.timers.any (fun p => p.1 = v && decide (p.2 + 1000 * s.fieldAt (Reg.VEC_COAL v) 31 16 ≤ t))

end Sys2Proof.Machine
end

