-- ==== Sys2Proof/Machine/Mem.lean ====
section
/-! DEFINITION. The device address map, the placement windows, the error-correcting codes and the reads and writes of
memory (11_memory_system, 15_host_interface R319 to R323, 23_register_map Stack hold), and the error log (R375, R376). -/

namespace Sys2Proof.Machine

open Sys2Proof

/-- What a device address reaches (R229). -/
inductive Region where
  | hbm (stack : Nat)
  | skerry
  | scratchpad (tile : Nat)
  | shelf (bay : Nat)
  | host
  deriving DecidableEq, Repr

/-- A located byte: the key memory holds it under, and the region. -/
structure Located where
  key : Nat
  region : Region
  deriving DecidableEq, Repr

/-! ## Windows -/

/-- BASE of a window (R233). -/
def winBase (s : State) (w : Nat) : Nat := s.pair (Reg.PLACE_WIN_BASE_LO w) / 2 ^ 21 * 2 ^ 21

/-- The last address of a window: LIMIT × 2^21 + 0x1F_FFFF. -/
def winEnd (s : State) (w : Nat) : Nat := s.pair (Reg.PLACE_WIN_LIMIT_LO w) / 2 ^ 21 * 2 ^ 21 + 0x1FFFFF

/-- PBASE of a window. -/
def winPbase (s : State) (w : Nat) : Nat := s.pair (Reg.PLACE_WIN_PBASE_LO w) / 2 ^ 18 * 2 ^ 18

/-- MODE of a window: 0 BAY_LOCAL, 1 PAIR, 2 STRIPED_8. -/
def winMode (s : State) (w : Nat) : Nat := s.fieldAt (Reg.PLACE_WIN_MODE w) 1 0

/-- STACK of a window. -/
def winStack (s : State) (w : Nat) : Nat := s.fieldAt (Reg.PLACE_WIN_STACK w) 2 0

/-- Whether a window is loaded. -/
def winLoaded (s : State) (w : Nat) : Bool := s.bitAt Reg.MEM_WIN_STATUS w

/-- The procedure of R233: the stack and stack-local address of offset `o`. -/
def place (o mode stack pbase : Nat) : Nat × Nat :=
  if mode = 0 then (stack, pbase + o)
  else if mode = 1 then (stack + (o >>> 11) % 2, pbase + ((o >>> 12) <<< 11) + o % 0x800)
  else ((((o >>> 15) % 8) ^^^ ((o >>> 18) % 8)), pbase + ((o >>> 18) <<< 15) + o % 0x8000)

/-- The extent a window of `size` bytes occupies in each stack it uses (Placement windows). -/
def winExtent (mode size : Nat) : Nat := if mode = 0 then size else if mode = 1 then size / 2 else size / 8

/-- The stacks a window uses. -/
def winStacks (mode stack : Nat) : List Nat :=
  if mode = 0 then [stack] else if mode = 1 then [stack, stack + 1] else seqFrom 0 8

/-- The loaded window that holds an HBM device address. -/
def windowOf (s : State) (a : Nat) : Option Nat :=
  (seqFrom 0 16).find? (fun w => winLoaded s w && decide (winBase s w ≤ a) && decide (a ≤ winEnd s w))

/-! ## Stacks and channels -/

/-- The usable capacity of a stack in bytes. -/
def stackCapacity (s : State) (st : Nat) : Nat := s.fieldAt (Reg.STACK_CAPACITY st) 16 0 * 2 ^ 20

/-- The channels of a stack in service, ascending (R234). -/
def liveChannels (s : State) (st : Nat) : List Nat :=
  (seqFrom 0 16).filter (fun c => !s.bitAt (Reg.STACK_CHANNELS st) c)

/-- The channel that stack-local address `l` reaches (R234). -/
def channelOf (s : State) (st l : Nat) : Nat :=
  let live := liveChannels s st
  (live[(l >>> 11) % live.length]?).getD 0

/-- Whether a stack-local address lies in a fenced channel or a stack that is shut down (R245, R248). -/
def fenced (s : State) (st l : Nat) : Bool :=
  decide (s.fieldAt (Reg.STACK_STATE st) 2 0 = 4) || s.bitAt (Reg.STACK_CHANNELS st) (16 + channelOf s st l)

/-- Whether a bay is enabled. -/
def bayEnabled (s : State) (b : Nat) : Bool := s.bitAt Reg.BAY_ENABLE_MASK b

/-! ## The address map -/

/-- Where a device address lies, or the ADDRESS_FAULT detail of an access to it (R229, R230, R323). -/
def locate (s : State) (a : Nat) : Except Nat Located :=
  if a < 0x009000000000 then
    match windowOf s a with
    | none => .error 2
    | some w =>
      let p := place (a - winBase s w) (winMode s w) (winStack s w) (winPbase s w)
      if p.2 < stackCapacity s p.1 then .ok ⟨p.1 * 2 ^ 37 + p.2, .hbm p.1⟩ else .error 4
  else if a < 0x010000000000 then .error 1
  else if a < 0x020000000000 then .ok ⟨a, .skerry⟩
  else if a < 0x400000000000 then .error 1
  else if a < 0x400020000000 then
    let n := (a - 0x400000000000) / 0x100000
    if (a - 0x400000000000) % 0x100000 < 0x80000 && bayEnabled s (n / 64) then .ok ⟨a, .scratchpad n⟩ else .error 1
  else if a < 0x410000000000 then .error 1
  else if a < 0x410008000000 then
    let b := (a - 0x410000000000) / 0x1000000
    if bayEnabled s b then .ok ⟨a, .shelf b⟩ else .error 1
  else if a < 0x800000000000 then .error 1
  else if a < 0x1000000000000 then
    if s.pci.busMaster then .ok ⟨a, .host⟩ else .error 3
  else .error 1

/-- Whether a region's access waits because its stack is held (R421). -/
def heldRegion (s : State) : Region → Bool
  | .hbm st => s.bitAt Reg.HBM_HOLD st
  | _ => false

/-- Whether a region's access makes its command a user of the Memory block (R65). -/
def memoryUser : Region → Bool
  | .hbm _ => true
  | .skerry => true
  | _ => false

/-! ## Bytes -/

/-- The undefined range that holds a location, if any. -/
def undefAt (s : State) (k : Nat) : Option Undef := s.undef.find? (fun u => decide (u.lo ≤ k) && decide (k < u.hi))

/-- The byte stored at a physical location. -/
def byteAt (s : State) (k : Nat) : Byte :=
  match undefAt s k with
  | some u => Config.freeByte u.seed k
  | none => Sparse.get memDefault s.mem k

/-- The undefined ranges without the locations `lo` to `hi - 1`. -/
def cutUndef (lo hi : Nat) : List Undef → List Undef
  | [] => []
  | u :: us =>
    if u.hi ≤ lo || hi ≤ u.lo then u :: cutUndef lo hi us
    else
      (if u.lo < lo then [⟨u.lo, lo, u.seed⟩] else []) ++ (if hi < u.hi then [⟨hi, u.hi, u.seed⟩] else []) ++ cutUndef lo hi us

/-- A byte stored at a physical location. -/
def putByte (s : State) (k : Nat) (b : Byte) : State :=
  { s with mem := Sparse.set memDefault s.mem k b, undef := cutUndef k (k + 1) s.undef }

/-- Locations `lo` to `hi - 1` become undefined. -/
def putUndef (s : State) (lo hi : Nat) : State :=
  if lo < hi then
    { s with undef := ⟨lo, hi, s.free⟩ :: cutUndef lo hi s.undef, free := s.free + 1,
             mem := s.mem.filter (fun c => decide (c.1 < lo) || decide (hi ≤ c.1)),
             errs := s.errs.filter (fun c => decide (c.1 + 64 ≤ lo) || decide (hi ≤ c.1)) }
  else s

/-- Locations `lo` to `hi - 1` hold zeros. -/
def putZeros (s : State) (lo hi : Nat) : State :=
  { s with undef := cutUndef lo hi s.undef,
           mem := s.mem.filter (fun c => decide (c.1 < lo) || decide (hi ≤ c.1)),
           errs := s.errs.filter (fun c => decide (c.1 + 64 ≤ lo) || decide (hi ≤ c.1)) }

/-- The byte a command reads at a device address when nothing is wrong with it; 0 at an address that reaches nothing. -/
def State.readByte (s : State) (a : Nat) : Byte :=
  match locate s a with
  | .ok p => byteAt s p.key
  | .error _ => 0

/-! ## Codewords -/

/-- The error pattern of the word that holds a location: its wrong symbols, or its wrong bits in an SRAM. -/
def errorsAt (s : State) (k : Nat) : Nat := Sparse.get errDefault s.errs (k / 64 * 64)

/-- The lockstep group of a skerry-memory address: A[8] (R253). -/
def skerryGroup (k : Nat) : Nat := k / 256 % 2

/-- The package of a lockstep group that SKERRY_ECC names as failed (R254). -/
def erasedPackage (s : State) (group : Nat) : Option Nat :=
  let p := s.fieldAt Reg.SKERRY_ECC (7 + 4 * group) (4 + 4 * group)
  if p ≤ 8 then some p else none

/-- The state of the 64-byte word that holds a located byte (R241 to R243, R245, R370; skerry memory: R253, R254). -/
def wordState (s : State) (p : Located) : WordState :=
  let w := p.key / 64 * 64
  let m := errorsAt s p.key
  match p.region with
  | .hbm st =>
    if fenced s st (p.key % 2 ^ 37) then .lost
    else rsDecode (s.bitAt Reg.HBM_ECC_MODE 0) (Config.undetected w m) m
  | .skerry => match erasedPackage s (skerryGroup p.key) with
    | some e => erasureDecode e m
    | none => rsDecode (s.bitAt Reg.SKERRY_ECC 0) (Config.undetected w m) m
  | .scratchpad _ => sramDecode (Config.undetected w m) m
  | .shelf _ => sramDecode (Config.undetected w m) m
  | .host => if m = 0 then .good else .uncorrectable

/-- The 72 symbols stored for the word of a location: the codeword of its data, with the wrong symbols of its error pattern (R240). -/
def storedWord (s : State) (k : Nat) : List Byte :=
  let w := k / 64 * 64
  (rsCodeword ((seqFrom w 64).map (byteAt s))).zipIdx.map (fun c =>
    if bit (errorsAt s k) c.2 then Config.garbledByte (errorsAt s k) (w + c.2) else c.1)

/-- The error pattern of a word removed, as a write of the whole word does. -/
def clearErr (s : State) (k : Nat) : State := { s with errs := Sparse.set errDefault s.errs (k / 64 * 64) 0 }

/-- A word as a decoder that takes it for another codeword leaves it: free bytes without an error. -/
def miscorrect (s : State) (k : Nat) : State :=
  clearErr ((seqFrom (k / 64 * 64) 64).foldl (fun s j => putByte s j (Config.garbledByte (errorsAt s k) j)) s) k

/-- The byte delivered from a word whose error is not detected: a wrong symbol is wrong (R254). -/
def undetectedByte (s : State) (k : Nat) : Byte :=
  if bit (errorsAt s k) (k % 64) then Config.garbledByte (errorsAt s k) k else byteAt s k

/-- The UNIT of a memory word in the error log: an HBM channel, a skerry group, a tile's scratchpad or a bay's shelf. -/
def unitOf (s : State) (p : Located) : Nat :=
  match p.region with
  | .hbm st => 0xC000 + 16 * st + channelOf s st (p.key % 2 ^ 37)
  | .skerry => 0xE000 + skerryGroup p.key
  | .scratchpad t => 0x4000 + t
  | .shelf b => 0x7000 + b
  | .host => 0

/-- What an error-log record says beside its class: its action, unit, address and command (R375). -/
structure LogFields where
  action : Nat
  unit : Nat
  address : Nat
  cookie : Nat
  detail : Nat
  ring : Nat
  deriving DecidableEq, Repr

/-- A record of no command. -/
def plainLog (action unit address : Nat) : LogFields := ⟨action, unit, address, 0, 0, 0⟩

/-- The 60 bytes of a record after SEQ. DURATION_US, a measured time, and SYNDROME are free values (log entry 3). -/
def recordBytes (s : State) (cls : Nat) (f : LogFields) (duration count : Nat) : List Byte :=
  toLE 1 cls ++ toLE 1 f.action ++ toLE 2 f.unit ++ toLE 8 s.now ++ toLE 8 f.address ++ toLE 8 f.cookie ++
  toLE 4 duration ++ toLE 2 f.detail ++ toLE 2 f.ring ++ toLE 8 (Config.syndrome cls f.unit f.address s.now s.errSeq) ++ toLE 4 count ++ toLE 12 0

/-- A corrected event or replay, merged with those of its class, unit and 1 ms interval (R376). -/
def logMerged (s : State) (cls : Nat) (f : LogFields) : State :=
  let i := s.now / 1000000
  if s.merged.any (fun m => m.cls = cls && m.unit = f.unit && m.interval = i) then
    { s with merged := s.merged.map (fun m =>
        if m.cls = cls && m.unit = f.unit && m.interval = i then { m with count := m.count + 1 } else m) }
  else { s with merged := s.merged ++ [⟨cls, f.unit, i, recordBytes s cls f 0 1, 1⟩] }

/-- A corrected word: counted, logged and written back corrected (R242, R243, R254). -/
def noteCorrected (s : State) (p : Located) (a : Nat) : State :=
  let s1 := clearErr s p.key
  match p.region with
  | .hbm st => logMerged (s1.count (Reg.STACK_CE st) 1) 0x01 (plainLog 1 (unitOf s p) a)
  | .skerry => logMerged (s1.count Reg.SKERRY_CE 1) 0x05 (plainLog 1 (unitOf s p) a)
  | _ => logMerged s1 0x03 (plainLog 1 (unitOf s p) a)

/-- Whether the decoder corrects the word of a located byte, rightly or not. -/
def decoderCorrects (s : State) (p : Located) : Bool :=
  match wordState s p with
  | .corrected => true
  | .miscorrected => true
  | _ => false

/-- The word of a located byte read: what the decoder corrects is counted, logged and written back, a miscorrected word as it was decoded. -/
def settleWord (s : State) (p : Located) (a : Nat) : State :=
  match wordState s p with
  | .corrected => noteCorrected s p a
  | .miscorrected => noteCorrected (miscorrect s p.key) p a
  | _ => s

/-- The words that a write of `n` bytes at `a` covers whole lose their error pattern; one it covers in part is read, merged and written
(R231), which corrects what the decoder corrects. `w` is the word reached. -/
def settleWords (s : State) (a n : Nat) : Nat → Nat → State
  | 0, _ => s
  | fuel + 1, w =>
    if a + n ≤ w then s
    else
      let s1 := match locate s w with
        | .ok p => if a ≤ w ∧ w + 64 ≤ a + n then clearErr s p.key else settleWord s p w
        | .error _ => s
      settleWords s1 a n fuel (w + 64)

/-- The words of a write settled before its bytes are stored. -/
def settleWrite (s : State) (a n : Nat) : State := if s.errs.isEmpty then s else settleWords s a n (n / 64 + 2) (a / 64 * 64)

/-- Whether the merge of a write that covers words in part corrects one. -/
def mergeCorrects (s : State) (a n : Nat) : Bool :=
  !s.errs.isEmpty && decide (n ≠ 0) && [a, a + n - 1].any (fun x => match locate s x with
    | .ok p => decide (¬ (a ≤ x / 64 * 64 ∧ x / 64 * 64 + 64 ≤ a + n)) && decoderCorrects s p
    | .error _ => false)

/-! ## The error log -/

/-- The ring size of the error log, 0 when there is none. -/
def errlogSize (s : State) : Nat :=
  if s.fieldAt Reg.ERRLOG_SIZE 4 0 = 0 then 0 else 2 ^ s.fieldAt Reg.ERRLOG_SIZE 4 0

/-- Bytes stored at consecutive device addresses, those that reach nothing being lost. -/
def pokeBytes (s : State) (a : Nat) : List Byte → State
  | [] => s
  | b :: bs =>
    match locate s a with
    | .ok p => pokeBytes (putByte s p.key b) (a + 1) bs
    | .error _ => pokeBytes s (a + 1) bs

/-- The bytes read at consecutive device addresses. -/
def peekBytes (s : State) (a : Nat) : Nat → List Byte
  | 0 => []
  | n + 1 => s.readByte a :: peekBytes s (a + 1) n

/-- Bytes stored at consecutive device addresses by a unit of the module: whole words, or a read, a merge and a write (R231). -/
def storeBytes (s : State) (a : Nat) (bs : List Byte) : State := pokeBytes (settleWrite s a bs.length) a bs

/-- Whether every byte of a range lies in a word that its decoder delivers. -/
def deliverable (s : State) (a n : Nat) : Bool :=
  (seqFrom (a / 64) ((a + n + 63) / 64 - a / 64)).all (fun w => match locate s (64 * w) with
    | .ok p => !(decide (wordState s p = .uncorrectable) || decide (wordState s p = .lost))
    | .error _ => true)

/-- The byte at a device address as a unit of the module reads it for itself: of a word that its decoder does not deliver a free value, and
never the data stored (R242, log entry 39). -/
def unitByte (s : State) (a : Nat) : Byte :=
  match locate s a with
  | .ok p => (match wordState s p with
    | .good => byteAt s p.key
    | .corrected => byteAt s p.key
    | .undetected => undetectedByte s p.key
    | _ => Config.garbledByte (errorsAt s p.key) p.key)
  | .error _ => 0

/-- The bytes at consecutive device addresses as a unit of the module reads them. -/
def unitBytes (s : State) (a n : Nat) : List Byte :=
  if s.errs.isEmpty && deliverable s a n then peekBytes s a n else (seqFrom a n).map (unitByte s)

/-- A record of 60 bytes (all but SEQ) written into the error-log ring, or dropped while it is full (R375). -/
def writeRecord (s : State) (rest : List Byte) : State :=
  let n := errlogSize s
  if n = 0 then s
  else
    let tail := s.fieldAt Reg.ERRLOG_TAIL 15 0
    let s1 := { s with errSeq := (s.errSeq + 1) % 2 ^ 32 }
    if (tail + 1) % n = s.fieldAt Reg.ERRLOG_HEAD 15 0 % n then
      setStatus (s1.count Reg.ERRLOG_DROPPED 1) Reg.RAS_EVENT 8
    else
      (storeBytes s1 (s.pair Reg.ERRLOG_BASE_LO / 2 ^ 12 * 2 ^ 12 + 64 * tail) (toLE 4 s.errSeq ++ rest)).setField
        Reg.ERRLOG_TAIL 15 0 ((tail + 1) % n)

/-- An event with its own record (R375, R376). -/
def logEvent (s : State) (cls : Nat) (f : LogFields) : State := writeRecord s (recordBytes s cls f 0 1)

/-- An event that interrupted service: its record's DURATION_US is a measured time, a free value. -/
def logTimed (s : State) (cls : Nat) (f : LogFields) : State :=
  writeRecord { s with free := s.free + 1 } (recordBytes s cls f (Config.freeValue s.free) 1)

/-- The merged records whose interval has ended by `now` are written, COUNT their number (R376). -/
def flushMerged (s : State) : State :=
  let due := s.merged.filter (fun m => decide (m.interval < s.now / 1000000))
  let s1 := { s with merged := s.merged.filter (fun m => decide (s.now / 1000000 ≤ m.interval)) }
  due.foldl (fun s m => writeRecord s (m.bytes.take 44 ++ toLE 4 m.count ++ m.bytes.drop 48)) s1

/-- An uncorrectable word that was read: counted, its event bit set, and logged (R242, R243, R254). -/
def noteUncorrectable (s : State) (p : Located) (a : Nat) : State :=
  match p.region with
  | .hbm st => logEvent (setStatus (s.count (Reg.STACK_UE st) 1) Reg.RAS_EVENT 0) 0x02 (plainLog 0 (unitOf s p) a)
  | .skerry => logEvent (setStatus (s.count Reg.SKERRY_UE 1) Reg.RAS_EVENT 2) 0x06 (plainLog 0 (unitOf s p) a)
  | .host => s
  | _ => logEvent (setStatus s Reg.RAS_EVENT 1) 0x04 (plainLog 0 (unitOf s p) a)

/-- Whether the decoder corrects a word of a range. -/
def scanCorrects (s : State) (a n : Nat) : Bool :=
  !s.errs.isEmpty && (seqFrom (a / 64) ((a + n + 63) / 64 - a / 64)).any (fun w => match locate s (64 * w) with
    | .ok p => decoderCorrects s p
    | .error _ => false)

/-- The words of a range read by a unit of the module: what the decoder corrects is written back, what it cannot is counted and logged
(R242). -/
def scanWords (s : State) (a n : Nat) : State :=
  if s.errs.isEmpty then s
  else (seqFrom (a / 64) ((a + n + 63) / 64 - a / 64)).foldl (fun s w => match locate s (64 * w) with
    | .ok p => (match wordState s p with
      | .uncorrectable => noteUncorrectable s p (64 * w)
      | _ => settleWord s p (64 * w))
    | .error _ => s) s

end Sys2Proof.Machine
end

