-- ==== Sys2Proof/Machine/TideGen.lean ====
section
/-! DEFINITION. The tide generator, the one counter-based function behind every draw (R166, R167). -/

namespace Sys2Proof.Machine

open Sys2Proof

/-- A 32-bit rotation to the left. -/
def rotl32 (x k : Nat) : Nat := ((x <<< k) ||| (x >>> (32 - k))) % 2 ^ 32

/-- The counter words and the key words of a round. -/
structure GenState where
  c0 : Nat
  c1 : Nat
  c2 : Nat
  c3 : Nat
  k0 : Nat
  k1 : Nat
  deriving DecidableEq, Repr

/-- One of the ten rounds. -/
def genRound (g : GenState) : GenState :=
  let p := 0x8F1BC5A7 * g.c1
  let q := 0xE3D26B45 * g.c3
  { c0 := ((g.c2 + p / 2 ^ 32) % 2 ^ 32) ^^^ g.k1
    c1 := ((g.c0 + q / 2 ^ 32) % 2 ^ 32) ^^^ g.k0
    c2 := rotl32 ((p % 2 ^ 32) ^^^ g.c0) 11
    c3 := rotl32 ((q % 2 ^ 32) ^^^ g.c2) 19
    k0 := (rotl32 g.k0 8 + 0x5A3C81E7) % 2 ^ 32
    k1 := (rotl32 g.k1 24 + 0x2D97F04B) % 2 ^ 32 }

/-- A number of rounds. -/
def genRounds : Nat → GenState → GenState
  | 0, g => g
  | n + 1, g => genRounds n (genRound g)

/-- The tide generator: the output words of a counter under a key. -/
def tideGen (k0 k1 c0 c1 c2 c3 : Nat) : GenState :=
  genRounds 10 ⟨c0 % 2 ^ 32, c1 % 2 ^ 32, c2 % 2 ^ 32, c3 % 2 ^ 32, k0 % 2 ^ 32, k1 % 2 ^ 32⟩

/-- An index in [0, n) (R72). -/
def drawIndex (g : GenState) (n : Nat) : Nat := (g.c1 * 2 ^ 32 + g.c0) * n / 2 ^ 64

end Sys2Proof.Machine
end

