-- ==== Sys2Proof/Machine/Inject.lean ====
section
/-! DEFINITION. Undertow's rules: arming, eligible events and their selection, and the injection into memory writes (R378 to
R380). The injections into links, gradients and tiles are in the files of those units. -/

namespace Sys2Proof.Machine

open Sys2Proof

/-- A number of a rule's body. -/
def UwRule.get (r : UwRule) (off size : Nat) : Nat := leAt r.body off size

/-- TARGET: 1 LINK, 2 HBM, 3 TILE, 4 GRADIENT. -/
def UwRule.target (r : UwRule) : Nat := r.get 1 1

/-- ACTION. -/
def UwRule.action (r : UwRule) : Nat := r.get 2 1

/-- PARAM. -/
def UwRule.param (r : UwRule) : Nat := r.get 12 4

/-- LOCATION. -/
def UwRule.location (r : UwRule) : Nat := r.get 24 8

/-- A draw of event `i` of a rule (R379). -/
def UwRule.draw (r : UwRule) (i c0 : Nat) : GenState :=
  tideGen (r.get 16 4) (r.get 20 4) c0 (i % 2 ^ 32) (i / 2 ^ 32) (0x05000000 + r.rule * 2 ^ 16)

/-- Whether event `i` of a rule is selected (R379). -/
def UwRule.picks (r : UwRule) (i : Nat) : Bool :=
  if r.get 3 1 = 0 then decide ((i + 1) % r.get 4 4 = 0) else decide ((r.draw i 0).c0 < r.get 4 4)

/-- The rule of a number, while armed. -/
def uwRule (s : State) (n : Nat) : Option UwRule := s.undertow.find? (fun r => r.rule = n)

/-- An eligible event of a rule: the event's number where it is selected, and the state after: the count, the injection's
record and event bit, and the rule disarmed at its LIMIT (R379, R380). -/
def uwEvent (s : State) (n : Nat) : Option Nat × State :=
  match uwRule s n with
  | none => (none, s)
  | some r =>
    let hit := r.picks r.events
    let r1 : UwRule := { r with events := r.events + 1, fired := r.fired + b2n hit }
    let spent := decide (r.get 8 4 ≠ 0) && decide (r.get 8 4 ≤ r1.fired)
    let rules := s.undertow.map (fun x => if x.rule = n then r1 else x)
    let s1 := { s with undertow := if spent then rules.filter (fun x => decide (x.rule ≠ n)) else rules }
    if hit then
      (some r.events, logEvent ((setStatus s1 Reg.RAS_EVENT 9).countWrap (Reg.UW_FIRED n) 1) 0x10 (plainLog 0 0 (r.location)))
    else (none, s1)

/-- The armed rules that meet a condition. -/
def uwRules (s : State) (c : UwRule → Bool) : List UwRule := s.undertow.filter c

/-- The eligible events of the rules that meet a condition, one for each: those selected, with the event's number. -/
def uwEvents (s : State) (c : UwRule → Bool) : List (UwRule × Nat) × State :=
  (uwRules s c).foldl (fun acc r =>
    let (i, s1) := uwEvent acc.2 r.rule
    match i with
    | some k => (acc.1 ++ [(r, k)], s1)
    | none => (acc.1, s1)) ([], s)

/-- The symbols of a codeword that event `i` of a rule corrupts, as a mask: the positions drawn with c0 = 1 to PARAM (R379; a position
drawn twice is one symbol, log entry 121). -/
def UwRule.symbols (r : UwRule) (i : Nat) : Nat := (seqFrom 1 r.param).foldl (fun m c => m ||| 2 ^ drawIndex (r.draw i c) 72) 0

/-- One codeword written: it is stored with PARAM symbols wrong where a rule of HBM selects the write. -/
def injectWord (s : State) (w : Nat) : State :=
  match locate s w with
  | .ok p =>
    match p.region with
    | .hbm _ =>
      let (hits, s1) := uwEvents s (fun r => decide (r.target = 2) && decide (r.location < w + 64) &&
        decide (w < r.location + r.get 32 8))
      hits.foldl (fun s h =>
        let m := errorsAt s p.key ||| h.1.symbols h.2
        { s with errs := Sparse.set errDefault s.errs (p.key / 64 * 64) m }) s1
    | _ => s
  | .error _ => s

/-- The codewords of a write at a device address, each an eligible event of the HBM rules that cover it. -/
def injectWrite (s : State) (a n : Nat) : State :=
  if s.undertow.isEmpty || decide (n = 0) then s
  else (seqFrom (a / 64) ((a + n - 1) / 64 + 1 - a / 64)).foldl (fun s i => injectWord s (64 * i)) s

/-- Whether Undertow is locked: lab mode is off (R378). -/
def uwLocked (s : State) : Bool := !s.bitAt Reg.SEC_STATE 0

/-- A rule disarmed. -/
def uwDisarm (s : State) (n : Nat) : State := { s with undertow := s.undertow.filter (fun r => decide (r.rule ≠ n)) }

/-- A rule armed in its slot; it replaces the slot's previous one, and UW_FIRED counts from here (R380). -/
def uwArm (s : State) (n : Nat) (body : List Byte) : State :=
  State.setReg { s with undertow := (uwDisarm s n).undertow ++ [{ rule := n, body := body, events := 0, fired := 0 }] } (Reg.UW_FIRED n) 0

/-- Whether the fields of an UNDERTOW body are in range (BAD_FORMAT 0xF0). A DISARM gives no meaning to N_OR_P, ACTION, PARAM and
LOCATION (log entry 95). -/
def uwBodyOk (b : List Byte) : Bool :=
  let r : UwRule := { rule := leAt b 0 1, body := b, events := 0, fired := 0 }
  let loc := r.location
  let within (x lo hi : Nat) : Bool := decide (lo ≤ x ∧ x ≤ hi)
  decide (r.rule < 16) && decide (r.target ≤ 4) && decide (r.get 40 8 = 0) && decide (r.get 3 1 ≤ 1) &&
  (decide (r.target = 2) || decide (r.get 32 8 = 0)) &&
  (decide (r.target = 0) ||
    ((decide (r.get 3 1 = 1) || decide (r.get 4 4 ≠ 0)) &&
     (if r.target = 1 then
        decide (loc < 2 ^ 17 ∧ bits loc 7 3 = 0 ∧ bits loc 15 12 = 0) &&
        (decide (r.action = 1) || (decide (r.action = 2) && within r.param 1 32) || (decide (r.action = 3) && within r.param 1 32) ||
         (decide (r.action = 4) && within r.param 1 64 && !bit loc 8) || (decide (r.action = 5) && within r.param 1 100000))
      else if r.target = 2 then decide (r.action = 1) && within r.param 1 8 && decide (loc < 0x009000000000)
      else if r.target = 3 then
        decide (loc < 512) && ((decide (r.action = 1) && within r.param 0 2) || decide (r.action = 2))
      else decide (bits loc 31 6 = 0) && decide (r.action = 1))))

end Sys2Proof.Machine
end

