-- ==== Sys2Proof/Machine/Cmd.lean ====
section
/-! DEFINITION. The execution of one Soloc command: a computation over the state that reads and writes memory, keeps the
extents it touched, and may stop with a status, a wait or a recovery (R49, R64, R65, R242, R369, R371). -/

namespace Sys2Proof.Machine

open Sys2Proof

/-- Why an execution stops before its end. -/
inductive Stop where
  /-- BAD_FORMAT with a detail: no effect (R428). -/
  | bad (detail : Nat)
  /-- Another status, with its detail and ENGINE. -/
  | fail (status detail engine : Nat)
  /-- The command waits, dispatched. -/
  | wait (w : Wait)
  /-- The command is not dispatched now: a held stack (R421) or an APPLYING block (R65). -/
  | hold
  /-- The command waits, dispatched, and what it has done so far stays done. -/
  | pause (w : Wait)
  /-- The command asks other modules and waits for their answers. -/
  | ask (qs : List (Nat × Ask))
  /-- A recoverable uncorrectable word was met at a device address. -/
  | recover (address : Nat)
  deriving DecidableEq, Repr

/-- What an execution carries. `plan` says of an uncorrectable device address whether it is recovered (none) or read as
poison with a detail code; `policy` is the RAS_POLICY taken at dispatch (R64). -/
structure Env where
  s : State
  engine : Nat
  overlay : List (Nat × Byte)
  answers : List (Ask × Answer)
  plan : Nat → Option Nat
  seen : List Nat
  corrected : Bool
  poison : Option (Nat × Nat)
  poisoned : Nat
  ins : List (Nat × Nat)
  outs : List (Nat × Nat)
  declared : List (Nat × Nat)
  touched : Bool
  notes : Nat
  policy : Word

/-- A command's execution. -/
abbrev Cmd (α : Type) := ExceptT Stop (StateM Env) α

/-- Stops with BAD_FORMAT. -/
def Cmd.bad {α : Type} (detail : Nat) : Cmd α := throw (.bad detail)

/-- Stops with a status, naming the unit that carries out the command. -/
def Cmd.fail {α : Type} (status detail : Nat) : Cmd α := do
  let env ← get
  throw (.fail status detail env.engine)

/-- The state. -/
def Cmd.state : Cmd State := do return (← get).s

/-- The state changed. -/
def Cmd.update (f : State → State) : Cmd Unit := modify (fun env => { env with s := f env.s })

/-- A field of a register. -/
def Cmd.field (off hi lo : Nat) : Cmd Nat := do return (← Cmd.state).fieldAt off hi lo

/-- Sets notes bits. -/
def Cmd.note (bitsSet : Nat) : Cmd Unit := modify (fun env => { env with notes := env.notes ||| bitsSet })

/-- A free value (log entry 3). -/
def Cmd.fresh : Cmd Nat := do
  let s ← Cmd.state
  Cmd.update (fun s => { s with free := s.free + 1 })
  return Config.freeValue s.free

/-- An extent added to a list, joined to the last one when it continues it. -/
def addExtent (l : List (Nat × Nat)) (a n : Nat) : List (Nat × Nat) :=
  match l with
  | [] => [(a, n)]
  | (b, m) :: r => if b + m = a then (b, m + n) :: r else if b ≤ a ∧ a + n ≤ b + m then (b, m) :: r else (a, n) :: (b, m) :: r

/-- The lowest failing detail of a list of checks (R428). -/
def lowest : List (Bool × Nat) → Option Nat
  | [] => none
  | (ok, d) :: l =>
    match lowest l with
    | none => if ok then none else some d
    | some e => if ok then some e else some (min d e)

/-- Stops with BAD_FORMAT and the lowest detail among the failing checks (R428). -/
def Cmd.checks (l : List (Bool × Nat)) : Cmd Unit :=
  match lowest l with
  | none => pure ()
  | some d => Cmd.bad d

/-- Declares output locations: what a status with "outputs undefined" may leave undefined (R49). -/
def Cmd.declare (a n : Nat) : Cmd Unit :=
  modify (fun env => { env with declared := if n = 0 then env.declared else env.declared ++ [(a, n)] })

/-- A location reached by an access: faults, holds and the host link (R229, R230, R323, R327, R421). -/
def Cmd.locate (a : Nat) : Cmd Located := do
  let env ← get
  match Machine.locate env.s a with
  | .error d => Cmd.fail 0x12 d
  | .ok p =>
    if heldRegion env.s p.region then throw .hold
    else if p.region = .host && env.s.fieldAt Reg.HOST_LINK_STATUS 19 16 = 0 then throw (.wait .host)
    else
      modify (fun env => { env with touched := env.touched || memoryUser p.region })
      return p

/-- What the plan of a command says of an uncorrectable word of master state: the command ends with DEVICE_FAULT 0x01 (R254). -/
def masterLost : Nat := 256

/-- One byte read; none is a poisoned byte (R371). -/
def Cmd.readByteP (a : Nat) : Cmd (Option Byte) := do
  let p ← Cmd.locate a
  let env ← get
  match wordState env.s p with
  | .good => return some (byteAt env.s p.key)
  | .undetected => return some (undetectedByte env.s p.key)
  | .corrected =>
    modify (fun env => { env with s := settleWord env.s p a, corrected := true })
    return some (byteAt env.s p.key)
  | .miscorrected =>
    let s1 := settleWord env.s p a
    modify (fun env => { env with s := s1, corrected := true })
    return some (byteAt s1 p.key)
  | _ =>
    match env.overlay.find? (fun o => o.1 = p.key) with
    | some o => return some o.2
    | none =>
      if env.seen.contains (p.key / 64) then pure ()
      else modify (fun env => { env with s := noteUncorrectable env.s p a, seen := env.seen ++ [p.key / 64] })
      match env.plan a with
      | none => throw (.recover a)
      | some d =>
        if d = masterLost then Cmd.fail 0x30 0x01
        else
        modify (fun env => { env with poison := some (env.poison.getD (d, a)) })
        return none

/-- Bytes read at consecutive device addresses. -/
def Cmd.readBytesP (a : Nat) : Nat → Cmd (List (Option Byte))
  | 0 => return []
  | n + 1 => do
    let b ← Cmd.readByteP a
    let r ← Cmd.readBytesP (a + 1) n
    return b :: r

/-- A data read: poisoned bytes are delivered as none. -/
def Cmd.readP (a n : Nat) : Cmd (List (Option Byte)) := do
  modify (fun env => { env with ins := addExtent env.ins a n })
  Cmd.readBytesP a n

/-- The bytes of a list without poison. -/
def plainBytes : List (Option Byte) → Option (List Byte)
  | [] => some []
  | none :: _ => none
  | some b :: l => (plainBytes l).map (fun r => b :: r)

/-- Ends the command with POISON, with the detail of the first poisoned byte. -/
def Cmd.failPoison {α : Type} : Cmd α := do
  let env ← get
  throw (.fail 0x14 ((env.poison.map (fun p => p.1)).getD 1) env.engine)

/-- A read of a descriptor, index, header or program: a poisoned byte ends the command with POISON (log entry 17). -/
def Cmd.read (a n : Nat) : Cmd (List Byte) := do
  let l ← Cmd.readP a n
  match plainBytes l with
  | some bs => return bs
  | none => Cmd.failPoison

/-- The bytes of a range that a command needs, read; the others as zeros, not read. -/
def Cmd.readNeeded (a : Nat) (need : Nat → Bool) : Nat → Nat → Cmd (List (Option Byte))
  | 0, _ => return []
  | n + 1, i => do
    let b ← if need i then Cmd.readByteP (a + i) else pure (some 0)
    let r ← Cmd.readNeeded a need n (i + 1)
    return b :: r

/-- A data read of the bytes of a range that a command needs. -/
def Cmd.readWhere (a n : Nat) (need : Nat → Bool) : Cmd (List (Option Byte)) := do
  modify (fun env => { env with ins := addExtent env.ins a n })
  Cmd.readNeeded a need n 0

/-- The parts of an answer received so far. -/
def answerParts (env : Env) (q : Ask) : List Answer := (env.answers.filter (fun p => p.1 = q)).map (fun p => p.2)

/-- Whether the last part of an answer is there. -/
def answered (env : Env) (q : Ask) : Bool := (answerParts env q).any (fun a => a.last)

/-- The answer of another module, its parts joined; a failed one ends the command. -/
def Cmd.answer (q : Ask) : Cmd Answer := do
  let parts := answerParts (← get) q
  match parts.find? (fun a => a.status ≠ 0) with
  | some a => Cmd.fail a.status a.detail
  | none => return { status := 0, detail := 0, flags := parts.foldl (fun n a => n ||| a.flags) 0,
                     nums := parts.flatMap (fun a => a.nums), weights := parts.flatMap (fun a => a.weights),
                     bytes := parts.flatMap (fun a => a.bytes), last := true }

/-- Waits until all these questions are answered. -/
def Cmd.askAll (qs : List (Nat × Ask)) : Cmd Unit := do
  let env ← get
  let left := qs.filter (fun q => !answered env q.2)
  if left.isEmpty then return () else throw (.ask left)

/-- Asks one question and waits for its answer. -/
def Cmd.ask (dest : Nat) (q : Ask) : Cmd Answer := do
  Cmd.askAll [(dest, q)]
  Cmd.answer q

/-- A little-endian number read. -/
def Cmd.readNat (a n : Nat) : Cmd Nat := do return leNat (← Cmd.read a n)

/-- Checks that a byte may be written: it is reached, and no fenced channel holds it (R245, R248). -/
def Cmd.writable (a : Nat) : Cmd Located := do
  let p ← Cmd.locate a
  let env ← get
  match p.region with
  | .hbm st => if fenced env.s st (p.key % 2 ^ 37) then Cmd.fail 0x12 0x90 else return p
  | _ => return p

/-- Bytes written at consecutive device addresses. -/
def Cmd.writeBytes (a : Nat) : List Byte → Cmd Unit
  | [] => return ()
  | b :: bs => do
    let p ← Cmd.writable a
    Cmd.update (fun s => putByte s p.key b)
    Cmd.writeBytes (a + 1) bs

/-- A write of bytes at a device address: the words it covers in part are read, merged and written, which may correct them (R231, R242). -/
def Cmd.write (a : Nat) (bs : List Byte) : Cmd Unit := do
  modify (fun env => { env with s := settleWrite env.s a bs.length, corrected := env.corrected || mergeCorrects env.s a bs.length })
  Cmd.writeBytes a bs
  modify (fun env => { env with outs := addExtent env.outs a bs.length, s := injectWrite env.s a bs.length })

/-- A little-endian number written. -/
def Cmd.writeNat (a n v : Nat) : Cmd Unit := Cmd.write a (toLE n v)

/-- Device locations `a` to `a + n - 1` become undefined, a placement granule at a time. -/
def undefDevice (s : State) (a n : Nat) : Nat → State
  | 0 => s
  | fuel + 1 =>
    if n = 0 then s
    else
      let step := min n (2048 - a % 2048)
      let s1 := match locate s a with
        | .ok p => putUndef s p.key (p.key + step)
        | .error _ => s
      undefDevice s1 (a + step) (n - step) fuel

/-- The locations of some outputs become undefined (R49). -/
def undefOutputs (s : State) (outs : List (Nat × Nat)) : State :=
  outs.foldl (fun s o => undefDevice s o.1 o.2 (o.2 / 2048 + 2)) s

/-- Consecutive locations left undefined. -/
def Cmd.leaveUndefined (a : Nat) : Nat → Cmd Unit
  | 0 => return ()
  | n + 1 => do
    let _ ← Cmd.writable a
    Cmd.update (fun s => undefDevice s a 1 2)
    modify (fun env => { env with outs := addExtent env.outs a 1 })
    Cmd.leaveUndefined (a + 1) n

/-- Bytes some of which are poisoned, written with the poisoned ones left undefined (R371 with MARK = 0): run after run, each run of good
bytes as one write. -/
def Cmd.writeRuns : Nat → Nat → List (Option Byte) → Cmd Unit
  | 0, _, _ => return ()
  | fuel + 1, a, l =>
    if l.isEmpty then return ()
    else do
      let good := l.takeWhile (fun b => b.isSome)
      let rest := l.drop good.length
      let lost := rest.takeWhile (fun b => b.isNone)
      if !good.isEmpty then Cmd.write a (good.filterMap id)
      Cmd.leaveUndefined (a + good.length) lost.length
      Cmd.writeRuns fuel (a + good.length + lost.length) (rest.drop lost.length)

/-- Bytes some of which are poisoned, written with the poisoned ones left undefined. -/
def Cmd.writeP (a : Nat) (l : List (Option Byte)) : Cmd Unit := Cmd.writeRuns (l.length + 1) a l

/-- Whether RAS_POLICY.MARK, as the command took it, is 1 (R64, R371). -/
def Cmd.marks : Cmd Bool := do return flag (← get).policy 2

/-- Elements of `size` bytes written one after another in one write; a poisoned one is counted, and written as the code of its format, or
left undefined where MARK is 0 (R371). -/
def Cmd.writeCells (a size code : Nat) (cells : List (Option (List Byte))) : Cmd Unit := do
  let mark ← Cmd.marks
  modify (fun env => { env with poisoned := env.poisoned + (cells.filter (fun c => c.isNone)).length })
  Cmd.writeP a (cells.flatMap (fun c => match c with
    | some bs => bs.map some
    | none => if mark then (toLE size code).map some else List.replicate size none))

/-- One element written. -/
def Cmd.writeCell (a size code : Nat) (c : Option (List Byte)) : Cmd Unit := Cmd.writeCells a size code [c]

/-- The environment of an execution that starts from a state. -/
def Env.start (s : State) : Env :=
  { s := s, engine := 0, overlay := [], answers := [], plan := fun _ => some 1, seen := [], corrected := false, poison := none,
    poisoned := 0, ins := [], outs := [], declared := [], touched := false, notes := 0, policy := s.reg Reg.RAS_POLICY }

/-- An execution that no command's tracking entry stands behind: its result, and the environment it leaves. -/
def Cmd.serve {α : Type} (c : Cmd α) (s : State) : Except Stop α × Env := (c.run.run (Env.start s))

end Sys2Proof.Machine
end

