-- ==== Sys2Proof/Machine/Fab.lean ====
section
/-! DEFINITION. The fabric's flits, their CRC, routing and the sending of messages (13_fabric_ports). -/

namespace Sys2Proof.Machine

open Sys2Proof

/-! ## CRC-32 -/

/-- One bit of the reflected CRC-32 of IEEE 802.3, polynomial 0x04C1_1DB7 (R272). -/
def crcBit (c : Nat) : Nat := if c % 2 = 1 then (c / 2) ^^^ 0xEDB88320 else c / 2

/-- One byte of it. -/
def crcByte (c : Nat) (b : Byte) : Nat :=
  crcBit (crcBit (crcBit (crcBit (crcBit (crcBit (crcBit (crcBit (c ^^^ b.toNat))))))))

/-- CRC-32 of R272: initial value 0xFFFF_FFFF, reflected, the result inverted. -/
def crc32 (bs : List Byte) : Nat := (bs.foldl crcByte 0xFFFFFFFF) ^^^ 0xFFFFFFFF

/-! ## Flits -/

/-- A list of bytes cut or zero-padded to `n` bytes. -/
def padTo (n : Nat) (bs : List Byte) : List Byte := (bs ++ List.replicate n 0).take n

/-- The CRC of a 256-byte flit: over header bytes 0 to 11 and bytes 16 to 255 (R272). -/
def flitCrc (flit : List Byte) : Nat := crc32 (flit.take 12 ++ (flit.drop 16).take 240)

/-- The link fields a transmitter adds to a flit: SEQ, ACK with ACK_VALID and NAK, CREDIT (R272). -/
structure LinkFields where
  seq : Nat
  ack : Nat
  ackValid : Bool
  nak : Bool
  credit : Nat
  deriving DecidableEq, Repr

/-- The 256 bytes of a flit (R272). -/
def flitBytes (q : QFlit) (l : LinkFields) : List Byte :=
  let h := toLE 2 (l.seq % 4096) ++ toLE 2 (l.ack % 4096 + 0x1000 * b2n l.ackValid + 0x2000 * b2n l.nak) ++
    toLE 2 (q.dest % 4096 + 0x1000 * q.tc + 0x4000 * q.vc + 0x8000 * b2n q.alt) ++
    toLE 2 (q.origin % 4096 + 0x1000 * q.kind) ++ toLE 1 (min q.payload.length 240) ++ toLE 1 l.credit ++
    toLE 2 (q.msg % 2 ^ 14 + 0x4000 * b2n q.last + 0x8000 * b2n q.resent)
  let p := padTo 240 q.payload
  h ++ toLE 4 (crc32 (h ++ p)) ++ p

/-- The flit part of the bytes received (R272). -/
def parseFlit (f : List Byte) : QFlit :=
  { dest := leAt f 4 2 % 4096, origin := leAt f 6 2 % 4096, tc := bits (leAt f 4 2) 13 12, kind := bits (leAt f 6 2) 15 12,
    msg := leAt f 10 2 % 2 ^ 14, vc := bits (leAt f 4 2) 14 14, alt := bit (leAt f 4 2) 15, last := bit (leAt f 10 2) 14,
    resent := bit (leAt f 10 2) 15, own := false, head := false, waited := false, judged := false, buf := none, payload := (f.drop 16).take (leAt f 8 1) }

/-- The link part of the bytes received. -/
def parseLink (f : List Byte) : LinkFields :=
  { seq := leAt f 0 2 % 4096, ack := leAt f 2 2 % 4096, ackValid := bit (leAt f 2 2) 12, nak := bit (leAt f 2 2) 13,
    credit := leAt f 9 1 }

/-- Whether a kind may travel in a class (Flit kinds); NULL and LINK carry no class. -/
def kindOnClass (kind tc : Nat) : Bool :=
  if kind = 0 ∨ kind = 0xB then true
  else if kind = 1 then tc = 1 || tc = 3
  else if kind = 2 then tc = 2
  else decide (kind ≤ 0xA) && tc = 0

/-- The KIND of a message. -/
def kindOf : MsgWhat → Nat
  | .signal => 3
  | .soloc => 4
  | .refuse => 5
  | .expandRequest => 6
  | .expandReply => 6
  | .directory => 7
  | .scale => 8
  | .telemetry => 9
  | .ack => 0xA
  | .gatherRequest => 2
  | .gatherReply => 2
  | .redirect => 2
  | .contribution => 2
  | .piece => 2
  | .treePiece => 1
  | .chunk => 1
  | .migrationCopy => 1

/-- The class of a message (Flit kinds; classes of *Module architecture*). -/
def classOf : MsgWhat → Nat
  | .gatherRequest => 2
  | .gatherReply => 2
  | .redirect => 2
  | .contribution => 2
  | .piece => 2
  | .treePiece => 1
  | .chunk => 1
  | .migrationCopy => 3
  | _ => 0

/-! ## Ports -/

/-- PORT_STATUS.STATE of a port: 0 DOWN, 1 TRAINING, 2 UP_X8, 3 UP_X4, 4 FAILED. -/
def portState (s : State) (p : Nat) : Nat := s.fieldAt (Reg.PORT_STATUS p) 10 8

/-- Whether a port is UP. -/
def portUp (s : State) (p : Nat) : Bool := portState s p = 2 || portState s p = 3

/-- What a port holds beside its registers. -/
def State.port (s : State) (p : Nat) : PortState := (s.fab.ports[p]?).getD PortState.idle

/-- The state with a port changed. -/
def State.setPort (s : State) (p : Nat) (f : PortState → PortState) : State :=
  { s with fab := { s.fab with ports := s.fab.ports.set p (f (s.port p)) } }

/-- The module's own ID. -/
def ownId (s : State) : Nat := s.fieldAt Reg.FAB_MODULE_ID 11 0

/-- The port of R280 steps 1 to 3 for a destination, none without an UP port. -/
def routePort (s : State) (d : Nat) : Option Nat :=
  let e := s.reg (Reg.ROUTE_TABLE d)
  [fld e 3 0, fld e 11 8, fld e 15 12].find? (fun p => decide (p < 8) && portUp s p)

/-- What identifies a message in transit at this module. -/
def routeKey (q : QFlit) : Nat := ((q.dest * 4096 + q.origin) * 4 + q.tc) * 2 ^ 14 + q.msg

/-- A flit placed in a port's queue. -/
def enqueue (s : State) (p : Nat) (q : QFlit) : State := s.setPort p (fun ps => { ps with queue := ps.queue ++ [q] })

/-- The VC on which a flit leaves through a port: VC1 where the port has DATELINE = 1 (Classes, virtual channels and credits). -/
def leaveVc (s : State) (p : Nat) (q : QFlit) : Nat := if s.bitAt (Reg.PORT_CTRL p) 29 then 1 else q.vc

/-- A flit routed by its destination: the port is chosen once per message, recorded with 8 more where it has ALTERNATE_TAKEN; with no UP port the flit waits at this module and
FAB_NOROUTE counts it (R280, R282). -/
def routeFlit (s : State) (q : QFlit) : State :=
  let k := routeKey q
  let known := s.fab.routes.find? (fun r => r.1 = k)
  let chosen := match known with
    | some r => if portUp s (r.2 % 8) then some (r.2 % 8) else routePort s q.dest
    | none => routePort s q.dest
  match chosen with
  | none => { s.count Reg.FAB_NOROUTE 1 with fab := { (s.count Reg.FAB_NOROUTE 1).fab with noRoute := s.fab.noRoute ++ [q] } }
  | some p =>
    let rest := s.fab.routes.filter (fun r => r.1 ≠ k)
    let alt := q.alt || (known.map (fun r => decide (8 ≤ r.2))).getD false
    let s1 := { s with fab := { s.fab with routes := if q.last then rest else (k, p + if alt then 8 else 0) :: rest } }
    enqueue s1 p { q with head := known.isNone, alt := alt }

/-- The flits that wait for a route are routed again (R282, R284). -/
def reroute (s : State) : State :=
  let waiting := s.fab.noRoute
  waiting.foldl (fun s q =>
    match routePort s q.dest with
    | none => { s with fab := { s.fab with noRoute := s.fab.noRoute ++ [q] } }
    | some _ => routeFlit s q) { s with fab := { s.fab with noRoute := [] } }

/-! ## Sending messages -/

/-- The number of the next message to a destination in a class (R273). -/
def nextMsgOf (s : State) (dest tc : Nat) : Nat :=
  ((s.fab.nextMsg.find? (fun p => p.1 = dest * 4 + tc)).map (fun p => p.2)).getD 0

/-- The payload of a message cut into flits of at most 240 bytes; a message without payload is one flit. -/
def cutPayload (bs : List Byte) : Nat → List (List Byte)
  | 0 => [bs.take 240]
  | fuel + 1 => if bs.length ≤ 240 then [bs] else bs.take 240 :: cutPayload (bs.drop 240) fuel

/-- The most payload bytes that a message of a kind carries, where the spec bounds it: SIGNAL and TELEMETRY are one flit, any other TC0
message is at most 256 bytes, in two flits at most (R273, R288, R290). -/
def payloadLimit (w : MsgWhat) : Option Nat :=
  match w with
  | .signal => some 240
  | .telemetry => some 240
  | _ => if classOf w = 0 then some 256 else none

/-- The payload bytes of a message: the packet of a SOLOC message and the frame of a TELEMETRY one as they are, what
Config.payload says otherwise, within what the message may carry (R273). -/
def payloadOf (c : Content) : List Byte :=
  let bytes := match c.what with
    | .soloc => c.data
    | .telemetry => c.data
    | _ => Config.payload c
  match payloadLimit c.what with
  | some n => bytes.take n
  | none => bytes

/-- A message for this module itself is delivered without crossing a port (R280). -/
def deliverSelf (s : State) (h : MsgHead) (c : Content) : State :=
  { s with fab := { s.fab with inbox := s.fab.inbox ++ [⟨h, kindOf c.what, payloadOf c, []⟩] } }

/-- The flits of a message that originates here. -/
def messageFlits (s : State) (dest n : Nat) (c : Content) : List QFlit :=
  let parts := cutPayload (payloadOf c) ((payloadOf c).length / 240 + 1)
  parts.zipIdx.map (fun p =>
    ({ dest := dest, origin := ownId s, tc := classOf c.what, kind := kindOf c.what, msg := n, vc := 0, alt := false,
       last := decide (p.2 + 1 = parts.length), resent := false, own := true, head := false, waited := false, judged := false, buf := none, payload := p.1 } : QFlit))

/-- Whether a message is acknowledged end to end: SIGNAL, SOLOC, DIRECTORY, DATA, and GATHER that writes memory (R274). -/
def acknowledged : MsgWhat → Bool
  | .signal => true
  | .soloc => true
  | .directory => true
  | .contribution => true
  | .piece => true
  | .treePiece => true
  | .chunk => true
  | .migrationCopy => true
  | _ => false

/-- A message that takes the next message number of its destination and class; one to be acknowledged is recorded as outstanding. -/
def numberMessage (s : State) (dest : Nat) (c : Content) : Nat × State :=
  let tc := classOf c.what
  let n := nextMsgOf s dest tc
  let rest := s.fab.nextMsg.filter (fun p => p.1 ≠ dest * 4 + tc)
  (n, { s with fab := { s.fab with nextMsg := (dest * 4 + tc, (n + 1) % 2 ^ 14) :: rest,
                                   sent := if acknowledged c.what then s.fab.sent ++ [(⟨dest, tc, n, false⟩, c)] else s.fab.sent } })

/-- A message sent: its flits enter routing on VC0; one to this module is delivered at once. Answers its number. -/
def sendMessage (s : State) (dest : Nat) (c : Content) : Nat × State :=
  let (n, s1) := numberMessage s dest c
  if dest = ownId s then (n, deliverSelf s1 ⟨ownId s, classOf c.what, n, false⟩ c)
  else (n, (messageFlits s dest n c).foldl routeFlit s1)

/-- A message sent to the partner of a port, through that port (Collective groups and trees, R306). -/
def sendOnPort (s : State) (port : Nat) (c : Content) : State :=
  let dest := (s.port port).partner
  let (n, s1) := numberMessage s dest c
  (messageFlits s dest n c).foldl (fun s q => enqueue s port q) s1

/-- The end-to-end acknowledgement of a message (R274). -/
def sendAck (s : State) (h : MsgHead) : State := (sendMessage s h.peer ⟨.ack, [h.tc, h.msg], []⟩).2

/-- What names a message among those accepted (R273). -/
def acceptKey (h : MsgHead) : Nat × Nat := (h.peer * 4 + h.tc, h.msg)

/-- Whether a received message is accepted: once per (ORIGIN, TC, MSG); one sent again that was already accepted is not. -/
def accepts (s : State) (h : MsgHead) : Bool := !(h.resent && s.fab.accepted.contains (acceptKey h))

/-! ## Receive buffers (R82, R278) -/

/-- A credit of a receive buffer owed to the partner that filled it (R278). -/
def oweCredit (s : State) (b : Option (Nat × Nat)) : State :=
  match b with
  | some (p, i) => s.setPort p (fun ps => { ps with owed := ps.owed.set i ((ps.owed[i]?).getD 0 + 1) })
  | none => s

/-- The credits of the receive buffers that some messages held. -/
def returnHolds (s : State) (l : List Inbound) : State :=
  (l.flatMap (fun i => i.holds)).foldl (fun s b => oweCredit s (some b)) s

/-- The first `n` expansion messages of those delivered, without the receive buffers they held. -/
def letGo : Nat → List Inbound → List Inbound
  | _, [] => []
  | 0, l => l
  | n + 1, i :: l => if i.kind = 6 then { i with holds := [] } :: letGo n l else i :: letGo (n + 1) l

/-- The module queues 1,024 expansion messages without their receive buffers; those beyond keep them, so that the requester waits for
credit (R82). -/
def admitExpansions (s : State) : State :=
  let s1 := returnHolds s ((s.fab.inbox.filter (fun i => decide (i.kind = 6))).take 1024)
  { s1 with fab := { s1.fab with inbox := letGo 1024 s1.fab.inbox } }

/-- A message taken up: recorded as accepted, removed from those delivered, and its receive buffer returned as a credit (R278). -/
def takeMessage (s : State) (h : MsgHead) : State :=
  let mine (i : Inbound) : Bool := decide (acceptKey i.head = acceptKey h)
  let s1 := returnHolds s (s.fab.inbox.filter mine)
  admitExpansions { s1 with fab := { s1.fab with
      accepted := if s.fab.accepted.contains (acceptKey h) then s.fab.accepted else s.fab.accepted ++ [acceptKey h],
      inbox := s.fab.inbox.filter (fun i => !mine i) } }

end Sys2Proof.Machine
end

