-- ==== Sys2Proof/Machine/Rings.lean ====
section
/-! DEFINITION. Rings, packet headers, waits, signals, tags, event counters and replies (02_soloc_command_model). -/

namespace Sys2Proof.Machine

open Sys2Proof

/-! ## Time -/

/-- Whether a ring's two halves are enabled: RING_STATUS.ACTIVE (Ring registers). -/
def ringActive (s : State) (n : Nat) : Bool :=
  s.fieldAt (Reg.RING_SIZE n) 3 0 ≠ 0 && s.fieldAt (Reg.CPL_SIZE n) 3 0 ≠ 0

/-- Granules of a submission ring (R29). -/
def ringSize (s : State) (n : Nat) : Nat := 2 ^ s.fieldAt (Reg.RING_SIZE n) 3 0

/-- Entries of a completion ring (R29). -/
def cplSize (s : State) (n : Nat) : Nat := 2 ^ s.fieldAt (Reg.CPL_SIZE n) 3 0

/-- RING_HEAD. -/
def ringHead (s : State) (n : Nat) : Nat := s.fieldAt (Reg.RING_HEAD n) 11 0

/-- RING_TAIL. -/
def ringTail (s : State) (n : Nat) : Nat := s.fieldAt (Reg.RING_TAIL n) 11 0

/-- Granules in use. -/
def ringUsed (s : State) (n : Nat) : Nat :=
  (ringTail s n % ringSize s n + ringSize s n - ringHead s n % ringSize s n) % ringSize s n

/-- Free granules: one is left unused (R30). -/
def ringFree (s : State) (n : Nat) : Nat := ringSize s n - 1 - ringUsed s n

/-- RING_BASE. -/
def ringBase (s : State) (n : Nat) : Nat := s.pair (Reg.RING_BASE_LO n) / 2 ^ 12 * 2 ^ 12

/-- CPL_BASE. -/
def cplBase (s : State) (n : Nat) : Nat := s.pair (Reg.CPL_BASE_LO n) / 2 ^ 12 * 2 ^ 12

/-- Whether a ring is stopped: RING_STATUS bits 10, 7 and 5 (R37). -/
def ringStopped (s : State) (n : Nat) : Bool :=
  s.bitAt (Reg.RING_STATUS n) 10 || s.bitAt (Reg.RING_STATUS n) 7 || s.bitAt (Reg.RING_STATUS n) 5

/-- Whether a ring is urgent: PRIO 0 (R34). -/
def urgent (s : State) (n : Nat) : Bool := s.fieldAt (Reg.RING_PRIO n) 2 0 = 0

/-! ## Packet fields (R39) -/

/-- OPCODE. -/
def pktOp (p : List Byte) : Nat := leAt p 0 1

/-- FLAGS. -/
def pktFlags (p : List Byte) : Nat := leAt p 1 1

/-- BODY_LEN. -/
def pktBodyLen (p : List Byte) : Nat := leAt p 2 2

/-- TIDE. -/
def pktTide (p : List Byte) : Nat := leAt p 8 2

/-- TIDE_VALID. -/
def pktTideValid (p : List Byte) : Bool := bit (pktFlags p) 3

/-- NO_REPLAY. -/
def pktNoReplay (p : List Byte) : Bool := bit (pktFlags p) 2

/-- SILENT. -/
def pktSilent (p : List Byte) : Bool := bit (pktFlags p) 1

/-- IRQ. -/
def pktIrq (p : List Byte) : Bool := bit (pktFlags p) 0

/-- TIMEOUT in µs. -/
def pktTimeout (p : List Byte) : Nat := leAt p 12 4

/-- COOKIE. -/
def pktCookie (p : List Byte) : Nat := leAt p 56 8

/-- The body. -/
def pktBody (p : List Byte) : List Byte := p.drop 64

/-- A number of the body at offset `off`, `size` bytes. -/
def bodyAt (e : Entry) (off size : Nat) : Nat := leAt e.pkt (64 + off) size

/-- Whether the body bytes `lo` to `hi - 1` are all 0. -/
def bodyZero (e : Entry) (lo hi : Nat) : Bool := leAt e.pkt (64 + lo) (hi - lo) = 0

/-- Granules of a packet (R32). -/
def pktGranules (bodyLen : Nat) : Nat := ceilDiv (64 + 16 * bodyLen) 64

/-- The opcode table (Opcodes), with the least and the greatest BODY_LEN the owning chapter gives. -/
def bodyTable : List (Nat × Nat × Nat) :=
  [(0x00, 0, 60), (0x01, 0, 0), (0x02, 0, 2), (0x03, 0, 0), (0x04, 1, 1), (0x05, 1, 1),
   (0x06, 1, 1), (0x10, 3, 3), (0x11, 5, 5), (0x12, 3, 3), (0x13, 5, 5), (0x20, 4, 4),
   (0x21, 4, 4), (0x22, 3, 3), (0x23, 4, 4), (0x24, 4, 4), (0x25, 2, 2), (0x26, 2, 2),
   (0x30, 13, 13), (0x31, 13, 13), (0x32, 13, 13), (0x40, 4, 4), (0x50, 4, 4), (0x51, 3, 3),
   (0x52, 3, 3), (0x53, 3, 3), (0x54, 4, 4), (0x60, 2, 2), (0x61, 3, 3), (0x62, 1, 1),
   (0x70, 1, 1), (0xE0, 3, 3), (0xE1, 1, 1), (0xF0, 3, 3), (0xF1, 1, 1)]

/-- The body lengths of an opcode, none for an opcode not listed (R47). -/
def bodyLens (op : Nat) : Option (Nat × Nat) := (bodyTable.find? (fun r => r.1 = op)).map (fun r => r.2)

/-- The opcodes that may carry TIDE_VALID = 1 (R213); UPDATE reads TIDE too. -/
def tideOpcode (op : Nat) : Bool :=
  [0x30, 0x31, 0x32, 0x13, 0x11, 0x40, 0x22, 0x23, 0x24, 0x60].contains op

/-- The opcodes that hold their ring (Control opcodes). -/
def holdsRing (op : Nat) : Bool := [0x01, 0x03, 0x04, 0x05].contains op

/-- One of the four wait conditions: counter, mode, threshold. -/
structure WaitCond where
  counter : Nat
  mode : Nat
  threshold : Nat
  deriving DecidableEq, Repr

/-- The wait conditions of a packet. -/
def pktWaits (p : List Byte) : List WaitCond :=
  (seqFrom 0 4).map (fun i => ⟨leAt p (16 + 8 * i) 2 % 4096, leAt p (18 + 8 * i) 1, leAt p (20 + 8 * i) 4⟩)

/-- A signal target. -/
structure Signal where
  enable : Bool
  counter : Nat
  remote : Bool
  dest : Nat
  increment : Nat
  deriving DecidableEq, Repr

/-- The signal target at an offset of a packet. -/
def signalAt (p : List Byte) (off : Nat) : Signal :=
  ⟨bit (leAt p off 2) 15, leAt p off 2 % 4096, bit (leAt p (off + 2) 2) 15, leAt p (off + 2) 2 % 4096, leAt p (off + 4) 4⟩

/-- The signal targets of a packet: the header's, and four or two more of a SIGNAL body. -/
def pktSignals (p : List Byte) : List Signal :=
  signalAt p 48 :: (if pktOp p = 2 then (seqFrom 0 (2 * pktBodyLen p)).map (fun i => signalAt p (64 + 8 * i)) else [])

/-- The reserved bits of a signal target are 0. -/
def signalReservedOk (p : List Byte) (off : Nat) : Bool :=
  bits (leAt p off 2) 14 12 = 0 && bits (leAt p (off + 2) 2) 14 12 = 0

/-- The header checks of R427 in their order, as the status and detail of the first that fails. -/
def headerCheck (p : List Byte) (ring : Nat) : Option (Nat × Nat) :=
  let op := pktOp p
  if 60 < pktBodyLen p then some (0x11, 0x08)
  else match bodyLens op with
    | none => some (0x10, 0x00)
    | some (lo, hi) =>
      if leAt p 4 2 % 16 ≠ ring then some (0x11, 0x05)
      else if pktBodyLen p < lo ∨ hi < pktBodyLen p then some (0x11, 0x02)
      else
        let slotExplicit := bit (pktFlags p) 4
        let reservedOk :=
          decide (leAt p 4 2 < 16) && decide (pktFlags p < 32) && decide (leAt p 6 1 < 64) && decide (leAt p 7 1 = 0) &&
          (slotExplicit || decide (leAt p 6 1 = 0)) && decide (leAt p 10 2 = 0) &&
          (pktTideValid p || decide (pktTide p = 0)) && (!pktTideValid p || tideOpcode op) &&
          (seqFrom 0 4).all (fun i => decide (leAt p (16 + 8 * i) 2 < 4096) && decide (leAt p (19 + 8 * i) 1 = 0)) &&
          signalReservedOk p 48
        if !reservedOk then some (0x11, 0x01)
        else if (seqFrom 0 4).any (fun i => decide (2 < leAt p (18 + 8 * i) 1)) then some (0x11, 0x03)
        else if (pktSignals p).any (fun g => g.enable && decide (g.increment = 0)) then some (0x11, 0x04)
        else none

/-! ## Event counters and watches -/

/-- The value of an event counter. -/
def counter (s : State) (c : Nat) : Nat := (s.reg (Reg.EVC_VALUE c)).toNat

/-- Whether a condition holds: GE modulo 2^32, or EQ (R42). -/
def condHolds (mode value threshold : Nat) : Bool :=
  if mode = 1 then (value + 2 ^ 32 - threshold) % 2 ^ 32 < 2 ^ 31
  else if mode = 2 then value = threshold else false

/-- Whether a wait condition holds; NONE always does (R43). -/
def waitHolds (s : State) (w : WaitCond) : Bool := w.mode = 0 || condHolds w.mode (counter s w.counter) w.threshold

/-- Whether all the wait conditions of a packet hold together. -/
def waitsHold (s : State) (p : List Byte) : Bool := (pktWaits p).all (waitHolds s)

/-- Whether a watch's condition is true; EN = 0 counts as false (R45). -/
def watchTrue (s : State) (w : Nat) : Bool :=
  let c := s.reg (Reg.EVC_WATCH_CFG w)
  flag c 31 && condHolds (fld c 17 16) (counter s (fld c 11 0)) (s.reg (Reg.EVC_WATCH_THRESH w)).toNat

/-- The watches whose condition changed from false to true fire (R45). -/
def fireWatches (old new : State) : State :=
  ((seqFrom 0 64).filter (fun w => watchTrue new w && !watchTrue old w)).foldl (fun s w => request s (64 + w)) new

/-- The waiting commands whose conditions all hold become ready (R43). -/
def wakeWaiting (s : State) : State :=
  { s with entries := s.entries.map (fun e =>
      if e.phase = .waiting && waitsHold s e.pkt then { e with phase := .ready } else e) }

/-- A change of an event counter: the waits and the watches are evaluated again (R43, R45). -/
def setCounter (s : State) (c : Nat) (v : Nat) : State :=
  wakeWaiting (fireWatches s (s.setReg (Reg.EVC_VALUE c) (BitVec.ofNat 32 v)))

/-- An atomic increment of an event counter, modulo 2^32 (R45). -/
def addCounter (s : State) (c k : Nat) : State := setCounter s c ((counter s c + k) % 2 ^ 32)

/-! ## Tags -/

/-- The tags held. -/
def tagsHeld (s : State) : Nat := s.entries.length

/-- The tags a ring holds. -/
def ringTags (s : State) (n : Nat) : Nat := (s.entries.filter (fun e => e.ring = n)).length

/-- Whether a tag is available to a ring (R53: device-wide bound, urgent reserve, TAG_LIMIT). -/
def tagFree (s : State) (n : Nat) : Bool :=
  decide (tagsHeld s < 1024) &&
  (urgent s n || decide (tagsHeld s < 1024 - s.fieldAt Reg.CMD_URGENT_RESERVE 8 0)) &&
  (s.fieldAt (Reg.RING_PRIO n) 25 16 = 0 || decide (ringTags s n < s.fieldAt (Reg.RING_PRIO n) 25 16))

/-- The lowest free tag (log entry 7). -/
def freeTag (s : State) : Nat :=
  ((seqFrom 0 1024).find? (fun t => !s.entries.any (fun e => e.tag = t))).getD 0

/-- The entry of a tag. -/
def entryOf (s : State) (t : Nat) : Option Entry := s.entries.find? (fun e => e.tag = t)

/-- The state with the entry of a tag changed. -/
def setEntry (s : State) (t : Nat) (f : Entry → Entry) : State :=
  { s with entries := s.entries.map (fun e => if e.tag = t then f e else e) }

/-- A header or descriptor read once for a command, at its dispatch, and kept for it (R181, R185). -/
def Cmd.readOnce (e : Entry) (a n : Nat) : Cmd (List Byte) := do
  match e.kept.find? (fun p => p.1 = a) with
  | some p => return p.2
  | none =>
    let bs ← Cmd.read a n
    Cmd.update (fun s => setEntry s e.tag (fun c => { c with kept := c.kept ++ [(a, bs)] }))
    return bs

/-- The state with a tag freed. -/
def freeEntry (s : State) (t : Nat) : State := { s with entries := s.entries.filter (fun e => e.tag ≠ t) }

/-- Whether a command has completed: only its reply may still wait. -/
def completed (e : Entry) : Bool :=
  match e.phase with
  | .replyHeld _ _ => true
  | _ => false

/-- Whether a command is dispatched and incomplete (R65). -/
def inFlight (e : Entry) : Bool :=
  match e.phase with
  | .waiting => false
  | .ready => false
  | .replyHeld _ _ => false
  | _ => true

/-- Whether a ring is held by an incomplete FENCE, WAIT, CONFIG_COMMIT or SLOT_SWITCH (R48). -/
def ringHeld (s : State) (n : Nat) : Bool :=
  s.entries.any (fun e => e.ring = n && holdsRing (pktOp e.pkt) && !completed e && (headerCheck e.pkt n).isNone)

/-! ## Replies -/

/-- The phase bit of a completion ring's next reply (R35). -/
def phaseOf (s : State) (n : Nat) : Nat := (s.cplPhase[n]?).getD 1

/-- ENGINE of a reply: QUERY's always names the management core, ATTEST's the security engine (R344, R388, R430); any other names what its
completion says. -/
def replyEngine (e : Entry) (o : Done) : Nat :=
  if pktOp e.pkt = 0x06 then 0xB000 else if pktOp e.pkt = 0xE0 then 0xA000 else o.engine

/-- The 32 bytes of a status reply. -/
def replyBytes (e : Entry) (o : Done) (time phase : Nat) (delayed : Bool) : List Byte :=
  let notes := o.notes ||| e.notes ||| (if delayed then 16 else 0) ||| (if e.remote then 32 else 0) ||| (phase <<< 31)
  toLE 8 (pktCookie e.pkt) ++ toLE 1 o.status ++ toLE 1 o.detail ++ toLE 2 (replyEngine e o) ++ toLE 8 time ++ toLE 8 o.result ++
  toLE 4 notes

/-- Whether a completion ring can take a reply now: active, an entry free, and bus mastering when it lies in host memory
(R36, R323, R429). -/
def cplReady (s : State) (n : Nat) : Bool :=
  ringActive s n &&
  decide ((s.fieldAt (Reg.CPL_TAIL n) 11 0 + 1) % cplSize s n ≠ s.fieldAt (Reg.CPL_HEAD n) 11 0 % cplSize s n) &&
  (decide (cplBase s n < 0x800000000000) || s.pci.busMaster)

/-- Whether every byte of a range can be written, else the first address that faults (R426). -/
def faultIn (s : State) (write : Bool) : Nat → Nat → Option Nat
  | _, 0 => none
  | a, n + 1 =>
    match locate s a with
    | .error 3 => faultIn s write (a + 1) n
    | .error _ => some a
    | .ok p =>
      match p.region with
      | .hbm st => if fenced s st (p.key % 2 ^ 37) then some a else faultIn s write (a + 1) n
      | _ => faultIn s write (a + 1) n

/-- A ring-memory fault: ADDR_ERR and a record of CLASS 0x12 (R426). -/
def ringFault (s : State) (n a : Nat) : State :=
  logEvent (setStatus s (Reg.RING_STATUS n) 7) 0x12 (plainLog 0 0 a)

/-- The interrupts of a completion (R51, R52). -/
def completionIrqs (s : State) (e : Entry) (o : Done) : State :=
  let s1 := if pktIrq e.pkt then request s e.ring else s
  if 0x10 ≤ o.status then request s1 (16 + e.ring) else s1

/-- A reply written into the next completion entry, or lost there; the tag is freed and the interrupts raised (R36, R51, R426). -/
def postReply (s : State) (e : Entry) (o : Done) (time : Nat) (delayed : Bool) : State :=
  let n := e.ring
  let tail := s.fieldAt (Reg.CPL_TAIL n) 11 0
  let a := cplBase s n + 32 * tail
  let s1 := match faultIn s true a 32 with
    | some bad => ringFault s n bad
    | none => storeBytes s a (replyBytes e o time (phaseOf s n) delayed)
  let next := (tail + 1) % cplSize s n
  let s2 := s1.setField (Reg.CPL_TAIL n) 11 0 next
  let s3 := if next = 0 then { s2 with cplPhase := s2.cplPhase.set n (1 - phaseOf s2 n) } else s2
  completionIrqs (freeEntry s3 e.tag) e o

/-- The last step of a completion: a silent one frees its tag, another posts its reply or waits for its ring (R36, R52). -/
def finishReply (s : State) (e : Entry) (o : Done) : State :=
  if pktSilent e.pkt && o.status ≤ 1 then completionIrqs (freeEntry s e.tag) e o
  else if cplReady s e.ring then postReply s e o s.now false
  else setEntry s e.tag (fun x => { x with phase := .replyHeld o s.now })

/-! ## What a command's end leaves (R49, R368, R371) -/

/-- Whether the outputs of a failed command are undefined (R49), and its effects so far stand. -/
def leavesUndefined (status : Nat) : Bool := status = 0x12 || status = 0x13 || status = 0x14 || status = 0x15 || status = 0x30

/-- A record that names a command. -/
def commandLog (e : Entry) (action unit address detail : Nat) : LogFields :=
  ⟨action, unit, address, pktCookie e.pkt, detail, e.ring + 0x8000⟩

/-- The record, event bit and log entry of a completion with POISON (R371). -/
def notePoison (s : State) (e : Entry) (engine detail address : Nat) : State :=
  setStatus (logEvent s 0x0D (commandLog e 7 engine address detail)) Reg.RAS_EVENT 6

/-- Whether two extents overlap. -/
def extentsMeet (a b : Nat × Nat) : Bool := decide (a.1 < b.1 + b.2) && decide (b.1 < a.1 + a.2)

/-- The replay records left valid by a write of some extents (R368). -/
def dropRecords (s : State) (outs : List (Nat × Nat)) : State :=
  if s.replay.isEmpty then s
  else { s with replay := s.replay.filter (fun r => !(r.ins ++ r.outs).any (fun x => outs.any (extentsMeet x))) }

end Sys2Proof.Machine
end

