-- ==== Sys2Proof/Machine/Formats.lean ====
section
/-! DEFINITION. Element formats, operand format words, scale records, quantisation, rotation and FS48 (05_number_formats). -/

namespace Sys2Proof.Machine

open Sys2Proof

/-! ## Element codes (R116, R117, R120, R121) -/

/-- The bits of an element format; 8 for OPAQUE, whose bytes have no numeric meaning. -/
def fmtBits (code : Nat) : Nat :=
  if code = 0x01 then 32 else if code = 0x02 ∨ code = 0x03 then 16
  else if code = 0x04 ∨ code = 0x05 ∨ code = 0x09 ∨ code = 0x0A then 8
  else if code = 0x06 ∨ code = 0x07 then 6 else if code = 0x08 ∨ code = 0x0B ∨ code = 0x0C then 4
  else if code = 0x0D then 2 else if code = 0x0E then 48 else if code = 0x0F then 64 else 8

/-- The floating-point format of a code. -/
def floatOf (code : Nat) : Option FloatFmt :=
  if code = 0x01 then some fp32 else if code = 0x02 then some bf16 else if code = 0x03 then some fp16
  else if code = 0x04 then some e4m3 else if code = 0x05 then some e5m2 else if code = 0x06 then some e2m3
  else if code = 0x07 then some e3m2 else if code = 0x08 then some e2m1 else none

/-- Whether a code is U8Z or U4Z. -/
def unsignedFmt (code : Nat) : Bool := code = 0x0A || code = 0x0C

/-- Whether a code is FS48 or FS48W. -/
def fsFmt (code : Nat) : Bool := code = 0x0E || code = 0x0F

/-- The largest code of U8Z or U4Z. -/
def qmaxOf (code : Nat) : Nat := if code = 0x0A then 255 else 15

/-- The poison integer of FS48 and FS48W (R135). -/
def fsPoison (code : Nat) : Int := if code = 0x0E then -2 ^ 47 else -2 ^ 63

/-- The largest number of FS48 and FS48W. -/
def fsMax (code : Nat) : Int := if code = 0x0E then 2 ^ 47 - 1 else 2 ^ 63 - 1

/-- The value of an element code before scales: zero point `zp` subtracted, FS48 at exponent `fsExp`; poison of FS48 is
delivered as NaN (R117, R120, R121, R136). -/
def decodeElem (code zp : Nat) (fsExp : Int) (x : Nat) : Val :=
  match floatOf code with
  | some f => f.decode x
  | none =>
    if code = 0x09 then Val.ofInt (signed 8 x)
    else if code = 0x0B then Val.ofInt (signed 4 x)
    else if code = 0x0A ∨ code = 0x0C then Val.ofInt ((x : Int) - zp)
    else if code = 0x0D then (if x = 1 then .fin 1 0 else if x = 3 then .fin (-1) 0 else .zero false)
    else if fsFmt code then
      let q := signed (fmtBits code) x
      if q = fsPoison code then .nan else Val.of q fsExp
    else .zero false

/-! ## Operand format words (R123) -/

/-- An operand format word. -/
structure FmtWord where
  elem : Nat
  scale : Nat
  rot : Nat
  zp : Nat
  fsExp : Int
  fsRaw : Nat
  pwLayer : Nat
  pwRole : Nat
  pwEn : Bool
  pwReserved : Bool
  scaleBase : Nat
  deriving DecidableEq, Repr

/-- The format word of 16 bytes. -/
def fmtWord (b : List Byte) : FmtWord where
  elem := leAt b 0 1
  scale := leAt b 1 1
  rot := leAt b 2 1
  zp := leAt b 3 1
  fsExp := signed 16 (leAt b 4 2)
  fsRaw := leAt b 4 2
  pwLayer := bits (leAt b 6 2) 9 0
  pwRole := bits (leAt b 6 2) 11 10
  pwEn := bit (leAt b 6 2) 15
  pwReserved := bits (leAt b 6 2) 14 12 ≠ 0
  scaleBase := leAt b 8 8

/-- The size of a rotation: 32, 64, 128 or 256; 0 for none. -/
def rotSize (code : Nat) : Nat := if code = 0 then 0 else 16 * 2 ^ code

/-- Bytes of one scale record. -/
def scaleSize (kind : Nat) : Nat := if kind = 1 then 1 else if kind = 2 then 2 else if kind = 3 then 8 else 0

/-- The scale kinds a format allows. -/
def scaleAllowed (elem kind : Nat) : Bool :=
  if kind = 0 then true
  else if [0x04, 0x05, 0x06, 0x07, 0x08, 0x09, 0x0B].contains elem then kind = 1 || kind = 3
  else if elem = 0x0A ∨ elem = 0x0C then decide (kind ≤ 3)
  else if elem = 0x0D then kind = 1 else false

/-- Whether a format may be rotated. -/
def rotAllowed (elem : Nat) : Bool :=
  [0x01, 0x02, 0x03, 0x04, 0x05, 0x06, 0x07, 0x08, 0x09, 0x0B].contains elem

/-- The checks on a format word by itself, as (holds, detail): R116, R123, and the reserved bits of PW. `opaque`: whether
the owning chapter accepts OPAQUE. -/
def fmtChecks (w : FmtWord) (opaqueOk : Bool) : List (Bool × Nat) :=
  [(decide (w.elem ≤ 0x0F) && (opaqueOk || decide (w.elem ≠ 0)), 0x40),
   (decide (w.scale ≤ 3) && scaleAllowed w.elem w.scale && decide (w.scaleBase = 0 ↔ w.scale = 0), 0x41),
   (decide (w.scaleBase % 8 = 0), 0x47),
   (decide (w.rot ≤ 4) && (decide (w.rot = 0) || rotAllowed w.elem), 0x43),
   (decide (w.zp = 0) || (unsignedFmt w.elem && decide (w.scale ≤ 1) && decide (w.zp ≤ qmaxOf w.elem)), 0x44),
   (if fsFmt w.elem then decide (-256 ≤ w.fsExp ∧ w.fsExp ≤ 127) else decide (w.fsRaw = 0), 0x45),
   (!w.pwReserved && decide (w.pwRole ≠ 3), 0x01)]

/-- Bytes of a row of elements (R122). -/
def rowBytes (elem cols : Nat) : Nat := ceilDiv (cols * fmtBits elem) 8

/-! ## Scale records (R124 to R127) -/

/-- A scale record: scale code, zero point, escapes as position and BF16 code, and what R127 faults. -/
structure ScaleRec where
  scale : Nat
  zp : Nat
  escapes : List (Nat × Nat)
  count : Nat
  deriving DecidableEq, Repr

/-- The record of kind `kind` in the bits `x`; the word's zero point stands where the kind carries none. -/
def parseScale (kind wordZp x : Nat) : ScaleRec :=
  if kind = 1 then ⟨x % 256, wordZp, [], 0⟩
  else if kind = 2 then ⟨x % 256, bits x 15 8, [], 0⟩
  else
    let n := bits x 9 8
    ⟨x % 256, bits x 59 52, [(bits x 14 10, bits x 30 15), (bits x 35 31, bits x 51 36)].take n, n⟩

/-- The METADATA_FAULT of a malformed record, if any (R127): block of `n` elements of format `elem`. -/
def scaleFault (elem n : Nat) (r : ScaleRec) : Option Nat :=
  if r.count = 3 then some 0x40
  else if r.escapes.any (fun p => decide (n ≤ p.1)) then some 0x41
  else if !unsignedFmt elem && decide (r.zp ≠ 0) then some 0x42
  else none

/-- The record as the bits of its kind; unused escape fields are 0. -/
def scaleBits (kind : Nat) (r : ScaleRec) : Nat :=
  if kind = 1 then r.scale
  else if kind = 2 then r.scale + 256 * r.zp
  else
    let e0 := (r.escapes[0]?).getD (0, 0)
    let e1 := (r.escapes[1]?).getD (0, 0)
    r.scale + 2 ^ 8 * r.escapes.length + 2 ^ 10 * e0.1 + 2 ^ 15 * e0.2 + 2 ^ 31 * e1.1 + 2 ^ 36 * e1.2 + 2 ^ 52 * r.zp

/-- The value of element `p` of a block: 2^(e − 127) × (dec + escapes); NaN under scale code 0xFF (R125, R126). -/
def blockValue (elem : Nat) (fsExp : Int) (r : ScaleRec) (p x : Nat) : Val :=
  if r.scale = 255 then .nan
  else
    let base := decodeElem elem r.zp fsExp x
    let sum := (r.escapes.filter (fun q => q.1 = p)).foldl (fun v q => v.add (bf16.decode q.2)) base
    sum.scale ((r.scale : Int) - 127)

/-! ## Elements of a row -/

/-- The bits of element `i` of width `w` in a row's bytes (R122); none where a byte of it is poisoned. -/
def elemBits (row : List (Option Byte)) (w i : Nat) : Option Nat :=
  let lo := i * w / 8
  let hi := (i * w + w - 1) / 8
  (plainBytes ((row.drop lo).take (hi + 1 - lo))).map (fun bs => leNat bs >>> (i * w % 8) % 2 ^ w)

/-- The elements of a packed row of `n` elements of width `w`. -/
def unpackP (w n : Nat) (row : List (Option Byte)) : List (Option Nat) := (seqFrom 0 n).map (elemBits row w)

/-- A number built from elements of width `w`, the first lowest (R122). -/
def packNat (w : Nat) : List Nat → Nat
  | [] => 0
  | x :: xs => x % 2 ^ w + 2 ^ w * packNat w xs

/-- A row of elements packed into bytes (R122). -/
def packRow (w : Nat) (xs : List Nat) : List Byte := toLE (ceilDiv (xs.length * w) 8) (packNat w xs)

/-- A list cut into pieces of `n`. -/
def chunks {α : Type} (n : Nat) : Nat → List α → List (List α)
  | 0, _ => []
  | fuel + 1, l => if l.isEmpty then [] else l.take n :: chunks n fuel (l.drop n)

/-! ## Quantisation (R129 to R131) -/

/-- The events of R131 and R121, and the elements counted. -/
structure Events where
  sat : Nat
  under : Nat
  escOvf : Nat
  t2 : Nat
  nonfinite : Nat
  elems : Nat
  deriving DecidableEq, Repr

/-- No events. -/
def Events.none : Events := ⟨0, 0, 0, 0, 0, 0⟩

/-- Events added. -/
def Events.add (a b : Events) : Events :=
  ⟨a.sat + b.sat, a.under + b.under, a.escOvf + b.escOvf, a.t2 + b.t2, a.nonfinite + b.nonfinite, a.elems + b.elems⟩

/-- A quantised block: its record, codes, events, and the elements poisoned (R371). -/
structure Quantised where
  record : ScaleRec
  codes : List Nat
  events : Events
  poisoned : Nat
  deriving DecidableEq, Repr

/-- The largest magnitude of a signed format as a value: maxf (R129). -/
def maxfOf (elem : Nat) : Val :=
  match floatOf elem with
  | some f => f.maxVal
  | none => if elem = 0x09 then .fin 127 0 else if elem = 0x0B then .fin 7 0 else .fin 1 0

/-- rne_sat(v, f): the code, and whether the element is clamped (R129). `v` is finite. -/
def rneSat (elem : Nat) (v : Val) : Nat × Bool :=
  match floatOf elem with
  | some f => (f.encode (f.rneSat v), match f.round v with | .fin m e => f.beyond (.fin m e) | _ => false)
  | none =>
    let n := v.rneInt 0
    if elem = 0x09 then (unsigned 8 (clampInt n (-128) 127), decide (n < -128 ∨ 127 < n))
    else if elem = 0x0B then (unsigned 4 (clampInt n (-8) 7), decide (n < -8 ∨ 7 < n))
    else
      let t := clampInt n (-1) 1
      (if t = 1 then 1 else if t = -1 then 3 else 0, decide (n < -1 ∨ 1 < n))

/-- The code written for a poisoned element of a format without block scales (R371). -/
def poisonCode (elem : Nat) : Nat :=
  if elem = 0x01 then 0x7FC00000 else if elem = 0x02 then 0x7FC0 else if elem = 0x03 then 0x7E00
  else if elem = 0x04 then 0x7F else if elem = 0x05 then 0x7E
  else if elem = 0x0E then 2 ^ 47 else if elem = 0x0F then 2 ^ 63 else 0

/-- The code of a NaN or an infinity in a format without block scales (R130). -/
def specialCode (elem zp : Nat) (v : Val) : Nat :=
  match v with
  | .lost => poisonCode elem
  | .inf n =>
    (match floatOf elem with
     | some f => f.encode (if f.hasInf then .inf n else (if n then f.maxVal.negate else f.maxVal))
     | none =>
       if unsignedFmt elem then (if n then 0 else qmaxOf elem)
       else if elem = 0x09 then (if n then 0x81 else 0x7F)
       else if elem = 0x0B then (if n then 9 else 7)
       else if elem = 0x0D then (if n then 3 else 1) else poisonCode elem)
  | _ =>
    (match floatOf elem with
     | some f => if f.hasNan then f.encode .nan else 0
     | none => if unsignedFmt elem then zp else if fsFmt elem then poisonCode elem else 0)

/-- The greater of two values. -/
def maxVal (a b : Val) : Val := if Val.lt a b then b else a

/-- The lesser of two values. -/
def minVal (a b : Val) : Val := if Val.lt b a then b else a

/-- The scale exponent and zero point of an unsigned block (R129). -/
def unsignedScale (elem kind zp : Nat) (xs : List Val) : Int × Nat :=
  let lo := xs.foldl minVal (.zero false)
  let hi := xs.foldl maxVal (.zero false)
  let qm := qmaxOf elem
  if kind = 2 ∨ kind = 3 then
    let s := if (hi.sub lo).isZero then 0 else clampInt (ceilLog2Ratio (hi.sub lo) (.fin qm 0)) (-127) 127
    (s, (clampInt (lo.negate.rneInt (-s)) 0 qm).toNat)
  else
    let a := if !hi.isZero && decide (zp < qm) then [ceilLog2Ratio hi (.fin ((qm : Int) - zp) 0)] else []
    let b := if !lo.isZero && decide (0 < zp) then [ceilLog2Ratio lo.negate (.fin zp 0)] else []
    let need := a ++ b
    (if kind = 0 ∨ need.isEmpty then 0 else clampInt (need.foldl max (need.headD 0)) (-127) 127, zp)

/-- The outliers of a block as (position, error), the largest error first and then the lowest position (R129). -/
def insertOver (x : Nat × Val) : List (Nat × Val) → List (Nat × Val)
  | [] => [x]
  | y :: l => if Val.lt y.2 x.2 then x :: y :: l else y :: insertOver x l

/-- The three largest magnitudes first. -/
def insertMag (x : Val) : List Val → List Val
  | [] => [x]
  | y :: l => if Val.lt y x then x :: y :: l else y :: insertMag x l

/-- One block of up to 32 values, or one row when the kind is NONE, quantised (R129, R130, R131). -/
def quantiseBlock (elem kind : Nat) (escEn : Bool) (zp : Nat) (xs : List Val) : Quantised :=
  let nf := (xs.filter (fun v => !v.finite && v ≠ .lost)).length
  let lost := (xs.filter (fun v => v = .lost)).length
  if kind ≠ 0 && (0 < nf + lost) then
    { record := ⟨255, 0, [], 0⟩, codes := xs.map (fun _ => 0),
      events := { Events.none with nonfinite := nf, elems := xs.length },
      poisoned := if 0 < lost then xs.length else 0 }
  else
    let fin := xs.map (fun v => if v.finite then v else .zero false)
    if unsignedFmt elem then
      let (s, z) := unsignedScale elem kind zp fin
      let raw : List Int := fin.map (fun v => v.rneInt (-s) + (z : Int))
      let codes := raw.map (fun q => (clampInt q 0 (qmaxOf elem)).toNat)
      let clamped := (raw.filter (fun q => decide (q < 0 ∨ (qmaxOf elem : Int) < q))).length
      let under := ((fin.zip codes).filter (fun p => !p.1.isZero && decide (p.2 = z))).length
      let ovf := kind = 3 && escEn
      { record := ⟨(s + 127).toNat, if kind = 2 ∨ kind = 3 then z else 0, [], 0⟩,
        codes := (xs.zip codes).map (fun p => if p.1.finite then p.2 else specialCode elem z p.1),
        events := { Events.none with sat := if ovf then 0 else clamped, escOvf := if ovf then clamped else 0,
                                     under := under, nonfinite := nf, elems := xs.length },
        poisoned := lost }
    else
      let esc := escEn && kind = 3 && decide (3 ≤ xs.length)
      let mags := fin.foldl (fun l v => insertMag v.abs l) []
      let ref := (mags[if esc then 2 else 0]?).getD (.zero false)
      let s : Int := if kind = 0 ∨ ref.isZero then 0 else clampInt (ceilLog2Ratio ref (maxfOf elem)) (-127) 127
      let scaled := fin.map (fun v => v.scale (-s))
      let q := scaled.map (rneSat elem)
      let outliers := ((scaled.zip q).zipIdx.filter (fun t => Val.lt (maxfOf elem) t.1.1.abs)).foldl
        (fun l t => insertOver (t.2, (t.1.1.sub (decodeElem elem 0 0 t.1.2.1)).abs) l) []
      let chosen := if esc then outliers.take 2 else []
      let escapes := chosen.map (fun t =>
        let v := (scaled[t.1]?).getD (.zero false)
        let c := ((q[t.1]?).getD (0, false)).1
        (t.1, bf16.encode (bf16.rne (v.sub (decodeElem elem 0 0 c)))))
      let clamped := (q.zipIdx.filter (fun t => t.1.2 && !chosen.any (fun c => c.1 = t.2))).length
      let rec0 : ScaleRec := ⟨(s + 127).toNat, 0, escapes, escapes.length⟩
      let under := ((fin.zip q).zipIdx.filter (fun t =>
        !t.1.1.isZero && !chosen.any (fun c => c.1 = t.2) && (blockValue elem 0 rec0 t.2 t.1.2.1).isZero)).length
      let ovf := kind = 3 && escEn
      { record := rec0,
        codes := (xs.zip q).map (fun p => if p.1.finite then p.2.1 else specialCode elem 0 p.1),
        events := { Events.none with sat := if ovf then 0 else clamped, escOvf := if ovf then clamped else 0,
                                     under := under, nonfinite := nf, elems := xs.length },
        poisoned := lost }

/-! ## FS48 (R135, R136) -/

/-- A value written in FS48 or FS48W at exponent `e`: the code and the events. A non-finite value gives poison; a value other than 0
that becomes 0 underflows (R118). -/
def toFs (elem : Nat) (e : Int) (v : Val) : Nat × Events :=
  match v with
  | .lost => (poisonCode elem, { Events.none with elems := 1 })
  | .zero _ => (0, { Events.none with elems := 1 })
  | .fin _ _ =>
    let q := v.rneInt (-e)
    if q.natAbs ≤ (fsMax elem).natAbs then
      (unsigned (fmtBits elem) q, { Events.none with elems := 1, under := b2n (decide (q = 0) && !v.isZero) })
    else (unsigned (fmtBits elem) (clampInt q (-(fsMax elem)) (fsMax elem)), { Events.none with sat := 1, elems := 1 })
  | _ => (poisonCode elem, { Events.none with nonfinite := 1, elems := 1 })

/-- One row of values quantised into a format: the bytes of its elements, its scale records, events, poisoned elements. -/
structure RowOut where
  bytes : List Byte
  records : List Nat
  events : Events
  poisoned : Nat
  deriving DecidableEq, Repr

/-- A row of FP32-range values from FS48 into a float format: beyond the range gives infinity and counts NONFINITE (R136). -/
def fsToFloat (f : FloatFmt) (v : Val) : Nat × Events :=
  match f.rne v with
  | .fin m e => (f.encode (.fin m e), { Events.none with elems := 1 })
  | .zero n => (f.encode (.zero n), { Events.none with elems := 1, under := b2n !v.isZero })
  | .lost => (f.encode .nan, { Events.none with elems := 1 })
  | w => (f.encode w, { Events.none with nonfinite := 1, elems := 1 })

/-- A row quantised under a format word (R129 to R131, R136). -/
def quantiseRow (w : FmtWord) (escEn : Bool) (xs : List Val) : RowOut :=
  if fsFmt w.elem then
    let r := xs.map (toFs w.elem w.fsExp)
    { bytes := packRow (fmtBits w.elem) (r.map (fun p => p.1)), records := [],
      events := r.foldl (fun a p => a.add p.2) Events.none, poisoned := (xs.filter (fun v => v = .lost)).length }
  else
    let blocks := if w.scale = 0 then [xs] else chunks 32 (xs.length / 32 + 1) xs
    let q := blocks.map (quantiseBlock w.elem w.scale escEn w.zp)
    { bytes := packRow (fmtBits w.elem) (q.flatMap (fun b => b.codes)),
      records := if w.scale = 0 then [] else q.map (fun b => scaleBits w.scale b.record),
      events := q.foldl (fun a b => a.add b.events) Events.none,
      poisoned := q.foldl (fun a b => a + b.poisoned) 0 }

/-! ## Rotation (R132) -/

/-- x × H_n for n = 2^k: the Sylvester matrix applied by halves, each sum exact. -/
def hadamard : Nat → List Val → List Val
  | 0, xs => xs
  | k + 1, xs =>
    let a := xs.take (2 ^ k)
    let b := xs.drop (2 ^ k)
    hadamard k ((a.zip b).map (fun p => p.1.add p.2)) ++ hadamard k ((a.zip b).map (fun p => p.1.sub p.2))

/-- The exponent of the activation factor c_a or of the weight factor c_w of a rotation code (Rotation factors). -/
def rotFactor (code : Nat) (weight : Bool) : Int :=
  if code = 1 then (if weight then -3 else -2) else if code = 2 then -3
  else if code = 3 then (if weight then -4 else -3) else -4

/-- A row rotated in runs of the rotation's size: exact sums times c, each rounded once to FP32 (R132, R133). -/
def rotateRow (code : Nat) (weight : Bool) (xs : List Val) : List Val :=
  if code = 0 then xs
  else (chunks (rotSize code) (xs.length / rotSize code + 1) xs).flatMap (fun run =>
    (hadamard (4 + code) run).map (fun v => fp32.rne (v.scale (rotFactor code weight))))

/-! ## Tensors in memory -/

/-- The values of a row of `cols` elements from its bytes and the bytes of its scale records (R124 to R127), and the reserved T2 codes
met. -/
def Cmd.decodeRow (w : FmtWord) (cols : Nat) (bytes recs : List (Option Byte)) : Cmd (List Val × Nat) := do
  let codes := unpackP (fmtBits w.elem) cols bytes
  let t2 := (codes.filter (fun c => c = some 2)).length
  let t2 := if w.elem = 0x0D then t2 else 0
  if w.scale = 0 then
    return (codes.map (fun c => match c with
      | some x => decodeElem w.elem w.zp w.fsExp x
      | none => .lost), t2)
  else
    let nb := ceilDiv cols 32
    let sz := scaleSize w.scale
    let parts := (chunks 32 (nb + 1) codes).zip (chunks sz (nb + 1) recs)
    let rows ← parts.mapM (fun p => do
      match plainBytes p.2 with
      | none => return p.1.map (fun _ => Val.lost)
      | some rb =>
        let r := parseScale w.scale w.zp (leNat rb)
        match scaleFault w.elem p.1.length r with
        | some d => Cmd.fail 0x13 d
        | none => return p.1.zipIdx.map (fun c => match c.1 with
          | some x => blockValue w.elem w.fsExp r c.2 x
          | none => .lost))
    return (rows.flatten, t2)

/-- A tensor's row as values, and the reserved T2 codes met, of the elements that `need` names; the others read as codes 0. `cols`
elements along the contraction dimension; `row` numbers the scale records. -/
def Cmd.readRowWhere (w : FmtWord) (base stride row cols : Nat) (need : Nat → Bool) : Cmd (List Val × Nat) := do
  let bits_ := fmtBits w.elem
  let bytes ← Cmd.readWhere (base + row * stride) (rowBytes w.elem cols) (fun i =>
    (seqFrom (8 * i / bits_) ((8 * i + 7) / bits_ + 1 - 8 * i / bits_)).any (fun c => decide (c < cols) && need c))
  let nb := ceilDiv cols 32
  let sz := scaleSize w.scale
  let recs ← if w.scale = 0 then pure [] else Cmd.readWhere (w.scaleBase + row * nb * sz) (nb * sz) (fun i => (seqFrom (i / sz * 32) 32).any (fun c => decide (c < cols) && need c))
  Cmd.decodeRow w cols bytes recs

/-- A tensor's row as values, and the reserved T2 codes met. -/
def Cmd.readRow (w : FmtWord) (base stride row cols : Nat) : Cmd (List Val × Nat) := do
  let bytes ← Cmd.readP (base + row * stride) (rowBytes w.elem cols)
  let recs ← if w.scale = 0 then pure []
    else Cmd.readP (w.scaleBase + row * ceilDiv cols 32 * scaleSize w.scale) (ceilDiv cols 32 * scaleSize w.scale)
  Cmd.decodeRow w cols bytes recs

/-- A tensor's row written with its scale records; bits up to the stride are 0 (R122, R124). -/
def Cmd.writeRow (w : FmtWord) (base stride row cols : Nat) (o : RowOut) : Cmd Unit := do
  Cmd.write (base + row * stride) (padTo (max stride o.bytes.length) o.bytes)
  if w.scale = 0 then return ()
  else
    let nb := ceilDiv cols 32
    let sz := scaleSize w.scale
    Cmd.write (w.scaleBase + row * nb * sz) (o.records.flatMap (fun r => toLE sz r))

/-- Declares a tensor as output: its rows up to the stride, and its scale records. -/
def Cmd.declareTensor (w : FmtWord) (base stride rows cols : Nat) : Cmd Unit := do
  Cmd.declare base (rows * stride)
  if w.scale = 0 then return () else Cmd.declare w.scaleBase (rows * ceilDiv cols 32 * scaleSize w.scale)

end Sys2Proof.Machine
end

