-- ==== Sys2Proof/Machine/Watch.lean ====
section
/-! DEFINITION. Precision watch (05_number_formats R138 to R142). The layer records are in memory; the module writes them. -/

namespace Sys2Proof.Machine

open Sys2Proof

/-- The address of a layer's record. -/
def pwAddr (s : State) (layer : Nat) : Nat := s.pw.base + 128 * layer

/-- A field of a layer's record. -/
def pwField (s : State) (layer off size : Nat) : Nat := leNat (unitBytes s (pwAddr s layer + off) size)

/-- A field of a layer's record replaced. -/
def setPw (s : State) (layer off size v : Nat) : State := storeBytes s (pwAddr s layer + off) (toLE size v)

/-- Whether a layer is in use: below PW_CTRL.LAYERS, with a record that R142 loaded. -/
def pwLoaded (s : State) (layer : Nat) : Bool :=
  decide (layer < s.fieldAt Reg.PW_CTRL 10 0) && s.pw.layers.contains layer

/-- The check of R138 on a format word: 0x46. -/
def pwCheck (s : State) (p : List Byte) (w : FmtWord) : Bool × Nat :=
  (!w.pwEn || (pwLoaded s w.pwLayer && (decide (w.pwRole = 0) || pktTideValid p)), 0x46)

/-- Whether a word counts events and takes part in promotion (R138, R140). -/
def pwNames (w : FmtWord) : Bool := w.pwEn && w.pwRole ≠ 0

/-- The comparison "at or after", modulo 2^16 (R93). -/
def atOrAfter (a b : Nat) : Bool := (a + 2 ^ 16 - b % 2 ^ 16) % 2 ^ 16 < 2 ^ 15

/-- Whether commands of a tide run promoted under a layer (R140, R141). -/
def promotedAt (s : State) (layer t : Nat) : Bool :=
  (bit (pwField s layer 68 1) 0 && atOrAfter t (pwField s layer 66 2)) ||
  s.pw.demoted.any (fun d => d.1 = layer && atOrAfter t d.2.1 && !atOrAfter t d.2.2)

/-- Whether DECIDED has reached t − 2 for a layer (R140). -/
def decidedFor (s : State) (layer t : Nat) : Bool := atOrAfter (pwField s layer 64 2) ((t + 2 ^ 16 - 2) % 2 ^ 16)

/-- A word and its base address after the substitution of R140, and whether it was substituted. -/
def substitute (s : State) (t : Nat) (w : FmtWord) (base : Nat) : FmtWord × Nat × Bool :=
  if pwNames w && promotedAt s w.pwLayer t then
    if w.pwRole = 1 then (fmtWord (unitBytes s (pwAddr s w.pwLayer + 96) 16), pwField s w.pwLayer 80 8, true)
    else (fmtWord (unitBytes s (pwAddr s w.pwLayer + 112) 16), pwField s w.pwLayer 88 8, true)
  else (w, base, false)

/-- One saturating count of a set advanced. -/
def bumpPw (s : State) (layer off k : Nat) : State :=
  if k = 0 then s else setPw s layer off 4 (satAdd32 (pwField s layer off 4) k)

/-- Events added to SET[tide mod 2] of a layer (R138). -/
def countPw (s : State) (layer tide : Nat) (e : Events) : State :=
  let o := 32 * (tide % 2)
  bumpPw (bumpPw (bumpPw (bumpPw (bumpPw (bumpPw s layer o e.sat) layer (o + 4) e.under) layer (o + 8) e.escOvf)
    layer (o + 12) e.t2) layer (o + 16) e.nonfinite) layer (o + 20) e.elems

/-- Events of a command added under a word's layer, if it names one. -/
def countWord (s : State) (w : FmtWord) (tide : Nat) (e : Events) : State :=
  if pwNames w then countPw s w.pwLayer tide e else s

/-- The kinds that trip when the counts of a tide are closed, as the REASON bits (R139 step 1). -/
def pwTrips (s : State) (layer tide : Nat) : Nat :=
  let o := 32 * (tide % 2)
  let elems := pwField s layer (o + 20) 4
  (seqFrom 0 4).foldl (fun acc k =>
    if (s.reg (Reg.PW_THRESH k)).toNat * elems < pwField s layer (o + 4 * k) 4 * 2 ^ 32 then acc + 2 ^ k else acc) 0

/-- The record of a layer read by the module for itself (R242). -/
def scanLayer (s : State) (layer : Nat) : State := scanWords s (pwAddr s layer) 128

/-- The counts of a tide closed for one layer (R139). -/
def closeLayer (s0 : State) (tide layer : Nat) : State :=
  let s := scanLayer s0 layer
  let trips := pwTrips s layer tide
  let s1 :=
    if trips ≠ 0 && s.bitAt Reg.PW_CTRL 31 && !bit (pwField s layer 68 1) 0 then
      let a := setPw (setPw (setPw s layer 68 1 1) layer 66 2 ((tide + 2) % 2 ^ 16)) layer 69 1 trips
      let b := (a.setBit Reg.PW_EVENT 31 true).setField Reg.PW_EVENT 9 0 layer
      if s.bitAt Reg.PW_CTRL 15 then addCounter b (s.fieldAt Reg.PW_CTRL 27 16) 1 else b
    else s
  setPw (storeBytes s1 (pwAddr s layer + 32 * (tide % 2)) (toLE 32 0)) layer 64 2 tide

/-- The counts of a tide closed for every layer record whose SLOT and TIDE_ENTRY name the entry (R139, R221 step 1). -/
def closeWatch (s : State) (slot entry tide : Nat) : State :=
  (s.pw.layers.filter (fun l => decide (pwField s l 70 1 % 64 = slot) && decide (pwField s l 72 4 = entry))).foldl
    (fun s l => closeLayer s tide l) s

/-- A write to PW_DEMOTE: PROMOTED cleared for commands of FROM_TIDE and later, at once (R141). -/
def demote (s : State) (layer fromTide : Nat) : State :=
  if pwLoaded s layer && bit (pwField s layer 68 1) 0 then
    let s1 := setPw s layer 68 1 0
    { s1 with pw := { s1.pw with demoted := (layer, pwField s layer 66 2, fromTide) :: s1.pw.demoted.filter (fun d => d.1 ≠ layer) } }
  else s

end Sys2Proof.Machine
end

