-- ==== Sys2Proof/Machine/Tides.lean ====
section
/-! DEFINITION. Tide tables, resolution, readers, holds, the flip and retirement of tides (10_tides). -/

namespace Sys2Proof.Machine

open Sys2Proof

/-! ## Model slots and their tables -/

/-- A loaded model slot. -/
def modelSlot (s : State) (n : Nat) : Option ModelSlot := s.slots.find? (fun m => m.slot = n)

/-- Whether a model slot is loaded: its bit of SLOT_LOADED. -/
def slotLoaded (s : State) (n : Nat) : Bool := (s.pair Reg.SLOT_LOADED_LO).testBit n

/-- The seed of a model slot (Slot descriptor). -/
def slotSeed (s : State) (n : Nat) : Nat := ((modelSlot s n).map (fun m => leAt m.desc 32 8)).getD 0

/-- The tide table's address. -/
def tideBase (m : ModelSlot) : Nat := leAt m.desc 40 8

/-- A live tide-table entry. -/
def tideEntry (s : State) (slot i : Nat) : Option TideEntry :=
  match modelSlot s slot with
  | some m => m.tides[i]?
  | none => none

/-- Version slots an entry may use: SLOTS, or TIDE_SLOTS (R225). -/
def slotCount (s : State) (e : TideEntry) : Nat :=
  if bits e.ctrl 4 3 = 0 then s.fieldAt Reg.TIDE_SLOTS 1 0 else bits e.ctrl 4 3

/-- PAIRED of an entry. -/
def TideEntry.paired (e : TideEntry) : Bool := bit e.ctrl 1

/-- MANUAL of an entry. -/
def TideEntry.manual (e : TideEntry) : Bool := bit e.ctrl 2

/-- Whether a version slot's tide is present: LIVE or SUPERSEDED (Reading a tide). -/
def VersionSlot.present (v : VersionSlot) : Bool := v.state = 2 || v.state = 3

/-- A version slot that is FREE. -/
def VersionSlot.empty : VersionSlot := ⟨0, 0, 0, 0⟩

/-- The 8 bytes of a version-slot record. -/
def vslotBytes (v : VersionSlot) : List Byte :=
  if v.state = 0 then toLE 8 0 else toLE 8 (v.tide + 2 ^ 16 * v.state + 2 ^ 32 * v.holds + 2 ^ 48 * v.readers)

/-- The version-slot record of 8 bytes. -/
def parseVslot (x : Nat) : VersionSlot := ⟨x % 2 ^ 16, bits x 18 16, bits x 47 32, bits x 63 48⟩

/-- The tide-table entry of 64 bytes. -/
def parseTide (b : List Byte) : TideEntry where
  regionBase := leAt b 0 8
  regionBytes := leAt b 8 8
  vstride := leAt b 16 8
  kind := leAt b 24 1
  ctrl := leAt b 25 1
  current := leAt b 26 2
  vslots := (seqFrom 0 3).map (fun i => parseVslot (leAt b (32 + 8 * i) 8))

/-- Bytes written through to the table, or lost with a record of CLASS 0x12 (R210). -/
def writeThrough (s : State) (a : Nat) (bs : List Byte) : State :=
  match faultIn s true a bs.length with
  | some bad => logEvent s 0x12 (plainLog 0 0 bad)
  | none => storeBytes s a bs

/-- What a change of a tide-table entry writes through: CURRENT, and each version-slot record, where it changes; as the place in the
entry and the bytes (R210). -/
def tideWrites (e e' : TideEntry) : List (Nat × List Byte) :=
  (if e.current = e'.current then [] else [(26, toLE 2 e'.current)]) ++
  (((e.vslots.zip e'.vslots).zipIdx.filter (fun p => decide (p.1.1 ≠ p.1.2))).map (fun p => (32 + 8 * p.2, vslotBytes p.1.2)))

/-- A live tide-table entry changed, and the change written through (R210). -/
def setTide (s : State) (slot i : Nat) (f : TideEntry → TideEntry) : State :=
  match modelSlot s slot with
  | none => s
  | some m =>
    match m.tides[i]? with
    | none => s
    | some e =>
      let e' := f e
      let m' := { m with tides := m.tides.set i e' }
      let s1 := { s with slots := s.slots.map (fun x => if x.slot = slot then m' else x) }
      let a := tideBase m + 64 * i
      (tideWrites e e').foldl (fun s w => writeThrough s (a + w.1) w.2) s1

/-- A version slot of an entry changed. -/
def setVslot (s : State) (slot i v : Nat) (f : VersionSlot → VersionSlot) : State :=
  setTide s slot i (fun e => { e with vslots := e.vslots.set v (f ((e.vslots[v]?).getD VersionSlot.empty)) })

/-- The version slot of an entry that satisfies a condition, the lowest first. -/
def findVslot (e : TideEntry) (c : VersionSlot → Bool) : Option Nat := e.vslots.findIdx? c

/-- The version slot that holds a present tide. -/
def presentSlot (e : TideEntry) (t : Nat) : Option Nat := findVslot e (fun v => v.present && decide (v.tide = t))

/-! ## Resolution (R211) -/

/-- Whether an address lies in the slot-0 region of an entry. -/
def inRegion (e : TideEntry) (a : Nat) : Bool :=
  e.kind = 0 && decide (e.regionBase ≤ a) && decide (a < e.regionBase + e.regionBytes)

/-- The WEIGHT entry of a model slot whose slot-0 region holds an address. -/
def weightEntryAt (s : State) (slot a : Nat) : Option Nat :=
  match modelSlot s slot with
  | none => none
  | some m => m.tides.findIdx? (fun e => inRegion e a)

/-- The one WEIGHT entry in whose slot-0 region all the weight addresses lie. -/
def weightEntry (s : State) (slot : Nat) (addrs : List Nat) : Option Nat :=
  match addrs with
  | [] => none
  | a :: as =>
    match weightEntryAt s slot a with
    | none => none
    | some i => if as.all (fun b => decide (weightEntryAt s slot b = some i)) then some i else none

/-- The newest of the present tides that satisfy a condition; "newer" is after CURRENT counts back from CURRENT. -/
def newestPresent (e : TideEntry) (c : Nat → Bool) : Option (Nat × Nat) :=
  let age (t : Nat) := (e.current + 2 ^ 16 - t) % 2 ^ 16
  e.vslots.zipIdx.foldl (fun acc p =>
    if p.1.present && c p.1.tide then
      (match acc with
       | none => some (p.2, p.1.tide)
       | some b => if age p.1.tide < age b.2 then some (p.2, p.1.tide) else some b)
    else acc) none

/-! ## Retirement (R221) -/

/-- A TIDE_RETIRE that waits for a tide counts it, and finishes when all it named have retired (R222). -/
def retireWaiters (s : State) (slot entry tide : Nat) : State :=
  { s with entries := s.entries.map (fun c =>
      match c.phase with
      | .running (.retiring sl en tides n h) =>
        if sl = slot && en = entry && tides.contains tide then
          let left := tides.filter (fun t => t ≠ tide)
          if left.isEmpty then
            { c with phase := .finished ⟨0x00, 0, 0, (n + 1) + 2 ^ 16 * h, if h = 0 then 0 else 0x10000⟩ }
          else { c with phase := .running (.retiring sl en left (n + 1) h) }
        else c
      | _ => c) }

/-- One version slot retired: the counts of its tide closed, the slot FREE (R221). -/
def retireSlot (s : State) (slot entry v : Nat) : State :=
  match tideEntry s slot entry with
  | none => s
  | some e =>
    let t := ((e.vslots[v]?).getD VersionSlot.empty).tide
    let s1 := closeWatch s slot entry t
    let s2 := setVslot s1 slot entry v (fun _ => VersionSlot.empty)
    retireWaiters { s2 with replay := s2.replay.filter (fun r => !(r.slot = slot && r.tide = t)) } slot entry t

/-- Whether a version slot retires now: SUPERSEDED without holds or readers where MANUAL = 0, or RETIRING without readers. -/
def retires (e : TideEntry) (v : VersionSlot) : Bool :=
  (v.state = 3 && !e.manual && v.holds = 0 && v.readers = 0) || (v.state = 4 && v.readers = 0)

/-- Every version slot of an entry that can retire does (R221). -/
def settleEntry (s : State) (slot entry : Nat) : State :=
  (seqFrom 0 3).foldl (fun s v =>
    match tideEntry s slot entry with
    | some e => if retires e ((e.vslots[v]?).getD VersionSlot.empty) then retireSlot s slot entry v else s
    | none => s) s

/-! ## Readers and holds (R217 to R219) -/

/-- A command counts in READERS of a version slot. -/
def addReader (s : State) (tag slot entry v : Nat) : State :=
  setEntry (setVslot s slot entry v (fun x => { x with readers := x.readers + 1 })) tag
    (fun c => { c with reads := c.reads ++ [⟨slot, entry, v⟩] })

/-- A command stops counting; what can retire then does. -/
def dropReaders (s : State) (c : Entry) : State :=
  c.reads.foldl (fun s r =>
    settleEntry (setVslot s r.slot r.entry r.which (fun x => { x with readers := x.readers - 1 })) r.slot r.entry) s

/-- The layers a command names with ROLE ≠ 0 in its format words, at the given body offsets. -/
def watchedWords (p : List Byte) (offs : List Nat) : List FmtWord :=
  (offs.map (fun o => fmtWord ((p.drop (64 + o)).take 16))).filter pwNames

/-- The body offsets of the format words of an opcode that counts under R218: CONVERT, STORE_COMPRESSED, MATMUL_WGRAD. -/
def wordOffsets (op : Nat) : List Nat :=
  if op = 0x13 then [0, 16] else if op = 0x11 then [0, 16] else if op = 0x32 then [0, 16, 32, 48] else []

/-- The WEIGHT entries that a command's watched layers name (R218). -/
def watchedEntries (s : State) (words : List FmtWord) : List (Nat × Nat) :=
  (words.filter (fun w => pwLoaded s w.pwLayer)).map (fun w => (pwField s w.pwLayer 70 1 % 64, pwField s w.pwLayer 72 4))

/-- A command that takes its tag counts as a user of the tide it names, at once or from its becoming LIVE (R218). -/
def countUsers (s : State) (tag : Nat) (p : List Byte) (words : List FmtWord) : State :=
  if !pktTideValid p then s
  else
    (watchedEntries s words).dedup.foldl (fun s w =>
      match tideEntry s w.1 w.2 with
      | none => s
      | some e =>
        match presentSlot e (pktTide p) with
        | some v => addReader s tag w.1 w.2 v
        | none =>
          if pktTide p ≠ e.current && atOrAfter (pktTide p) e.current then
            setEntry s tag (fun c => { c with readsLater := c.readsLater ++ [⟨w.1, w.2, pktTide p⟩] })
          else s) s

/-- The commands waiting for a tide to become LIVE start to count in its READERS (R218). -/
def promoteUsers (s : State) (slot entry v tide : Nat) : State :=
  (s.entries.filter (fun c => c.readsLater.contains ⟨slot, entry, tide⟩)).foldl (fun s c =>
    setEntry (addReader s c.tag slot entry v) c.tag
      (fun c => { c with readsLater := c.readsLater.filter (fun r => r ≠ ⟨slot, entry, tide⟩) })) s

/-- A tide just written is no stale one (R366). -/
def unstale (s : State) (slot entry : Nat) : State :=
  { s with stale := s.stale.filter (fun r => !(decide (r.slot = slot) && decide (r.entry = entry))) }

/-- The atomic change of R220 step 2: the written slot becomes LIVE, CURRENT advances, the previous LIVE slot becomes
SUPERSEDED; a TABLE entry's CURRENT advances alone. -/
def flipTide (s0 : State) (slot entry tide : Nat) : State :=
  let s := unstale s0 slot entry
  match tideEntry s slot entry with
  | none => s
  | some e =>
    let s1 := setTide s slot entry (fun e =>
      { e with current := tide,
               vslots := e.vslots.map (fun v =>
                 if v.state = 1 && v.tide = tide then { v with state := 2 }
                 else if v.state = 2 then { v with state := 3 } else v) })
    match findVslot e (fun v => v.state = 1 && v.tide = tide) with
    | some v => settleEntry (promoteUsers s1 slot entry v tide) slot entry
    | none => s1

/-- The version slot, of those an entry of a loaded slot may use, in whose region an address lies: model slot, entry, version slot (R225,
R227, R366). -/
def versionAt (s : State) (a : Nat) : Option (Nat × Nat × Nat) :=
  s.slots.findSome? (fun m => m.tides.zipIdx.findSome? (fun p =>
    if p.1.kind = 0 then
      ((seqFrom 0 (slotCount s p.1)).find? (fun v =>
        decide (p.1.regionBase + v * p.1.vstride ≤ a) && decide (a < p.1.regionBase + v * p.1.vstride + p.1.regionBytes))).map
        (fun v => (m.slot, p.2, v))
    else none))

end Sys2Proof.Machine
end

