-- ==== Sys2Proof/Machine/Load.lean ====
section
/-! DEFINITION. What a commit loads: placement windows, model slots with their tide tables, precision-watch layers. -/

namespace Sys2Proof.Machine

open Sys2Proof

/-- Bytes read at a device address by a loader, none where an access faults or meets an uncorrectable word: that is never delivered as
data (R242). -/
def tryRead (s : State) (a n : Nat) : Option (List Byte) :=
  match faultIn s false a n with
  | some _ => none
  | none => if deliverable s a n then some (peekBytes s a n) else none

/-- The bits `f i` for the indices 0 to n − 1, as one number. -/
def maskBits (n : Nat) (f : Nat → Bool) : Nat := (seqFrom 0 n).foldl (fun acc i => if f i then acc + 2 ^ i else acc) 0

/-! ## Placement windows (R235) -/

/-- A range of a window: stack and stack-local extent. -/
def winRanges (s : State) (w : Nat) : List (Nat × Nat × Nat) :=
  let size := winEnd s w + 1 - winBase s w
  (winStacks (winMode s w) (winStack s w)).map (fun st =>
    (st, winPbase s w, winPbase s w + winExtent (winMode s w) size))

/-- Whether two half-open ranges overlap. -/
def overlap (a b c d : Nat) : Bool := decide (a < d) && decide (c < b)

/-- Whether a window meets the checks of R235 beside the windows loaded so far. -/
def winOk (s : State) (w : Nat) (loaded : List Nat) : Bool :=
  decide (winBase s w ≤ winEnd s w) && decide (winEnd s w < 0x009000000000) && decide (winMode s w ≠ 3) &&
  (decide (winMode s w ≠ 1) || decide (winStack s w % 2 = 0)) &&
  (winRanges s w).all (fun r => decide (s.fieldAt (Reg.STACK_STATE r.1) 2 0 = 2) && decide (r.2.2 ≤ stackCapacity s r.1)) &&
  loaded.all (fun v => !overlap (winBase s w) (winEnd s w + 1) (winBase s v) (winEnd s v + 1) &&
    (winRanges s w).all (fun r => (winRanges s v).all (fun q => decide (r.1 ≠ q.1) || !overlap r.2.1 r.2.2 q.2.1 q.2.2)))

/-- The windows loaded by a Memory commit, ascending (R235). -/
def loadWindows (s : State) : State :=
  let enabled := (seqFrom 0 16).filter (fun w => s.bitAt (Reg.PLACE_WIN_MODE w) 31)
  let loaded := enabled.foldl (fun acc w => if winOk s w acc then acc ++ [w] else acc) []
  s.setReg Reg.MEM_WIN_STATUS (BitVec.ofNat 32
    (maskBits 16 loaded.contains + 2 ^ 16 * maskBits 16 (fun w => enabled.contains w && !loaded.contains w)))

/-! ## Model slots (R61, R209) -/

/-- Whether a tide-table entry of 64 bytes meets the conditions of R209. -/
def tideEntryOk (s : State) (b : List Byte) : Bool :=
  let e := parseTide b
  let n := slotCount s e
  let live := e.vslots.filter (fun v => v.state = 2 && v.tide = e.current && v.holds = 0 && v.readers = 0)
  let zero := (seqFrom 0 3).filter (fun i => leAt b (32 + 8 * i) 8 = 0)
  bit e.ctrl 0 && decide (e.kind ≤ 1) && decide (bits e.ctrl 4 3 ≠ 1) && decide (e.ctrl < 32) &&
  decide (leAt b 28 4 = 0) && decide (leAt b 56 8 = 0) &&
  (if e.kind = 0 then
    decide (e.regionBase % 256 = 0) && decide (e.regionBytes % 256 = 0) && decide (256 ≤ e.regionBytes) &&
    decide (e.vstride % 256 = 0) && decide (e.regionBytes ≤ e.vstride) &&
    decide (e.regionBase + e.vstride * n ≤ 0x009000000000) &&
    decide (live.length = 1) && decide (zero.length + 1 = 3 ∨ (zero.length = 2)) &&
    (seqFrom 0 3).all (fun i => bits (leAt b (32 + 8 * i) 8) 31 19 = 0)
   else decide (e.regionBase = 0 ∧ e.regionBytes = 0 ∧ e.vstride = 0) && decide (zero.length = 3))

/-- WEIGHT entries ascend by REGION_BASE and their slot-0 regions do not overlap (R209). -/
def regionsOk : List TideEntry → Nat → Bool
  | [], _ => true
  | e :: es, low =>
    if e.kind = 0 then decide (low ≤ e.regionBase) && regionsOk es (e.regionBase + e.regionBytes) else regionsOk es low

/-- Whether the fields of a slot descriptor are in range (R61): VALID, the reserved fields 0, and the program image, the descriptor table
and the tide table within the 48-bit device address space (log entry 122). -/
def slotDescOk (d : List Byte) : Bool :=
  bit (leAt d 12 4) 0 && decide (leAt d 12 4 < 4) && decide (leAt d 28 4 = 0) && decide (leAt d 52 12 = 0) &&
  decide (leAt d 0 8 + leAt d 8 4 ≤ 2 ^ 48) && decide (leAt d 16 8 + leAt d 24 4 ≤ 2 ^ 48) &&
  decide (leAt d 48 4 ≤ 65536) && decide (leAt d 40 8 + 64 * leAt d 48 4 ≤ 2 ^ 48)

/-- The address of the descriptor of model slot `k`. -/
def slotDescAddr (s : State) (k : Nat) : Nat := s.pair Reg.SLOT_TABLE_LO / 2 ^ 12 * 2 ^ 12 + 64 * k

/-- The descriptor of model slot `k` with its tide table, when both load (R61, R209). -/
def readSlot (s : State) (k : Nat) : Option ModelSlot :=
  match tryRead s (slotDescAddr s k) 64 with
  | none => none
  | some d =>
    let n := leAt d 48 4
    if slotDescOk d then
      match tryRead s (leAt d 40 8) (64 * n) with
      | none => none
      | some t =>
        let recs := chunks 64 (n + 1) t
        let tides := recs.map parseTide
        if recs.all (tideEntryOk s) && regionsOk tides 0 then some ⟨k, d, tides⟩ else none
    else none

/-- The words of the slot table, and of the tide tables of its descriptors, as the commit reads them (R242). -/
def scanSlots (s0 : State) : State :=
  if s0.errs.isEmpty then s0
  else (seqFrom 0 64).foldl (fun s k =>
    let s1 := scanWords s (slotDescAddr s k) 64
    match tryRead s1 (slotDescAddr s k) 64 with
    | some d => if slotDescOk d then scanWords s1 (leAt d 40 8) (64 * leAt d 48 4) else s1
    | none => s1) s0

/-- The model slots loaded by a commit of their block; one whose descriptor is unchanged keeps its live table (R61, R209). -/
def loadSlots (s0 : State) : State :=
  let s := scanSlots s0
  let slots := (seqFrom 0 64).filterMap (fun k =>
    match modelSlot s k, tryRead s (slotDescAddr s k) 64 with
    | some m, some d => if m.desc = d then some m else readSlot s k
    | _, _ => readSlot s k)
  let s1 := { s with slots := slots }
  s1.setPair Reg.SLOT_LOADED_LO (maskBits 64 (fun k => slots.any (fun m => m.slot = k)))

/-- The model slots whose descriptor a commit would change (R65, users of block 0x0E). -/
def changedSlots (s : State) (base : Nat) : List Nat :=
  (seqFrom 0 64).filter (fun k =>
    match modelSlot s k, tryRead s (base + 64 * k) 64 with
    | some m, some d => decide (m.desc ≠ d)
    | none, some d => bit (leAt d 12 4) 0
    | some _, none => true
    | none, none => false)

/-! ## Precision watch (R142) -/

/-- A layer record that a Numerics commit brings into use: initialised, or not loaded where its SLOT and TIDE_ENTRY name no
WEIGHT entry of a loaded slot. -/
def loadLayer (s0 : State) (layer : Nat) : State :=
  let s := scanLayer s0 layer
  if !deliverable s (pwAddr s layer) 128 then s else
  match tideEntry s (pwField s layer 70 1 % 64) (pwField s layer 72 4) with
  | some e =>
    if e.kind = 0 && decide (pwField s layer 70 1 < 64) then
      let s1 := storeBytes s (pwAddr s layer) (toLE 64 0 ++ toLE 2 ((e.current + 2 ^ 16 - 1) % 2 ^ 16) ++ toLE 4 0)
      { s1 with pw := { s1.pw with layers := s1.pw.layers ++ [layer], demoted := s1.pw.demoted.filter (fun d => d.1 ≠ layer) } }
    else s
  | none => s

/-- The layers in use after a Numerics commit (R142). -/
def loadWatch (s : State) : State :=
  let base := s.pair Reg.PW_TABLE_LO / 2 ^ 7 * 2 ^ 7
  let n := s.fieldAt Reg.PW_CTRL 10 0
  let keep := if base = s.pw.base then s.pw.layers.filter (fun l => decide (l < n)) else []
  let s1 := { s with pw := { s.pw with base := base, layers := keep } }
  ((seqFrom 0 n).filter (fun l => !keep.contains l)).foldl loadLayer s1

end Sys2Proof.Machine
end

