-- ==== Sys2Proof/Machine/Sample.lean ====
section
/-! DEFINITION. Neighbourhood sampling: graphs, draws, the modes, SAMPLE and RANDOM_WALK (03_neighbourhood_sampling). -/

namespace Sys2Proof.Machine

open Sys2Proof

/-! ## Graphs (R67 to R69) -/

/-- A loaded graph's descriptor. -/
def graphDesc (s : State) (g : Nat) : Option (List Byte) := (s.graphs.find? (fun d => d.index = g)).map (fun d => d.bytes)

/-- The weight size of EW_FORMAT. -/
def ewSize (fmt : Nat) : Nat := if fmt = 1 then 2 else if fmt = 2 then 4 else 0

/-- Whether a graph descriptor is loaded: VALID, the SHARD field, the alignments, EW_FORMAT (R69). -/
def graphOk (s : State) (d : List Byte) : Bool :=
  bit (leAt d 49 1) 0 && decide (leAt d 50 2 % 2 ^ 12 = ownId s) && decide (leAt d 0 8 % 8 = 0) && decide (leAt d 8 8 % 2 = 0) &&
  decide (leAt d 48 1 ≤ 2) && decide (leAt d 48 1 = 0 ↔ leAt d 16 8 = 0) &&
  (decide (leAt d 48 1 = 0) || decide (leAt d 16 8 % ewSize (leAt d 48 1) = 0)) && decide (leAt d 24 8 % 4 = 0)

/-- The graphs loaded by a Graph commit; the adjacency caches are emptied (R69, R70, R88). -/
def loadGraphs (s0 : State) : State :=
  let base := s0.pair Reg.GRAPH_TABLE_LO / 2 ^ 6 * 2 ^ 6
  let s := scanWords s0 base (64 * s0.fieldAt Reg.GRAPH_TABLE_ENTRIES 8 0)
  let ds := (seqFrom 0 (s.fieldAt Reg.GRAPH_TABLE_ENTRIES 8 0)).filterMap (fun g =>
    match tryRead s (base + 64 * g) 64 with
    | some d => if graphOk s d then some ⟨g, d⟩ else none
    | none => none)
  let s1 := { s with graphs := ds, caches := List.replicate 8 [] }
  (seqFrom 0 8).foldl (fun s k =>
    s.setReg (Reg.GRAPH_LOADED k) (BitVec.ofNat 32 (maskBits 32 (fun j => ds.any (fun d => d.index = 32 * k + j))))) s1

/-- The shard of a node ID. -/
def shardOf (node : Nat) : Nat := node / 2 ^ 36 % 2 ^ 12

/-- The local index of a node ID. -/
def localOf (node : Nat) : Nat := node % 2 ^ 36

/-! ## Draws (R71, R72) -/

/-- The draw with index `c0` for a node under a key; `field` is c3[23:16]. -/
def sampleDraw (k0 k1 field node c0 : Nat) : GenState :=
  tideGen k0 k1 c0 (node % 2 ^ 32) (node / 2 ^ 32 % 2 ^ 16) (0x01000000 + field * 2 ^ 16)

/-- A fraction in [0, 1), exact in FP32 (R72). -/
def drawFraction (g : GenState) : Val := Val.of (g.c2 / 256 : Nat) (-24)

/-! ## Rows -/

/-- The row of a local node: its first column entry and its degree, with the checks of the descriptor's arrays (R68, R87). -/
def Cmd.rowOf (d : List Byte) (node : Nat) : Cmd (Nat × Nat) := do
  if leAt d 32 8 ≤ localOf node then Cmd.fail 0x12 0x11
  else
    let lo ← Cmd.readNat (leAt d 0 8 + 8 * localOf node) 8
    let hi ← Cmd.readNat (leAt d 0 8 + 8 * localOf node + 8) 8
    if hi < lo then Cmd.fail 0x13 0x21
    else if 2 ^ 32 ≤ hi - lo then Cmd.fail 0x13 0x20
    else if leAt d 40 8 < hi then Cmd.fail 0x13 0x22
    else return (lo, hi - lo)

/-- Column entry `j` of a graph. -/
def Cmd.column (d : List Byte) (j : Nat) : Cmd Nat := Cmd.readNat (leAt d 8 8 + 6 * j) 6

/-- Edge weight `j` as FP32; FP16 is widened exactly. -/
def Cmd.weight (d : List Byte) (j : Nat) : Cmd Nat := do
  if leAt d 48 1 = 1 then return toF32 (fp16.decode (← Cmd.readNat (leAt d 16 8 + 2 * j) 2))
  else Cmd.readNat (leAt d 16 8 + 4 * j) 4

/-- Cumulative weight `j`. -/
def Cmd.cumWeight (d : List Byte) (j : Nat) : Cmd Nat := Cmd.readNat (leAt d 24 8 + 4 * j) 4

/-- A number inserted in its place in an ascending list. -/
def insertAsc (x : Nat) : List Nat → List Nat
  | [] => [x]
  | y :: l => if x ≤ y then x :: y :: l else y :: insertAsc x l

/-- Floyd's algorithm: f positions out of d, ascending (R73). -/
def floyd (d f : Nat) (draw : Nat → GenState) : List Nat :=
  (seqFrom (d - f) f).foldl (fun chosen j =>
    let t := drawIndex (draw (j - (d - f))) (j + 1)
    insertAsc (if chosen.contains t then j else t) chosen) []

/-- Whether weight a ranks above weight b in mode 0x03: NaN lowest, −0 equal to +0 (R74). -/
def outranks (a b : Val) : Bool :=
  match a, b with
  | .nan, _ => false
  | _, .nan => true
  | a, b => Val.lt b a

/-- (position, weight) inserted by descending weight, equal weights by ascending position; positions arrive ascending. -/
def insertRank (p : Nat × Val) : List (Nat × Val) → List (Nat × Val)
  | [] => [p]
  | q :: l => if outranks p.2 q.2 then p :: q :: l else q :: insertRank p l

/-- The first position whose cumulative weight exceeds x, else the last one (R73, R74). -/
def firstAbove (x : Val) (cum : List Nat) : Nat :=
  (cum.findIdx? (fun c => Val.lt x (f32 c))).getD (cum.length - 1)

/-- The positions a mode selects in a row of degree d, in output order, with flags: 1 CAPPED, 2 ZERO_WEIGHT (R73, R74). DESIGN CHOICE: a
row of degree 0 has no total and sets no ZERO_WEIGHT (log entry 124). -/
def Cmd.select (g : List Byte) (lo d mode f : Nat) (capRule : Bool) (draw : Nat → GenState) : Cmd (List Nat × Nat) := do
  if mode = 0 then
    return (if d = 0 then [] else (seqFrom 0 f).map (fun k => drawIndex (draw k) d), 0)
  else if mode = 1 then return (if d ≤ f then seqFrom 0 d else floyd d f draw, 0)
  else if mode = 2 then
    if d = 0 then return ([], 0)
    else
      let cum ← (seqFrom lo d).mapM (Cmd.cumWeight g)
      let w := f32 (cum.getLastD 0)
      if !w.finite || !Val.lt (.zero false) w then return ([], 2)
      else return ((seqFrom 0 f).map (fun k => firstAbove (fp32.rne ((drawFraction (draw k)).mul w)) cum), 0)
  else if mode = 3 then
    let ws ← (seqFrom lo d).mapM (Cmd.weight g)
    let ranked := ws.zipIdx.foldl (fun l p => insertRank (p.2, f32 p.1) l) []
    return ((ranked.take f).map (fun p => p.1), 0)
  else if d ≤ f then return (seqFrom 0 d, 0)
  else return (if capRule then floyd d f draw else seqFrom 0 f, 1)

/-! ## The adjacency cache (R88) -/

/-- The bytes of a row in the cache: columns, and weights and cumulative weights where present. -/
def cachedBytes (g : List Byte) (d : Nat) : Nat :=
  d * (6 + ewSize (leAt g 48 1) + (if leAt g 24 8 = 0 then 0 else 4))

/-- Cached rows dropped, the least used first, until `need` bytes fit in `cap` (log entry 12). -/
def evict (cap need : Nat) : Nat → List CacheRow → List CacheRow
  | 0, rows => rows
  | fuel + 1, rows =>
    if rows.foldl (fun n r => n + r.bytes) 0 + need ≤ cap then rows
    else
      let least := rows.foldl (fun (acc : Option CacheRow) r => match acc with
        | none => some r
        | some b => if r.uses < b.uses ∨ (r.uses = b.uses ∧ b.graph * 2 ^ 48 + b.node < r.graph * 2 ^ 48 + r.node) then some r else some b) none
      match least with
      | none => rows
      | some l => evict cap need fuel (rows.filter (fun r => r ≠ l))

/-- Whether a bay's cache holds the row of a node. -/
def inCache (s : State) (bay graph node : Nat) : Bool :=
  ((s.caches[bay]?).getD []).any (fun r => r.graph = graph && r.node = node)

/-- The row of a node read through a bay's cache, if the bay has one: a row that is not there, of a degree up to MAX_DEG, is cached. -/
def fillCache (s : State) (bay graph node : Nat) (g : List Byte) (d : Nat) : State :=
  let rows := (s.caches[bay]?).getD []
  let cap := s.fieldAt Reg.SAMPLE_CACHE_CFG 3 0 * 2 ^ 20
  let n := cachedBytes g d
  if inCache s bay graph node then
    { s with caches := s.caches.set bay (rows.map (fun r => if r.graph = graph && r.node = node then { r with uses := r.uses + 1 } else r)) }
  else if d ≤ s.fieldAt Reg.SAMPLE_CACHE_CFG 19 8 && n ≤ cap && 0 < cap then
    { s with caches := s.caches.set bay (evict cap n (rows.length + 1) rows ++ [⟨graph, node, n, 1⟩]) }
  else s

/-- The row of a node expanded by a bay's sampler: a hit or a miss is counted, and the cache follows. -/
def noteRow (s : State) (bay graph node : Nat) (g : List Byte) (d : Nat) : State :=
  fillCache (s.countWrap (if inCache s bay graph node then Reg.SAMPLE_BAY_CTR_ROW_HITS bay else Reg.SAMPLE_BAY_CTR_ROW_MISSES bay) 1)
    bay graph node g d

/-! ## Expansion -/

/-- The neighbours selected for one node of this shard by a bay's sampler, in output order, with their weights when wanted
and the flags of the selection. -/
def Cmd.expandLocal (bay graph k0 k1 hop mode f : Nat) (capRule weights : Bool) (node : Nat) : Cmd Answer := do
  let s ← Cmd.state
  match graphDesc s graph with
  | none => Cmd.fail 0x12 0x10
  | some g =>
    let (lo, d) ← Cmd.rowOf g node
    let (pos, flags) ← Cmd.select g lo d mode f capRule (sampleDraw k0 k1 (hop * 16) node)
    let ids ← pos.mapM (fun p => Cmd.column g (lo + p))
    let ws ← if weights then pos.mapM (fun p => Cmd.weight g (lo + p)) else pure []
    Cmd.update (fun s => (noteRow s bay graph node g d).count64 (Reg.SAMPLE_BAY_CTR_EDGES_LO bay) pos.length)
    return { status := 0, detail := 0, flags := flags, nums := ids, weights := ws, bytes := [], last := true }

/-- One row of a SAMPLE, expanded here or by the node's owner (R82). Flag 4: expanded remotely. -/
def Cmd.expand (bay graph k0 k1 hop mode f : Nat) (capRule weights : Bool) (node : Nat) : Cmd Answer := do
  let s ← Cmd.state
  if shardOf node = ownId s then Cmd.expandLocal bay graph k0 k1 hop mode f capRule weights node
  else
    let a ← Cmd.ask (shardOf node) (.row graph k0 k1 hop mode f capRule weights node)
    return { a with flags := a.flags ||| 4 }

/-! ## The canonical block (R77, R80, R81) -/

/-- One row of a hop: the local indices and the weights. -/
structure BlockRow where
  cols : List Nat
  weights : List Nat
  deriving DecidableEq, Repr

/-- A block being built: nodes with the hop each was first reached at, the rows of the hops so far, flags, dropped. -/
structure Block where
  nodes : List (Nat × Nat)
  hops : List (List BlockRow)
  prefixes : List Nat
  flags : Nat
  full : Bool
  deriving DecidableEq, Repr

/-- The selections of one row entered: a new node takes the next local index; past the cap it is dropped and `full` set. -/
def enterRow (cap hop : Nat) (a : Answer) (nodes : List (Nat × Nat)) : List (Nat × Nat) × BlockRow × Bool :=
  (a.nums.zipIdx).foldl (fun (acc : List (Nat × Nat) × BlockRow × Bool) p =>
    let w := if a.weights.isEmpty then [] else [(a.weights[p.2]?).getD 0]
    match acc.1.findIdx? (fun n => n.1 = p.1) with
    | some i => (acc.1, ⟨acc.2.1.cols ++ [i], acc.2.1.weights ++ w⟩, acc.2.2)
    | none =>
      if acc.1.length < cap then
        (acc.1 ++ [(p.1, hop)], ⟨acc.2.1.cols ++ [acc.1.length], acc.2.1.weights ++ w⟩, acc.2.2)
      else (acc.1, acc.2.1, true)) (nodes, ⟨[], []⟩, false)

/-- The rows of one hop in order; stops early when the cap is exceeded and nothing may be dropped. -/
def Cmd.hopRows (expand : Nat → Cmd Answer) (cap hop : Nat) (trunc : Bool) :
    List Nat → Block → List BlockRow → Cmd (Block × List BlockRow)
  | [], b, rows => return (b, rows)
  | n :: ns, b, rows =>
    if b.full && !trunc then return (b, rows)
    else do
      let a ← expand n
      let (nodes, row, dropped) := enterRow cap hop a b.nodes
      Cmd.hopRows expand cap hop trunc ns
        { b with nodes := nodes, flags := b.flags ||| a.flags, full := b.full || dropped } (rows ++ [row])

/-- The block of a list of seeds: every node known before a hop is expanded at it (R77). -/
def Cmd.buildBlock (expand : Nat → Nat → Cmd Answer) (cap : Nat) (trunc : Bool) : List Nat → Block → Cmd Block
  | [], b => return b
  | h :: hs, b => do
    if b.full && !trunc then return b
    else
      let (b1, rows) ← Cmd.hopRows (expand h) cap h trunc (b.nodes.map (fun n => n.1)) b []
      Cmd.buildBlock expand cap trunc hs { b1 with hops := b.hops ++ [rows], prefixes := b.prefixes ++ [b1.nodes.length] }

/-- The sample of the longest prefix of the seeds that fits, and the number of seeds it covers; the first seed alone is
truncated if it must be (R80, R81). -/
def Cmd.fitBlock (expand : Nat → Nat → Cmd Answer) (cap hops : Nat) (seeds : List Nat) : Nat → Cmd (Block × Nat)
  | 0 => Cmd.fail 0x30 0
  | n + 1 => do
    let start : Block := ⟨(seeds.take (n + 1)).map (fun x => (x, 0)), [], [n + 1], 0, false⟩
    let b ← Cmd.buildBlock expand cap (decide (n = 0)) (seqFrom 1 hops) start
    if b.full && decide (0 < n) then Cmd.fitBlock expand cap hops seeds n else return (b, n + 1)

/-! ## Output -/

/-- A list of bytes padded with zeros to a multiple of 64. -/
def pad64 (bs : List Byte) : List Byte := padTo (ceilDiv bs.length 64 * 64) bs

/-- A size rounded up to a multiple of 64. -/
def up64 (n : Nat) : Nat := ceilDiv n 64 * 64

/-- The row pointers of a hop: running totals from 0. -/
def rowPtrs (start : Nat) : List BlockRow → List Nat
  | [] => [start]
  | r :: rs => start :: rowPtrs (start + r.cols.length) rs

/-- The bytes of a hop's section (Sample block). -/
def hopSection (rows : List BlockRow) : List Byte :=
  pad64 ((rowPtrs 0 rows).flatMap (toLE 4) ++ rows.flatMap (fun r => r.cols.flatMap (toLE 4)) ++
    rows.flatMap (fun r => r.weights.flatMap (toLE 4)))

/-- Column entries of a hop. -/
def edgeCount (rows : List BlockRow) : Nat := rows.foldl (fun n r => n + r.cols.length) 0

/-- A list of four numbers, the last repeated or zeros added. -/
def four (fill : Nat) (l : List Nat) : List Nat := (l ++ List.replicate 4 fill).take 4

/-- The R76 minimum of OUT_BYTES. -/
def sampleMinimum (cap w : Nat) : List Nat → Nat → Nat
  | [], f => 64 + 8 * f
  | a :: as, f => up64 (4 * (f + 1) + 4 * (1 + w) * f * a) + sampleMinimum cap w as (min cap (f * (1 + a)))

/-- The deduplication table lies wholly within one scratchpad, or one shelf outside its adjacency cache (R75). -/
def dedupOk (s : State) (a n : Nat) : Bool :=
  match locate s a with
  | .ok ⟨_, .scratchpad t⟩ => decide (a + n ≤ 0x400000000000 + t * 0x100000 + 0x80000)
  | .ok ⟨_, .shelf b⟩ =>
    decide (a + n ≤ 0x410000000000 + b * 0x1000000 + 0x1000000 - s.fieldAt Reg.SAMPLE_CACHE_CFG 3 0 * 2 ^ 20)
  | _ => false

/-- The bay that holds an address: of a scratchpad, of a shelf, or of the stack beside it; bay 0 for any other. -/
def bayOfAddr (s : State) (a : Nat) : Nat :=
  match locate s a with
  | .ok ⟨_, .hbm st⟩ => st
  | .ok ⟨_, .scratchpad t⟩ => t / 64
  | .ok ⟨_, .shelf b⟩ => b
  | _ => 0

/-- Whether a list has an element twice. -/
def hasDup : List Nat → Bool
  | [] => false
  | x :: l => l.contains x || hasDup l

/-- Seeds read for a check, none where they cannot be read. -/
def trySeeds (s : State) (a n : Nat) : List Nat :=
  match tryRead s a (8 * n) with
  | some bs => (chunks 8 (n + 1) bs).map leNat
  | none => []

/-- Whether seeds are node IDs, and those of this shard below NUM_NODES. DESIGN CHOICE: one whose bits 63:48 are not 0 fails with the
detail of an invalid seed, 0x1A (R67, log entry 124). -/
def seedsOk (s : State) (g : List Byte) (seeds : List Nat) : Bool :=
  seeds.all (fun x => decide (x < 2 ^ 48) && (decide (shardOf x ≠ ownId s) || decide (localOf x < leAt g 32 8)))

/-- The checks of a SAMPLE body (R87, Limits and errors). The reserved bytes 44 to 47 hold the SEQ of a continuation that this module
has written, and are 0 in any other packet (R15, R80, log entry 104). -/
def sampleChecks (s : State) (e : Entry) : List (Bool × Nat) :=
  let hops := bodyAt e 2 1
  let mode := bodyAt e 3 1
  let n := bodyAt e 4 2
  let fan := (seqFrom 0 4).map (fun i => bodyAt e (8 + 2 * i) 2)
  let cap := s.fieldAt Reg.DEDUP_CAP 16 0
  let g := (graphDesc s (bodyAt e 0 2 % 256)).getD []
  let edgeW := bit (bodyAt e 6 2) 0
  let seeds := if n ≤ 4096 && bodyAt e 24 8 % 8 = 0 then trySeeds s (bodyAt e 24 8) n else []
  [(decide (bodyAt e 0 2 < 256) && decide (bodyAt e 6 2 < 4) &&
      (bodyZero e 44 48 || s.conts.contains ((pktBody e.pkt).take 64)), 0x01),
   (decide (1 ≤ hops ∧ hops ≤ 4), 0x10), (decide (mode ≤ 4), 0x11),
   (decide (1 ≤ n ∧ n ≤ 4096 ∧ n ≤ cap), 0x12),
   (fan.zipIdx.all (fun p => if p.2 < hops then decide (1 ≤ p.1 ∧ p.1 ≤ 1024) else decide (p.1 = 0)), 0x13),
   (!hasDup seeds, 0x14), (!g.isEmpty, 0x15),
   (g.isEmpty || ((decide (mode ≠ 2) || decide (leAt g 24 8 ≠ 0)) &&
      ((decide (mode ≠ 3) && !edgeW) || decide (leAt g 16 8 ≠ 0))), 0x16),
   (dedupOk s (bodyAt e 48 8) (16 * cap), 0x17),
   (decide (bodyAt e 24 8 % 8 = 0) && decide (bodyAt e 32 8 % 64 = 0) && decide (bodyAt e 56 8 % 64 = 0) &&
      decide (bodyAt e 48 8 % 16 = 0), 0x18),
   (decide (sampleMinimum cap (b2n edgeW) (fan.take hops) n ≤ bodyAt e 40 4), 0x19),
   (g.isEmpty || seedsOk s g seeds, 0x1A)]

/-- The key of a command's draws: slot SEED XOR SAMPLE_SEED (R71). -/
def sampleKey (s : State) (e : Entry) : Nat := slotSeed s e.slot ^^^ bodyAt e 16 8

/-- SAMPLE (R77 to R83). DESIGN CHOICE: the bytes between the node list's end and CSR_OFFSET are written as zeros (log entry 124). -/
def bodySample (e : Entry) : Cmd Done := do
  let s ← Cmd.state
  Cmd.checks (sampleChecks s e)
  let hops := bodyAt e 2 1
  let n := bodyAt e 4 2
  let cap := s.fieldAt Reg.DEDUP_CAP 16 0
  let out := bodyAt e 32 8
  let edgeW := bit (bodyAt e 6 2) 0
  let key := sampleKey s e
  let bay := bayOfAddr s (bodyAt e 48 8)
  modify (fun env => { env with engine := 0x5000 + bay })
  Cmd.declare out (bodyAt e 40 4)
  Cmd.declare (bodyAt e 48 8) (16 * cap)
  let seeds := (chunks 8 (n + 1) (← Cmd.read (bodyAt e 24 8) (8 * n))).map leNat
  Cmd.update (fun s => undefDevice s (bodyAt e 48 8) (16 * cap) (16 * cap / 2048 + 2))
  let expand (h x : Nat) := Cmd.expand bay (bodyAt e 0 2 % 256) (key % 2 ^ 32) (key / 2 ^ 32) h (bodyAt e 3 1)
    (bodyAt e (8 + 2 * (h - 1)) 2) (bit (bodyAt e 6 2) 1) edgeW x
  let (b, covered) ← Cmd.fitBlock expand cap hops seeds n
  let split := decide (covered < n) || (b.full && decide (1 < n))
  let nodes := b.nodes.flatMap (fun p => toLE 8 (p.1 + 2 ^ 48 * p.2))
  let csr := up64 (64 + nodes.length)
  let sections := b.hops.flatMap hopSection
  let total := csr + sections.length
  let empty := b.hops.foldl (fun k rows => k + (rows.filter (fun r => r.cols.isEmpty)).length) 0
  let seq := bodyAt e 44 4
  let flags := b2n split + 2 * b2n b.full + 4 * (b.flags % 2) + 8 * (b.flags / 2 % 2) + 16 * (b.flags / 4 % 2)
  Cmd.write (out + 64) (padTo (csr - 64) nodes)
  Cmd.write (out + csr) sections
  if split && bodyAt e 56 8 ≠ 0 && covered < n then
    let rest := toLE 2 (n - covered) ++ (e.pkt.drop 70).take 18 ++ toLE 8 (bodyAt e 24 8 + 8 * covered) ++ (e.pkt.drop 96).take 12 ++
      toLE 4 (seq + 1) ++ (e.pkt.drop 112).take 16
    Cmd.write (bodyAt e 56 8) (e.pkt.take 68 ++ rest)
    Cmd.update (fun s => { s with conts := ((e.pkt.drop 64).take 4 ++ rest) :: s.conts.filter (fun c => decide (c ≠ (e.pkt.drop 64).take 4 ++ rest)) })
  Cmd.write out (toLE 2 1 ++ toLE 1 hops ++ toLE 1 flags ++ toLE 4 covered ++
    (four (b.prefixes.getLastD 0) b.prefixes.tail).flatMap (toLE 4) ++ (four 0 (b.hops.map edgeCount)).flatMap (toLE 4) ++
    toLE 4 csr ++ toLE 4 seq ++ toLE 8 (bodyAt e 16 8) ++ toLE 4 total ++ toLE 4 empty)
  let env ← get
  return ⟨if split then 0x04 else 0, 0, env.engine, covered + 2 ^ 16 * (b.prefixes.getLastD 0),
    2 ^ 16 * (b.flags % 2) + 2 ^ 17 * (b.flags / 2 % 2) + 2 ^ 18 * (b.flags / 4 % 2) + 2 ^ 19 * b2n b.full⟩

/-! ## RANDOM_WALK (R84 to R86) -/

/-- The checks of a RANDOM_WALK body. -/
def walkChecks (s : State) (e : Entry) : List (Bool × Nat) :=
  let l := bodyAt e 2 1
  let w := bodyAt e 3 1
  let n := bodyAt e 4 2
  let biased := bit (bodyAt e 6 2) 0
  let g := (graphDesc s (bodyAt e 0 2 % 256)).getD []
  let starts := if n ≤ 4096 then trySeeds s (bodyAt e 24 8) n else []
  let param (off : Nat) := if biased then (f32 (bodyAt e off 4)).finite && Val.lt (.zero false) (f32 (bodyAt e off 4))
    else decide (bodyAt e off 4 = 0)
  [(decide (bodyAt e 0 2 < 256) && decide (bodyAt e 6 2 < 2) && bodyZero e 44 64, 0x01),
   (decide (1 ≤ l ∧ l ≤ 64 ∧ 1 ≤ w ∧ w ≤ 16), 0x10), (decide (1 ≤ n ∧ n ≤ 4096), 0x12), (!g.isEmpty, 0x15),
   (g.isEmpty || !biased || bit (leAt g 49 1) 1, 0x16),
   (decide (bodyAt e 32 8 % 64 = 0), 0x18),
   (decide (n * w * (l + 1) * 8 ≤ bodyAt e 40 4), 0x19),
   (param 8 && param 12 && (g.isEmpty || seedsOk s g starts), 0x1A)]

/-- An answer that says no more than that it was done. -/
def plainAnswer : Answer := { status := 0, detail := 0, flags := 0, nums := [], weights := [], bytes := [], last := true }

/-- Whether `x` is in the row of a node of this shard. The search reads the row through the cache of a bay, and counts nothing (log entry
123). -/
def Cmd.memberLocal (bay graph node x : Nat) : Cmd Answer := do
  let s ← Cmd.state
  match graphDesc s graph with
  | none => Cmd.fail 0x12 0x10
  | some g =>
    let (lo, d) ← Cmd.rowOf g node
    let cols ← (seqFrom lo d).mapM (Cmd.column g)
    Cmd.update (fun s => fillCache s bay graph node g d)
    return { plainAnswer with flags := b2n (cols.contains x) }

/-- Whether `x` is the previous node's neighbour, asked of the previous node's owner; `x` = `u` needs no answer (R84, R86). -/
def Cmd.nearby (bay graph u x : Nat) : Cmd Bool := do
  let s ← Cmd.state
  if x = u then return false
  else if shardOf u = ownId s then
    let m ← Cmd.memberLocal bay graph u x
    return decide (m.flags % 2 = 1)
  else
    Cmd.note (2 ^ 18)
    let m ← Cmd.ask (shardOf u) (.member graph u x)
    return decide (m.flags % 2 = 1)

/-- The test of a proposal `x` after the previous node `u`: fp32(u_frac × αmax) < α (R84 step 3). -/
def Cmd.accepted (bay graph u x : Nat) (p q frac : Val) : Cmd Bool := do
  let near ← Cmd.nearby bay graph u x
  let one : Val := .fin 1 0
  let ip := fp32.rne (Val.quot one p)
  let iq := fp32.rne (Val.quot one q)
  let alpha := if x = u then ip else if near then one else iq
  return Val.lt (fp32.rne (frac.mul (maxVal (maxVal ip one) iq))) alpha

/-- The attempts of one step in a row of degree d, from attempt `a` on: the node accepted and its attempt (R84). -/
def Cmd.attempts (bay graph : Nat) (g : List Byte) (lo d t : Nat) (prev : Option Nat) (p q : Val) (draw : Nat → GenState) :
    Nat → Nat → Cmd (Nat × Nat)
  | 0, _ => Cmd.fail 0x30 0
  | fuel + 1, a => do
    let r := draw (t * 256 + a)
    let x ← Cmd.column g (lo + drawIndex r d)
    match prev with
    | none => return (x, a)
    | some u =>
      if a = 31 then return (x, a)
      else if ← Cmd.accepted bay graph u x p q (drawFraction r) then return (x, a)
      else Cmd.attempts bay graph g lo d t prev p q draw fuel (a + 1)

/-- A step of a walk carried by this module, the owner of its current node: the node after it and the attempt that was accepted; nothing
at degree 0 (R84 to R86). DESIGN CHOICE: the step is one row, read once, and one edge (log entry 123). -/
def Cmd.stepLocal (bay graph k0 k1 walk start t cur : Nat) (prev : Option Nat) (p q : Nat) : Cmd Answer := do
  let s ← Cmd.state
  match graphDesc s graph with
  | none => Cmd.fail 0x12 0x10
  | some g =>
    let (lo, d) ← Cmd.rowOf g cur
    Cmd.update (fun s => noteRow s bay graph cur g d)
    if d = 0 then return plainAnswer
    else
      let (x, a) ← Cmd.attempts bay graph g lo d t prev (f32 p) (f32 q) (sampleDraw k0 k1 (0xF0 + walk) start) 32 0
      Cmd.update (fun s => s.count64 (Reg.SAMPLE_BAY_CTR_EDGES_LO bay) 1)
      return { plainAnswer with nums := [x, a] }

/-- A step carried by the owner of its current node, here or there (R86). -/
def Cmd.walkStep (bay graph k0 k1 walk start t cur : Nat) (prev : Option Nat) (p q : Nat) : Cmd Answer := do
  let s ← Cmd.state
  if shardOf cur = ownId s then Cmd.stepLocal bay graph k0 k1 walk start t cur prev p q
  else
    Cmd.note (2 ^ 18)
    Cmd.ask (shardOf cur) (.step graph k0 k1 walk start t cur prev p q)

/-- The steps of one walk from step t on: the nodes after the start, whether it ended early, and steps at attempt 31. -/
def Cmd.walk (bay graph k0 k1 walk start : Nat) (biased : Bool) (p q : Nat) :
    Nat → Nat → Option Nat → Nat → Cmd (List Nat × Bool × Nat)
  | 0, _, _, _ => return ([], false, 0)
  | left + 1, t, prev, cur => do
    match (← Cmd.walkStep bay graph k0 k1 walk start t cur prev p q).nums with
    | [x, a] => do
      let (rest, early, caps) ← Cmd.walk bay graph k0 k1 walk start biased p q left (t + 1) (if biased then some cur else none) x
      return (x :: rest, early, caps + (if a = 31 then 1 else 0))
    | _ => return (List.replicate (left + 1) (2 ^ 64 - 1), true, 0)

/-- RANDOM_WALK. DESIGN CHOICE: its bay is that of OUT_BASE, bay 0 where none holds it (R79, log entry 123). -/
def bodyRandomWalk (e : Entry) : Cmd Done := do
  let s ← Cmd.state
  Cmd.checks (walkChecks s e)
  let l := bodyAt e 2 1
  let w := bodyAt e 3 1
  let n := bodyAt e 4 2
  let out := bodyAt e 32 8
  let key := sampleKey s e
  let bay := bayOfAddr s out
  modify (fun env => { env with engine := 0x5000 + bay })
  Cmd.declare out (n * w * (l + 1) * 8)
  let starts := (chunks 8 (n + 1) (← Cmd.read (bodyAt e 24 8) (8 * n))).map leNat
  let walks ← starts.mapM (fun x => (seqFrom 0 w).mapM (fun r => do
    let (nodes, early, caps) ← Cmd.walk bay (bodyAt e 0 2 % 256) (key % 2 ^ 32) (key / 2 ^ 32) r x (bit (bodyAt e 6 2) 0)
      (bodyAt e 8 4) (bodyAt e 12 4) l 1 none x
    return (x :: nodes, early, caps)))
  let flat := walks.flatten
  Cmd.write out (flat.flatMap (fun r => r.1.flatMap (toLE 8)))
  let early := (flat.filter (fun r => r.2.1)).length
  let caps := flat.foldl (fun k r => k + r.2.2) 0
  let env ← get
  return ⟨0, 0, env.engine, early + 2 ^ 32 * caps,
    (if early = 0 then 0 else 2 ^ 20) + (if caps = 0 then 0 else 2 ^ 21)⟩

end Sys2Proof.Machine
end

