-- ==== Sys2Proof/Machine/Gather.lean ====
section
/-! DEFINITION. Tables, row maps, ownership, and the serving of rows and contributions (04_gather_scatter_embeddings). -/

namespace Sys2Proof.Machine

open Sys2Proof

/-! ## Table descriptors (R90, R91) -/

/-- ROWMAP_BASE. -/
def tRowmap (d : List Byte) : Nat := leAt d 0 8
/-- NUM_ROWS. -/
def tRows (d : List Byte) : Nat := leAt d 8 8
/-- GUEST_ROWS. -/
def tGuests (d : List Byte) : Nat := leAt d 16 4
/-- ROW_BYTES. -/
def tBytes (d : List Byte) : Nat := leAt d 20 4
/-- FREE_RING_BASE. -/
def tRing (d : List Byte) : Nat := leAt d 40 8
/-- FREE_RING_ENTRIES. -/
def tRingSize (d : List Byte) : Nat := leAt d 48 4
/-- ELEM_FORMAT. -/
def tElem (d : List Byte) : Nat := leAt d 52 1
/-- MIGRATABLE. -/
def tMigratable (d : List Byte) : Bool := bit (leAt d 53 1) 1
/-- OWNERDIR_BASE. -/
def tDir (d : List Byte) : Nat := leAt d 56 8
/-- OWNERDIR_ENTRIES. -/
def tDirSize (d : List Byte) : Nat := leAt d 64 4
/-- TIDE_ENTRY. -/
def tTide (d : List Byte) : Nat := leAt d 68 2
/-- GRAD_BASE. -/
def tGrad (d : List Byte) : Nat := leAt d 72 8
/-- TOUCHED_BASE. -/
def tTouched (d : List Byte) : Nat := leAt d 80 8
/-- TOUCHED_CAP. -/
def tTouchedCap (d : List Byte) : Nat := leAt d 88 4
/-- STATE_BASE. -/
def tState (d : List Byte) : Nat := leAt d 104 8

/-- Bytes of an element of a table; an element of an OPAQUE table is a byte. -/
def tElemBytes (d : List Byte) : Nat := fmtBits (tElem d) / 8

/-- ROW_ELEMS: ROW_BYTES divided by the element size. -/
def tElems (d : List Byte) : Nat := tBytes d / tElemBytes d

/-- The least power of two at or above a number, up to 256. -/
def powUp (n : Nat) : Nat := ([16, 32, 64, 128, 256].find? (fun p => decide (n ≤ p))).getD 256

/-- STRIDE (R91). -/
def tStride (d : List Byte) : Nat := if tBytes d ≤ 256 then powUp (tBytes d) else ceilDiv (tBytes d) 256 * 256

/-- The base of a tier's slot area. -/
def tSlotBase (d : List Byte) (tier : Nat) : Nat := if tier = 1 then leAt d 32 8 else leAt d 24 8

/-- The address of a slot of a tier. -/
def slotAddr (d : List Byte) (tier slot : Nat) : Nat := tSlotBase d tier + slot * tStride d

/-- Whether a number is a power of two between two bounds. -/
def powIn (n lo hi : Nat) : Bool := (seqFrom 0 33).any (fun k => n = 2 ^ k) && decide (lo ≤ n) && decide (n ≤ hi)

/-- Whether a table descriptor is loaded (R90). -/
def tableOk (s : State) (d : List Byte) : Bool :=
  bit (leAt d 53 1) 0 && decide (leAt d 53 1 < 4) && decide (leAt d 54 2 = ownId s) && decide (tRowmap d % 8 = 0) &&
  decide (1 ≤ tRows d ∧ tRows d ≤ 2 ^ 36) && decide (tGuests d ≤ 2 ^ 24) &&
  decide (16 ≤ tBytes d ∧ tBytes d ≤ 65536 ∧ tBytes d % 16 = 0) && decide (leAt d 24 8 % 256 = 0) &&
  decide (leAt d 32 8 % 256 = 0) && powIn (tRingSize d) 64 (2 ^ 24) && decide (tElem d ≤ 3) &&
  (if tMigratable d then decide (tDir d % 16 = 0) && powIn (tDirSize d) 64 (2 ^ 20) else decide (tDir d = 0 ∧ tDirSize d = 0)) &&
  decide (leAt d 70 2 = 0 ∧ leAt d 92 4 = 0 ∧ leAt d 112 16 = 0)

/-- A loaded table's descriptor. -/
def tableDesc (s : State) (t : Nat) : Option (List Byte) := (s.gath.tables.find? (fun d => d.index = t)).map (fun d => d.bytes)

/-- The tables loaded by a Graph commit; what is in flight of a table whose descriptor changed is dropped (R90). -/
def loadTables (s0 : State) : State :=
  let base := s0.pair Reg.TABLE_TABLE_LO / 2 ^ 7 * 2 ^ 7
  let s := scanWords s0 base (128 * s0.fieldAt Reg.TABLE_ENTRIES 8 0)
  let ds := (seqFrom 0 (s.fieldAt Reg.TABLE_ENTRIES 8 0)).filterMap (fun t =>
    match tryRead s (base + 128 * t) 128 with
    | some d => if tableOk s d then some ⟨t, d⟩ else none
    | none => none)
  let same (t : Nat) : Bool := decide (tableDesc s t = (ds.find? (fun d => d.index = t)).map (fun d => d.bytes))
  let g := s.gath
  let s1 := { s with gath := { g with tables := ds, migrations := g.migrations.filter (fun m => same m.table),
                                      guests := g.guests.filter (fun m => same m.table),
                                      releases := g.releases.filter (fun m => same m.table) } }
  (seqFrom 0 8).foldl (fun s k =>
    s.setReg (Reg.TABLE_LOADED k) (BitVec.ofNat 32 (maskBits 32 (fun j => ds.any (fun d => d.index = 32 * k + j))))) s1

/-! ## Row-map entries -/

/-- TIER of a row-map entry. -/
def eTier (e : Nat) : Nat := bits e 63 63
/-- TOUCHED. -/
def eTouched (e : Nat) : Bool := bit e 59
/-- STATE: 0 ABSENT, 1 VALID, 2 EBBING, 3 FORWARDED, 4 GUEST_PENDING. -/
def eState (e : Nat) : Nat := bits e 58 56
/-- VERSION. -/
def eVersion (e : Nat) : Nat := bits e 55 40
/-- SLOT. -/
def eSlot (e : Nat) : Nat := e % 2 ^ 40

/-- A row-map entry of these fields. -/
def mkEntry (tier : Nat) (touched : Bool) (st version slot : Nat) : Nat :=
  2 ^ 63 * tier + 2 ^ 59 * b2n touched + 2 ^ 56 * st + 2 ^ 40 * (version % 2 ^ 16) + slot % 2 ^ 40

/-- The row-map entry of an index, as the module itself reads it. -/
def storedEntry (s : State) (d : List Byte) (i : Nat) : Nat := leNat (unitBytes s (tRowmap d + 8 * i) 8)

/-- A row-map entry changed by the module itself. -/
def putEntry (s : State) (d : List Byte) (i e : Nat) : State := storeBytes s (tRowmap d + 8 * i) (toLE 8 e)

/-- An entry with another STATE. -/
def withState (e st : Nat) : Nat := mkEntry (eTier e) (eTouched e) st (eVersion e) (eSlot e)

/-- The row-map entry of an index. -/
def Cmd.rowEntry (d : List Byte) (i : Nat) : Cmd Nat := Cmd.readNat (tRowmap d + 8 * i) 8

/-- A row-map entry written, in one atomic write. -/
def Cmd.setRowEntry (d : List Byte) (i e : Nat) : Cmd Unit := Cmd.writeNat (tRowmap d + 8 * i) 8 e

/-- Whether the slot of an entry lies inside its area: the area of a tier ends where the tier's region of the address map does,
and a table without SKERRY_SLOT_BASE has no skerry area (log entry 21). -/
def slotInside (d : List Byte) (e : Nat) : Bool :=
  if eTier e = 1 then decide (leAt d 32 8 ≠ 0) && decide (slotAddr d 1 (eSlot e) + tBytes d ≤ 0x020000000000)
  else decide (slotAddr d 0 (eSlot e) + tBytes d ≤ 0x009000000000)

/-! ## The owner directory (R93) -/

/-- An owner-directory entry. -/
structure DirEntry where
  row : Nat
  tide : Nat
  owner : Nat
  previous : Nat
  index : Nat
  deriving DecidableEq, Repr

/-- The entry of 16 bytes, none where USED is 0. -/
def parseDir (b : List Byte) : Option DirEntry :=
  let r := leAt b 0 8
  let o := leAt b 8 8
  if bit o 63 then some ⟨r % 2 ^ 48, bits r 63 48, o % 2 ^ 12, bits o 23 12, bits o 60 24⟩ else none

/-- The 16 bytes of an entry. -/
def dirBytes (e : DirEntry) : List Byte :=
  toLE 8 (e.row % 2 ^ 48 + 2 ^ 48 * (e.tide % 2 ^ 16)) ++
  toLE 8 (e.owner % 2 ^ 12 + 2 ^ 12 * (e.previous % 2 ^ 12) + 2 ^ 24 * (e.index % 2 ^ 37) + 2 ^ 63)

/-- The directory of a table as its entries by place. -/
def dirEntries (s : State) (d : List Byte) : List (Option DirEntry) :=
  (seqFrom 0 (tDirSize d)).map (fun k => parseDir (unitBytes s (tDir d + 16 * k) 16))

/-- The directory entry of a row. -/
def dirLookup (s : State) (d : List Byte) (row : Nat) : Option DirEntry :=
  if tMigratable d then (dirEntries s d).findSome? (fun e => match e with
    | some x => if x.row = row then some x else none
    | none => none)
  else none

/-- A directory entry written where the row has one, else at the first unused place (log entry 22). -/
def dirWrite (s : State) (d : List Byte) (e : DirEntry) : State :=
  let es := dirEntries s d
  let place := match es.findIdx? (fun x => match x with
      | some y => decide (y.row = e.row)
      | none => false) with
    | some k => some k
    | none => es.findIdx? (fun x => x.isNone)
  match place with
  | some k => storeBytes s (tDir d + 16 * k) (dirBytes e)
  | none => s

/-- Entries in use. -/
def dirUsed (s : State) (d : List Byte) : Nat := ((dirEntries s d).filter (fun e => e.isSome)).length

/-! ## Where a row is -/

/-- Where a request for a row goes: a row-map index here, or another module. -/
inductive RowPlace where
  | here (index : Nat)
  | there (owner : Nat)
  deriving DecidableEq, Repr

/-- The row-map index of a row that was migrated to this module: the guest entry it took, or, after a reload, OWNER_INDEX of a directory
entry that names this module (R93). -/
def guestIndex (s : State) (t : Nat) (d : List Byte) (row : Nat) : Option Nat :=
  match s.gath.guests.find? (fun g => g.table = t && g.row = row) with
  | some g => some g.index
  | none => (dirLookup s d row).bind (fun e => if e.owner = ownId s then some e.index else none)

/-- The row-map index under which this module has or had a row: the guest entry that a migration to it took, also of a row that came
back to its home (R111 phase 2), else the row's home entry. -/
def ownedIndex (s : State) (t : Nat) (d : List Byte) (row : Nat) : Option Nat :=
  match guestIndex s t d row with
  | some i => some i
  | none => if shardOf row = ownId s then some (localOf row) else none

/-- The route of R93 for a row and a tide. -/
def rowRoute (s : State) (t : Nat) (d : List Byte) (row tide : Nat) : RowPlace :=
  let own := ownId s
  let home := if shardOf row = own then .here (localOf row) else .there (shardOf row)
  match dirLookup s d row with
  | none => home
  | some e =>
    if atOrAfter tide e.tide then (if e.owner = own then .here e.index else .there e.owner)
    else if e.previous = own then
      (match ownedIndex s t d row with
       | some i => .here i
       | none => .there e.owner)
    else .there e.previous

/-- The migration of a row at this module, if any. -/
def migrationOf (s : State) (t i : Nat) : Option Migration :=
  s.gath.migrations.find? (fun m => m.table = t && m.index = i)

/-- What a request that reached this module's row map meets. -/
inductive RowTurn where
  /-- Served here, from this row-map entry. -/
  | serve (entry : Nat)
  /-- ABSENT. -/
  | absent
  /-- Held until the switch ends or the guest entry becomes VALID (R111, R114). -/
  | held
  /-- Forwarded to the row's new owner (R111 phase 4). -/
  | forward (dest : Nat)
  /-- Answered with a redirect (R113). -/
  | redirect (e : DirEntry)
  /-- METADATA_FAULT 0x31. -/
  | malformed
  deriving DecidableEq, Repr

/-- What a request for row-map index `i` meets here, from its entry (R94, R111, R113, R114). -/
def rowTurn (s : State) (t : Nat) (d : List Byte) (row i e : Nat) : RowTurn :=
  let st := eState e
  if 4 < st then .malformed
  else if st = 4 then .held
  else if st = 3 then
    (match migrationOf s t i with
     | some m => .forward m.dest
     | none => .malformed)
  else if st = 0 then
    (match dirLookup s d row with
     | some x => if x.owner ≠ ownId s then .redirect x else .absent
     | none => .absent)
  else if !slotInside d e then .malformed
  else match migrationOf s t i with
    | some m => if m.phase = 2 then .held else .serve e
    | none => .serve e

/-! ## Skew measurement (R108) -/

/-- A counter of the sketch advanced, saturating. -/
def bumpSketch (l : List (Nat × Nat)) (k : Nat) : List (Nat × Nat) :=
  if l.any (fun p => p.1 = k) then l.map (fun p => if p.1 = k then (k, satAdd32 p.2 1) else p) else (k, 1) :: l

/-- A counter of the sketch. -/
def sketchAt (l : List (Nat × Nat)) (k : Nat) : Nat := ((l.find? (fun p => p.1 = k)).map (fun p => p.2)).getD 0

/-- The columns of a key in the four rows of the sketch. -/
def sketchKeys (t row : Nat) : List Nat := (seqFrom 0 4).map (fun r => 4096 * r + Config.sketchColumn r t row % 4096)

/-- A hot row entered or refreshed; a full table gives up its least estimate to a higher one. -/
def enterHot (rows : List (Nat × Nat)) (key est : Nat) : List (Nat × Nat) :=
  if rows.any (fun p => p.1 = key) then rows.map (fun p => if p.1 = key then (key, est) else p)
  else if rows.length < 4096 then rows ++ [(key, est)]
  else
    let least := rows.foldl (fun (acc : Nat × Nat) p => if p.2 < acc.2 then p else acc) (rows.headD (0, 0))
    if least.2 < est then rows.map (fun p => if p = least then (key, est) else p) else rows

/-- A row served by a bay's gather unit is counted (R108). -/
def measureRow (s : State) (bay t row : Nat) : State :=
  if s.bitAt Reg.HOTROW_CFG 31 then
    let h := (s.gath.hot[bay]?).getD ⟨[], []⟩
    let keys := sketchKeys t row
    let sk := keys.foldl bumpSketch h.sketch
    let est := keys.foldl (fun m k => min m (sketchAt sk k)) 0xFFFFFFFF
    let key := t * 2 ^ 48 + row
    let rows := if (s.reg Reg.HOTROW_THRESH).toNat ≤ est ∨ h.rows.any (fun p => p.1 = key) then enterHot h.rows key est else h.rows
    { s with gath := { s.gath with hot := s.gath.hot.set bay ⟨sk, rows⟩ } }
  else s

/-- The bay whose gather unit serves a row to another module: the bay of the stack that holds its first granule (R95); a row in
skerry memory is served by bay 0 (log entry 23). -/
def servingBay (s : State) (d : List Byte) (e : Nat) : Nat :=
  match locate s (slotAddr d (eTier e) (eSlot e)) with
  | .ok ⟨_, .hbm st⟩ => st
  | _ => 0

/-! ## Serving a row -/

/-- One row as a reader gets it. -/
structure Fetched where
  absent : Bool
  version : Nat
  bytes : List (Option Byte)
  remote : Bool
  deriving DecidableEq, Repr

/-- The slot an entry names read whole: one version of the row (R94). -/
def Cmd.readSlotRow (bay t : Nat) (d : List Byte) (row e : Nat) : Cmd Fetched := do
  let bytes ← Cmd.readP (slotAddr d (eTier e) (eSlot e)) (tBytes d)
  Cmd.update (fun s => measureRow s bay t row)
  return ⟨false, eVersion e, bytes, false⟩

/-- The check of a row-map index against the table: ADDRESS_FAULT 0x30. -/
def Cmd.checkIndex (d : List Byte) (i : Nat) : Cmd Unit := do
  if tRows d + tGuests d ≤ i then Cmd.fail 0x12 0x30 else return ()

/-- Bytes of an answer as bytes that may be lost. -/
def answerBytes (l : List Nat) : List (Option Byte) := l.map (fun n => if n < 256 then some (BitVec.ofNat 8 n) else none)

/-- Bytes that may be lost as the numbers of an answer. -/
def bytesAnswer (l : List (Option Byte)) : List Nat := l.map (fun b => match b with | some x => x.toNat | none => 256)

/-- Whether a request's tide is older than the switch that brought the row where it is served (R114, log entry 74). -/
def lateAt (s : State) (t : Nat) (d : List Byte) (row tide : Nat) : Bool :=
  match (s.gath.guests.find? (fun g => g.table = t && g.row = row)).bind (fun g => g.since), dirLookup s d row with
  | some x, _ => !atOrAfter tide x
  | none, some x => !atOrAfter tide x.tide
  | none, none => false

/-- A row of this module for a command of its own, which notes a late tide (R114). -/
def Cmd.placeHere (t : Nat) (d : List Byte) (row tide i : Nat) : Cmd RowPlace := do
  if lateAt (← Cmd.state) t d row tide then Cmd.note (2 ^ 22)
  return .here i

/-- Where the command finds a row: the owner that a redirect named comes before the route of R93 (R113). -/
def Cmd.placeRow (t : Nat) (d : List Byte) (row tide : Nat) : Cmd RowPlace := do
  let env ← get
  match env.answers.find? (fun p => p.1 = .takeRow t row) with
  | some p =>
    if (p.2.nums.headD 0) = ownId env.s then Cmd.placeHere t d row tide ((p.2.nums.tail).headD 0) else return .there (p.2.nums.headD 0)
  | none =>
    match rowRoute env.s t d row tide with
    | .there m => return .there m
    | .here i =>
      if shardOf row = ownId env.s ∧ i = localOf row ∧ tRows d ≤ i then Cmd.fail 0x12 0x30
      else
        Cmd.checkIndex d i
        let e ← Cmd.rowEntry d i
        match rowTurn env.s t d row i e with
        | .forward m => do Cmd.note (2 ^ 22); return .there m
        | .redirect x => do Cmd.note (2 ^ 23); return .there x.owner
        | .held => throw (.wait .remote)
        | .serve _ => Cmd.placeHere t d row tide i
        | _ => return .here i

/-- The row at an index of this module's row map, for a command of its own. -/
def Cmd.fetchHere (bay t : Nat) (d : List Byte) (row i : Nat) : Cmd Fetched := do
  let s ← Cmd.state
  let e ← Cmd.rowEntry d i
  match rowTurn s t d row i e with
  | .serve e => do
    Cmd.update (fun s => s.count64 (Reg.GATHER_BAY_CTR_LOCAL_ROWS_LO bay) 1)
    Cmd.readSlotRow bay t d row e
  | .absent => return ⟨true, 0, List.replicate (tBytes d) (some 0), false⟩
  | .malformed => Cmd.fail 0x13 0x31
  | _ => throw (.wait .remote)

/-- The place found for a row. -/
def placeIn (places : List (Nat × RowPlace)) (row : Nat) : Option RowPlace :=
  (places.find? (fun p => p.1 = row)).map (fun p => p.2)

/-- The rows of a list of row IDs, in its order: those held elsewhere asked of their owners first, each identical row once
(R93 to R95). -/
def Cmd.fetchRows (bay t : Nat) (d : List Byte) (tide : Nat) (rows : List Nat) : Cmd (List Fetched) := do
  let places : List (Nat × RowPlace) ← rows.dedup.mapM (fun r => do
    let p ← Cmd.placeRow t d r tide
    return (r, p))
  let away := places.filterMap (fun p => match p.2 with
    | .there m => some (m, p.1)
    | .here _ => none)
  Cmd.askAll (away.map (fun p => (p.1, .tableRow t p.2 tide)))
  Cmd.update (fun s => s.count64 (Reg.GATHER_BAY_CTR_REQUESTED_REMOTE_LO bay) away.length)
  rows.mapM (fun r => do
    match placeIn places r with
    | some (.there _) => do
      let a ← Cmd.answer (.tableRow t r tide)
      Cmd.note (2 ^ 18 + (if bit a.flags 1 then 2 ^ 22 else 0))
      return ⟨bit a.flags 0, a.nums.headD 0, answerBytes a.bytes, true⟩
    | some (.here i) => Cmd.fetchHere bay t d r i
    | none => Cmd.fail 0x12 0x30)

/-- The granules read are counted; how many requests of one granule were outstanding together and so merged is open, so the
count is a free value between 1 and the rows' granules (log entry 3). -/
def Cmd.countGranules (bay : Nat) (d : List Byte) (rows : Nat) : Cmd Unit := do
  let n := rows * ceilDiv (tBytes d) 256
  if n = 0 then return ()
  else
    let x ← Cmd.fresh
    Cmd.update (fun s => s.count64 (Reg.GATHER_BAY_CTR_GRANULES_LO bay) (1 + x % n))

/-- The distinct rows of a list served by other modules. -/
def remoteRows (rows : List Nat) (got : List Fetched) : Nat :=
  (((rows.zip got).filter (fun p => p.2.remote)).map (fun p => p.1)).dedup.length

/-! ## Contributions (R101, R102) -/

/-- The poison code of FS48W. -/
def poison64 : Nat := 2 ^ 63

/-- A sum of the accumulators: an accumulator code and an FS48 code added, poison absorbing (R101). -/
def accumulate (acc q : Nat) : Nat :=
  if acc = poison64 ∨ q = 2 ^ 47 then poison64 else unsigned 64 (signed 64 acc + signed 48 q)

/-- A contribution added to the gradient buffer of a row-map index, and the row entered in the touched list (R101, R102). -/
def Cmd.addContribution (d : List Byte) (i : Nat) (codes : List Nat) : Cmd Unit := do
  let n := tElems d
  let h := tGrad d + i * (8 + 8 * n)
  let count ← Cmd.readNat h 4
  Cmd.writeNat h 4 (satAdd32 count 1)
  let old ← Cmd.read (h + 8) (8 * n)
  let accs := (chunks 8 (n + 1) old).map leNat
  if 65536 ≤ count then
    Cmd.note (2 ^ 21)
    Cmd.write (h + 8) (accs.flatMap (fun _ => toLE 8 poison64))
  else Cmd.write (h + 8) ((accs.zip codes).flatMap (fun p => toLE 8 (accumulate p.1 p.2)))
  let e ← Cmd.rowEntry d i
  if eTouched e then return ()
  else
    Cmd.setRowEntry d i (e + 2 ^ 59)
    let k ← Cmd.readNat (tTouched d) 4
    if tTouchedCap d ≤ k then
      Cmd.note (2 ^ 24)
      Cmd.writeNat (tTouched d + 4) 4 1
    else
      Cmd.writeNat (tTouched d + 64 + 8 * k) 8 i
      Cmd.writeNat (tTouched d) 4 (k + 1)
      if tTouchedCap d = k + 1 then
        Cmd.note (2 ^ 24)
        Cmd.writeNat (tTouched d + 4) 4 1

/-! ## The free ring (R104 to R106) -/

/-- A slot of a tier taken from the free ring: the first such entry from HEAD on; the entry at HEAD takes its place (log entry
24). None when the ring holds no slot of the tier. -/
def Cmd.takeSlot (d : List Byte) (tier : Nat) : Cmd (Option Nat) := do
  let head ← Cmd.readNat (tRing d) 4
  let tail ← Cmd.readNat (tRing d + 4) 4
  let n := tRingSize d
  let used := (tail + n - head % n) % n
  let slots ← (seqFrom 0 used).mapM (fun k => Cmd.readNat (tRing d + 64 + 8 * ((head + k) % n)) 8)
  match slots.findIdx? (fun x => bits x 63 63 = tier) with
  | none => return none
  | some k =>
    Cmd.writeNat (tRing d + 64 + 8 * ((head + k) % n)) 8 ((slots[0]?).getD 0)
    Cmd.writeNat (tRing d) 4 ((head + 1) % n)
    return some (((slots[k]?).getD 0) % 2 ^ 40)

/-- A slot returned to the free ring. -/
def returnSlot (s : State) (d : List Byte) (tier slot : Nat) : State :=
  let tail := leNat (unitBytes s (tRing d + 4) 4)
  let s1 := storeBytes s (tRing d + 64 + 8 * (tail % tRingSize d)) (toLE 8 (slot % 2 ^ 40 + 2 ^ 63 * tier))
  storeBytes s1 (tRing d + 4) (toLE 4 ((tail + 1) % tRingSize d))

/-- The commands in flight that read a table: those an old slot's release waits for (R105). -/
def tableReaders (s : State) (t : Nat) : List Nat :=
  (s.entries.filter (fun e => inFlight e && (pktOp e.pkt = 0x22 || pktOp e.pkt = 0x23) && decide (bodyAt e 0 2 = t))).map
    (fun e => e.seq)

/-- An old slot queued for release (R104 step 5). -/
def queueRelease (s : State) (t tier slot : Nat) : State :=
  { s with gath := { s.gath with releases := s.gath.releases ++ [⟨t, slot + 2 ^ 63 * tier, tableReaders s t⟩] } }

/-- A row flipped to a new slot: one atomic write, VERSION + 1, and the old slot queued (R104 steps 4 and 5). -/
def Cmd.flipRow (t : Nat) (d : List Byte) (i tier slot : Nat) : Cmd Unit := do
  let e ← Cmd.rowEntry d i
  Cmd.setRowEntry d i (mkEntry tier (eTouched e) (eState e) (eVersion e + 1) slot)
  Cmd.update (fun s => queueRelease s t (eTier e) (eSlot e))

end Sys2Proof.Machine
end

