-- ==== Sys2Proof/Machine/GatherCmd.lean ====
section
/-! DEFINITION. GATHER, GATHER_POOL, SCATTER_ADD, ROW_REPLACE and ROW_MIGRATE, the phases of a migration, and the hot-row
snapshot (04_gather_scatter_embeddings). -/

namespace Sys2Proof.Machine

open Sys2Proof

/-! ## Embedding groups -/

/-- RULE of a parameter group. -/
def gRule (g : List Byte) : Nat := leAt g 62 1
/-- FLAGS of a parameter group. -/
def gFlag (g : List Byte) (i : Nat) : Bool := bit (leAt g 63 1) i
/-- Bytes of an element of M or V. -/
def gMoment (g : List Byte) : Nat := if gFlag g 1 then 2 else 4
/-- b_s: bytes of state per parameter (R257). -/
def gStateBytes (g : List Byte) : Nat := 4 + gMoment g * (if gRule g = 1 then 2 else 1)

/-- A size rounded up to a multiple of 256. -/
def pad256 (n : Nat) : Nat := ceilDiv n 256 * 256

/-- The loaded embedding group of a table. -/
def embedGroup (s : State) (t : Nat) : Option (List Byte) :=
  (s.pgroups.find? (fun d => gFlag d.bytes 3 && decide (leAt d.bytes 60 1 = t))).map (fun d => d.bytes)

/-- Bytes of a row's optimizer state: none without a group. -/
def rowStateBytes (s : State) (t : Nat) (d : List Byte) : Nat :=
  match embedGroup s t with
  | some g => pad256 (tElems d * gStateBytes g)
  | none => 0

/-- The address of a row's optimizer state (R257). -/
def rowStateAddr (s : State) (t : Nat) (d : List Byte) (i : Nat) : Nat := tState d + i * rowStateBytes s t d

/-- Bytes of a row of the gradient buffer; none without a buffer. -/
def gradRowBytes (d : List Byte) : Nat := if tGrad d = 0 then 0 else 8 + 8 * tElems d

/-! ## GATHER (R94, R95) -/

/-- The checks that GATHER, GATHER_POOL and SCATTER_ADD share: the table, its tide and the bay (R112, R115). -/
def gatherChecks (s : State) (e : Entry) (d : List Byte) : List (Bool × Nat) :=
  [(decide (bodyAt e 0 2 < 256) && !d.isEmpty, 0x30), (d.isEmpty || !tMigratable d || pktTideValid e.pkt, 0x35),
   (decide (bodyAt e 2 1 < 8), 0x30), (decide (8 ≤ bodyAt e 2 1) || bayEnabled s (bodyAt e 2 1), 0x37)]

/-- Row IDs read. -/
def Cmd.rowIds (a n : Nat) : Cmd (List Nat) := do return (chunks 8 (n + 1) (← Cmd.read a (8 * n))).map (fun b => leNat b % 2 ^ 48)

/-- An absent row stops a command that does not take zeros for it (R94). -/
def Cmd.absentRows (zero : Bool) (got : List Fetched) : Cmd Unit := do
  if got.any (fun g => g.absent) then
    if zero then Cmd.note (2 ^ 17) else Cmd.fail 0x12 0x33
  else return ()

/-- GATHER. -/
def bodyGather (e : Entry) : Cmd Done := do
  let s ← Cmd.state
  let t := bodyAt e 0 2
  let d := (tableDesc s t).getD []
  let n := bodyAt e 4 4
  Cmd.checks (gatherChecks s e d ++
    [(decide (bodyAt e 3 1 < 2) && bodyZero e 28 32 && bodyZero e 40 48, 0x30), (decide (1 ≤ n ∧ n ≤ 65536), 0x31),
     (d.isEmpty || (decide (bodyAt e 24 4 % 16 = 0) && decide (tBytes d ≤ bodyAt e 24 4)), 0x32),
     (decide (bodyAt e 8 8 % 8 = 0) && decide (bodyAt e 16 8 % 16 = 0), 0x36)])
  let bay := bodyAt e 2 1
  modify (fun env => { env with engine := 0x6000 + bay })
  let out := bodyAt e 16 8
  let ver := bodyAt e 32 8
  (seqFrom 0 n).forM (fun k => Cmd.declare (out + k * bodyAt e 24 4) (tBytes d))
  if ver ≠ 0 then Cmd.declare ver (2 * n)
  let rows ← Cmd.rowIds (bodyAt e 8 8) n
  let got ← Cmd.fetchRows bay t d (pktTide e.pkt) rows
  Cmd.absentRows (bit (bodyAt e 3 1) 0) got
  got.zipIdx.forM (fun p => do
    Cmd.writeCells (out + p.2 * bodyAt e 24 4) (tElemBytes d) (poisonCode (tElem d))
      ((chunks (tElemBytes d) (tBytes d + 1) p.1.bytes).map plainBytes)
    if ver ≠ 0 then Cmd.writeNat (ver + 2 * p.2) 2 p.1.version)
  Cmd.countGranules bay d ((got.filter (fun g => !g.remote && !g.absent)).length)
  return ⟨0, 0, 0x6000 + bay, remoteRows rows got + 2 ^ 32 * (got.filter (fun g => g.absent)).length, 0⟩

/-! ## GATHER_POOL (R97, R98) -/

/-- The elements of a row as values. -/
def rowVals (fmt : Nat) (bytes : List (Option Byte)) : List Val :=
  (chunks (fmtBits fmt / 8) (bytes.length + 1) bytes).map (fun c => match plainBytes c with
    | some b => decodeElem fmt 0 0 (leNat b)
    | none => .lost)

/-- Lists of values added element by element in FP32. -/
def addVals (a b : List Val) : List Val := (a.zip b).map (fun p => fadd p.1 p.2)

/-- One segment: rows with their weights added in order to +0.0 (R97). -/
def poolSegment (n : Nat) (rows : List (List Val × Option Val)) : List Val :=
  rows.foldl (fun acc r => addVals acc (match r.2 with
    | some w => r.1.map (fun x => fmul x w)
    | none => r.1)) (List.replicate n (.zero false))

/-- A bag pooled: segments of `split` entries, their sums added in ascending order, then the mean (R97, R98). -/
def poolBag (n split : Nat) (mean : Bool) (rows : List (List Val × Option Val)) : List Val :=
  let parts := (chunks split (rows.length + 1) rows).map (poolSegment n)
  let total := parts.tail.foldl addVals (parts.headD (List.replicate n (.zero false)))
  if mean && !rows.isEmpty then total.map (fun v => fdiv v (fp32.rne (Val.ofInt rows.length))) else total

/-- A list of offsets: it starts at 0, does not decrease, and ends within the limit (METADATA_FAULT 0x30). -/
def offsetsOk (l : List Nat) : Bool :=
  decide (l.headD 1 = 0) && (l.zip l.tail).all (fun p => decide (p.1 ≤ p.2)) && decide (l.getLastD 0 ≤ 1048576)

/-- Offsets read and checked. -/
def Cmd.offsets (a n : Nat) : Cmd (List Nat) := do
  let l := (chunks 4 (n + 2) (← Cmd.read a (4 * (n + 1)))).map leNat
  if offsetsOk l then return l else Cmd.fail 0x13 0x30

/-- FP32 weights read, one per index entry; none where WEIGHT_BASE is 0. -/
def Cmd.weights (a n : Nat) : Cmd (List (Option Val)) := do
  if a = 0 then return List.replicate n none
  else return (rowVals 0x01 (← Cmd.readP a (4 * n))).map some

/-- A value narrowed to a format of the pooled output, as the bytes of a cell; a lost one stays lost. -/
def narrowCell (fmt : Nat) (v : Val) : Option (List Byte) :=
  match v with
  | .lost => none
  | v => some (match floatOf fmt with
    | some f => toLE (fmtBits fmt / 8) (f.encode (f.rne v))
    | none => [])

/-- GATHER_POOL. -/
def bodyGatherPool (e : Entry) : Cmd Done := do
  let s ← Cmd.state
  let t := bodyAt e 0 2
  let d := (tableDesc s t).getD []
  let fmt := bodyAt e 5 1
  let bags := bodyAt e 8 4
  let size := fmtBits fmt / 8
  Cmd.checks (gatherChecks s e d ++
    [(decide (bodyAt e 3 1 < 2) && bodyZero e 6 8 && bodyZero e 12 16 && bodyZero e 52 64, 0x30),
     (decide (1 ≤ bags ∧ bags ≤ 65536), 0x31),
     (decide (bodyAt e 4 1 ≤ 1) && (decide (fmt = 1) || decide (fmt = 2)) && (d.isEmpty || decide (tElem d ≠ 0)), 0x33),
     (d.isEmpty || decide (tElem d = 0) ||
       (decide (bodyAt e 48 4 % 16 = 0) && decide (tElems d * size ≤ bodyAt e 48 4)), 0x32),
     (decide (bodyAt e 24 8 % 4 = 0) && decide (bodyAt e 40 8 % 16 = 0), 0x36)])
  let bay := bodyAt e 2 1
  modify (fun env => { env with engine := 0x6000 + bay })
  let out := bodyAt e 40 8
  let n := tElems d
  (seqFrom 0 bags).forM (fun k => Cmd.declare (out + k * bodyAt e 48 4) (n * size))
  let offs ← Cmd.offsets (bodyAt e 24 8) bags
  let total := offs.getLastD 0
  let rows ← Cmd.rowIds (bodyAt e 16 8) total
  let ws ← Cmd.weights (bodyAt e 32 8) total
  let got ← Cmd.fetchRows bay t d (pktTide e.pkt) rows
  Cmd.absentRows (bit (bodyAt e 3 1) 0) got
  let split ← Cmd.field Reg.HUB_SPLIT 16 0
  let items := (got.map (fun g => rowVals (tElem d) g.bytes)).zip ws
  (offs.zip offs.tail).zipIdx.forM (fun p => do
    let bag := (items.drop p.1.1).take (p.1.2 - p.1.1)
    Cmd.writeCells (out + p.2 * bodyAt e 48 4) size (poisonCode fmt)
      ((poolBag n split (decide (bodyAt e 4 1 = 1)) bag).map (narrowCell fmt)))
  Cmd.countGranules bay d ((got.filter (fun g => !g.remote && !g.absent)).length)
  let empty := ((offs.zip offs.tail).filter (fun p => p.1 = p.2)).length
  return ⟨0, 0, 0x6000 + bay, empty + 2 ^ 32 * remoteRows rows got, if empty = 0 then 0 else 2 ^ 16⟩

/-! ## SCATTER_ADD (R100 to R103) -/

/-- The entries of a SCATTER_ADD: for each index entry its gradient row and the length of its bag; 0 in ROWS mode. -/
def scatterItems (bags : Bool) (count : Nat) (offs : List Nat) : List (Nat × Nat) :=
  if bags then (offs.zip offs.tail).zipIdx.flatMap (fun p => List.replicate (p.1.2 - p.1.1) (p.2, p.1.2 - p.1.1))
  else (seqFrom 0 count).map (fun k => (k, 0))

/-- What one gradient element contributes (R100). -/
def contribution (mean : Bool) (w : Option Val) (n : Nat) (g : Val) : Val :=
  let x := match w with
    | some w => fmul g w
    | none => g
  if mean then fdiv x (fp32.rne (Val.ofInt n)) else x

/-- SCATTER_ADD. -/
def bodyScatterAdd (e : Entry) : Cmd Done := do
  let s ← Cmd.state
  let t := bodyAt e 0 2
  let d := (tableDesc s t).getD []
  let bags := decide (bodyAt e 3 1 = 1)
  let fmt := bodyAt e 4 1
  let count := bodyAt e 8 4
  let exp := signed 16 (bodyAt e 6 2)
  let size := fmtBits fmt / 8
  Cmd.checks (gatherChecks s e d ++
    [(decide (bodyAt e 5 1 < 2) && bodyZero e 48 64 && (bags || decide (bodyAt e 24 8 = 0)), 0x30),
     (decide (1 ≤ count ∧ count ≤ 65536), 0x31),
     (decide (bodyAt e 3 1 ≤ 1) && decide (1 ≤ fmt ∧ fmt ≤ 3) && decide (-256 ≤ exp ∧ exp ≤ 127) &&
       (d.isEmpty || (decide (tElem d ≠ 0) && decide (tGrad d ≠ 0))), 0x33),
     (d.isEmpty || decide (tElem d = 0) ||
       (decide (bodyAt e 12 4 % 16 = 0) && decide (tElems d * size ≤ bodyAt e 12 4)), 0x32),
     (decide (bodyAt e 24 8 % 4 = 0), 0x36)])
  let bay := bodyAt e 2 1
  modify (fun env => { env with engine := 0x6000 + bay })
  let offs ← if bags then Cmd.offsets (bodyAt e 24 8) count else pure []
  let items := scatterItems bags count offs
  let rows ← Cmd.rowIds (bodyAt e 16 8) items.length
  let ws ← Cmd.weights (bodyAt e 32 8) items.length
  let grads ← (seqFrom 0 count).mapM (fun k => do
    return rowVals fmt (← Cmd.readP (bodyAt e 40 8 + k * bodyAt e 12 4) (tElems d * size)))
  let mean := bags && bit (bodyAt e 5 1) 0
  let parts := ((rows.zip items).zip ws).map (fun p =>
    (p.1.1, ((grads[p.1.2.1]?).getD []).map (fun g => toFs 0x0E exp (contribution mean p.2 p.1.2.2 g))))
  let places : List (Nat × RowPlace) ← rows.dedup.mapM (fun r => do
    let p ← Cmd.placeRow t d r (pktTide e.pkt)
    return (r, p))
  let asks := parts.zipIdx.filterMap (fun p => match placeIn places p.1.1 with
    | some (.there m) => some (m, Ask.contribute t p.1.1 (pktTide e.pkt) p.2 (p.1.2.map (fun c => c.1)))
    | _ => none)
  Cmd.askAll asks
  asks.forM (fun q => do
    let a ← Cmd.answer q.2
    Cmd.note (2 ^ 18 ||| a.flags))
  parts.forM (fun p => do
    match placeIn places p.1 with
    | some (.here i) => do
      let s ← Cmd.state
      let en ← Cmd.rowEntry d i
      match rowTurn s t d p.1 i en with
      | .serve _ => Cmd.addContribution d i (p.2.map (fun c => c.1))
      | .absent => Cmd.fail 0x12 0x33
      | .malformed => Cmd.fail 0x13 0x31
      | _ => throw (.wait .remote)
    | _ => pure ())
  let ev := (parts.flatMap (fun p => p.2.map (fun c => c.2))).foldl Events.add Events.none
  return ⟨0, 0, 0x6000 + bay, ev.nonfinite % 2 ^ 32 + 2 ^ 32 * (ev.sat % 2 ^ 32),
    (if ev.sat = 0 then 0 else 2 ^ 19) + (if ev.nonfinite = 0 then 0 else 2 ^ 20)⟩

/-! ## ROW_REPLACE (R104 to R107) -/

/-- What stops a ROW_REPLACE or ROW_MIGRATE of a row: the status and detail (R110, R114, R115). -/
def ownedFault (s : State) (t : Nat) (d : List Byte) (refused row : Nat) : Option (Nat × Nat) :=
  match ownedIndex s t d row with
  | none => some (0x12, 0x31)
  | some i =>
    if shardOf row = ownId s ∧ tRows d ≤ localOf row then some (0x12, 0x30)
    else
      let e := storedEntry s d i
      if (migrationOf s t i).isSome then some (0x20, refused)
      else match rowTurn s t d row i e with
        | .serve _ => none
        | .malformed => some (0x13, 0x31)
        | .absent => some (0x12, 0x33)
        | _ => some (0x12, 0x31)

/-- The skerry die sets a row's master weights to new values and zeroes its moments (R104 step 3). -/
def Cmd.resetRowState (t : Nat) (d : List Byte) (i : Nat) (bytes : List (Option Byte)) : Cmd Unit := do
  let s ← Cmd.state
  match embedGroup s t with
  | none => return ()
  | some g => do
    let a := rowStateAddr s t d i
    let n := tElems d
    Cmd.writeCells a 4 (poisonCode 0x01) ((rowVals (tElem d) bytes).map (narrowCell 0x01))
    Cmd.write (a + 4 * n) (toLE (n * (gStateBytes g - 4)) 0)

/-- The rows from number `k` on replaced in list order. A row without a free slot waits, the earlier ones staying (R106). -/
def Cmd.replaceRows (t : Nat) (d : List Byte) (tier : Nat) (reset : Bool) (src : Nat) : List Nat → Nat → Cmd Unit
  | [], _ => return ()
  | row :: rows, k => do
    let s ← Cmd.state
    let i := (ownedIndex s t d row).getD 0
    match ← Cmd.takeSlot d tier with
    | none => throw (.pause (.rows k 0))
    | some slot => do
      let bytes ← Cmd.readP (src + k * tBytes d) (tBytes d)
      Cmd.writeCells (slotAddr d tier slot) (tElemBytes d) (poisonCode (tElem d))
        ((chunks (tElemBytes d) (tBytes d + 1) bytes).map plainBytes)
      if reset then Cmd.resetRowState t d i bytes
      Cmd.flipRow t d i tier slot
      Cmd.replaceRows t d tier reset src rows (k + 1)

/-- Whether a command goes on from a wait for a row slot. -/
def rowsWaited (e : Entry) : Bool :=
  match e.phase with
  | .running (.rows _ _) => true
  | .running (.recovery _ (some _)) => true
  | _ => false

/-- The rows a paused command has already done. -/
def rowsDone (e : Entry) : Nat :=
  match e.phase with
  | .running (.rows k _) => k
  | .running (.recovery _ (some (k, _))) => k
  | _ => 0

/-- ROW_REPLACE. -/
def bodyRowReplace (e : Entry) : Cmd Done := do
  let s ← Cmd.state
  let t := bodyAt e 0 2
  let d := (tableDesc s t).getD []
  let n := bodyAt e 4 4
  Cmd.checks [(decide (bodyAt e 0 2 < 256) && !d.isEmpty && decide (bodyAt e 2 1 < 4) && bodyZero e 3 4 && bodyZero e 24 32, 0x30),
    (decide (1 ≤ n ∧ n ≤ 4096), 0x31), (decide (bodyAt e 16 8 % 16 = 0), 0x36)]
  modify (fun env => { env with engine := 0x6000 })
  let rows ← Cmd.rowIds (bodyAt e 8 8) n
  let k := rowsDone e
  match (rows.drop k).findSome? (ownedFault s t d 0x31) with
  | some (st, det) => Cmd.fail st det
  | none =>
    Cmd.replaceRows t d (bodyAt e 2 1 % 2) (bit (bodyAt e 2 1) 1) (bodyAt e 16 8) (rows.drop k) k
    return ⟨0, 0, 0x6000, n, 0⟩

/-! ## ROW_MIGRATE (R110 to R114) -/

/-- What is copied of a row: its entry, slot, optimizer state and gradient-buffer row (R111). -/
def rowImage (s : State) (t : Nat) (d : List Byte) (i : Nat) : RowImage :=
  let e := storedEntry s d i
  { entry := e, slot := unitBytes s (slotAddr d (eTier e) (eSlot e)) (tBytes d),
    state := unitBytes s (rowStateAddr s t d i) (rowStateBytes s t d),
    grad := unitBytes s (tGrad d + i * gradRowBytes d) (gradRowBytes d) }

/-- The words that a copy of a row reads: corrected, or counted and logged (R242). -/
def scanRow (s : State) (t : Nat) (d : List Byte) (i : Nat) : State :=
  let e := storedEntry s d i
  scanWords (scanWords (scanWords s (slotAddr d (eTier e) (eSlot e)) (tBytes d)) (rowStateAddr s t d i) (rowStateBytes s t d))
    (tGrad d + i * gradRowBytes d) (gradRowBytes d)

/-- The copy of a row sent to its destination (R111 phases 2 and 3). -/
def sendRow (s : State) (dest t row tide : Nat) (switch : Bool) (im : RowImage) : State :=
  (sendMessage s dest ⟨.migrationCopy, [t, row, tide, b2n switch, im.entry], im.slot ++ im.state ++ im.grad⟩).2

/-- A row announced and its copy sent (R111 phases 1 and 2). -/
def announceRow (tag t : Nat) (d : List Byte) (dest : Nat) (s : State) (row : Nat) : State :=
  let i := (ownedIndex s t d row).getD 0
  let s1 := scanRow (putEntry s d i (withState (storedEntry s d i) 2)) t d i
  let im := rowImage s1 t d i
  sendRow { s1 with gath := { s1.gath with
    migrations := s1.gath.migrations ++ [⟨t, row, i, dest, tag, 0, 0, 0, 0, im⟩] } } dest t row 0 false im

/-- ROW_MIGRATE. DESIGN CHOICE: a row listed twice meets its own earlier migration, so that the command is refused with detail 0x30 (R110,
log entry 127). -/
def bodyRowMigrate (e : Entry) : Cmd Done := do
  let s ← Cmd.state
  let t := bodyAt e 0 2
  let d := (tableDesc s t).getD []
  let n := bodyAt e 4 4
  Cmd.checks [(decide (bodyAt e 0 2 < 256) && !d.isEmpty && decide (bodyAt e 2 2 < 4096) && bodyZero e 16 32, 0x30),
    (decide (1 ≤ n ∧ n ≤ 4096), 0x31)]
  modify (fun env => { env with engine := 0x6000 })
  if bodyAt e 2 2 = ownId s then return ⟨0, 0, 0x6000, 0, 0⟩
  else if !tMigratable d then Cmd.fail 0x20 0x33
  else
    let rows ← Cmd.rowIds (bodyAt e 8 8) n
    match rows.findSome? (ownedFault s t d 0x30) with
    | some (st, det) => Cmd.fail st det
    | none =>
      if hasDup rows then Cmd.fail 0x20 0x30
      else if 7 * tDirSize d ≤ 8 * dirUsed s d then Cmd.fail 0x20 0x32
      else if 4096 < s.gath.migrations.length + n then throw (.wait .migrationBound)
      else
        Cmd.update (fun s => rows.foldl (announceRow e.tag t d (bodyAt e 2 2)) s)
        throw (.pause (.migration 0 0 0))

/-- The command of a migration hears the SWITCH_TIDE of the row switched last (R111). -/
def noteSwitch (s : State) (tag tide : Nat) : State :=
  setEntry s tag (fun c =>
    match c.phase with
    | .running (.migration _ k skipped) => { c with phase := .running (.migration tide k skipped) }
    | _ => c)

/-- The command of a migration hears that one of its rows is done: moved, or skipped. It finishes when none of its rows is under way
(R110, R111). -/
def settleMigration (s : State) (tag : Nat) (moved : Bool) : State :=
  setEntry s tag (fun c =>
    match c.phase with
    | .running (.migration tide n left) =>
      let k := n + b2n moved
      let skipped := left + b2n (!moved)
      let notes := if moved then c.notes else c.notes ||| 2 ^ 25
      if s.gath.migrations.any (fun m => m.tag = tag) then { c with phase := .running (.migration tide k skipped), notes := notes }
      else { c with phase := .finished ⟨0, 0, 0x6000, tide % 2 ^ 16 + 2 ^ 16 * (k % 2 ^ 16) + 2 ^ 32 * skipped, 0⟩, notes := notes }
    | _ => c)

/-- A migration changed. -/
def setMigration (s : State) (t row : Nat) (f : Migration → Migration) : State :=
  { s with gath := { s.gath with migrations := s.gath.migrations.map (fun m => if m.table = t && m.row = row then f m else m) } }

/-- A migration ended. -/
def dropMigration (s : State) (t row : Nat) : State :=
  { s with gath := { s.gath with migrations := s.gath.migrations.filter (fun m => !(m.table = t && m.row = row)) } }

/-- The destination's answer to the copy of a row: it holds the row at an index, or has no room and the row is skipped. -/
def copyAnswered (s : State) (t row : Nat) (a : Answer) : State :=
  match s.gath.migrations.find? (fun m => m.table = t && m.row = row && m.phase = 0) with
  | none => s
  | some m =>
    if bit a.flags 0 then
      let s1 := match tableDesc s t with
        | some d => putEntry s d m.index (withState (storedEntry s d m.index) 1)
        | none => s
      settleMigration (dropMigration s1 t row) m.tag false
    else setMigration s t row (fun m => { m with phase := 1, there := a.nums.headD 0 })

/-- The switch at an advance of the table's tide: every copied row is sent again if it changed, and with it the switch (R111). -/
def switchTable (s : State) (t tide : Nat) : State :=
  match tableDesc s t with
  | none => s
  | some d =>
    (s.gath.migrations.filter (fun m => m.table = t && m.phase = 1)).foldl (fun s m =>
      let s := scanRow s t d m.index
      let im := rowImage s t d m.index
      sendRow (setMigration s t m.row (fun m => { m with phase := 2, tide := tide })) m.dest t m.row tide true im) s

/-- The modules of a table's group mask, this one apart. -/
def groupMask (s : State) (d : List Byte) : List Nat :=
  let bs := unitBytes s (leAt d 96 8) 512
  (seqFrom 0 4096).filter (fun m => bit (leAt bs (m / 8) 1) (m % 8) && decide (m ≠ ownId s))

/-- The destination's acknowledgement of the switch: FORWARDED, the directory entry here, the directory update to every module
of the group mask, the drain's start (R111). -/
def switchAnswered (s : State) (t row : Nat) : State :=
  match s.gath.migrations.find? (fun m => m.table = t && m.row = row && m.phase = 2), tableDesc s t with
  | some m, some d =>
    let e := storedEntry s d m.index
    let s1 := putEntry s d m.index (withState e 3)
    let x : DirEntry := ⟨row, m.tide, m.dest, ownId s, m.there⟩
    let s2 := queueRelease (dirWrite s1 d x) t (eTier e) (eSlot e)
    let s3 := (groupMask s d).foldl (fun s k =>
      (sendMessage s k ⟨.directory, [t, row, m.tide, m.dest, ownId s, m.there], []⟩).2) s2
    noteSwitch (setMigration s3 t row (fun m => { m with phase := 3, time := s.now })) m.tag m.tide
  | _, _ => s

/-- Whether the reads an old slot's release waits for have all completed (R105). -/
def releaseReady (s : State) (r : Release) : Bool :=
  r.readers.all (fun t => !s.entries.any (fun e => e.seq = t && inFlight e))

/-- A queued release dropped from the queue. -/
def dropRelease (s : State) (r : Release) : State :=
  { s with gath := { s.gath with releases := s.gath.releases.erase r } }

/-- The end of the drain: the slot returned, the entry ABSENT, the migration ended (R111 phase 5). -/
def releaseMigrated (s : State) (t row time : Nat) : State :=
  match s.gath.migrations.find? (fun m => m.table = t && m.row = row && m.phase = 3), tableDesc s t with
  | some m, some d =>
    let e := storedEntry s d m.index
    match s.gath.releases.find? (fun r => r.table = t && r.slot = eSlot e + 2 ^ 63 * eTier e) with
    | none => s
    | some r =>
      if m.time + 1000 * s.fieldAt Reg.MIGRATE_GRACE 15 0 ≤ time && releaseReady s r then
        let s1 := returnSlot (dropRelease s r) d (eTier e) (eSlot e)
        let s2 := putEntry s1 d m.index (withState e 0)
        let s3 := { s2 with gath := { s2.gath with guests := s2.gath.guests.filter (fun g => !(g.table = t && g.row = row)) } }
        settleMigration (dropMigration s3 t row) m.tag true
      else s
  | _, _ => s

/-! ## The destination of a migration -/

/-- The guest entry a migrating row takes: the first ABSENT one (R111 phase 2). -/
def guestPlace (s : State) (d : List Byte) : Option Nat :=
  (seqFrom (tRows d) (tGuests d)).find? (fun i => eState (storedEntry s d i) = 0)

/-- The bytes of a copied row stored at an index whose entry is `e`. -/
def storeRow (s : State) (t : Nat) (d : List Byte) (i e : Nat) (im : RowImage) : State :=
  storeBytes (storeBytes (storeBytes s (slotAddr d (eTier e) (eSlot e)) im.slot) (rowStateAddr s t d i) im.state)
    (tGrad d + i * gradRowBytes d) im.grad

/-- The copy of a row received: a guest entry and a slot taken and the row stored, GUEST_PENDING; or no room (R110, R111).
Answers the index, none where the row is skipped. -/
def receiveCopy (s : State) (t row source : Nat) (im : RowImage) : Option Nat × State :=
  match tableDesc s t with
  | none => (none, s)
  | some d =>
    match guestPlace s d with
    | none => (none, s)
    | some i =>
      match (Cmd.takeSlot d (eTier im.entry)).serve s with
      | (.ok (some slot), env) =>
        let e := mkEntry (eTier im.entry) (eTouched im.entry) 4 (eVersion im.entry) slot
        let s1 := storeRow (putEntry env.s d i e) t d i e im
        let gs := s1.gath.guests.filter (fun g => !(g.table = t && g.row = row)) ++ [⟨t, row, i, source, none, none⟩]
        (some i, { s1 with gath := { s1.gath with guests := gs } })
      | _ => (none, s)

/-- The row's index entered in the touched list, as R102 enters it. -/
def appendTouched (s : State) (d : List Byte) (i : Nat) : State :=
  let k := leNat (unitBytes s (tTouched d) 4)
  if tTouchedCap d ≤ k then storeBytes s (tTouched d + 4) (toLE 4 1)
  else
    let s1 := storeBytes (storeBytes s (tTouched d + 64 + 8 * k) (toLE 8 i)) (tTouched d) (toLE 4 (k + 1))
    if tTouchedCap d = k + 1 then storeBytes s1 (tTouched d + 4) (toLE 4 1) else s1

/-- The switch at the destination: the data sent again taken, the entry VALID (R111). A row that arrives touched is entered in
the touched list here (log entry 25). -/
def switchGuest (s : State) (g : Guest) (im : RowImage) : State :=
  match tableDesc s g.table with
  | none => s
  | some d =>
    let e := storedEntry s d g.index
    let e1 := mkEntry (eTier e) (eTouched im.entry) 1 (eVersion im.entry) (eSlot e)
    let s1 := putEntry (storeRow s g.table d g.index e im) d g.index e1
    if eTouched im.entry then appendTouched s1 d g.index else s1

/-! ## Hot-row snapshots (R109) -/

/-- The snapshot of one bay written: SEQ + 1, the entries, SEQ + 2; then every counter and estimate halved. -/
def snapshotBay (s : State) (b : Nat) : State :=
  let a := s.pair Reg.HOTROW_SNAP_LO / 2 ^ 20 * 2 ^ 20 + 0x20000 * b
  let h := (s.gath.hot[b]?).getD ⟨[], []⟩
  let seq := leNat (unitBytes s a 8)
  let s1 := storeBytes s a (toLE 8 (seq + 1))
  let body := toLE 8 s.now ++ toLE 4 h.rows.length ++ toLE 44 0 ++
    padTo (16 * 4096) (h.rows.flatMap (fun p => toLE 8 p.1 ++ toLE 4 p.2 ++ toLE 4 0))
  let s2 := storeBytes (storeBytes s1 (a + 8) body) a (toLE 8 (seq + 2))
  let h2 : HotRows := ⟨(h.sketch.map (fun p => (p.1, p.2 / 2))).filter (fun p => p.2 ≠ 0), h.rows.map (fun p => (p.1, p.2 / 2))⟩
  { s2 with gath := { s2.gath with hot := s2.gath.hot.set b h2, snaps := s2.gath.snaps ||| 2 ^ b } }

/-- Whether the snapshot period has passed. DESIGN CHOICE: with BASE = 0 there are no snapshots and no halving (R109, log entry 127). -/
def snapshotDue (s : State) (t : Nat) : Bool :=
  s.bitAt Reg.HOTROW_CFG 31 && decide (s.pair Reg.HOTROW_SNAP_LO / 2 ^ 20 ≠ 0) &&
  decide (s.gath.hotTime + 1000000 * s.fieldAt Reg.HOTROW_CFG 7 0 ≤ t)

/-- The snapshots of every enabled bay. -/
def snapshotAll (s : State) : State :=
  let s1 := ((seqFrom 0 8).filter (bayEnabled s)).foldl snapshotBay s
  { s1 with gath := { s1.gath with hotTime := s.now } }

end Sys2Proof.Machine
end

