-- ==== Sys2Proof/Machine/Shake.lean ====
section
/-! DEFINITION. SHAKE256, the digest of checkpoint images and of measurements (R266, R384). The spec names the function and does
not define it; this is FIPS 202 (log entry 26: PRESUMED). -/

namespace Sys2Proof.Machine

open Sys2Proof

/-- A 64-bit rotation to the left. -/
def rotl64 (x k : Nat) : Nat := ((x <<< (k % 64)) ||| (x >>> (64 - k % 64))) % 2 ^ 64

/-- The round constants of Keccak-f[1600]. -/
def keccakConstants : List Nat :=
  [0x0000000000000001, 0x0000000000008082, 0x800000000000808A, 0x8000000080008000,
   0x000000000000808B, 0x0000000080000001, 0x8000000080008081, 0x8000000000008009,
   0x000000000000008A, 0x0000000000000088, 0x0000000080008009, 0x000000008000000A] ++
  [0x000000008000808B, 0x800000000000008B, 0x8000000000008089, 0x8000000000008003,
   0x8000000000008002, 0x8000000000000080, 0x000000000000800A, 0x800000008000000A,
   0x8000000080008081, 0x8000000000008080, 0x0000000080000001, 0x8000000080008008]

/-- The rotation of lane (x, y), by x + 5y. -/
def keccakRotations : List Nat :=
  [0, 1, 62, 28, 27, 36, 44, 6, 55, 20, 3, 10, 43, 25, 39, 41, 45, 15, 21, 8, 18, 2, 61, 56, 14]

/-- A lane of the state. -/
def lane (a : List Nat) (x y : Nat) : Nat := (a[x % 5 + 5 * (y % 5)]?).getD 0

/-- One round. -/
def keccakRound (a : List Nat) (rc : Nat) : List Nat :=
  let cols := (seqFrom 0 5).map (fun x => lane a x 0 ^^^ lane a x 1 ^^^ lane a x 2 ^^^ lane a x 3 ^^^ lane a x 4)
  let d := (seqFrom 0 5).map (fun x => (cols[(x + 4) % 5]?).getD 0 ^^^ rotl64 ((cols[(x + 1) % 5]?).getD 0) 1)
  let e := (seqFrom 0 25).map (fun i => ((a[i]?).getD 0) ^^^ ((d[i % 5]?).getD 0))
  let b := (seqFrom 0 25).map (fun i =>
    let x := (i % 5 + 3 * (i / 5)) % 5
    rotl64 (lane e x (i % 5)) ((keccakRotations[x + 5 * (i % 5)]?).getD 0))
  (seqFrom 0 25).map (fun i =>
    let v := lane b (i % 5) (i / 5) ^^^ ((lane b (i % 5 + 1) (i / 5) ^^^ (2 ^ 64 - 1)) &&& lane b (i % 5 + 2) (i / 5))
    if i = 0 then v ^^^ rc else v)

/-- The permutation. -/
def keccakF (a : List Nat) : List Nat := keccakConstants.foldl keccakRound a

/-- One block of 136 bytes absorbed. -/
def absorb (a : List Nat) (block : List Byte) : List Nat :=
  keccakF ((seqFrom 0 25).map (fun i => ((a[i]?).getD 0) ^^^ (if i < 17 then leAt block (8 * i) 8 else 0)))

/-- All blocks absorbed; the last one carries the padding 0x1F … 0x80. -/
def absorbAll : Nat → List Nat → List Byte → List Nat
  | 0, a, _ => a
  | fuel + 1, a, m =>
    if 136 ≤ m.length then absorbAll fuel (absorb a (m.take 136)) (m.drop 136)
    else
      let p := m ++ [0x1F] ++ List.replicate (135 - m.length) 0
      absorb a (p.take 135 ++ [((p[135]?).getD 0) ||| 0x80])

/-- The first 32 bytes of SHAKE256 of a message. -/
def shake256 (m : List Byte) : List Byte :=
  let a := absorbAll (m.length / 136 + 1) (List.replicate 25 0) m
  toLE 8 (lane a 0 0) ++ toLE 8 (lane a 1 0) ++ toLE 8 (lane a 2 0) ++ toLE 8 (lane a 3 0)

end Sys2Proof.Machine
end

