-- ==== Sys2Proof/Machine/Tensor.lean ====
section
/-! DEFINITION. The bay DMA's commands: COPY, TRANSPOSE_COPY (11_memory_system), CONVERT (05_number_formats) and
STORE_COMPRESSED (08_activation_sparsity), and the reading and checking of the compressed form. -/

namespace Sys2Proof.Machine

open Sys2Proof

/-! ## What the numeric commands share -/

/-- A list of Bools as the check that a bay number is in range and the bay enabled. -/
def bayOk (s : State) (b : Nat) : Bool := decide (b < 8) && bayEnabled s b

/-- Whether two address ranges, each of rows at a stride, overlap. -/
def rangesOverlap (a n b m : Nat) : Bool := overlap a (a + n) b (b + m)

/-- The outputs become undefined where source and destination overlap (R137, R249). -/
def Cmd.overlapped (o : Bool) : Cmd Unit := do
  if o then modify (fun env => { env with s := undefOutputs env.s env.declared }) else return ()

/-- The tide a command counts as a user of is there for every entry its watched words name, or the command is not dispatched
yet, or TIDE_UNAVAILABLE (R218). `own` is an entry the command reads by R217. -/
def Cmd.userTides (e : Entry) (words : List FmtWord) (own : Option (Nat × Nat)) : Cmd Unit := do
  let s ← Cmd.state
  let t := pktTide e.pkt
  (watchedEntries s (words.filter pwNames)).dedup.forM (fun w => do
    if some w = own then pure ()
    else match tideEntry s w.1 w.2 with
      | none => pure ()
      | some x =>
        if (presentSlot x t).isSome || e.reads.any (fun r => r.slot = w.1 && r.entry = w.2) then pure ()
        else if t ≠ x.current && atOrAfter t x.current then throw .hold
        else Cmd.fail 0x16 0x03)

/-- Whether DECIDED has reached t − 2 for every layer that the words name with ROLE not 0 (R140). -/
def allDecided (s : State) (words : List FmtWord) (t : Nat) : Bool :=
  (words.filter pwNames).all (fun w => decidedFor s w.pwLayer t)

/-- The dispatch conditions of the precision-watch words a command carries (R140, R218). -/
def Cmd.gateWords (e : Entry) (words : List FmtWord) : Cmd Unit := do
  Cmd.userTides e words none
  if allDecided (← Cmd.state) words (pktTide e.pkt) then pure () else throw .hold

/-- A word of a command with the substitution of R140 for tide `t`; NOTES bit 20 where it was replaced. -/
def Cmd.substituted (t : Nat) (w : FmtWord) (base : Nat) : Cmd (FmtWord × Nat) := do
  let s ← Cmd.state
  let (w', b', sub) := substitute s t w base
  if sub then Cmd.note (2 ^ 20)
  return (w', b')

/-- The positions of a row that are poisoned when it is quantised: with block scales, the whole of a block with a lost value. -/
def poisonedAt (w : FmtWord) (xs : List Val) : List Nat :=
  let lost (x : Val) : Bool := x = .lost
  if w.scale = 0 then (xs.zipIdx.filter (fun p => lost p.1)).map (fun p => p.2)
  else
    let bad := (chunks 32 (xs.length / 32 + 1) xs).map (fun b => b.any lost)
    (seqFrom 0 xs.length).filter (fun i => (bad[i / 32]?).getD false)

/-- A row already coded, written; the poisoned elements are counted, and left undefined where RAS_POLICY.MARK is 0 (R371). -/
def Cmd.writeCoded (w : FmtWord) (base stride row : Nat) (xs : List Val) (o : RowOut) : Cmd Unit := do
  Cmd.writeRow w base stride row xs.length o
  if o.poisoned = 0 then return ()
  else
    modify (fun env => { env with poisoned := env.poisoned + o.poisoned })
    if ← Cmd.marks then return ()
    else (poisonedAt w xs).forM (fun i => do
      let lo := i * fmtBits w.elem / 8
      let hi := (i * fmtBits w.elem + fmtBits w.elem - 1) / 8
      Cmd.update (fun s => undefDevice s (base + row * stride + lo) (hi + 1 - lo) 2)
      if w.scale ≠ 0 then Cmd.update (fun s =>
        undefDevice s (w.scaleBase + (row * ceilDiv xs.length 32 + i / 32) * scaleSize w.scale) (scaleSize w.scale) 2))

/-- A row of values quantised and written; its events. -/
def Cmd.writeTensorRow (w : FmtWord) (base stride row : Nat) (escEn : Bool) (xs : List Val) : Cmd Events := do
  let o := quantiseRow w escEn xs
  Cmd.writeCoded w base stride row xs o
  return o.events

/-- ESCAPE_ENABLE.EN. -/
def Cmd.escEn : Cmd Bool := do return (← Cmd.field Reg.ESCAPE_ENABLE 0 0) = 1

/-- The events of T2 reserved codes among elements decoded under a word's layer. -/
def t2Events (t2 elems : Nat) : Events := { Events.none with t2 := t2, elems := elems }

/-! ## COPY (R249) -/

/-- The checks of a COPY body (R251). -/
def copyChecks (s : State) (e : Entry) : List (Bool × Nat) :=
  let n := bodyAt e 16 4
  let rows := bodyAt e 20 4
  let fill := bit (bodyAt e 33 1) 0
  [(decide (bodyAt e 33 1 < 2) && bodyZero e 34 40, 0x01),
   (decide (1 ≤ n ∧ n ≤ 2 ^ 31 ∧ 1 ≤ rows ∧ rows ≤ 16777216), 0x90),
   (decide (rows ≤ 1) || (decide (n ≤ bodyAt e 28 4) && (fill || decide (n ≤ bodyAt e 24 4))), 0x91),
   (bayOk s (bodyAt e 32 1), 0x92),
   (if fill then decide (bodyAt e 0 8 = 0 ∧ bodyAt e 24 4 = 0) else decide (bodyAt e 40 8 = 0), 0x94)]

/-- The bytes of a row filled with a pattern of 8 bytes. -/
def patternRow (pattern : List Byte) (n : Nat) : List Byte := (seqFrom 0 n).map (fun i => (pattern[i % 8]?).getD 0)

/-- COPY. -/
def bodyCopy (e : Entry) : Cmd Done := do
  let s ← Cmd.state
  Cmd.checks (copyChecks s e)
  let n := bodyAt e 16 4
  let rows := bodyAt e 20 4
  let fill := bit (bodyAt e 33 1) 0
  let src := bodyAt e 0 8
  let dst := bodyAt e 8 8
  modify (fun env => { env with engine := 0x7000 + bodyAt e 32 1 })
  (seqFrom 0 rows).forM (fun r => Cmd.declare (dst + r * bodyAt e 28 4) n)
  (seqFrom 0 rows).forM (fun r => do
    let bytes ← if fill then pure ((patternRow ((e.pkt.drop 104).take 8) n).map some)
      else Cmd.readP (src + r * bodyAt e 24 4) n
    Cmd.writeCells (dst + r * bodyAt e 28 4) 1 0 (bytes.map (fun b => b.map (fun x => [x]))))
  Cmd.overlapped (!fill && rangesOverlap src ((rows - 1) * bodyAt e 24 4 + n) dst ((rows - 1) * bodyAt e 28 4 + n))
  let env ← get
  return ⟨0, 0, env.engine, n * rows, 0⟩

/-! ## TRANSPOSE_COPY (R250) -/

/-- The bytes of a row of elements of a width. -/
def packedBytes (w n : Nat) : Nat := ceilDiv (n * w) 8

/-- The checks of a TRANSPOSE_COPY body (R251). -/
def transposeChecks (s : State) (e : Entry) : List (Bool × Nat) :=
  let r := bodyAt e 16 4
  let c := bodyAt e 20 4
  let w := bodyAt e 32 1
  let known := [2, 4, 6, 8, 16, 32, 48, 64].contains w
  [(bodyZero e 34 48, 0x01), (decide (1 ≤ r ∧ r ≤ 16777216 ∧ 1 ≤ c ∧ c ≤ 1048576), 0x90),
   (decide (bodyAt e 0 8 % 16 = 0 ∧ bodyAt e 8 8 % 16 = 0 ∧ bodyAt e 24 4 % 16 = 0 ∧ bodyAt e 28 4 % 16 = 0) &&
     (!known || (decide (packedBytes w c ≤ bodyAt e 24 4) && decide (packedBytes w r ≤ bodyAt e 28 4))), 0x91),
   (bayOk s (bodyAt e 33 1), 0x92), (known, 0x93)]

/-- A row of elements that may be poisoned, packed; the bytes that hold a poisoned one are none. -/
def packP (w : Nat) (xs : List (Option Nat)) : List (Option Byte) :=
  let bytes := packRow w (xs.map (fun x => x.getD 0))
  let lost := (xs.zipIdx.filter (fun p => p.1.isNone)).flatMap (fun p => seqFrom (p.2 * w / 8) ((p.2 * w + w - 1) / 8 + 1 - p.2 * w / 8))
  bytes.zipIdx.map (fun p => if lost.contains p.2 then none else some p.1)

/-- TRANSPOSE_COPY. A poisoned element is written as 0, or its bytes left undefined where RAS_POLICY.MARK is 0 (R371). -/
def bodyTransposeCopy (e : Entry) : Cmd Done := do
  let s ← Cmd.state
  Cmd.checks (transposeChecks s e)
  let rows := bodyAt e 16 4
  let cols := bodyAt e 20 4
  let w := bodyAt e 32 1
  let src := bodyAt e 0 8
  let dst := bodyAt e 8 8
  let ds := bodyAt e 28 4
  modify (fun env => { env with engine := 0x7000 + bodyAt e 33 1 })
  Cmd.declare dst (cols * ds)
  let m ← (seqFrom 0 rows).mapM (fun r => do
    return unpackP w cols (← Cmd.readP (src + r * bodyAt e 24 4) (packedBytes w cols)))
  let mark ← Cmd.marks
  (seqFrom 0 cols).forM (fun c => do
    let col := m.map (fun row => (row[c]?).getD (some 0))
    modify (fun env => { env with poisoned := env.poisoned + (col.filter (fun x => x.isNone)).length })
    let bytes := if mark then (packRow w (col.map (fun x => x.getD 0))).map some else packP w col
    Cmd.writeP (dst + c * ds) (bytes ++ List.replicate (ds - bytes.length) (some 0)))
  Cmd.overlapped (rangesOverlap src ((rows - 1) * bodyAt e 24 4 + packedBytes w cols) dst (cols * ds))
  let env ← get
  return ⟨0, 0, env.engine, cols * ds, 0⟩

/-! ## CONVERT (R137) -/

/-- The checks of a CONVERT body. -/
def convertChecks (s : State) (e : Entry) : List (Bool × Nat) :=
  let i := fmtWord (e.pkt.drop 64)
  let o := fmtWord (e.pkt.drop 80)
  let rows := bodyAt e 48 4
  let cols := bodyAt e 52 4
  let inv := bit (bodyAt e 65 1) 0
  let rot := if inv then i.rot else o.rot
  fmtChecks i false ++ fmtChecks o false ++
  [pwCheck s e.pkt i, pwCheck s e.pkt o, (decide (bodyAt e 65 1 < 2) && bodyZero e 66 80, 0x01),
   (decide (i.rot = 0 ∨ o.rot = 0) && (decide (rot = 0) || decide (4 < rot) || decide (cols % rotSize rot = 0)), 0x43),
   (decide (bodyAt e 32 8 % 16 = 0 ∧ bodyAt e 40 8 % 16 = 0 ∧ bodyAt e 56 4 % 16 = 0 ∧ bodyAt e 60 4 % 16 = 0) &&
     decide (rowBytes i.elem cols ≤ bodyAt e 56 4) && decide (rowBytes o.elem cols ≤ bodyAt e 60 4), 0x47),
   (decide (1 ≤ rows ∧ rows ≤ 16777216 ∧ 1 ≤ cols ∧ cols ≤ 1048576) && bayOk s (bodyAt e 64 1), 0x48)]

/-- The poison carried from one FS48 form to the other counts nothing (R136). -/
def fsPoisonUncounted (from_ : FmtWord) (o : RowOut) : RowOut :=
  if fsFmt from_.elem then { o with events := { o.events with nonfinite := 0 } } else o

/-- A converted row coded: FS48 into FP32, BF16 or FP16 by R136, every other by R129 and R130. -/
def convertRow (i o : FmtWord) (escEn rotated : Bool) (xs : List Val) : RowOut :=
  match floatOf o.elem with
  | some f =>
    if fsFmt i.elem && !rotated && decide (o.elem ≤ 3) then
      let r := xs.map (fsToFloat f)
      { bytes := packRow (fmtBits o.elem) (r.map (fun p => p.1)), records := [],
        events := r.foldl (fun a p => a.add p.2) Events.none, poisoned := (xs.filter (fun v => v = .lost)).length }
    else quantiseRow o escEn xs
  | none => if fsFmt o.elem then fsPoisonUncounted i (quantiseRow o escEn xs) else quantiseRow o escEn xs

/-- The notes of a quantising command: SATURATED, UNDERFLOW and the non-finite bit (R137, R161). -/
def eventNotes (e : Events) : Nat :=
  (if e.sat + e.escOvf = 0 then 0 else 2 ^ 16) + (if e.under = 0 then 0 else 2 ^ 17) + (if e.nonfinite = 0 then 0 else 2 ^ 18)

/-- CONVERT. -/
def bodyConvert (e : Entry) : Cmd Done := do
  let s ← Cmd.state
  Cmd.checks (convertChecks s e)
  let t := pktTide e.pkt
  let i0 := fmtWord (e.pkt.drop 64)
  let o0 := fmtWord (e.pkt.drop 80)
  Cmd.gateWords e [i0, o0]
  let (i, src) ← Cmd.substituted t i0 (bodyAt e 32 8)
  let (o, dst) ← Cmd.substituted t o0 (bodyAt e 40 8)
  let rows := bodyAt e 48 4
  let cols := bodyAt e 52 4
  let inv := bit (bodyAt e 65 1) 0
  let rot := if inv then i.rot else o.rot
  let bay := bodyAt e 64 1
  let escEn ← Cmd.escEn
  modify (fun env => { env with engine := 0x7000 + bay })
  Cmd.declareTensor o dst (bodyAt e 60 4) rows cols
  let evs ← (seqFrom 0 rows).mapM (fun r => do
    let (xs, t2) ← Cmd.readRow i src (bodyAt e 56 4) r cols
    let ys := rotateRow rot inv xs
    let out := convertRow i o escEn (decide (rot ≠ 0)) ys
    Cmd.writeCoded o dst (bodyAt e 60 4) r ys out
    return (out.events, t2))
  let ev := evs.foldl (fun a p => a.add p.1) Events.none
  let t2 := evs.foldl (fun a p => a + p.2) 0
  Cmd.update (fun s => countWord (countWord s o0 t ev) i0 t (t2Events t2 (rows * cols)))
  Cmd.overlapped (rangesOverlap src ((rows - 1) * bodyAt e 56 4 + rowBytes i.elem cols) dst (rows * bodyAt e 60 4))
  return ⟨0, 0, 0x7000 + bay, (ev.sat + ev.escOvf) % 2 ^ 32 + 2 ^ 32 * (ev.nonfinite % 2 ^ 32),
    eventNotes ev + (if t2 = 0 then 0 else 2 ^ 19)⟩

/-! ## The compressed form (R176 to R178) -/

/-- B2: bytes of the level-2 bitmap of a row. -/
def level2Bytes (cols : Nat) : Nat := 8 * ceilDiv (ceilDiv cols 4096) 64

/-- The bits of the list `l` from `lo`, `n` of them, as one number, bit 0 first. -/
def bitWord (l : List Bool) (lo n : Nat) : Nat := maskBits n (fun i => (l[lo + i]?).getD false)

/-- The record of a row: which elements are stored, and their codes in order (R177). -/
def rowRecord (w cols : Nat) (stored : List Bool) (codes : List Nat) : List Byte :=
  let group (g : Nat) : Nat := bitWord stored (64 * g) 64
  let groups := ceilDiv cols 64
  let blocks := ceilDiv cols 4096
  let word1 (b : Nat) : Nat := maskBits 64 (fun k => decide (64 * b + k < groups) && decide (group (64 * b + k) ≠ 0))
  let level2 := maskBits blocks (fun b => word1 b ≠ 0)
  let set1 := (seqFrom 0 blocks).filter (fun b => word1 b ≠ 0)
  let set0 := (seqFrom 0 groups).filter (fun g => group g ≠ 0)
  pad64 (toLE (level2Bytes cols) level2 ++ set1.flatMap (fun b => toLE 8 (word1 b)) ++
    set0.flatMap (fun g => toLE 8 (group g)) ++ packRow w codes)

/-- A row's directory entry: OFFSET, NNZ, BYTES. -/
structure RowDir where
  offset : Nat
  nnz : Nat
  bytes : Nat
  deriving DecidableEq, Repr

/-- The formats allowed in compressed form (R178). -/
def compressOk (w : FmtWord) : Bool :=
  [0x01, 0x02, 0x03, 0x04, 0x05, 0x06, 0x07, 0x08, 0x09, 0x0B].contains w.elem && decide (w.scale ≤ 1) && decide (w.rot = 0)

/-- Why the bytes of a row record give no row: a METADATA_FAULT detail (R182), or a lost byte among those that say where its values lie. -/
inductive RecordFault where
  | fault (detail : Nat)
  | lost
  deriving DecidableEq, Repr

/-- `n` words of 8 bytes of a row record from an offset on; it may be too short for them, or have lost them. -/
def recordWords (bs : List (Option Byte)) (off n : Nat) : Except RecordFault (List Nat) :=
  if bs.length < off + 8 * n then .error (.fault 0x65)
  else match plainBytes ((bs.drop off).take (8 * n)) with
    | some l => .ok ((seqFrom 0 n).map (fun i => leAt l (8 * i) 8))
    | none => .error .lost

/-- The set bits of words of 64 bits, each at 64 times its place. -/
def setBits (places words : List Nat) : List Nat :=
  (places.zip words).flatMap (fun p => ((seqFrom 0 64).filter (fun b => bit p.2 b)).map (fun b => 64 * p.1 + b))

/-- The parts of a row record: for each column whether its element is stored, and where the values begin (R177, R182). -/
def parseRecord (w cols nnz : Nat) (bs : List (Option Byte)) : Except RecordFault (List Bool × Nat) := do
  let b2 := level2Bytes cols
  let level2 ← recordWords bs 0 (b2 / 8)
  let set2 := setBits (seqFrom 0 (b2 / 8)) level2
  let words1 ← recordWords bs b2 set2.length
  let set1 := setBits set2 words1
  let words0 ← recordWords bs (b2 + 8 * set2.length) set1.length
  let set0 := setBits set1 words0
  let head := b2 + 8 * set2.length + 8 * set1.length
  if words1.contains 0 || words0.contains 0 then .error (.fault 0x62)
  else if set0.any (fun c => decide (cols ≤ c)) then .error (.fault 0x63)
  else if set0.length ≠ nnz then .error (.fault 0x64)
  else if up64 (head + packedBytes w nnz) ≠ bs.length then .error (.fault 0x65)
  else .ok ((seqFrom 0 cols).map (fun c => set0.contains c), head)

/-! ## STORE_COMPRESSED (R179, R180) -/

/-- The offset of the first row record: the first multiple of 64 behind the directory (R176, R180, log entry 125). -/
def firstRecord (rows : Nat) : Nat := up64 (64 + 16 * rows)

/-- The least OUT_BYTES: a tensor without zeros (R180). -/
def compressedMax (w rows cols : Nat) : Nat :=
  64 + 16 * rows + rows * up64 (level2Bytes cols + 8 * ceilDiv cols 4096 + 8 * ceilDiv cols 64 + packedBytes w cols)

/-- The checks of a STORE_COMPRESSED body. -/
def storeChecks (s : State) (e : Entry) : List (Bool × Nat) :=
  let i := fmtWord (e.pkt.drop 64)
  let o := fmtWord (e.pkt.drop 80)
  let rows := bodyAt e 48 4
  let cols := bodyAt e 52 4
  fmtChecks i false ++ fmtChecks o false ++
  [pwCheck s e.pkt i, pwCheck s e.pkt o, (bodyZero e 60 64 && bodyZero e 73 80, 0x01),
   (decide (i.rot = 0) || decide (4 < i.rot) || decide (cols % rotSize i.rot = 0), 0x43), (compressOk o, 0x60),
   (decide (1 ≤ rows ∧ rows ≤ 16777216 ∧ 1 ≤ cols ∧ cols ≤ 1048576) && bayOk s (bodyAt e 72 1), 0x61),
   (decide (compressedMax (fmtBits o.elem) rows cols ≤ bodyAt e 64 8), 0x62),
   (decide (bodyAt e 32 8 % 16 = 0 ∧ bodyAt e 40 8 % 64 = 0 ∧ bodyAt e 56 4 % 16 = 0) &&
     decide (rowBytes i.elem cols ≤ bodyAt e 56 4), 0x66)]

/-- STORE_COMPRESSED. -/
def bodyStoreCompressed (e : Entry) : Cmd Done := do
  let s ← Cmd.state
  Cmd.checks (storeChecks s e)
  let t := pktTide e.pkt
  let i0 := fmtWord (e.pkt.drop 64)
  let o0 := fmtWord (e.pkt.drop 80)
  Cmd.gateWords e [i0, o0]
  let (i, src) ← Cmd.substituted t i0 (bodyAt e 32 8)
  let (o, dst) ← Cmd.substituted t o0 (bodyAt e 40 8)
  let rows := bodyAt e 48 4
  let cols := bodyAt e 52 4
  let w := fmtBits o.elem
  let bay := bodyAt e 72 1
  let escEn ← Cmd.escEn
  modify (fun env => { env with engine := 0x7000 + bay })
  Cmd.declare dst (bodyAt e 64 8)
  if o.scale ≠ 0 then Cmd.declare o.scaleBase (rows * ceilDiv cols 32)
  let step (acc : Nat × List RowDir × Events × Nat) (r : Nat) : Cmd (Nat × List RowDir × Events × Nat) := do
    let (off, dirs, ev, t2) := acc
    let (xs, k) ← Cmd.readRow i src (bodyAt e 56 4) r cols
    let q := quantiseRow o escEn xs
    let codes := (chunks 32 (cols / 32 + 1) ((unpackP w cols (q.bytes.map some)).map (fun c => c.getD 0))).zipIdx.flatMap
      (fun b => b.1.zipIdx.map (fun c => (c.1, if o.scale = 0 then decodeElem o.elem 0 0 c.1
        else blockValue o.elem 0 (parseScale o.scale 0 ((q.records[b.2]?).getD 0)) c.2 c.1)))
    let stored := codes.map (fun c => !c.2.isZero)
    let kept := (codes.filter (fun c => !c.2.isZero)).map (fun c => c.1)
    let bytes := rowRecord w cols stored kept
    Cmd.write (dst + off) bytes
    if o.scale ≠ 0 then Cmd.write (o.scaleBase + r * ceilDiv cols 32) (q.records.flatMap (toLE 1))
    modify (fun env => { env with poisoned := env.poisoned + q.poisoned })
    if q.poisoned ≠ 0 && !(← Cmd.marks) then
      (match parseRecord w cols kept.length (bytes.map some) with
       | .ok (_, head) => Cmd.leaveUndefined (dst + off + head) (packedBytes w kept.length)
       | .error _ => pure ())
    return (off + bytes.length, dirs ++ [⟨off, kept.length, bytes.length⟩], ev.add q.events, t2 + k)
  let (total, dirs, ev, t2) ← (seqFrom 0 rows).foldlM step (firstRecord rows, [], Events.none, 0)
  Cmd.write (dst + 64) (dirs.flatMap (fun d => toLE 8 d.offset ++ toLE 4 d.nnz ++ toLE 4 d.bytes))
  let nnz := dirs.foldl (fun n d => n + d.nnz) 0
  Cmd.write dst (toLE 2 1 ++ toLE 1 o.elem ++ toLE 1 0 ++ toLE 4 rows ++ toLE 4 cols ++ toLE 4 0 ++ toLE 8 total ++
    toLE 8 nnz ++ toLE 32 0)
  Cmd.update (fun s => countWord (countWord s o0 t ev) i0 t (t2Events t2 (rows * cols)))
  return ⟨0, 0, 0x7000 + bay, total % 2 ^ 40, eventNotes ev + (if t2 = 0 then 0 else 2 ^ 19)⟩

/-! ## Reading a compressed operand (R181, R182) -/

/-- One row of a compressed operand as values, with the mask of its stored elements. A lost byte of the record's bitmaps ends
the command with POISON (log entry 17). -/
def Cmd.readCompressedRow (w : FmtWord) (base row cols total : Nat) : Cmd (List Val × List Bool) := do
  let d ← Cmd.read (base + 64 + 16 * row) 16
  let dir : RowDir := ⟨leAt d 0 8, leAt d 8 4, leAt d 12 4⟩
  if dir.offset % 64 ≠ 0 ∨ cols < dir.nnz ∨ total < dir.offset + dir.bytes then Cmd.fail 0x13 0x61
  else
    let bytes ← Cmd.readP (base + dir.offset) dir.bytes
    let width := fmtBits w.elem
    match parseRecord width cols dir.nnz bytes with
    | .error (.fault e) => Cmd.fail 0x13 e
    | .error .lost => Cmd.failPoison
    | .ok (stored, head) => do
      let vals := unpackP width dir.nnz (bytes.drop head)
      let nb := ceilDiv cols 32
      let recs ← if w.scale = 0 then pure [] else Cmd.readP (w.scaleBase + row * nb) nb
      let place := stored.foldl (fun (acc : List (Option (Option Nat)) × List (Option Nat)) m =>
        if m then (acc.1 ++ [some (acc.2.headD none)], acc.2.tail) else (acc.1 ++ [none], acc.2)) ([], vals)
      return (place.1.zipIdx.map (fun p => match p.1 with
        | none => .zero false
        | some none => .lost
        | some (some c) =>
          if w.scale = 0 then decodeElem w.elem 0 0 c
          else match (recs[p.2 / 32]?).getD none with
            | none => .lost
            | some r => blockValue w.elem 0 ⟨r.toNat, 0, [], 0⟩ (p.2 % 32) c), stored)

end Sys2Proof.Machine
end

