-- ==== Sys2Proof/Machine/Matrix.lean ====
section
/-! DEFINITION. The matrix engines: MATMUL, MATMUL_DGRAD, MATMUL_WGRAD (06_flood_and_ebb_engines), slice rounding
(07_accumulation_and_rounding), compressed operands and activity prediction (08_activation_sparsity). -/

namespace Sys2Proof.Machine

open Sys2Proof

/-! ## Rounding the running sum (R162 to R168) -/

/-- The 16-bit draw of slice `c0` of the element at a logical row and column (R168). -/
def roundDraw (seed stream row col c0 : Nat) : Nat :=
  (tideGen (seed % 2 ^ 32) (seed / 2 ^ 32) c0 col row (0x02000000 + stream % 2 ^ 24)).c0 % 2 ^ 16

/-- round_slice under stochastic rounding with draw `r` (R164); special values pass (R174). -/
def roundStochastic (r : Nat) (v : Val) : Val :=
  match v with
  | .fin m e =>
    let a := m.natAbs
    let q := max ((log2 a : Int) + e) (-126) - 23
    if q ≤ e then fp32.rne v
    else
      let d := 2 ^ (q - e).toNat
      let n := a / d
      let t := (a % d) * 2 ^ 16 / d
      let n := if 2 ^ 16 ≤ t + r then n + 1 else n
      if n = 0 then .zero (decide (m < 0))
      else
        let w : Val := .fin (if m < 0 then -(n : Int) else n) q
        if fp32.beyond w then .inf (decide (m < 0)) else w
  | w => w

/-- What the products of a command share: the slot's seed, SR_STREAM, ROW0, COL0, SLICE0, ORIENT_T, G, K and whether rounding
is stochastic. -/
structure MatJob where
  seed : Nat
  stream : Nat
  row0 : Nat
  col0 : Nat
  slice0 : Nat
  orientT : Bool
  g : Nat
  k : Nat
  stochastic : Bool
  deriving DecidableEq, Repr

/-- Slices of a contraction: ⌈K / 8G⌉. -/
def MatJob.slices (j : MatJob) : Nat := ceilDiv j.k (8 * j.g)

/-- The rounding of slice `s` of element (m, n) (R155, R164, R165). -/
def MatJob.roundSlice (j : MatJob) (m n s : Nat) (v : Val) : Val :=
  if j.stochastic then
    let row := j.row0 + (if j.orientT then n else m)
    let col := j.col0 + (if j.orientT then m else n)
    roundStochastic (roundDraw j.seed j.stream row col (j.slice0 + s)) v
  else fp32.rne v

/-- The elements of slice `s` of an operand row. -/
def MatJob.slice {α : Type} (j : MatJob) (s : Nat) (l : List α) : List α := (l.drop (s * 8 * j.g)).take (8 * j.g)

/-- acc + Σ over a slice's k of A × B, exactly (R162, R163). -/
def sliceSum (acc : Val) (a b : List Val) : Val := (a.zip b).foldl (fun v p => v.add (p.1.mul p.2)) acc

/-- Whether a weight value keeps slices of its tile from being left out: NaN, Inf or a block of scale 0xFF (R183). -/
def specialWeight (v : Val) : Bool := !v.finite

/-- One row of A streamed against one tile group of up to 8 columns from column `n0`, slice by slice: the sums, and for each slice whether
it was left out under R183 (`stored`: the level-0 bits of a compressed row). -/
def MatJob.rowGroup (j : MatJob) (m n0 : Nat) (a : List Val) (stored : Option (List Bool)) (cols : List (List Val))
    (init : List Val) : List Val × List Bool :=
  (seqFrom 0 j.slices).foldl (fun (acc : List Val × List Bool) s =>
    let skip := match stored with
      | none => false
      | some l => (j.slice s l).all (fun b => !b) && acc.1.all (fun v => decide (v ≠ Val.zero true)) &&
          cols.all (fun c => (j.slice s c).all (fun v => !specialWeight v))
    if skip then (acc.1, acc.2 ++ [true])
    else ((acc.1.zip cols).zipIdx.map (fun p =>
      j.roundSlice m (n0 + p.2) s (sliceSum p.1.1 (j.slice s a) (j.slice s p.1.2))), acc.2 ++ [false])) (init, [])

/-! ## The command body -/

/-- The tensors and settings of a matrix command (Command body of 06). -/
structure MatBody where
  a : FmtWord
  b : FmtWord
  o : FmtWord
  ot : FmtWord
  ef : FmtWord
  aBase : Nat
  bBase : Nat
  oBase : Nat
  otBase : Nat
  eBase : Nat
  accBase : Nat
  m : Nat
  n : Nat
  k : Nat
  aStride : Nat
  bStride : Nat
  oStride : Nat
  otStride : Nat
  eStride : Nat
  accStride : Nat
  tileFirst : Nat
  tileCount : Nat
  engines : Nat
  epi : Nat
  accLoad : Bool
  orientT : Bool
  layout : Bool
  compressed : Bool
  accRow : Nat
  accSpan : Nat
  stream : Nat
  row0 : Nat
  col0 : Nat
  slice0 : Nat
  pd : Nat
  mask : Nat
  deriving DecidableEq, Repr

/-- The fields of a matrix command's body. -/
def matBody (e : Entry) : MatBody where
  a := fmtWord (e.pkt.drop 64)
  b := fmtWord (e.pkt.drop 80)
  o := fmtWord (e.pkt.drop 96)
  ot := fmtWord (e.pkt.drop 112)
  ef := fmtWord (e.pkt.drop 128)
  aBase := bodyAt e 80 8
  bBase := bodyAt e 88 8
  oBase := bodyAt e 96 8
  otBase := bodyAt e 104 8
  eBase := bodyAt e 112 8
  accBase := bodyAt e 120 8
  m := bodyAt e 128 4
  n := bodyAt e 132 4
  k := bodyAt e 136 4
  aStride := bodyAt e 140 4
  bStride := bodyAt e 144 4
  oStride := bodyAt e 148 4
  otStride := bodyAt e 152 4
  eStride := bodyAt e 156 4
  accStride := bodyAt e 160 4
  tileFirst := bodyAt e 164 2 % 512
  tileCount := bodyAt e 166 2 % 1024
  engines := bodyAt e 168 1
  epi := bodyAt e 169 1
  accLoad := bit (bodyAt e 170 2) 0
  orientT := bit (bodyAt e 170 2) 1
  layout := bit (bodyAt e 170 2) 2
  compressed := bit (bodyAt e 170 2) 3
  accRow := bodyAt e 172 2 % 1024
  accSpan := bodyAt e 174 2 % 2048
  stream := bodyAt e 176 4 % 2 ^ 24
  row0 := bodyAt e 180 4
  col0 := bodyAt e 184 4
  slice0 := bodyAt e 188 4
  pd := bodyAt e 192 8
  mask := bodyAt e 200 8

/-- G of a format (R144). -/
def gOf (elem : Nat) : Nat :=
  if elem = 0x01 then 2 else if elem = 0x02 ∨ elem = 0x03 then 8
  else if elem = 0x08 ∨ elem = 0x0B ∨ elem = 0x0C then 32 else 16

/-- G of a product of formats (R144). -/
def gProduct (a b : Nat) : Nat :=
  if b = 0x0D then (if a = 0x08 ∨ a = 0x0B ∨ a = 0x0C then 64 else gOf a) else min (gOf a) (gOf b)

/-- W_c: columns of a block (R152). -/
def MatBody.colsOfBlock (x : MatBody) : Nat :=
  let w := if x.o.scale ≠ 0 ∨ (x.otBase ≠ 0 ∧ x.ot.scale ≠ 0) then 32 else 8
  if x.o.rot = 0 then w else max 32 (rotSize x.o.rot)

/-- Whether the body names a prediction. -/
def MatBody.pred (x : MatBody) : Bool := x.pd ≠ 0 || x.mask ≠ 0

/-- The engines named, in the order Flood, Ebb-D, Ebb-W (R152). -/
def MatBody.engineList (x : MatBody) : List Nat := (seqFrom 0 3).filter (fun i => bit x.engines i)

/-- Whether every tile of a range is in an enabled bay. -/
def tilesOk (s : State) (first count : Nat) : Bool :=
  decide (1 ≤ count ∧ count ≤ 512 ∧ first + count ≤ 512) &&
  (seqFrom (first / 64) ((first + count - 1) / 64 + 1 - first / 64)).all (bayEnabled s)

/-- A stride that is a multiple of 16 and covers a row of elements. -/
def strideOk (stride elem n : Nat) : Bool := decide (stride % 16 = 0) && decide (rowBytes elem n ≤ stride)

/-- The rotation of a word divides its contraction length, where it names a size. -/
def rotDivides (w : FmtWord) (n : Nat) : Bool := decide (w.rot = 0) || decide (4 < w.rot) || decide (n % rotSize w.rot = 0)

/-- The words of the body that precision watch looks at. -/
def MatBody.words (x : MatBody) : List FmtWord := if x.otBase = 0 then [x.a, x.b, x.o] else [x.a, x.b, x.o, x.ot]

/-- The checks of a matrix command's body (R150, R161, R185; the format-word checks of R123). -/
def matChecks (s : State) (e : Entry) : List (Bool × Nat) :=
  let x := matBody e
  let op := pktOp e.pkt
  let g := gProduct x.a.elem x.b.elem
  let hasT := decide (x.otBase ≠ 0)
  let input (w : FmtWord) : Bool := decide (1 ≤ w.elem ∧ w.elem ≤ 0x0D)
  let grad (w : FmtWord) : Bool := [0x05, 0x02, 0x01].contains w.elem && decide (w.scale ≤ 1)
  let quantum := max (if x.ot.scale ≠ 0 then 32 else 1) (rotSize x.ot.rot)
  fmtChecks x.a true ++ fmtChecks x.b true ++ fmtChecks x.o true ++ (if hasT then fmtChecks x.ot true else []) ++
  x.words.map (pwCheck s e.pkt) ++
  [(decide (bodyAt e 164 2 < 512) && decide (bodyAt e 166 2 < 1024) && decide (bodyAt e 170 2 < 16) &&
      decide (bodyAt e 172 2 < 1024) && decide (bodyAt e 174 2 < 2048) && decide (bodyAt e 176 4 < 2 ^ 24), 0x01),
   (decide (x.a.scale ≠ 3), 0x42),
   (rotDivides x.a x.k && rotDivides x.b x.k && rotDivides x.o x.n && (!hasT || rotDivides x.ot x.m), 0x43),
   (input x.a && input x.b && decide (x.o.elem ≠ 0) && (!hasT || decide (x.ot.elem ≠ 0)), 0x50),
   (decide (x.a.elem ≠ 0x0D), 0x51),
   ((decide (op ≠ 0x31) || grad x.a) && (decide (op ≠ 0x32) || grad x.b), 0x52),
   (decide (1 ≤ x.m ∧ x.m ≤ 16777216 ∧ 1 ≤ x.n ∧ x.n ≤ 1048576 ∧ 1 ≤ x.k ∧ x.k ≤ 16777216) &&
     decide (1 ≤ x.accSpan ∧ x.accSpan ≤ 1024) && decide (x.accRow + x.accSpan * x.colsOfBlock / 8 ≤ 1024) &&
     decide (x.row0 + x.m ≤ 2 ^ 32 ∧ x.col0 + x.n ≤ 2 ^ 32 ∧ x.slice0 + ceilDiv x.k (8 * g) ≤ 2 ^ 32), 0x53),
   (decide (1 ≤ x.engines ∧ x.engines < 8) && (decide (op ≠ 0x31) || decide (x.engines = 2)) &&
     (decide (op ≠ 0x32) || decide (x.engines = 4)) && tilesOk s x.tileFirst x.tileCount, 0x54),
   (decide (x.accLoad = true ↔ x.accBase ≠ 0) && decide (x.accBase % 16 = 0), 0x55),
   (decide (x.epi ≤ 2) && (if x.epi = 0 then decide (x.eBase = 0) && bodyZero e 64 80
     else decide (x.eBase ≠ 0) && decide (1 ≤ x.ef.elem ∧ x.ef.elem ≤ 3) && bodyZero e 65 80), 0x56),
   (decide (x.aBase % 16 = 0 ∧ x.bBase % 16 = 0 ∧ x.oBase % 16 = 0 ∧ x.otBase % 16 = 0 ∧ x.eBase % 16 = 0) &&
     (x.compressed || strideOk x.aStride x.a.elem x.k) && strideOk x.bStride x.b.elem (if x.layout then x.n else x.k) &&
     strideOk x.oStride x.o.elem x.n && (!hasT || strideOk x.otStride x.ot.elem x.m) &&
     (decide (x.epi = 0) || decide (x.eStride = 0) || strideOk x.eStride x.ef.elem x.n) &&
     (!x.accLoad || strideOk x.accStride 0x01 x.n) && decide (x.eStride % 16 = 0 ∧ x.accStride % 16 = 0), 0x57),
   (hasT || (bodyZero e 48 64 && decide (x.otStride = 0)), 0x58),
   ((!x.layout || (decide (x.b.scale ≤ 1) && decide (x.b.rot = 0))) &&
     (!hasT || (decide (x.ot.scale = 0) && decide (x.ot.rot = 0)) || decide (x.accSpan % quantum = 0) ||
       decide (x.m ≤ x.accSpan)), 0x59),
   (!x.compressed || compressOk x.a, 0x60), (!x.compressed || decide (x.aStride = 0), 0x61),
   (!x.pred || (decide (op = 0x30) && !x.accLoad && !x.layout), 0x63),
   (!x.pred || (decide (x.pd ≠ 0 ∧ x.mask ≠ 0) && decide (x.pd % 64 = 0 ∧ x.mask % 16 = 0)), 0x64)]

/-! ## Prediction descriptors (R185) -/

/-- A prediction descriptor. -/
structure Prediction where
  fmt : FmtWord
  base : Nat
  stride : Nat
  maskStride : Nat
  cols : Nat
  margin : Nat
  missMap : Nat
  report : Nat
  deriving DecidableEq, Repr

/-- The prediction descriptor in 64 bytes. -/
def prediction (d : List Byte) : Prediction :=
  ⟨fmtWord d, leAt d 16 8, leAt d 24 4, leAt d 28 4, leAt d 32 8, leAt d 40 4, leAt d 48 8, leAt d 56 8⟩

/-- The checks of a prediction descriptor, details 0x64 and 0x65. -/
def predChecks (d : List Byte) (x : MatBody) : List (Bool × Nat) :=
  let p := prediction d
  [(decide (p.missMap % 16 = 0 ∧ p.report % 32 = 0), 0x64),
   ((decide (p.fmt.elem = 0x0D) || decide (p.fmt.elem = 0x0B)) && decide (p.fmt.scale ≤ 1) && decide (p.fmt.rot = 0) &&
     (fmtChecks p.fmt false).all (fun c => c.1) && strideOk p.stride p.fmt.elem x.k &&
     decide (p.maskStride % 16 = 0 ∧ ceilDiv x.n 8 ≤ p.maskStride) && decide (p.base % 16 = 0 ∧ p.cols % 16 = 0) &&
     (f32 p.margin).finite && !Val.lt (f32 p.margin) (.zero false) && decide (leAt d 44 4 = 0), 0x65)]

/-! ## Arrays, queues and accumulator rows (R152, R153) -/

/-- The arrays a command uses: engine × 512 + tile, one for each of the first blocks. -/
def MatBody.arrays (x : MatBody) : List Nat :=
  let blocks := ceilDiv x.m x.accSpan * ceilDiv x.n x.colsOfBlock
  let all := x.engineList.flatMap (fun en => (seqFrom 0 x.tileCount).map (fun t => en * 512 + x.tileFirst + t))
  all.take blocks

/-- The ENGINE of a matrix reply: the one array, or several (R161). -/
def MatBody.engineId (x : MatBody) : Nat :=
  match x.arrays with
  | [a] => 0x1000 * (1 + a / 512) + a % 512
  | _ => 0xF000

/-- The array of block `j` (R152). -/
def MatBody.arrayOf (x : MatBody) (j : Nat) : Nat :=
  let s := j % (x.tileCount * x.engineList.length)
  (x.engineList[s / x.tileCount]?).getD 0 * 512 + x.tileFirst + s % x.tileCount

/-- The accumulator rows a block occupies. -/
def MatBody.rows (x : MatBody) : Nat × Nat := (x.accRow, x.accRow + x.accSpan * x.colsOfBlock / 8)

/-- The engine queues a command uses, as engine × 512 + tile: those of its arrays, or the vector engines of its tiles (R53, R198). -/
def queuesOf (e : Entry) : List Nat :=
  if pktOp e.pkt = 0x40 then (seqFrom 0 (bodyAt e 14 2 % 1024)).map (fun t => 3 * 512 + bodyAt e 12 2 % 512 + t)
  else (matBody e).arrays

/-- Whether a command's operations stand in engine queues now: some have entered, and it has not finished. -/
def inQueues (e : Entry) : Bool :=
  (match e.phase with
   | .running _ => true
   | _ => false) && !e.queued.isEmpty

/-- The commands beside this one with an operation in a queue. -/
def inQueue (s : State) (e : Entry) (a : Nat) : List Entry :=
  s.entries.filter (fun c => decide (c.tag ≠ e.tag) && inQueues c && c.queued.any (fun q => decide (q.1 = a)))

/-- Whether a queue has room for an operation of a command: 8 entries, 7 of them for operations that are not urgent (R53). -/
def queueHasRoom (s : State) (e : Entry) (a : Nat) : Bool :=
  decide ((inQueue s e a).length < 8) &&
  (urgent s e.ring || decide (((inQueue s e a).filter (fun c => !urgent s c.ring)).length < 7))

/-- The queues that a command's operations have not entered yet. -/
def queuesLeft (e : Entry) : List Nat := (queuesOf e).filter (fun a => !e.queued.any (fun q => decide (q.1 = a)))

/-- Whether an operation that entered one of the command's queues before the command's own holds accumulator rows of its own (R153). -/
def rowsTaken (s : State) (e : Entry) : Bool :=
  let x := matBody e
  decide (pktOp e.pkt ≠ 0x40) && e.queued.any (fun q => (inQueue s e q.1).any (fun c =>
    decide (pktOp c.pkt ≠ 0x40) && c.queued.any (fun r => decide (r.1 = q.1) && decide (r.2 < q.2)) &&
    overlap x.rows.1 x.rows.2 (matBody c).rows.1 (matBody c).rows.2))

/-- Whether a tile is power-gated (R355). -/
def tileGated (s : State) (t : Nat) : Bool := s.bitAt (Reg.TILE_GATED (t / 32)) (t % 32)

/-! ## Tide resolution (R211 to R219) -/

/-- The weight addresses of a MATMUL or MATMUL_DGRAD (R211). -/
def MatBody.weights (x : MatBody) (p : Option Prediction) : List Nat :=
  [x.bBase] ++ (if x.b.scale = 0 then [] else [x.b.scaleBase]) ++
  (match p with
   | none => []
   | some p => [p.base, p.cols] ++ (if p.fmt.scale = 0 then [] else [p.fmt.scaleBase]))

/-- A reader of a version slot recorded, with the tide it reads; a MATMUL takes a hold on a PAIRED entry (R217, R219). -/
def resolveTo (s : State) (e : Entry) (entry v tide : Nat) (hold : Bool) : State :=
  let s1 := if hold then setVslot s e.slot entry v (fun x => { x with holds := x.holds + 1 }) else s
  setEntry (addReader s1 e.tag e.slot entry v) e.tag (fun c => { c with tide := tide })

/-- The loaded dense group that writes the entry a layer's record names: the origin of the offsets of an ALT_W copy is its FWD_BASE; with
none, the address itself (R262). -/
def altOrigin (s : State) (layer base : Nat) : Nat :=
  match s.pgroups.find? (fun d => !bit (leAt d.bytes 63 1) 3 && decide (leAt d.bytes 120 1 = pwField s layer 70 1) &&
      decide (leAt d.bytes 60 2 = pwField s layer 72 4)) with
  | some d => leAt d.bytes 16 8
  | none => base

/-- A weight word and its base under the substitution of R140, and whether it was substituted: its copy lies at the offset from
ALT_W_BASE that the address has from FWD_BASE, its scales at the same offset from ALT_W.SCALE_BASE (R262). -/
def altWeight (s : State) (t : Nat) (w : FmtWord) (base : Nat) : FmtWord × Nat × Bool :=
  let (w', b', sub) := substitute s t w base
  if sub && decide (w.pwRole = 2) then
    let o := altOrigin s w.pwLayer base
    ({ w' with scaleBase := if w'.scale = 0 then 0 else w'.scaleBase + base - o }, b' + base - o, true)
  else (w', b', sub)

/-- The weight addresses that R140 puts in place of B's for a tide (R211): none where it does not. -/
def MatBody.altWeights (s : State) (x : MatBody) (t : Nat) : List Nat :=
  let (w, b, sub) := altWeight s t x.b x.bBase
  if sub then [b] ++ (if w.scale = 0 then [] else [w.scaleBase]) else []

/-- The check of a matrix command's weight addresses (R211, R212). -/
def Cmd.weightsOk (e : Entry) (x : MatBody) (p : Option Prediction) : Cmd Unit := do
  let s ← Cmd.state
  if !pktTideValid e.pkt then
    if pktOp e.pkt = 0x31 && (weightEntryAt s e.slot x.bBase).isSome then Cmd.bad 0x81 else return ()
  else if pktOp e.pkt = 0x32 then return ()
  else match weightEntry s e.slot (x.weights p) with
    | none => Cmd.bad 0x80
    | some _ => return ()

/-- A tide taken: the substituted weights must lie in the same entry (R211), and the command reads it (R217, R219). -/
def Cmd.takeTide (e : Entry) (x : MatBody) (entry v tide : Nat) (hold : Bool) : Cmd Unit := do
  let s ← Cmd.state
  if (x.altWeights s tide).all (fun a => decide (weightEntryAt s e.slot a = some entry)) then
    Cmd.update (fun s => resolveTo s e entry v tide hold)
  else Cmd.bad 0x80

/-- The tide of a matrix command chosen (R212 to R215); the layers of `words` hold a MATMUL to the condition of R140. -/
def Cmd.resolveTide (e : Entry) (x : MatBody) (p : Option Prediction) (words : List FmtWord) : Cmd Unit := do
  let s ← Cmd.state
  let t := pktTide e.pkt
  if !pktTideValid e.pkt then return ()
  else if pktOp e.pkt = 0x32 then Cmd.gateWords e words
  else
    match weightEntry s e.slot (x.weights p) with
    | none => Cmd.bad 0x80
    | some i =>
      match tideEntry s e.slot i with
      | none => Cmd.bad 0x80
      | some te => do
        Cmd.userTides e words (some (e.slot, i))
        if pktOp e.pkt = 0x30 then
          match newestPresent te (fun tau => atOrAfter tau t && allDecided s words tau) with
          | none => throw (.pause .tide)
          | some (v, tau) =>
            if te.paired && ((te.vslots[v]?).getD VersionSlot.empty).holds = 65535 then throw (.pause .tide)
            else
              Cmd.takeTide e x i v tau te.paired
              if tau ≠ t then Cmd.note (2 ^ 23)
        else
          match presentSlot te t with
          | some v => if allDecided s words t then Cmd.takeTide e x i v t false else throw .hold
          | none =>
            if t ≠ te.current && atOrAfter t te.current then throw (.pause .tide) else Cmd.fail 0x16 0x03

/-- The header of a compressed operand read once and checked: TOTAL_BYTES (R181). -/
def Cmd.compressedHeader (e : Entry) (x : MatBody) (a : FmtWord) (base : Nat) : Cmd Nat := do
  let h ← Cmd.readOnce e base 64
  if leAt h 0 2 = 1 ∧ leAt h 2 1 = a.elem ∧ leAt h 4 4 = x.m ∧ leAt h 8 4 = x.k then return leAt h 16 8
  else Cmd.fail 0x13 0x60

/-- What a matrix command does before it enters its queues: the checks, with the descriptor of a prediction and the header of a
compressed operand, read at dispatch and kept (R181, R185); then the tide. Where precision watch may put another A in place (R140), the
header is that of the A chosen with the tide. -/
def prepareMatrix (e : Entry) : Cmd Unit := do
  let s ← Cmd.state
  let x := matBody e
  let p ← if x.pred && (lowest (matChecks s e)).isNone then (do
      let d ← Cmd.readOnce e x.pd 64
      Cmd.checks (matChecks s e ++ predChecks d x ++ [pwCheck s e.pkt (prediction d).fmt])
      return some (prediction d))
    else (do
      Cmd.checks (matChecks s e)
      return none)
  Cmd.weightsOk e x p
  modify (fun env => { env with engine := x.engineId })
  if x.compressed && !pwNames x.a then
    let _ ← Cmd.compressedHeader e x x.a x.aBase
  Cmd.resolveTide e x p (x.words ++ (match p with
    | some p => [p.fmt]
    | none => []))

/-- The offset a resolved weight address gets: v × VSTRIDE (R211). -/
def readOffset (s : State) (e : Entry) (x : MatBody) : Nat :=
  match weightEntryAt s e.slot x.bBase with
  | none => 0
  | some i =>
    match tideEntry s e.slot i, e.reads.find? (fun r => r.slot = e.slot && r.entry = i) with
    | some te, some r => r.which * te.vstride
    | _, _ => 0

/-- A weight word substituted under R140; NOTES bit 20 where it was replaced. -/
def Cmd.substitutedWeight (t : Nat) (w : FmtWord) (base : Nat) : Cmd (FmtWord × Nat) := do
  let (w', b', sub) := altWeight (← Cmd.state) t w base
  if sub then Cmd.note (2 ^ 20)
  return (w', b')

/-! ## Reading operands -/

/-- B as N rows of K values, and the reserved T2 codes met; with B_LAYOUT = 1 from K rows of N, the scale records in
contraction order (R146, R148). Only the elements (n, k) that `need` names are fetched (R183); the others read as codes 0. -/
def Cmd.readStationary (w : FmtWord) (base stride n k : Nat) (layout : Bool) (need : Nat → Nat → Bool) : Cmd (List (List Val) × Nat) := do
  if !layout then
    let rows ← (seqFrom 0 n).mapM (fun r => Cmd.readRowWhere w base stride r k (need r))
    return (rows.map (fun r => r.1), rows.foldl (fun a r => a + r.2) 0)
  else
    let stored ← (seqFrom 0 k).mapM (fun r => do
      let width := fmtBits w.elem
      return unpackP width n (← Cmd.readWhere (base + r * stride) (rowBytes w.elem n) (fun i =>
        (seqFrom (8 * i / width) ((8 * i + 7) / width + 1 - 8 * i / width)).any (fun c => decide (c < n) && need c r))))
    let nb := ceilDiv k 32
    let rows ← (seqFrom 0 n).mapM (fun c => do
      let recs ← if w.scale = 0 then pure []
        else Cmd.readWhere (w.scaleBase + c * nb) nb (fun i => (seqFrom (32 * i) 32).any (fun r => decide (r < k) && need c r))
      return stored.zipIdx.map (fun p => match (p.1[c]?).getD none with
        | none => Val.lost
        | some x =>
          if w.scale = 0 then decodeElem w.elem w.zp 0 x
          else match (recs[p.2 / 32]?).getD none with
            | none => .lost
            | some r => blockValue w.elem 0 ⟨r.toNat, w.zp, [], 0⟩ (p.2 % 32) x))
    let t2 := stored.foldl (fun a r => a + (r.filter (fun c => c = some 2)).length) 0
    return (rows, if w.elem = 0x0D then t2 else 0)

/-- Every element. -/
def allNeeded (_ _ : Nat) : Bool := true

/-- B as it stands in memory, as N rows of K values: what decides which tiles are fetched (R183). -/
def plainStationary (s : State) (w : FmtWord) (base stride n k : Nat) (layout : Bool) : List (List Val) :=
  let stored := (seqFrom 0 (if layout then k else n)).map (fun r =>
    unpackP (fmtBits w.elem) (if layout then n else k) ((peekBytes s (base + r * stride) (rowBytes w.elem (if layout then n else k))).map some))
  let sz := scaleSize w.scale
  (seqFrom 0 n).map (fun c => (seqFrom 0 k).map (fun r =>
    match (((if layout then stored[r]? else stored[c]?).getD [])[if layout then c else r]?).getD none with
    | none => Val.lost
    | some x =>
      if w.scale = 0 then decodeElem w.elem w.zp w.fsExp x
      else blockValue w.elem w.fsExp
        (parseScale w.scale w.zp (leNat (peekBytes s (w.scaleBase + (c * ceilDiv k 32 + r / 32) * sz) sz))) (r % 32) x))

/-- One row of A, with the level-0 bits where it is compressed. -/
def Cmd.streamRow (x : MatBody) (a : FmtWord) (aBase total m : Nat) : Cmd (List Val × Option (List Bool)) := do
  if x.compressed then
    let (v, l) ← Cmd.readCompressedRow a aBase m x.k total
    return (v, some l)
  else
    let (v, _) ← Cmd.readRow a aBase x.aStride m x.k
    return (v, none)

/-! ## The shadow check (R186 to R192) -/

/-- A value rounded once towards +∞ to FP32 (R188). -/
def roundUp (v : Val) : Val :=
  match v with
  | .fin m e =>
    let q := fp32.quantum m.natAbs e
    if q ≤ e then (if fp32.beyond v then (if m < 0 then fp32.maxVal.negate else .inf false) else v)
    else
      let d := 2 ^ (q - e).toNat
      let n := if m < 0 then m.natAbs / d else (m.natAbs + d - 1) / d
      if n = 0 then .zero (decide (m < 0))
      else
        let w : Val := .fin (if m < 0 then -(n : Int) else n) q
        if fp32.beyond w then (if m < 0 then fp32.maxVal.negate else .inf false) else w
  | w => w

/-- A value rounded once towards −∞ to FP32. -/
def roundDown (v : Val) : Val := (roundUp v.negate).negate

/-- Σ of a list of values, exactly. -/
def sumVals (l : List Val) : Val := l.foldl Val.add (.zero false)

/-- An activation row quantised to INT4 with S1 blocks of 32 and read back: â. -/
def int4Row (a : List Val) : List Val :=
  (chunks 32 (a.length / 32 + 1) a).flatMap (fun b =>
    let q := quantiseBlock 0x0B 1 false 0 b
    q.codes.zipIdx.map (fun c => blockValue 0x0B 0 q.record c.2 c.1))

/-- Whether a skipped neuron is a miss: the estimate is not at or below the threshold; a NaN makes a miss (R188). -/
def isMiss (a shadow : List Val) (tau delta gamma margin : Val) : Bool :=
  let ah := int4Row a
  let xt := roundUp (sumVals ((ah.zip shadow).map (fun p => p.1.mul p.2)))
  let rho := roundUp (sumVals (a.map Val.abs))
  let rho' := roundUp (sumVals ((a.zip ah).map (fun p => (p.1.sub p.2).abs)))
  let est := roundUp ((roundUp (xt.add (roundUp (rho.mul delta)))).add (roundUp (rho'.mul gamma)))
  let theta := roundDown (tau.add margin)
  !(Val.lt est theta || Val.eqv est theta)

/-- The shadow weights and column records of a prediction, and the reserved T2 codes among the weights. -/
structure Shadow where
  weights : List (List Val)
  records : List (Val × Val × Val)
  margin : Val
  t2 : Nat
  deriving DecidableEq, Repr

/-- The shadow data of a prediction read, its addresses resolved by `off`. -/
def Cmd.readShadow (p : Prediction) (off n k : Nat) : Cmd Shadow := do
  let w := { p.fmt with scaleBase := if p.fmt.scale = 0 then 0 else p.fmt.scaleBase + off }
  let (ws, t2) ← Cmd.readStationary w (p.base + off) p.stride n k false allNeeded
  let recs ← (seqFrom 0 n).mapM (fun c => do
    let b ← Cmd.read (p.cols + off + 16 * c) 16
    return (f32 (leAt b 0 4), f32 (leAt b 4 4), f32 (leAt b 8 4)))
  return ⟨ws, recs, f32 p.margin, t2⟩

/-- What became of one group of 8 columns of one row: the sums (none: skipped and written as zeros), slices streamed, slices
left out, misses, whether it was skipped, checked, made up. -/
structure GroupOut where
  sums : Option (List Val)
  streamed : Nat
  leftOut : Nat
  misses : List Nat
  skipped : Bool
  checked : Bool
  madeUp : Bool
  deriving DecidableEq, Repr

/-- One group computed exactly. -/
def computeGroup (j : MatJob) (m n0 : Nat) (a : List Val × Option (List Bool)) (cols : List (List Val)) (init : List Val) :
    GroupOut :=
  let r := j.rowGroup m n0 a.1 a.2 cols init
  let left := (r.2.filter id).length
  ⟨some r.1, j.slices - left, left, [], false, false, false⟩

/-- Which tiles a command over a compressed A fetches, by group of 8 columns and slice: a tile that every row leaves out is not fetched
(R183). `bs` is B as it stands in memory, a lost byte of it no reason to fetch. -/
def fetchedTiles (j : MatJob) (avs : List (List Val × Option (List Bool))) (inits bs : List (List Val)) : List (List Bool) :=
  let plain := bs.map (fun c => c.map (fun v => if v = .lost then .zero false else v))
  (chunks 8 (plain.length / 8 + 1) plain).zipIdx.map (fun g =>
    let skips := avs.zipIdx.map (fun a =>
      (j.rowGroup a.2 (8 * g.2) a.1.1 a.1.2 g.1 ((((inits[a.2]?).getD []).drop (8 * g.2)).take 8)).2)
    (seqFrom 0 j.slices).map (fun s => skips.any (fun l => !((l[s]?).getD false))))

/-- One group of one row under prediction (R186 to R190). -/
def Cmd.groupOf (j : MatJob) (mode m n0 : Nat) (a : List Val × Option (List Bool)) (cols : List (List Val)) (init : List Val)
    (skip : Bool) (sh : Shadow) : Cmd GroupOut := do
  if !skip then return computeGroup j m n0 a cols init
  else
    let look : Bool ← if mode = 1 then (do return decide ((← Cmd.fresh) % 2 = 0)) else pure true
    let misses := if !look then [] else (seqFrom n0 cols.length).filter (fun n =>
      let r := (sh.records[n]?).getD (.nan, .nan, .nan)
      isMiss a.1 ((sh.weights[n]?).getD []) r.1 r.2.1 r.2.2 sh.margin)
    if mode = 2 && !misses.isEmpty then Cmd.fail 0x13 0x68
    else if mode = 0 && !misses.isEmpty then
      return { computeGroup j m n0 a cols init with misses := misses, skipped := true, checked := true, madeUp := true }
    else return ⟨none, 0, 0, misses, true, look, false⟩

/-! ## The three opcodes -/

/-- Whether a command's slices round stochastically (R165). -/
def stochasticFor (s : State) (op : Nat) : Bool :=
  s.fieldAt Reg.ROUND_MODE 0 0 = 0 && s.bitAt Reg.SR_ENABLE (op - 0x30)

/-- The epilogue of one element (R157 step 1). -/
def epilogue (op : Nat) (a e : Val) : Val := if op = 1 then fadd a e else if op = 2 then fmul a e else a

/-- The rows of a list of rows as its columns: `n` of them. -/
def transposeVals (n : Nat) (rows : List (List Val)) : List (List Val) :=
  (seqFrom 0 n).map (fun c => rows.map (fun r => (r[c]?).getD (.zero false)))

/-- The steps of one group counted under its array's bay and engine, and the stalls of the array, a measured time (log entry 3). -/
def countSteps (s : State) (array steps : Nat) : State :=
  s.count64 (Reg.ARRAY_BAY_CTR_FLOOD_STEPS_LO (array % 512 / 64) + 8 * (array / 512)) steps

/-- The operations enter their queues, each as soon as its own queue has room (R53); once all have, those for gated tiles wait for them to
wake, and those behind an earlier operation of the same accumulator rows for its end, which NOTES[21] shows (R153, R355). -/
def Cmd.enterQueues (e : Entry) : Cmd Unit := do
  let s ← Cmd.state
  let room := (queuesLeft e).filter (queueHasRoom s e)
  let c := { e with queued := e.queued ++ room.zipIdx.map (fun q => (q.1, s.readSeq + q.2)) }
  Cmd.update (fun s => { setEntry s e.tag (fun x => { x with queued := c.queued }) with readSeq := s.readSeq + room.length })
  if rowsTaken s c then Cmd.note (2 ^ 21)
  if !(queuesLeft c).isEmpty then throw (.pause .queueRoom)
  else if (queuesOf e).any (fun a => tileGated s (a % 512)) then throw (.pause .gated)
  else if rowsTaken s c then throw (.pause .serialised)
  else return ()

/-- NONFINITE_OUT for the poisoned elements of a tensor: they are written as a non-finite value, a NaN block or FS48 poison (R161, R371). -/
def poisonNote (w : FmtWord) (marked : Bool) (count : Nat) : Nat :=
  if marked && decide (count ≠ 0) && (decide (w.scale ≠ 0) || decide (poisonCode w.elem ≠ 0)) then 2 ^ 18 else 0

/-- The bits of a mask byte that stand for columns below N, of the group of 8 columns `g` (R186). -/
def maskGroup (b : Byte) (n g : Nat) : Nat := b.toNat % 2 ^ min 8 (n - 8 * g)

/-- MATMUL, MATMUL_DGRAD and MATMUL_WGRAD once their tide is resolved. -/
def bodyMatrix (e : Entry) : Cmd Done := do
  let x := matBody e
  Cmd.enterQueues e
  let s ← Cmd.state
  let off := readOffset s e x
  let t := if e.reads.isEmpty || pktOp e.pkt = 0x32 then pktTide e.pkt else e.tide
  modify (fun env => { env with engine := x.engineId })
  let (a, aBase) ← Cmd.substitutedWeight t x.a x.aBase
  let (b0, bBase) ← Cmd.substitutedWeight t x.b x.bBase
  let (o, oBase) ← Cmd.substitutedWeight t x.o x.oBase
  let (ot, otBase) ← Cmd.substitutedWeight t x.ot x.otBase
  let b := { b0 with scaleBase := if b0.scale = 0 then 0 else b0.scaleBase + off }
  let total ← if x.compressed then Cmd.compressedHeader e x a aBase else pure 0
  Cmd.declareTensor o oBase x.oStride x.m x.n
  if x.otBase ≠ 0 then Cmd.declareTensor ot otBase x.otStride x.n x.m
  let j : MatJob := ⟨slotSeed s e.slot, x.stream, x.row0, x.col0, x.slice0, x.orientT, gProduct a.elem b.elem, x.k,
    stochasticFor s (pktOp e.pkt)⟩
  let pd ← if x.pred then (do return some (prediction (← Cmd.readOnce e x.pd 64))) else pure none
  match pd with
  | some p => do
    if p.missMap ≠ 0 then Cmd.declare p.missMap (x.m * p.maskStride)
    if p.report ≠ 0 then Cmd.declare p.report 32
  | none => pure ()
  let avs ← (seqFrom 0 x.m).mapM (Cmd.streamRow x a aBase total)
  let inits ← (seqFrom 0 x.m).mapM (fun m =>
    if x.accLoad then (do
      let r ← Cmd.readP (x.accBase + m * x.accStride) (4 * x.n)
      return (unpackP 32 x.n r).map (fun c => match c with
        | some w => f32 w
        | none => .lost))
    else pure (List.replicate x.n (Val.zero false)))
  let s1 ← Cmd.state
  let tiles := if x.compressed then fetchedTiles j avs inits (plainStationary s1 b (bBase + off) x.bStride x.n x.k x.layout) else []
  let need (n k : Nat) : Bool := (((tiles[n / 8]?).getD [])[k / (8 * j.g)]?).getD true
  let fetched := if x.compressed then (seqFrom 0 x.n).foldl (fun c n => c + ((seqFrom 0 x.k).filter (need n)).length) 0 else x.n * x.k
  let (bs, t2) ← Cmd.readStationary b (bBase + off) x.bStride x.n x.k x.layout need
  let sh ← match pd with
    | some p => Cmd.readShadow p off x.n x.k
    | none => pure ⟨[], [], .zero false, 0⟩
  let mode := s.fieldAt Reg.PRED_MODE 1 0
  let groups := chunks 8 (x.n / 8 + 1) bs
  let rows ← (seqFrom 0 x.m).mapM (fun m => do
    let av := (avs[m]?).getD ([], none)
    let init := (inits[m]?).getD []
    let mask ← match pd with
      | some p => Cmd.read (x.mask + m * p.maskStride) (ceilDiv x.n 8)
      | none => pure []
    groups.zipIdx.mapM (fun g => Cmd.groupOf j mode m (8 * g.2) av g.1 ((init.drop (8 * g.2)).take 8)
      (pd.isSome && decide (maskGroup ((mask[g.2]?).getD 1) x.n g.2 = 0)) sh))
  let flat := rows.flatten
  let erows ← if x.epi = 0 then pure [] else (seqFrom 0 (if x.eStride = 0 then 1 else x.m)).mapM (fun m => do
    let (v, _) ← Cmd.readRow x.ef x.eBase x.eStride m x.n
    return v)
  let vals := rows.zipIdx.map (fun r =>
    let er := (erows[if x.eStride = 0 then 0 else r.2]?).getD []
    r.1.zipIdx.flatMap (fun g => match g.1.sums with
      | none => List.replicate (min 8 (x.n - 8 * g.2)) (Val.zero false)
      | some l => l.zipIdx.map (fun v => epilogue x.epi v.1 ((er[8 * g.2 + v.2]?).getD (.zero false)))))
  let escEn ← Cmd.escEn
  let marked ← Cmd.marks
  let p0 := (← get).poisoned
  let ev ← vals.zipIdx.foldlM (fun acc r => do
    return acc.add (← Cmd.writeTensorRow o oBase x.oStride r.2 escEn (rotateRow o.rot false r.1))) Events.none
  let p1 := (← get).poisoned
  let evT ← if x.otBase = 0 then pure Events.none else (transposeVals x.n vals).zipIdx.foldlM (fun acc r => do
    return acc.add (← Cmd.writeTensorRow ot otBase x.otStride r.2 escEn (rotateRow ot.rot false r.1))) Events.none
  Cmd.note (poisonNote o marked (p1 - p0) ||| poisonNote ot marked ((← get).poisoned - p1))
  Cmd.update (fun s => countWord (countWord (countWord (countWord s x.o t ev) x.ot t evT) x.b t (t2Events t2 fetched))
    x.a t (t2Events 0 (x.m * x.k)))
  match pd with
  | some p => Cmd.update (fun s => countWord s p.fmt t (t2Events sh.t2 (x.n * x.k)))
  | none => pure ()
  let nb := ceilDiv x.n x.colsOfBlock
  Cmd.update (fun s => rows.zipIdx.foldl (fun s r => r.1.zipIdx.foldl (fun s g =>
    countSteps s (x.arrayOf (r.2 / x.accSpan * nb + 8 * g.2 / x.colsOfBlock)) g.1.streamed) s) s)
  (x.arrays.map (fun a => a % 512 / 64)).dedup.forM (fun bay => do
    let stalls ← Cmd.fresh
    Cmd.update (fun s => s.count64 (Reg.ARRAY_BAY_CTR_FEED_STALLS_LO bay) stalls))
  let skipped := (flat.filter (fun g => g.skipped)).length
  let checked := (flat.filter (fun g => g.checked)).length
  let made := (flat.filter (fun g => g.madeUp)).length
  let misses := flat.foldl (fun n g => n + g.misses.length) 0
  let left := flat.foldl (fun n g => n + g.leftOut) 0
  let gs := match pd with
    | some p => if p.fmt.elem = 0x0D then 64 else 32
    | none => 32
  Cmd.update (fun s => (((s.count64 Reg.SPARSE_SKIPS_LO left).count64 Reg.PRED_SKIPS_LO skipped).count64
    Reg.PRED_MISSES_LO misses).count64 Reg.PRED_SHADOW_LO (checked * ceilDiv x.k (8 * gs) + made * j.slices))
  match pd with
  | some p => do
    if p.missMap ≠ 0 then rows.zipIdx.forM (fun r => r.1.forM (fun g => g.misses.forM (fun n => do
      let at_ := p.missMap + r.2 * p.maskStride + n / 8
      let old ← Cmd.readNat at_ 1
      Cmd.writeNat at_ 1 (old ||| 2 ^ (n % 8)))))
    if p.report ≠ 0 then Cmd.write p.report (toLE 8 skipped ++ toLE 8 checked ++ toLE 8 misses ++ toLE 8 (skipped - checked))
  | none => pure ()
  let all := ev.add evT
  let status := if mode = 0 && 0 < misses then 0x02 else if mode = 1 && 0 < skipped then 0x03 else 0
  let n (b : Bool) (i : Nat) : Nat := if b then 2 ^ i else 0
  return ⟨status, 0, x.engineId,
    (if e.reads.isEmpty || pktOp e.pkt = 0x32 then 0 else t) + 2 ^ 32 * ((all.sat + all.escOvf) % 2 ^ 32),
    eventNotes all + n (decide (0 < t2)) 19 + n (decide (2 ^ 21 < (x.slice0 + j.slices) * 8 * j.g)) 22 +
    n (decide (0 < left)) 24 + n (decide (0 < skipped)) 25 + n (decide (0 < misses)) 26 + n (decide (0 < made)) 27 +
    n (decide (mode = 1 ∧ checked < skipped)) 28⟩

end Sys2Proof.Machine
end

