-- ==== Sys2Proof/Machine/VecFn.lean ====
section
/-! DEFINITION. The vector engine's functions RSQRT, EXP, LOG, TANH and ERF (R200): the exact value to far beyond binary32, and
one of the binary32 values within the bound of R200, which one being the part's fixed table: Config.vecFunction. -/

namespace Sys2Proof.Machine

open Sys2Proof

/-- The fractional bits of the fixed-point numbers of this file. -/
def fxBits : Nat := 300

/-- One in fixed point. -/
def fxOne : Nat := 2 ^ fxBits

/-- A finite value of magnitude at most 256 in fixed point, rounded down. -/
def Val.toFx (v : Val) : Nat :=
  let e := v.exp + fxBits
  if 0 ≤ e then v.sig.natAbs * 2 ^ e.toNat else v.sig.natAbs / 2 ^ (-e).toNat

/-- Σ y^n / n! over `fuel` terms from term `t` of number `n`. -/
def expTerms (y : Nat) : Nat → Nat → Nat → Nat
  | 0, _, _ => 0
  | fuel + 1, n, t => t + expTerms y fuel (n + 1) (t * y / fxOne / (n + 1))

/-- A fixed-point number squared `k` times. -/
def fxSquares : Nat → Nat → Nat
  | 0, x => x
  | k + 1, x => fxSquares k (x * x / fxOne)

/-- e^x for 0 ≤ x ≤ 256. -/
def fxExp (x : Nat) : Nat := fxSquares 10 (expTerms (x / 1024) 60 0 fxOne)

/-- Σ z^(2n+1) / (2n+1) over `fuel` terms: artanh z for z ≤ 1/3. -/
def artanhTerms (z2 : Nat) : Nat → Nat → Nat → Nat
  | 0, _, _ => 0
  | fuel + 1, n, t => t / (2 * n + 1) + artanhTerms z2 fuel (n + 1) (t * z2 / fxOne)

/-- artanh z. -/
def fxArtanh (z : Nat) : Nat := artanhTerms (z * z / fxOne) 110 0 z

/-- ln 2. -/
def fxLn2 : Nat := 2 * fxArtanh (fxOne / 3)

/-- ln v for a positive value, in fixed point. -/
def fxLog (v : Val) : Int :=
  let m := v.sig.natAbs
  let k : Int := (log2 m : Int) + v.exp
  let x := m * fxOne / 2 ^ log2 m
  k * fxLn2 + 2 * (fxArtanh ((x - fxOne) * fxOne / (x + fxOne)) : Int)

/-- arctan (1/n) by its alternating series over `fuel` terms. -/
def arctanTerms (n : Nat) : Nat → Nat → Nat → Int
  | 0, _, _ => 0
  | fuel + 1, k, t => (t / (2 * k + 1) : Nat) - arctanTerms n fuel (k + 1) (t / (n * n))

/-- π by Machin's formula. -/
def fxPi : Nat := (16 * arctanTerms 5 80 0 (fxOne / 5) - 4 * arctanTerms 239 30 0 (fxOne / 239)).toNat

/-- Σ x (2x²)^n / (2n+1)!! over `fuel` terms. -/
def erfTerms (x2 : Nat) : Nat → Nat → Nat → Nat
  | 0, _, _ => 0
  | fuel + 1, n, t => t + erfTerms x2 fuel (n + 1) (2 * t * x2 / fxOne / (2 * n + 3))

/-- erf x for 0 ≤ x ≤ 6. -/
def fxErf (x : Nat) : Nat :=
  let x2 := x * x / fxOne
  let root := isqrt (fxPi * fxOne) (fxBits + 2) 0
  2 * erfTerms x2 300 0 x * fxOne / fxExp x2 * fxOne / root

/-- tanh x for 0 ≤ x ≤ 64. -/
def fxTanh (x : Nat) : Nat := (fxExp (2 * x) - fxOne) * fxOne / (fxExp (2 * x) + fxOne)

/-- A fixed-point number as a value, with a sign. -/
def ofFx (neg : Bool) (x : Nat) : Val := Val.of (if neg then -(x : Int) else x) (-(fxBits : Int))

/-- A value floored to a multiple of 2^q. -/
def Val.floorAt (v : Val) (q : Int) : Int :=
  if q ≤ v.exp then v.sig * 2 ^ (v.exp - q).toNat else v.sig / 2 ^ (q - v.exp).toNat

/-- The binary32 values within `k` units in the last place of a value, as the multiples of the unit. -/
def within (a : Val) (k : Nat) : List Val :=
  let q := fp32.quantum a.sig.natAbs a.exp
  let n := a.floorAt q
  let near := (seqFrom 0 6).map (fun i => Val.of (n - 2 + (i : Int)) q)
  near.filter (fun v => !Val.ltFin ((Val.fin k q).add (Val.fin k (q - 40))) (v.sub a).abs)

/-- One of the binary32 values within `k` units of the exact result `a` of function `f` at the binary32 code `x`. -/
def pickWithin (f k x : Nat) (a : Val) : Val :=
  let l := within a k
  fp32.rne ((l[Config.vecFunction f x % l.length]?).getD a)

/-- 88.72284, above which EXP overflows. -/
def expLimit : Val := Val.quot (.fin 8872284 0) (.fin 100000 0)

/-- RSQRT (R200). -/
def vecRsqrt (v : Val) : Val :=
  match v with
  | .zero n => .inf n
  | .inf n => if n then .nan else .zero false
  | .fin m e => if m < 0 then .nan else pickWithin 0 1 (toF32 v) (Val.quot (.fin 1 0) (Val.root (.fin m e)))
  | w => w

/-- EXP (R200). -/
def vecExp (v : Val) : Val :=
  match v with
  | .zero _ => .fin 1 0
  | .inf n => if n then .zero false else .inf false
  | .fin m e =>
    if Val.ltFin expLimit (.fin m e) then .inf false
    else
      let a := minVal' (.fin m.natAbs e) (.fin 256 0)
      let x := fxExp a.toFx
      pickWithin 1 2 (toF32 v) (if m < 0 then Val.of ((fxOne * fxOne * 2 ^ fxBits / x : Nat) : Int) (-(2 * fxBits : Nat) : Int)
        else ofFx false x)
  | w => w
where
  /-- The lesser of two finite values. -/
  minVal' (a b : Val) : Val := if Val.ltFin b a then b else a

/-- LOG (R200). -/
def vecLog (v : Val) : Val :=
  match v with
  | .zero _ => .inf true
  | .inf n => if n then .nan else .inf false
  | .fin m e =>
    if m < 0 then .nan
    else
      let r := fxLog (.fin m e)
      if Val.eqv v (.fin 1 0) then .zero false else pickWithin 2 2 (toF32 v) (Val.of r (-(fxBits : Int)))
  | w => w

/-- TANH (R200). -/
def vecTanh (v : Val) : Val :=
  match v with
  | .inf n => .fin (if n then -1 else 1) 0
  | .fin m e =>
    pickWithin 3 2 (toF32 v)
      (ofFx (decide (m < 0)) (fxTanh (if Val.ltFin (.fin 64 0) (.fin m.natAbs e) then 64 * fxOne else (Val.fin m e).toFx)))
  | w => w

/-- ERF (R200). -/
def vecErf (v : Val) : Val :=
  match v with
  | .inf n => .fin (if n then -1 else 1) 0
  | .fin m e =>
    pickWithin 4 2 (toF32 v)
      (ofFx (decide (m < 0)) (fxErf (if Val.ltFin (.fin 6 0) (.fin m.natAbs e) then 6 * fxOne else (Val.fin m e).toFx)))
  | w => w

end Sys2Proof.Machine
end

