-- ==== Sys2Proof/Machine/Vector.lean ====
section
/-! DEFINITION. The vector engine: program images, their checks, the instructions, and VECTOR_RUN (09_vector_engine). -/

namespace Sys2Proof.Machine

open Sys2Proof

/-! ## Streams (R193 to R195) -/

/-- A stream descriptor. `len` is the LENGTH field. -/
structure VStream where
  addr : Nat
  stride : Int
  len : Nat
  code : Nat
  raw : Bool
  dyn : Bool
  spare : Bool
  deriving DecidableEq, Repr

/-- A stream descriptor of 16 bytes. -/
def vStream (b : List Byte) : VStream where
  addr := leAt b 0 4
  stride := signed 32 (leAt b 4 4)
  len := leAt b 8 4
  code := leAt b 12 1 % 32
  raw := bit (leAt b 12 1) 5
  dyn := bit (leAt b 13 1) 0
  spare := decide (leAt b 12 1 < 64) && decide (leAt b 13 1 < 2) && decide (leAt b 14 2 = 0) && decide (leAt b 0 4 < 2 ^ 19)

/-- Bits of an element of a stream. -/
def VStream.width (v : VStream) : Nat :=
  if v.raw then (if v.code = 0 then 8 else if v.code = 1 then 16 else if v.code = 4 then 64 else 32) else fmtBits v.code

/-- Whether the TYPE of a stream is a format or a word type (R194); OPAQUE is for tables only (R116). -/
def VStream.typed (v : VStream) : Bool := if v.raw then decide (v.code ≤ 4) else decide (1 ≤ v.code ∧ v.code ≤ 15)

/-- The bit of the scratchpad at which element `i` starts. -/
def VStream.bitOf (v : VStream) (i : Nat) : Int := 8 * (v.addr : Int) + (i : Int) * v.stride * v.width

/-- Whether the first `n` elements of a stream lie in the scratchpad (R194). -/
def VStream.inPad (v : VStream) (n : Nat) : Bool :=
  decide (n = 0) ||
  (decide (0 ≤ min (v.bitOf 0) (v.bitOf (n - 1))) && decide (max (v.bitOf 0) (v.bitOf (n - 1)) + v.width ≤ 8 * 2 ^ 19))

/-- The checks of a descriptor by itself (R194, R195). -/
def VStream.checks (v : VStream) : List (Bool × Nat) :=
  let w := v.width
  [(v.spare, 0x01), (v.typed, 0x71),
   (decide (-2 ^ 19 ≤ v.stride ∧ v.stride ≤ 2 ^ 19) && (decide (8 ≤ w) || decide (v.stride = 0 ∨ v.stride = 1)) &&
     decide (v.addr % (if w = 48 then 2 else if w < 8 then 1 else w / 8) = 0) &&
     (if v.dyn then decide (v.len + 4 ≤ 2 ^ 19) else decide (1 ≤ v.len ∧ v.len ≤ 2 ^ 20) && v.inPad v.len), 0x72)]

/-- The byte pieces (scratchpad address, length) that `n` elements of a stream touch. -/
def VStream.pieces (v : VStream) (n : Nat) : List (Nat × Nat) :=
  if n = 0 then []
  else if v.stride = 0 then [(v.addr, ceilDiv v.width 8)]
  else if v.stride = 1 then [(v.addr, ceilDiv (n * v.width) 8)]
  else (seqFrom 0 n).map (fun i => ((v.bitOf i).toNat / 8, v.width / 8))

/-- The device address of a tile's scratchpad. -/
def padBase (tile : Nat) : Nat := 0x400000000000 + 0x100000 * tile

/-! ## Instructions (R193, Operations) -/

/-- An instruction of a program. -/
structure VInstr where
  op : Nat
  mod : Nat
  imm : Nat
  in0 : Nat
  in1 : Nat
  in2 : Nat
  out : Nat
  spare : Bool
  deriving DecidableEq, Repr

/-- An instruction of 16 bytes. -/
def vInstr (b : List Byte) : VInstr :=
  ⟨leAt b 0 1, leAt b 1 1, leAt b 2 2, leAt b 4 1, leAt b 5 1, leAt b 6 1, leAt b 7 1, decide (leAt b 8 8 = 0)⟩

/-- What the table *Operations* says of a code: the streams needed, the MOD bits defined, steps per group and per segment. -/
structure OpInfo where
  use0 : Bool
  use1 : Bool
  use2 : Bool
  out : Bool
  mods : Nat
  cost : Nat
  seg : Nat
  deriving DecidableEq, Repr

/-- The row of a code; IN1 of a segmented operation is optional, and SUMMARY has no output stream. -/
def opInfo (op : Nat) : Option OpInfo :=
  if op = 0x00 then some ⟨false, false, false, false, 0, 0, 0⟩
  else if op ≤ 0x03 then some ⟨true, true, false, true, 1, 1, 0⟩
  else if op = 0x04 then some ⟨true, true, true, true, 0, 1, 0⟩
  else if op = 0x05 then some ⟨true, true, false, true, 1, 4, 0⟩
  else if op ≤ 0x07 then some ⟨true, true, false, true, 1, 1, 0⟩
  else if op ≤ 0x09 then some ⟨true, false, false, true, 0, 1, 0⟩
  else if op = 0x0B then some ⟨true, false, false, true, 0, 2, 0⟩
  else if op ≤ 0x0F then some ⟨true, false, false, true, 0, 4, 0⟩
  else if op = 0x10 then some ⟨true, true, true, true, 0, 1, 0⟩
  else if op = 0x11 then some ⟨true, true, false, true, 0, 1, 0⟩
  else if 0x20 ≤ op ∧ op ≤ 0x29 then some ⟨true, true, false, true, if op = 0x27 then 3 else 1, 1, 0⟩
  else if op = 0x30 then some ⟨true, false, false, true, 0, 1, 0⟩
  else if op = 0x31 then some ⟨true, false, true, true, 6, 2, 0⟩
  else if op = 0x32 then some ⟨true, true, false, true, 6, 1, 0⟩
  else if op = 0x33 then some ⟨true, false, false, true, 2, 2, 0⟩
  else if op = 0x40 then some ⟨true, true, true, true, 0, 1, 0⟩
  else if op = 0x41 then some ⟨true, true, true, true, 0, 1, 0⟩
  else if op = 0x42 then some ⟨true, true, false, true, 0, 1, 0⟩
  else if op = 0x43 then some ⟨false, false, false, true, 0, 1, 0⟩
  else if 0x50 ≤ op ∧ op ≤ 0x55 then
    some ⟨true, false, false, true, 0, if op = 0x55 then 6 else 1, if op = 0x55 then 4 else 2⟩
  else if op = 0x60 then some ⟨false, false, false, true, 2, 1, 0⟩
  else if op = 0x61 then some ⟨true, true, true, true, 0, 1, 0⟩
  else if op = 0x70 then some ⟨true, false, false, false, 6, 1, 0⟩
  else none

/-- Whether an operation is a floating-point one that takes plain formats and writes FP32, BF16 or FP16. -/
def floatOp (op : Nat) : Bool := (0x01 ≤ op && op ≤ 0x0F) || op = 0x33 || (0x50 ≤ op && op ≤ 0x55) || op = 0x61

/-- Whether an operation is an integer one. -/
def intOp (op : Nat) : Bool := 0x20 ≤ op && op ≤ 0x29

/-- Whether the second operand comes from IMM (R199). -/
def VInstr.scalar (i : VInstr) : Bool :=
  (match opInfo i.op with
   | some o => o.use1 && bit o.mods 0
   | none => false) && bit i.mod 0

/-- Whether IN1 names a stream of this instruction. -/
def VInstr.has1 (i : VInstr) : Bool :=
  (match opInfo i.op with
   | some o => o.use1
   | none => false) && !i.scalar || (0x50 ≤ i.op && i.op ≤ 0x55 && i.in1 ≠ 0xFF)

/-- A format of floating-point operands: 0x01 to 0x0B. -/
def VStream.floatIn (v : VStream) : Bool := !v.raw && decide (1 ≤ v.code ∧ v.code ≤ 0x0B)

/-- A format a floating-point result is written in. -/
def VStream.floatOut (v : VStream) : Bool := !v.raw && decide (1 ≤ v.code ∧ v.code ≤ 3)

/-- A word type of the integer operations: U8, U16, U32, I32. -/
def VStream.intType (v : VStream) : Bool := v.raw && decide (v.code ≤ 3)

/-- Whether a stream has a given word type. -/
def VStream.isWord (v : VStream) (code : Nat) : Bool := v.raw && decide (v.code = code)

/-- The word type of a scale record of a kind: its size in bytes. -/
def recordWord (kind : Nat) : Nat := if kind = 1 then 0 else if kind = 2 then 1 else 4

/-- Whether two streams have the same type. -/
def VStream.sameType (a b : VStream) : Bool := a.raw = b.raw && a.code = b.code

/-- A stream of a program, by index; a missing one is a stream of no type. -/
def streamAt (l : List VStream) (i : Nat) : VStream := (l[i]?).getD ⟨0, 0, 1, 31, true, false, true⟩

/-- Whether an operation accepts the types of its streams. -/
def typesOk (l : List VStream) (i : VInstr) : Bool :=
  let a := streamAt l i.in0
  let b := streamAt l i.in1
  let c := streamAt l i.in2
  let o := streamAt l i.out
  let kind := bits i.mod 2 1
  if i.op = 0 then true
  else if i.op = 0x10 then a.sameType b && a.sameType o && c.isWord 0
  else if i.op = 0x11 then a.floatIn && b.floatIn && o.isWord 0
  else if floatOp i.op then
    a.floatIn && o.floatOut &&
    (if 0x50 ≤ i.op && i.op ≤ 0x55 then !i.has1 || b.isWord 2 || b.isWord 4
     else (!i.has1 || b.floatIn) && (decide (i.op ≠ 0x04 ∧ i.op ≠ 0x61) || c.floatIn))
  else if intOp i.op then a.intType && (!i.has1 || b.intType) && o.intType
  else if i.op = 0x30 then a.typed && o.typed
  else if i.op = 0x31 then
    a.floatOut && !o.raw && decide (4 ≤ o.code ∧ o.code ≤ 0x0D) && scaleAllowed o.code kind &&
    (!unsignedFmt o.code || decide (2 ≤ kind)) && c.isWord (recordWord kind)
  else if i.op = 0x32 then
    !a.raw && decide (4 ≤ a.code ∧ a.code ≤ 0x0D) && scaleAllowed a.code kind && b.isWord (recordWord kind) && o.floatOut
  else if i.op = 0x40 then a.sameType o && b.isWord 0 && c.isWord 2
  else if i.op = 0x41 then a.sameType o && a.sameType c && b.isWord 0
  else if i.op = 0x42 then a.sameType o && b.isWord 2
  else if i.op = 0x43 then o.intType
  else if i.op = 0x60 then (if bit i.mod 1 then o.isWord 2 else !o.raw && decide (o.code = 1))
  else i.op = 0x70 && a.typed

/-- Whether MOD and IMM of an operation are in range. -/
def immOk (i : VInstr) : Bool :=
  if i.op = 0x11 then decide (i.imm ≤ 5)
  else if i.op = 0x30 then true
  else if i.op = 0x31 then decide (bits i.mod 2 1 ≠ 0) && decide (bits i.imm 14 12 = 0) && decide (bits i.imm 11 10 ≠ 3)
  else if i.op = 0x32 then decide (bits i.mod 2 1 ≠ 0)
  else if i.op = 0x33 then decide (1 ≤ i.imm ∧ i.imm ≤ 4)
  else if 0x50 ≤ i.op ∧ i.op ≤ 0x55 then decide (i.imm ≠ 0)
  else decide (i.op ≠ 0x70) || decide (bits i.mod 2 1 ≠ 3)

/-- The rules on the lengths of an instruction's streams, for the lengths known: none where one is not known yet, and the detail
of a static one that does not hold (Operations, R202 to R205). -/
def lengthRules (l : List VStream) (i : VInstr) (len : Nat → Option Nat) : List (Option Bool × Nat) :=
  let known (k : Nat) : Option Nat := len k
  let n := known i.out
  let holds (k : Nat) (need : Option Nat) : Option Bool := need.bind (fun least => (known k).map (fun have_ => decide (least ≤ have_)))
  let covers (k : Nat) (need : Option Nat) : Option Bool × Nat :=
    (if (streamAt l k).stride = 0 then some true else holds k need, 0x72)
  let atLeast (k : Nat) (need : Option Nat) : Option Bool × Nat := (holds k need, 0x72)
  match opInfo i.op with
  | none => []
  | some o =>
    if i.op = 0x31 then [covers i.in0 n, atLeast i.in2 (n.map (fun x => ceilDiv x 32))]
    else if i.op = 0x32 then [covers i.in0 n, covers i.in1 (n.map (fun x => ceilDiv x 32))]
    else if i.op = 0x33 then
      covers i.in0 n :: (if 1 ≤ i.imm ∧ i.imm ≤ 4 then [(n.map (fun x => decide (x % rotSize i.imm = 0)), 0x43)] else [])
    else if i.op = 0x70 then []
    else if i.op = 0x40 then
      [covers i.in0 (known i.in1), atLeast i.out (known i.in1), atLeast i.in2 (some 1)]
    else if i.op = 0x41 then [covers i.in1 n, covers i.in2 n]
    else if i.op = 0x42 then [covers i.in1 n]
    else if 0x50 ≤ i.op ∧ i.op ≤ 0x55 then
      if i.has1 then
        (if i.op ≤ 0x53 then [atLeast i.out ((known i.in1).map (fun x => (x - 1) * i.imm))] else [])
      else [atLeast i.out (if i.op ≤ 0x53 then some i.imm else (known i.in0).map (fun x => x / i.imm * i.imm))]
    else
      (if o.use0 then [covers i.in0 n] else []) ++ (if i.has1 then [covers i.in1 n] else []) ++
      (if o.use2 then [covers i.in2 n] else [])

/-- The length of a stream before the program runs: that of a stream that is not dynamic. -/
def staticLen (l : List VStream) (k : Nat) : Option Nat :=
  let v := streamAt l k
  if v.dyn then none else some v.len

/-- The checks of one instruction (Operations, R199, R202, R207). SUMMARY fails in every VECTOR_RUN; the other faults of such an instruction
count beside it (R428). -/
def instrChecks (s : State) (p : List Byte) (l : List VStream) (i : VInstr) : List (Bool × Nat) :=
  match opInfo i.op with
  | none => [(i.spare, 0x01), (false, 0x70)]
  | some o =>
    let named := [i.in0, i.in1, i.in2, i.out]
    let needs : List (Bool × Nat) := [(o.use0, i.in0), (i.has1, i.in1), (o.use2, i.in2), (o.out, i.out)]
    let there := needs.all (fun q => !q.1 || decide (q.2 < l.length))
    [(i.spare, 0x01), (decide (i.op ≠ 0x70), 0x73), (decide (i.mod &&& o.mods = i.mod) && immOk i, 0x70),
     (named.all (fun k => decide (k = 0xFF) || decide (k < l.length)) && there && (!i.scalar || decide (i.in1 = 0xFF)) &&
       (!there || typesOk l i), 0x71)] ++
    (if there then (lengthRules l i (staticLen l)).map (fun r => (decide (r.1 ≠ some false), r.2)) else []) ++
    (if i.op = 0x30 && there && (fsFmt (streamAt l i.in0).code && !(streamAt l i.in0).raw ||
        fsFmt (streamAt l i.out).code && !(streamAt l i.out).raw) then
      [(decide (-256 ≤ signed 16 i.imm ∧ signed 16 i.imm ≤ 127), 0x70)] else []) ++
    (if i.op = 0x31 && bit i.imm 15 then
      [(decide (bits i.imm 11 10 = 0) && pktTideValid p && pwLoaded s (i.imm % 1024), 0x46)] else [])

/-- The checks of a program (R193). -/
def programChecks (s : State) (p : List Byte) (l : List VStream) (prog : List VInstr) : List (Bool × Nat) :=
  [((prog.getLast?.map (fun i => decide (i.op = 0))).getD false && prog.dropLast.all (fun i => decide (i.op ≠ 0)), 0x70)] ++
  l.flatMap VStream.checks ++ prog.flatMap (instrChecks s p l)

/-! ## Elements -/

/-- Element `i` of a stream; none where a byte of it is poisoned. -/
def Cmd.readElem (base : Nat) (v : VStream) (i : Nat) : Cmd (Option Nat) := do
  let p := (v.bitOf i).toNat
  let bytes ← Cmd.readP (base + p / 8) ((p % 8 + v.width + 7) / 8)
  return (plainBytes bytes).map (fun b => leNat b / 2 ^ (p % 8) % 2 ^ v.width)

/-- The first `n` elements of a stream; one of STRIDE 0 broadcasts element 0. -/
def Cmd.readStream (base : Nat) (v : VStream) (n : Nat) : Cmd (List (Option Nat)) := do
  if n = 0 then return []
  else if v.stride = 0 then return List.replicate n (← Cmd.readElem base v 0)
  else (seqFrom 0 n).mapM (Cmd.readElem base v)

/-- Elements read as addresses, indices or predicates: a poisoned one ends the command with POISON (log entry 17). -/
def Cmd.readPlain (base : Nat) (v : VStream) (n : Nat) : Cmd (List Nat) := do
  (← Cmd.readStream base v n).mapM (fun x => match x with
    | some k => (pure k : Cmd Nat)
    | none => Cmd.failPoison)

/-- The code a poisoned element of a stream is written as (R371). -/
def VStream.poison (v : VStream) : Nat := if v.raw then 0 else poisonCode v.code

/-- Elements written to a stream, ascending; poisoned ones under R371. -/
def Cmd.writeStream (base : Nat) (v : VStream) (xs : List (Option Nat)) : Cmd Unit := do
  if v.width < 8 then
    let ys := if v.stride = 0 then xs.drop (xs.length - 1) else xs
    modify (fun env => { env with poisoned := env.poisoned + (ys.filter (fun x => x.isNone)).length })
    if ← Cmd.marks then Cmd.write (base + v.addr) (packRow v.width (ys.map (fun x => x.getD 0)))
    else Cmd.writeP (base + v.addr) (packP v.width ys)
  else
    xs.zipIdx.forM (fun x =>
      Cmd.writeCell (base + (v.bitOf x.2).toNat / 8) (v.width / 8) v.poison (x.1.map (toLE (v.width / 8))))

/-- Declares the bytes of a stream as output. -/
def Cmd.declareStream (base : Nat) (v : VStream) (n : Nat) : Cmd Unit :=
  (v.pieces n).forM (fun p => Cmd.declare (base + p.1) p.2)

/-! ## What an instruction computes -/

/-- What the instructions of a command count: SAT and ESC_OVF events, non-finite outputs, NOTES bits. -/
structure VecCount where
  sat : Nat
  nonfinite : Nat
  notes : Nat
  deriving DecidableEq, Repr

/-- Counts added. -/
def VecCount.add (a b : VecCount) : VecCount := ⟨a.sat + b.sat, a.nonfinite + b.nonfinite, a.notes ||| b.notes⟩

/-- No counts. -/
def VecCount.none : VecCount := ⟨0, 0, 0⟩

/-- The output elements of an instruction, those of a W2 stream, and the counts. -/
structure VecOut where
  out : List (Option Nat)
  w2 : List (Option Nat)
  count : VecCount
  deriving DecidableEq, Repr

/-- An element of a floating-point stream as a value. -/
def elemVal (v : VStream) (x : Option Nat) : Val :=
  match x with
  | some c => decodeElem v.code 0 0 c
  | none => .lost

/-- A binary32 result in the output's format: round to nearest even, its code (Operations). -/
def floatCode (o : VStream) (v : Val) : Option Nat :=
  match v with
  | .lost => none
  | v => some ((floatOf o.code).map (fun f => f.encode (f.rne v)) |>.getD 0)

/-- Whether a code of a stream is a non-finite value or poison. -/
def badCode (o : VStream) (x : Option Nat) : Bool :=
  match x with
  | none => false
  | some c => !o.raw && !(decodeElem o.code 0 0 c).finite

/-- Outputs with their non-finite elements counted. -/
def outOf (o : VStream) (xs : List (Option Nat)) : VecOut :=
  let n := (xs.filter (badCode o)).length
  ⟨xs, [], ⟨0, n, if n = 0 then 0 else 2 ^ 18⟩⟩

/-- Floating-point results as outputs. -/
def floatsOut (o : VStream) (vs : List Val) : VecOut := outOf o (vs.map (floatCode o))

/-- MAX: NaN if either is NaN; −0 is less than +0. -/
def vmax (a b : Val) : Val :=
  match a, b with
  | .lost, _ => .lost
  | _, .lost => .lost
  | .nan, _ => .nan
  | _, .nan => .nan
  | .zero true, .zero _ => b
  | a, b => if Val.lt a b then b else a

/-- MIN. -/
def vmin (a b : Val) : Val := (vmax a.negate b.negate).negate

/-- A unary floating-point operation of a code. -/
def unaryOp (op : Nat) (a : Val) : Val :=
  if op = 0x08 then a.abs else if op = 0x09 then a.negate else if op = 0x0A then fsqrt a
  else if op = 0x0B then vecRsqrt a else if op = 0x0C then vecExp a else if op = 0x0D then vecLog a
  else if op = 0x0E then vecTanh a else vecErf a

/-- A binary floating-point operation of a code. -/
def binaryOp (op : Nat) (a b : Val) : Val :=
  if op = 0x01 then fadd a b else if op = 0x02 then fsub a b else if op = 0x03 then fmul a b
  else if op = 0x05 then fdiv a b else if op = 0x06 then vmin a b else vmax a b

/-- A comparison of CMP; with NaN only NE is true. -/
def compareOp (k : Nat) (a b : Val) : Bool :=
  if k = 0 then Val.eqv a b else if k = 1 then !Val.eqv a b else if k = 2 then Val.lt a b
  else if k = 3 then Val.lt a b || Val.eqv a b else if k = 4 then Val.lt b a else Val.lt b a || Val.eqv a b

/-- An integer operation of a code on 32-bit words (Operations). -/
def integerOp (op : Nat) (arith isSigned : Bool) (a b : Nat) : Nat :=
  let m := 2 ^ 32
  let less := if isSigned then decide (signed 32 a < signed 32 b) else decide (a < b)
  if op = 0x20 then (a + b) % m else if op = 0x21 then (a + m - b) % m else if op = 0x22 then a * b % m
  else if op = 0x23 then a &&& b else if op = 0x24 then a ||| b else if op = 0x25 then a ^^^ b
  else if op = 0x26 then a * 2 ^ (b % 32) % m
  else if op = 0x27 then (if arith then unsigned 32 (signed 32 a / 2 ^ (b % 32)) else a / 2 ^ (b % 32))
  else if op = 0x28 then (if less then a else b) else (if less then b else a)

/-- The format word of a plain stream for CVT, with shared exponent `e`. -/
def plainWord (v : VStream) (e : Int) : FmtWord := ⟨v.code, 0, 0, 0, e, 0, 0, 0, false, false, 0⟩

/-- The range of a word type. -/
def wordRange (code : Nat) : Int × Int :=
  if code = 0 then (0, 255) else if code = 1 then (0, 65535) else if code = 2 then (0, 2 ^ 32 - 1)
  else if code = 3 then (-2 ^ 31, 2 ^ 31 - 1) else (0, 2 ^ 64 - 1)

/-- The integer a word of a word type holds. -/
def wordInt (code x : Nat) : Int := if code = 3 then signed 32 x else (x : Int)

/-- The events of a value converted to a word type. -/
def wordEvents (sat under : Bool) : Events := { Events.none with sat := b2n sat, under := b2n under }

/-- A value converted to a word type: nearest even, saturated; none for a NaN, whose result is not stated. -/
def toWord (o : VStream) (v : Val) : Option (Nat × Events) :=
  let (lo, hi) := wordRange o.code
  match v with
  | .inf n => some (unsigned o.width (if n then lo else hi), wordEvents true false)
  | .fin m e =>
    let q := (Val.fin m e).rneInt 0
    some (unsigned o.width (clampInt q lo hi), wordEvents (decide (q < lo ∨ hi < q)) (decide (q = 0)))
  | .zero _ => some (0, Events.none)
  | _ => none

/-- CVT of one element (R201): its code, none where it is poisoned, and the events; T2 code 2 counts. -/
def Cmd.cvt (a o : VStream) (e : Int) (x : Option Nat) : Cmd (Option Nat × Events) := do
  match x with
  | none => return (none, Events.none)
  | some c =>
    let t2 := if !a.raw && a.code = 0x0D && c = 2 then { Events.none with t2 := 1 } else Events.none
    if a.raw && o.raw then return (some (unsigned o.width (wordInt a.code c)), Events.none)
    else if o.raw then
      match toWord o (decodeElem a.code 0 e c) with
      | some r => return (some r.1, t2.add r.2)
      | none => return (some (Config.nanWord a.code c % 2 ^ o.width), t2)
    else
      let v := if a.raw then Val.ofInt (wordInt a.code c) else decodeElem a.code 0 e c
      let r :=
        if a.raw then
          (match floatOf o.code with
           | some f => { bytes := toLE 8 (f.encode (f.rneSat v)), records := [],
                         events := wordEvents (match f.round v with | .fin m x => f.beyond (.fin m x) | _ => false) false,
                         poisoned := 0 }
           | none => quantiseRow (plainWord o e) false [v])
        else convertRow (plainWord a e) (plainWord o e) false false [v]
      return (some (leNat r.bytes % 2 ^ o.width), t2.add r.events)

/-- The NOTES bits and counts of converted elements, the non-finite ones by their output. -/
def countEvents (ev : Events) : VecCount :=
  ⟨ev.sat + ev.escOvf, 0, (if ev.sat + ev.escOvf = 0 then 0 else 2 ^ 16) ||| (if ev.under = 0 then 0 else 2 ^ 17) |||
    (if ev.t2 = 0 then 0 else 2 ^ 19)⟩

/-! ## Segments (R205) -/

/-- seg_sum of R205. -/
def segSum (split : Nat) (x : List Val) : Val :=
  let parts := (chunks (max 1 split) (x.length + 1) x).map (fun p => p.foldl fadd (.zero false))
  match parts with
  | [] => .zero false
  | p :: ps => ps.foldl fadd p

/-- seg_softmax of R205. -/
def segSoftmax (split : Nat) (x : List Val) : List Val :=
  if x.any (fun v => decide (v = Val.lost)) then x.map (fun _ => .lost)
  else if x.any (fun v => decide (v = Val.nan ∨ v = Val.inf false)) then x.map (fun _ => .nan)
  else
    let m := x.foldl vmax (.inf true)
    if m = .inf true then x.map (fun _ => .zero false)
    else
      let e := x.map (fun v => vecExp (fsub v m))
      let s := segSum split e
      e.map (fun v => fdiv v s)

/-- The inclusive prefix sums in binary32. -/
def segScan : Val → List Val → List Val
  | _, [] => []
  | acc, v :: vs => fadd acc v :: segScan (fadd acc v) vs

/-- One column of one segment under a segmented operation: its outputs (one, or one for each input). -/
def segColumn (op split : Nat) (x : List Val) : List Val :=
  if op = 0x50 then [segSum split x]
  else if op = 0x51 then [if x.isEmpty then .zero false else fdiv (segSum split x) (fp32.rne (Val.ofInt x.length))]
  else if op = 0x52 then [match x with | [] => .inf true | v :: vs => vs.foldl vmax v]
  else if op = 0x53 then [match x with | [] => .inf false | v :: vs => vs.foldl vmin v]
  else if op = 0x54 then segScan (.zero false) x
  else segSoftmax split x

/-- A segment of rows of `d` elements: the outputs in row order. -/
def segRows (op split d : Nat) (rows : List (List Val)) : List Val :=
  let cols := (seqFrom 0 d).map (fun c => segColumn op split (rows.map (fun r => (r[c]?).getD (.zero false))))
  (seqFrom 0 (if op ≤ 0x53 then 1 else rows.length)).flatMap (fun r => cols.map (fun col => (col[r]?).getD (.zero false)))

/-- Whether some column of a segment is all −Inf: NOTES[21]. -/
def allMasked (d : Nat) (rows : List (List Val)) : Bool :=
  !rows.isEmpty && (seqFrom 0 d).any (fun c => rows.all (fun r => decide ((r[c]?).getD .nan = Val.inf true)))

/-! ## One instruction -/

/-- What a command's instructions need beside the streams: the draws' key, STEP, STREAM and the position of element 0 of the
tile (R206), HUB_SPLIT, ESCAPE_ENABLE, the tide. -/
structure VecCtx where
  base : Nat
  k0 : Nat
  k1 : Nat
  step : Nat
  stream : Nat
  pos : Nat
  split : Nat
  escEn : Bool
  tide : Nat

/-- The draw of element `i` (R206). -/
def VecCtx.draw (x : VecCtx) (purpose imm i : Nat) : GenState :=
  let pos := (x.pos + i) % 2 ^ 64
  tideGen x.k0 x.k1 x.step pos (pos / 2 ^ 32) (purpose * 2 ^ 24 + x.stream * 2 ^ 16 + imm)

/-- The second operands of a binary floating-point operation. -/
def Cmd.operandB (x : VecCtx) (l : List VStream) (i : VInstr) (n : Nat) : Cmd (List Val) := do
  if i.scalar then return List.replicate n (bf16.decode i.imm)
  else return (← Cmd.readStream x.base (streamAt l i.in1) n).map (elemVal (streamAt l i.in1))

/-- The 32-bit word of an element of an integer stream. -/
def intElem (v : VStream) (x : Option Nat) : Option Nat := x.map (fun c => unsigned 32 (wordInt v.code c))

/-- QUANT (R202). -/
def quantOut (x : VecCtx) (o : VStream) (kind : Nat) (vs : List Val) : VecOut × Events :=
  let q := (chunks 32 (vs.length / 32 + 1) vs).map (quantiseBlock o.code kind x.escEn 0)
  let ev := q.foldl (fun a b => a.add b.events) Events.none
  (⟨q.flatMap (fun b => if b.poisoned = 0 then b.codes.map some else b.codes.map (fun _ => none)),
    q.map (fun b => if b.poisoned = 0 then some (scaleBits kind b.record) else none),
    (countEvents ev).add ⟨0, ev.nonfinite, if ev.nonfinite = 0 then 0 else 2 ^ 18⟩⟩, ev)

/-- DEQUANT (R203): the values, and the reserved T2 codes read. -/
def Cmd.dequant (a : VStream) (kind : Nat) (codes recs : List (Option Nat)) : Cmd (List Val × Nat) := do
  let parts := (chunks 32 (codes.length / 32 + 1) codes).zip recs
  let vals ← parts.mapM (fun p => do
    match p.2 with
    | none => return p.1.map (fun _ => Val.lost)
    | some rb =>
      let r := parseScale kind 0 rb
      match scaleFault a.code p.1.length r with
      | some d => Cmd.fail 0x13 d
      | none => return p.1.zipIdx.map (fun c => match c.1 with
        | some v => fp32.rne (blockValue a.code 0 r c.2 v)
        | none => .lost))
  return (vals.flatten, if a.code = 0x0D then (codes.filter (fun c => c = some 2)).length else 0)

/-- The segments of an instruction: the row ranges, or METADATA_FAULT 0x72 (R205). -/
def Cmd.segments (x : VecCtx) (l : List VStream) (i : VInstr) (len : Nat → Nat) : Cmd (List (Nat × Nat)) := do
  let rows := len i.in0 / i.imm
  if i.has1 then
    let o ← Cmd.readPlain x.base (streamAt l i.in1) (len i.in1)
    let o0 := o.headD 0
    if (o.zip o.tail).any (fun p => decide (p.2 < p.1)) || decide (rows < o.getLastD 0 - o0) then Cmd.fail 0x13 0x72
    else return (o.zip o.tail).map (fun p => (p.1 - o0, p.2 - o0))
  else return [(0, rows)]

/-- A segmented operation. -/
def Cmd.segOp (x : VecCtx) (l : List VStream) (i : VInstr) (len : Nat → Nat) : Cmd VecOut := do
  let segs ← Cmd.segments x l i len
  let a := streamAt l i.in0
  let o := streamAt l i.out
  let rows := (segs.getLastD (0, 0)).2
  if 0x54 ≤ i.op ∧ len i.out < rows * i.imm then Cmd.fail 0x13 0x71
  else
    let vals := (← Cmd.readStream x.base a (rows * i.imm)).map (elemVal a)
    let table := chunks i.imm (rows + 1) vals
    let parts := segs.map (fun g => (table.drop g.1).take (g.2 - g.1))
    let r := floatsOut o (parts.flatMap (segRows i.op x.split i.imm))
    let empty := segs.any (fun g => g.1 = g.2)
    let masked := i.op = 0x55 && parts.any (allMasked i.imm)
    return { r with count := { r.count with notes := r.count.notes ||| (if empty then 2 ^ 20 else 0) |||
      (if masked then 2 ^ 21 else 0) } }

/-- COMPRESS: the elements whose predicate is true. -/
def compressList (a : List (Option Nat)) (p : List Nat) : List (Option Nat) :=
  ((a.zip p).filter (fun q => q.2 ≠ 0)).map (fun q => q.1)

/-- EXPAND: packed elements where the predicate is true, the fill elsewhere. -/
def expandList : List (Option Nat) → List Nat → List (Option Nat) → List (Option Nat)
  | _, [], _ => []
  | a, p :: ps, f => if p ≠ 0 then a.headD none :: expandList a.tail ps f.tail else f.headD none :: expandList a ps f.tail

/-- What an instruction writes, given the lengths of its streams. -/
def Cmd.vecCompute (x : VecCtx) (l : List VStream) (i : VInstr) (len : Nat → Nat) : Cmd VecOut := do
  let a := streamAt l i.in0
  let b := streamAt l i.in1
  let c := streamAt l i.in2
  let o := streamAt l i.out
  let n := len i.out
  if 0x50 ≤ i.op ∧ i.op ≤ 0x55 then Cmd.segOp x l i len
  else if i.op = 0x43 then
    return outOf o ((seqFrom 0 n).map (fun k => some (unsigned o.width (signed 16 i.imm + (k : Int)))))
  else if i.op = 0x60 then
    return outOf o ((seqFrom 0 n).map (fun k =>
      let g := x.draw 0x04 i.imm k
      some (if bit i.mod 1 then g.c0 else toF32 (drawFraction g))))
  else if i.op = 0x40 then
    let m := len i.in1
    let va ← Cmd.readStream x.base a m
    let p ← Cmd.readPlain x.base b m
    let r := outOf o (compressList va p)
    return { r with w2 := [some (compressList va p).length] }
  else
    let va ← Cmd.readStream x.base a (if i.op = 0x41 ∨ i.op = 0x42 then len i.in0 else n)
    let fa := va.map (elemVal a)
    if i.op = 0x41 then
      let p ← Cmd.readPlain x.base b n
      let f ← Cmd.readStream x.base c n
      if len i.in0 < (p.filter (fun q => q ≠ 0)).length then Cmd.fail 0x13 0x71
      else return outOf o (expandList va p f)
    else if i.op = 0x42 then
      let ix ← Cmd.readPlain x.base b n
      if ix.any (fun k => decide (len i.in0 ≤ k)) then Cmd.fail 0x13 0x73
      else return outOf o (ix.map (fun k => (va[k]?).getD none))
    else if i.op = 0x10 then
      let vb ← Cmd.readStream x.base b n
      let p ← Cmd.readStream x.base c n
      return outOf o ((p.zip (va.zip vb)).map (fun q => match q.1 with
        | none => none
        | some k => if k ≠ 0 then q.2.1 else q.2.2))
    else if intOp i.op then
      let vb ← if i.scalar then pure (List.replicate n (some (unsigned 32 (signed 16 i.imm))))
        else (do return (← Cmd.readStream x.base b n).map (intElem b))
      let sgn := a.isWord 3 || (i.has1 && b.isWord 3)
      return outOf o (((va.map (intElem a)).zip vb).map (fun q =>
        q.1.bind (fun u => q.2.map (fun w => integerOp i.op (bit i.mod 1) sgn u w % 2 ^ o.width))))
    else if i.op = 0x30 then
      let r ← va.mapM (Cmd.cvt a o (signed 16 i.imm))
      let u := outOf o (r.map (fun q => q.1))
      return { u with count := u.count.add (countEvents (r.foldl (fun e q => e.add q.2) Events.none)) }
    else if i.op = 0x31 then
      let (u, ev) := quantOut x o (bits i.mod 2 1) fa
      if bit i.imm 15 then Cmd.update (fun s => countPw s (i.imm % 1024) x.tide ev)
      return u
    else if i.op = 0x32 then
      let recs ← Cmd.readStream x.base b (ceilDiv n 32)
      let (vs, t2) ← Cmd.dequant a (bits i.mod 2 1) va recs
      let u := floatsOut o vs
      return { u with count := { u.count with notes := u.count.notes ||| (if t2 = 0 then 0 else 2 ^ 19) } }
    else if i.op = 0x33 then return floatsOut o (rotateRow i.imm (bit i.mod 1) fa)
    else if i.op = 0x11 then
      let vb ← Cmd.operandB x l i n
      return outOf o ((fa.zip vb).map (fun q =>
        if q.1 = .lost ∨ q.2 = .lost then none else some (b2n (compareOp i.imm q.1 q.2))))
    else if i.op = 0x04 then
      let vb ← Cmd.operandB x l i n
      let vc := (← Cmd.readStream x.base c n).map (elemVal c)
      return floatsOut o ((fa.zip (vb.zip vc)).map (fun q => fp32.rne ((q.1.mul q.2.1).add q.2.2)))
    else if i.op = 0x61 then
      let vb ← Cmd.operandB x l i n
      let vc := (← Cmd.readStream x.base c n).map (elemVal c)
      return floatsOut o ((fa.zip (vb.zip vc)).zipIdx.map (fun q =>
        if q.1.2.1 = .lost then .lost
        else
          let u := drawFraction (x.draw 0x03 i.imm q.2)
          if Val.lt q.1.2.1 u || Val.eqv q.1.2.1 u then fmul q.1.1 q.1.2.2 else .zero false))
    else if 0x08 ≤ i.op ∧ i.op ≤ 0x0F then return floatsOut o (fa.map (unaryOp i.op))
    else
      let vb ← Cmd.operandB x l i n
      return floatsOut o ((fa.zip vb).map (fun q => binaryOp i.op q.1 q.2))

/-- The length of a stream when the instruction starts (R195). -/
def Cmd.lengthOf (base : Nat) (v : VStream) : Cmd Nat := do
  if v.dyn then
    let n ← Cmd.readNat (base + v.len) 4
    if 2 ^ 20 < n ∨ !v.inPad n then Cmd.fail 0x13 0x70 else return n
  else return v.len

/-- Whether an output's bytes overlap an input's, other than in place (R198). -/
def clashes (o : VStream) (n : Nat) (v : VStream) (m : Nat) : Bool :=
  !(o.addr = v.addr && o.stride = v.stride && o.sameType v) &&
  (o.pieces n).any (fun p => (v.pieces m).any (fun q => rangesOverlap p.1 p.2 q.1 q.2))

/-- The elements an instruction's steps are counted for, and the rate of a stream (R208). -/
def VStream.group (v : VStream) : Nat := if v.width ≤ 8 then 256 else if v.width = 16 then 128 else if v.width = 32 then 64 else 32

/-- The steps of an instruction (R208). -/
def vecSteps (i : VInstr) (named : List VStream) (n segs : Nat) : Nat :=
  match opInfo i.op with
  | none => 0
  | some o =>
    let g := (named.map VStream.group).foldl min 256
    let r := if i.op = 0x42 || named.any (fun v => decide (1 < v.stride.natAbs)) then min g 16 else g
    8 + ceilDiv n r * o.cost + segs * o.seg

/-- Whether IN2 is written, not read: W2. -/
def VInstr.w2 (i : VInstr) : Bool := i.op = 0x31 || i.op = 0x40

/-- The streams an instruction reads. -/
def VInstr.reads (i : VInstr) : List Nat :=
  let info := (opInfo i.op).getD ⟨false, false, false, false, 0, 0, 0⟩
  (if info.use0 then [i.in0] else []) ++ (if i.has1 then [i.in1] else []) ++ (if info.use2 && !i.w2 then [i.in2] else [])

/-- The streams an instruction writes. -/
def VInstr.writes (i : VInstr) : List Nat :=
  if i.op = 0 ∨ i.op = 0x70 then [] else i.out :: (if i.w2 then [i.in2] else [])

/-- The most bytes that a stream may reach, as one extent of the scratchpad: those of a dynamic stream go on to the end of the scratchpad
that its stride leads to. -/
def VStream.reach (v : VStream) : Nat × Nat :=
  if v.stride = 0 then (v.addr, ceilDiv v.width 8)
  else if v.stride < 0 then (0, v.addr + ceilDiv v.width 8)
  else (v.addr, 2 ^ 19 - v.addr)

/-- The outputs of an instruction that has not run declared: those of a dynamic stream as far as it may reach (R197, log entry 90). -/
def Cmd.declareUnrun (base : Nat) (l : List VStream) (i : VInstr) : Cmd Unit :=
  i.writes.forM (fun k =>
    let v := streamAt l k
    if v.dyn then Cmd.declare (base + v.reach.1) v.reach.2 else Cmd.declareStream base v v.len)

/-- SUMMARY: one word into the bay controller's queue of 64, by MOD[2:1]; with the queue full the engine waits (R207). No VECTOR_RUN comes
here; the bay controller's programs are its own (log entry 128). -/
def Cmd.summarise (x : VecCtx) (bay : Nat) (l : List VStream) (i : VInstr) : Cmd Unit := do
  let a := streamAt l i.in0
  let xs := (← Cmd.readStream x.base a (← Cmd.lengthOf x.base a)).map (fun c => (c.getD 0) % 2 ^ 32)
  let word := match bits i.mod 2 1 with
    | 0 => xs.headD 0
    | 1 => (xs.filter (fun c => c ≠ 0)).length
    | _ => xs.foldl (fun u c => u ||| c) 0
  let q := ((← Cmd.state).summary[bay]?).getD []
  if 64 ≤ q.length then throw (.wait .queueRoom)
  else Cmd.update (fun s => { s with summary := s.summary.set bay (q ++ [BitVec.ofNat 32 word]) })

/-- One instruction of a program on one tile: lengths, result, writes, overlap, steps. A dynamic length of 0 reads and writes nothing but
the count of COMPRESS (R195). -/
def Cmd.vecInstr (x : VecCtx) (bay : Nat) (l : List VStream) (i : VInstr) : Cmd VecCount := do
  if i.op = 0 ∨ i.op = 0x70 then
    if i.op = 0x70 then Cmd.summarise x bay l i
    Cmd.update (fun s => s.countWrap (Reg.VEC_BAY_CTR_INSTRS bay) 1)
    return VecCount.none
  else
    let w2 := i.w2
    let reads := i.reads
    let writes := i.writes
    let lens ← (reads ++ writes).mapM (fun k => do
      let n ← Cmd.lengthOf x.base (streamAt l k)
      return (k, n))
    let len (k : Nat) : Nat := ((lens.find? (fun p => p.1 = k)).map (fun p => p.2)).getD 0
    writes.forM (fun k => Cmd.declareStream x.base (streamAt l k) (len k))
    if (lengthRules l i (fun k => some (len k))).any (fun r => decide (r.1 = some false)) then Cmd.fail 0x13 0x71
    else
      let idle := (reads ++ writes).any (fun k => (streamAt l k).dyn && decide (len k = 0))
      let r ← if idle then pure (⟨[], if i.op = 0x40 then [some 0] else [], VecCount.none⟩ : VecOut) else Cmd.vecCompute x l i len
      let o := streamAt l i.out
      Cmd.writeStream x.base o r.out
      if w2 then Cmd.writeStream x.base (streamAt l i.in2) r.w2
      let outs : List (VStream × Nat) :=
        (o, r.out.length) :: (if w2 then [(streamAt l i.in2, r.w2.length)] else [])
      outs.zipIdx.forM (fun w => do
        let ins := reads.map (fun k => (streamAt l k, len k)) ++ outs.drop (w.2 + 1)
        if ins.any (fun v => clashes w.1.1 w.1.2 v.1 v.2) then
          (w.1.1.pieces w.1.2).forM (fun p => Cmd.update (fun s => undefDevice s (x.base + p.1) p.2 (p.2 / 2048 + 2)))
        else return ())
      let n := if reads.isEmpty then len i.out else (reads.map len).foldl max 0
      let segs := if 0x50 ≤ i.op ∧ i.op ≤ 0x55 then (if i.has1 then len i.in1 - 1 else 1) else 0
      Cmd.update (fun s => (s.count64 (Reg.VEC_BAY_CTR_STEPS_LO bay)
        (vecSteps i ((reads ++ writes).map (streamAt l)) n segs)).countWrap (Reg.VEC_BAY_CTR_INSTRS bay) 1)
      return r.count

/-- The instructions of a program on one tile in order. One that fails leaves its outputs and those of the instructions behind it declared
(R197). -/
def Cmd.vecProgram (x : VecCtx) (bay : Nat) (l : List VStream) : List VInstr → Cmd VecCount
  | [] => return VecCount.none
  | i :: rest => do
    let c ← tryCatch (Cmd.vecInstr x bay l i) (fun stop => do
      (i :: rest).forM (Cmd.declareUnrun x.base l)
      throw stop)
    return c.add (← Cmd.vecProgram x bay l rest)

/-! ## VECTOR_RUN (R196 to R198) -/

/-- A transfer entry. -/
structure Transfer where
  dev : Nat
  pad : Nat
  bytes : Nat
  rows : Nat
  devStride : Nat
  padStride : Nat
  spare : Bool
  deriving DecidableEq, Repr

/-- A transfer entry of 32 bytes. -/
def transfer (b : List Byte) : Transfer :=
  ⟨leAt b 0 8, leAt b 8 4, leAt b 12 4, leAt b 16 4, leAt b 20 4, leAt b 24 4, decide (leAt b 28 4 = 0)⟩

/-- The checks of a transfer entry. -/
def Transfer.checks (t : Transfer) : List (Bool × Nat) :=
  [(t.spare, 0x01),
   (decide (t.dev % 16 = 0 ∧ t.pad % 16 = 0 ∧ t.bytes % 16 = 0 ∧ t.devStride % 16 = 0 ∧ t.padStride % 16 = 0) &&
    decide (16 ≤ t.bytes ∧ t.bytes ≤ 524288 ∧ 1 ≤ t.rows ∧ t.rows ≤ 65536) &&
    decide (t.pad + (t.rows - 1) * t.padStride + t.bytes ≤ 2 ^ 19), 0x74)]

/-- The rows of a transfer moved from one address to another. -/
def Cmd.moveRows (src srcStride dst dstStride bytes rows : Nat) : Cmd Unit :=
  (seqFrom 0 rows).forM (fun r => do
    Cmd.declare (dst + r * dstStride) bytes
    let b ← Cmd.readP (src + r * srcStride) bytes
    Cmd.writeCells (dst + r * dstStride) 1 0 (b.map (fun x => x.map (fun y => [y]))))

/-- The checks of a VECTOR_RUN body. -/
def vectorChecks (s : State) (e : Entry) : List (Bool × Nat) :=
  let xfers := bodyAt e 24 1 + bodyAt e 25 1
  [(decide (bodyAt e 12 2 < 512 ∧ bodyAt e 14 2 < 1024 ∧ bodyAt e 26 1 < 2) && bodyZero e 56 64, 0x01),
   (decide (bodyAt e 0 8 % 64 = 0) && decide (1 ≤ bodyAt e 8 2 ∧ bodyAt e 8 2 ≤ 256 ∧ bodyAt e 10 2 ≤ 255) &&
     decide (bodyAt e 24 1 ≤ 32 ∧ bodyAt e 25 1 ≤ 32) && decide (bodyAt e 16 8 % 32 = 0) &&
     (decide (0 < xfers) || decide (bodyAt e 16 8 = 0)) && tilesOk s (bodyAt e 12 2 % 512) (bodyAt e 14 2 % 1024), 0x74)]

/-- The image of a tile's program store, if R196 lets it be reused. -/
def reusable (s : State) (e : Entry) (tile : Nat) : Option (List Byte) :=
  if bit (bodyAt e 26 1) 0 then
    (s.vstore.find? (fun v => v.tile = tile && v.base = bodyAt e 0 8 && v.instrs = bodyAt e 8 2 &&
      v.streams = bodyAt e 10 2)).map (fun v => v.image)
  else none

/-- The image loaded into a tile's program store. -/
def storeImage (s : State) (e : Entry) (tile : Nat) (image : List Byte) : State :=
  { s with vstore := ⟨tile, bodyAt e 0 8, bodyAt e 8 2, bodyAt e 10 2, image⟩ :: s.vstore.filter (fun v => v.tile ≠ tile) }

/-- The instructions of an image: INSTR_COUNT of 16 bytes at its start; the image here is instructions, then descriptors. -/
def imageParts (instrs : Nat) (image : List Byte) : List VInstr × List VStream :=
  ((chunks 16 (instrs + 1) (image.take (16 * instrs))).map vInstr, (chunks 16 257 (image.drop (16 * instrs))).map vStream)

/-- Tile after tile of a VECTOR_RUN; where one fails, the outputs of those behind it are declared (R197). -/
def Cmd.vecTiles {α : Type} (run : α → Cmd VecCount) (unrun : α → Cmd Unit) : List α → Cmd VecCount
  | [] => return VecCount.none
  | t :: rest => do
    let c ← tryCatch (run t) (fun stop => do
      (t :: rest).forM unrun
      throw stop)
    return c.add (← Cmd.vecTiles run unrun rest)

/-- VECTOR_RUN. -/
def bodyVectorRun (e : Entry) : Cmd Done := do
  let s ← Cmd.state
  Cmd.checks (vectorChecks s e)
  Cmd.enterQueues e
  let base := bodyAt e 0 8
  let instrs := bodyAt e 8 2
  let streams := bodyAt e 10 2
  let first := bodyAt e 12 2
  let count := bodyAt e 14 2
  let engine := if count = 1 then 0x4000 + first else 0xF000
  modify (fun env => { env with engine := engine })
  let tiles := seqFrom first count
  let images ← tiles.mapM (fun t => do
    match reusable (← Cmd.state) e t with
    | some im => return im
    | none =>
      let im := (← Cmd.read base (16 * instrs)) ++ (← Cmd.read (base + 4096) (16 * streams))
      Cmd.update (fun s => (storeImage s e t im).countWrap (Reg.VEC_BAY_CTR_LOADS (t / 64)) 1)
      return im)
  let nx := bodyAt e 24 1 + bodyAt e 25 1
  let xfers ← tiles.mapM (fun t => do
    if nx = 0 then return [] else
      return (chunks 32 (nx + 1) (← Cmd.read (bodyAt e 16 8 + 32 * nx * (t - first)) (32 * nx))).map transfer)
  match lowest (images.flatMap (fun im => programChecks s e.pkt (imageParts instrs im).2 (imageParts instrs im).1) ++
    xfers.flatMap (fun l => l.flatMap Transfer.checks)) with
  | some d => Cmd.fail 0x11 d
  | none => pure ()
  let split ← Cmd.field Reg.HUB_SPLIT 16 0
  let escEn ← Cmd.escEn
  let key := slotSeed s e.slot ^^^ bodyAt e 32 8
  xfers.zipIdx.forM (fun l => do
    (l.1.take (bodyAt e 24 1)).forM (fun x =>
      (seqFrom 0 x.rows).forM (fun r => Cmd.declare (padBase (first + l.2) + x.pad + r * x.padStride) x.bytes))
    (l.1.drop (bodyAt e 24 1)).forM (fun x => (seqFrom 0 x.rows).forM (fun r => Cmd.declare (x.dev + r * x.devStride) x.bytes)))
  let run (p : Nat × (List Byte × List Transfer)) : Cmd VecCount := do
    let t := p.1
    let pad := padBase t
    let (prog, l) := imageParts instrs p.2.1
    (p.2.2.take (bodyAt e 24 1)).forM (fun x => Cmd.moveRows x.dev x.devStride (pad + x.pad) x.padStride x.bytes x.rows)
    let ctx : VecCtx := ⟨pad, key % 2 ^ 32, key / 2 ^ 32, bodyAt e 28 4, bodyAt e 27 1,
      (bodyAt e 40 8 + (t - first) * bodyAt e 48 8) % 2 ^ 64, split, escEn, pktTide e.pkt⟩
    let c ← Cmd.vecProgram ctx (t / 64) l prog
    (p.2.2.drop (bodyAt e 24 1)).forM (fun x => Cmd.moveRows (pad + x.pad) x.padStride x.dev x.devStride x.bytes x.rows)
    return c
  let c ← Cmd.vecTiles run (fun p => (imageParts instrs p.2.1).1.forM (Cmd.declareUnrun (padBase p.1) (imageParts instrs p.2.1).2))
    (tiles.zip (images.zip xfers))
  return ⟨0, 0, engine, c.sat % 2 ^ 32 + 2 ^ 32 * (c.nonfinite % 2 ^ 32), c.notes⟩

end Sys2Proof.Machine
end

