-- ==== Sys2Proof/Machine/Skerry.lean ====
section
/-! DEFINITION. Parameter groups, UPDATE, CHECKPOINT and RESTORE (12_skerry_update). -/

namespace Sys2Proof.Machine

open Sys2Proof

/-! ## Parameter groups (R255 to R257) -/

/-- STATE_BASE of a group. -/
def gStateBase (g : List Byte) : Nat := leAt g 0 8
/-- FROZEN_BASE. -/
def gFrozen (g : List Byte) : Nat := leAt g 8 8
/-- FWD_BASE. -/
def gFwd (g : List Byte) : Nat := leAt g 16 8
/-- BWD_BASE. -/
def gBwd (g : List Byte) : Nat := leAt g 24 8
/-- STEP. -/
def gStep (g : List Byte) : Nat := leAt g 56 4
/-- TIDE_ENTRY; the table index when EMBED = 1. -/
def gEntry (g : List Byte) : Nat := leAt g 60 2
/-- EMBED. -/
def gEmbed (g : List Byte) : Bool := gFlag g 3
/-- N_f. -/
def gRows (g : List Byte) : Nat := leAt g 64 4
/-- K_f. -/
def gCols (g : List Byte) : Nat := leAt g 68 4
/-- FWD_FMT. -/
def gFwdFmt (g : List Byte) : FmtWord := fmtWord (g.drop 80)
/-- BWD_FMT. -/
def gBwdFmt (g : List Byte) : FmtWord := fmtWord (g.drop 96)
/-- SUMMARY_BASE. -/
def gSummary (g : List Byte) : Nat := leAt g 112 8
/-- SLOT. -/
def gSlot (g : List Byte) : Nat := leAt g 120 1
/-- SHADOW_FMT. -/
def gShadowFmt (g : List Byte) : FmtWord := fmtWord (g.drop 128)
/-- SHADOW_BASE. -/
def gShadow (g : List Byte) : Nat := leAt g 144 8
/-- COL_BASE. -/
def gColumns (g : List Byte) : Nat := leAt g 152 8

/-- Whether an address lies in skerry memory. -/
def inSkerry (a : Nat) : Bool := decide (0x010000000000 ≤ a ∧ a < 0x020000000000)

/-- The slot-0 addresses of a dense group. -/
def gAddresses (g : List Byte) : List Nat :=
  let scale (w : FmtWord) : List Nat := if w.scale = 0 then [] else [w.scaleBase]
  [gFwd g, gBwd g] ++ scale (gFwdFmt g) ++ scale (gBwdFmt g) ++
  (if gShadow g = 0 then [] else [gShadow g, gColumns g] ++ scale (gShadowFmt g))

/-- Whether a format word of a write-back meets R123 and names no OPAQUE, with ROLE 0 or 2. -/
def writeBackWord (w : FmtWord) : Bool := (lowest (fmtChecks w false)).isNone && decide (w.pwRole = 0 ∨ w.pwRole = 2)

/-- Whether a group descriptor is loaded (R255). The strides need not cover a row (log entry 91). -/
def groupOk (s : State) (g : List Byte) : Bool :=
  let f (off : Nat) : Val := f32 (leAt g off 4)
  let unit (off : Nat) : Bool := (f off).finite && !Val.lt (f off) (.zero false) && Val.lt (f off) (.fin 1 0)
  let sgd := gRule g = 0
  gFlag g 0 && decide (leAt g 63 1 < 32) && decide (gRule g ≤ 1) && decide (gSlot g < 64) &&
  decide (leAt g 121 7 = 0) && decide (leAt g 160 32 = 0) &&
  (f 32).finite && unit 36 && unit 40 && (f 44).finite && !Val.lt (f 44) (.zero false) && (f 48).finite && (f 52).finite &&
  (!sgd || (f 40).isZero && (f 44).isZero) &&
  decide (gStateBase g % 256 = 0) && decide (leAt g 72 4 % 16 = 0) && decide (leAt g 76 4 % 16 = 0) &&
  decide (gFrozen g = 0 ↔ gSummary g = 0) && (decide (gFrozen g = 0) || inSkerry (gFrozen g) && inSkerry (gSummary g)) &&
  writeBackWord (gFwdFmt g) && writeBackWord (gBwdFmt g) && decide ((gBwdFmt g).rot = 0) &&
  (decide ((gFwdFmt g).rot = 0) || decide (gCols g % rotSize (gFwdFmt g).rot = 0)) &&
  (decide (leAt g 128 16 = 0 ∧ gShadow g = 0 ∧ gColumns g = 0) ||
   decide (leAt g 128 16 ≠ 0 ∧ gShadow g ≠ 0 ∧ gColumns g ≠ 0) && (lowest (fmtChecks (gShadowFmt g) false)).isNone &&
     ((gShadowFmt g).elem = 0x0D || (gShadowFmt g).elem = 0x0B) && decide ((gShadowFmt g).scale ≤ 1) &&
     decide ((gShadowFmt g).rot = 0)) &&
  (if gEmbed g then
    decide (gStateBase g = 0 ∧ gFwd g = 0 ∧ gBwd g = 0 ∧ gRows g = 0 ∧ gCols g = 0 ∧ gEntry g < 256) &&
    (match tableDesc s (gEntry g) with
     | some d => decide (1 ≤ tElem d ∧ tElem d ≤ 3)
     | none => false)
   else
    inSkerry (gStateBase g) && decide (1 ≤ gRows g ∧ gRows g ≤ 1048576 ∧ 1 ≤ gCols g ∧ gCols g ≤ 1048576) &&
    decide (weightEntry s (gSlot g) (gAddresses g) = some (gEntry g)))

/-- The address of a group's descriptor. -/
def groupAddr (s : State) (i : Nat) : Nat := s.pair Reg.PGROUP_TABLE_LO / 2 ^ 8 * 2 ^ 8 + 192 * i

/-- The groups loaded by a Skerry commit; one whose descriptor is unchanged keeps its live STEP, which is part of it (R255, R256). -/
def loadGroups (s0 : State) : State :=
  let s := scanWords s0 (groupAddr s0 0) (192 * s0.fieldAt Reg.PGROUP_ENTRIES 12 0)
  let ds := (seqFrom 0 (s.fieldAt Reg.PGROUP_ENTRIES 12 0)).filterMap (fun i =>
    match tryRead s (groupAddr s i) 192 with
    | some b => if groupOk s b then some ⟨i, b⟩ else none
    | none => none)
  let kept := ds.map (fun (d : Desc) =>
    match s.pgroups.find? (fun h => h.index = d.index) with
    | some h => if h.bytes.take 56 = d.bytes.take 56 ∧ h.bytes.drop 60 = d.bytes.drop 60 then h else d
    | none => d)
  (seqFrom 0 128).foldl (fun s k =>
    s.setReg (Reg.PGROUP_LOADED k) (BitVec.ofNat 32 (maskBits 32 (fun j => kept.any (fun d => d.index = 32 * k + j)))))
    { s with pgroups := kept }

/-- The descriptor of a loaded group. -/
def groupDesc (s : State) (i : Nat) : List Byte := ((s.pgroups.find? (fun d => d.index = i)).map (fun d => d.bytes)).getD []

/-- STEP of a group replaced, and written through to the descriptor (R256). -/
def setStep (s : State) (i t : Nat) : State :=
  writeThrough { s with pgroups := s.pgroups.map (fun d =>
    if d.index = i then { d with bytes := d.bytes.take 56 ++ toLE 4 t ++ d.bytes.drop 60 } else d) } (groupAddr s i + 56) (toLE 4 t)

/-- The tide-table entry an UPDATE of a group writes: model slot, entry, and whether it is a TABLE entry. -/
def groupEntry (s : State) (g : List Byte) : Nat × Nat × Bool :=
  if gEmbed g then (gSlot g, tTide ((tableDesc s (gEntry g)).getD []), true) else (gSlot g, gEntry g, false)

/-! ## The rules (R259, R260) -/

/-- IEEE 754 binary64. -/
def fp64 : FloatFmt := ⟨11, 52, 1023, 2 ^ 53 - 1, 971, true, true⟩

/-- one_minus_pow of R260 over the bits of t from bit `n` − 1 down. -/
def powBits (beta : Val) (t : Nat) : Nat → Val → Val
  | 0, r => r
  | n + 1, r =>
    let q := fp64.rne (r.mul r)
    powBits beta t n (if bit t n then fp64.rne (q.mul beta) else q)

/-- one_minus_pow of R260. -/
def oneMinusPow (beta : Val) (t : Nat) : Val := fp32.rne (fp64.rne ((Val.fin 1 0).sub (powBits beta t 32 (.fin 1 0))))

/-- The constants of an UPDATE, computed once. -/
structure Hyper where
  adaptive : Bool
  nesterov : Bool
  moment : Nat
  lr : Val
  beta1 : Val
  beta2 : Val
  eps : Val
  omb1 : Val
  omb2 : Val
  lrwd : Val
  bc1 : Val
  bc2 : Val
  gscale : Val
  exp : Int
  deriving DecidableEq, Repr

/-- The constants of a group for step `t` and gradient exponent `e`. -/
def hyper (g : List Byte) (t : Nat) (e : Int) : Hyper :=
  let f (off : Nat) : Val := f32 (leAt g off 4)
  { adaptive := gRule g = 1, nesterov := gFlag g 2, moment := gMoment g, lr := f 32, beta1 := f 36, beta2 := f 40, eps := f 44,
    omb1 := fsub (.fin 1 0) (f 36), omb2 := fsub (.fin 1 0) (f 40), lrwd := fmul (f 32) (f 48),
    bc1 := oneMinusPow (f 36) t, bc2 := oneMinusPow (f 40) t, gscale := f 52, exp := e }

/-- The gradient element of a number q: fp32_rne(q × 2^E × GSCALE), the product in binary64 (R259). -/
def gradValue (h : Hyper) (q : Int) : Val := fp32.rne (fp64.rne ((fp64.rne (Val.of q h.exp)).mul h.gscale))

/-- adaptive of R260. -/
def adaptiveRule (h : Hyper) (w m v g : Val) : Val × Val × Val :=
  let m1 := fadd (fmul h.beta1 m) (fmul h.omb1 g)
  let v1 := fadd (fmul h.beta2 v) (fmul h.omb2 (fmul g g))
  let u := fdiv (fdiv m1 h.bc1) (fadd (fsqrt (fdiv v1 h.bc2)) h.eps)
  let w1 := fsub w (fmul h.lrwd w)
  (fsub w1 (fmul h.lr u), m1, v1)

/-- sgd of R260. -/
def sgdRule (h : Hyper) (w m g : Val) : Val × Val :=
  let m1 := fadd (fmul h.beta1 m) g
  let d := if h.nesterov then fadd g (fmul h.beta1 m1) else m1
  let w1 := fsub w (fmul h.lrwd w)
  (fsub w1 (fmul h.lr d), m1)

/-- A read of master state: an uncorrectable one ends the command with DEVICE_FAULT 0x01 (R254). -/
def Cmd.master (a n : Nat) : Cmd (List Byte) := do
  match plainBytes (← Cmd.readP a n) with
  | some b => return b
  | none => Cmd.fail 0x30 0x01

/-- A gradient element as the rule takes it. -/
inductive GradElem where
  /-- A poison code: the parameter is skipped (R259). -/
  | poison
  | value (g : Val)
  deriving DecidableEq, Repr

/-- What became of a parameter. -/
inductive ParamFate where
  | updated | frozen | skipped
  deriving DecidableEq, Repr

/-- A moment written in its format. -/
def Cmd.writeMoment (size a : Nat) (v : Val) : Cmd Unit :=
  let fmt := if size = 2 then 0x02 else 0x01
  Cmd.writeCell a size (poisonCode fmt) (narrowCell fmt v)

/-- A moment read. -/
def Cmd.readMoment (size a : Nat) : Cmd Val := do
  let b ← Cmd.master a size
  return decodeElem (if size = 2 then 0x02 else 0x01) 0 0 (leNat b)

/-- One parameter updated in its state arrays (R260, R261): its new master weight. -/
def Cmd.updateParam (h : Hyper) (wa ma va : Nat) (isFrozen : Bool) (g : GradElem) : Cmd (Val × ParamFate) := do
  let w := f32 (leNat (← Cmd.master wa 4))
  if isFrozen then return (w, .frozen)
  else match g with
    | .poison => return (w, .skipped)
    | .value x => do
      let m ← Cmd.readMoment h.moment ma
      if h.adaptive then
        let v ← Cmd.readMoment h.moment va
        let r := adaptiveRule h w m v x
        Cmd.writeCell wa 4 (poisonCode 0x01) (narrowCell 0x01 r.1)
        Cmd.writeMoment h.moment ma r.2.1
        Cmd.writeMoment h.moment va r.2.2
        return (r.1, .updated)
      else
        let r := sgdRule h w m x
        Cmd.writeCell wa 4 (poisonCode 0x01) (narrowCell 0x01 r.1)
        Cmd.writeMoment h.moment ma r.2
        return (r.1, .updated)

/-- The summary code of the block of parameter `p`: 0 NONE, 1 ALL, 2 MIXED; METADATA_FAULT 0xA4 for the reserved one (R261). -/
def Cmd.summaryCode (g : List Byte) (p : Nat) : Cmd Nat := do
  if gFrozen g = 0 then return 0
  else
    let j := p / 4096
    let b ← Cmd.master (gSummary g + j / 4) 1
    let code := bits (leNat b) (2 * (j % 4) + 1) (2 * (j % 4))
    if code = 3 then Cmd.fail 0x13 0xA4 else return code

/-- Whether parameter `p` is frozen (R261). -/
def Cmd.isFrozen (g : List Byte) (p : Nat) : Cmd Bool := do
  match ← Cmd.summaryCode g p with
  | 0 => return false
  | 1 => return true
  | _ => return bit (leNat (← Cmd.master (gFrozen g + p / 8) 1)) (p % 8)

/-- Whether every block of a group of `p` parameters is ALL (R258, R261). -/
def Cmd.allFrozen (g : List Byte) (p : Nat) : Cmd Bool := do
  if gFrozen g = 0 then return false
  else return ((← (seqFrom 0 (ceilDiv p 4096)).mapM (fun j => Cmd.summaryCode g (4096 * j))).all (fun k => decide (k = 1)))

/-! ## Dense write-back (R262) -/

/-- A coded row read back as values. -/
def codedRow (w : FmtWord) (cols : Nat) (o : RowOut) : List Val :=
  (unpackP (fmtBits w.elem) cols (o.bytes.map some)).zipIdx.map (fun p =>
    let x := p.1.getD 0
    if w.scale = 0 then decodeElem w.elem w.zp w.fsExp x
    else blockValue w.elem w.fsExp (parseScale w.scale w.zp ((o.records[p.2 / 32]?).getD 0)) (p.2 % 32) x)

/-- A tensor of rows quantised and written; the events. -/
def Cmd.writeTensor (w : FmtWord) (base stride : Nat) (escEn : Bool) (rows : List (List Val)) : Cmd Events :=
  rows.zipIdx.foldlM (fun acc r => do return acc.add (← Cmd.writeTensorRow w base stride r.2 escEn r.1)) Events.none

/-- A format word whose scales lie `off` bytes further. -/
def FmtWord.shift (w : FmtWord) (off : Nat) : FmtWord := { w with scaleBase := if w.scale = 0 then 0 else w.scaleBase + off }

/-- The layers whose record names a slot and entry and is PROMOTED. -/
def promotedLayers (s : State) (slot entry : Nat) : List Nat :=
  s.pw.layers.filter (fun l => decide (pwField s l 70 1 % 64 = slot) && decide (pwField s l 72 4 = entry) && bit (pwField s l 68 1) 0)

/-- The stride of the shadow rows, for which the descriptor has no field: the least multiple of 16 that covers one (log entry 27). -/
def shadowStride (g : List Byte) : Nat := ceilDiv (rowBytes (gShadowFmt g).elem (gCols g)) 16 * 16

/-- The write-back of master weights, K_f rows of N_f, as tide `tide` into version slot `v` (R262); the events, and whether ALT_W
copies were written. -/
def Cmd.writeBack (g : List Byte) (v tide : Nat) (w : List (List Val)) : Cmd (Events × Bool) := do
  let s ← Cmd.state
  let escEn ← Cmd.escEn
  let te := (tideEntry s (gSlot g) (gEntry g)).getD ⟨0, 0, 0, 0, 0, 0, []⟩
  let off := v * te.vstride
  let fw := (gFwdFmt g).shift off
  let bw := (gBwdFmt g).shift off
  let rows := (transposeVals (gRows g) w).map (rotateRow fw.rot true)
  let cols := transposeVals (gCols g) rows
  Cmd.declareTensor fw (gFwd g + off) (leAt g 72 4) (gRows g) (gCols g)
  Cmd.declareTensor bw (gBwd g + off) (leAt g 76 4) (gCols g) (gRows g)
  let e1 ← Cmd.writeTensor fw (gFwd g + off) (leAt g 72 4) escEn rows
  let e2 ← Cmd.writeTensor bw (gBwd g + off) (leAt g 76 4) escEn cols
  Cmd.update (fun s => countWord (countWord s fw tide e1) bw tide e2)
  let layers := promotedLayers s (gSlot g) (gEntry g)
  let e3 ← layers.foldlM (fun acc l => do
    let alt := fmtWord (unitBytes s (pwAddr s l + 112) 16)
    let base := pwField s l 88 8 + off
    let a1 := alt.shift off
    let a2 := { alt with scaleBase := if alt.scale = 0 then 0 else alt.scaleBase + off + gBwd g - gFwd g }
    let x ← Cmd.writeTensor a1 base (leAt g 72 4) escEn rows
    let y ← Cmd.writeTensor a2 (base + gBwd g - gFwd g) (leAt g 76 4) escEn cols
    Cmd.update (fun s => countWord s alt tide (x.add y))
    return acc.add (x.add y)) Events.none
  let e4 ← if gShadow g = 0 then pure Events.none else (do
    let sw := (gShadowFmt g).shift off
    let x ← Cmd.writeTensor sw (gShadow g + off) (shadowStride g) escEn rows
    let live := findVslot te (fun v => v.state = 2)
    rows.zipIdx.forM (fun r => do
      let tau ← match live with
        | some l => Cmd.read (gColumns g + l * te.vstride + 16 * r.2) 4
        | none => pure (toLE 4 0)
      let dw := codedRow fw (gCols g) (quantiseRow fw escEn r.1)
      let ds := codedRow sw (gCols g) (quantiseRow sw escEn r.1)
      let delta := ((dw.zip ds).map (fun p => (p.1.sub p.2).abs)).foldl vmax (.zero false)
      let gamma := (ds.map Val.abs).foldl vmax (.zero false)
      Cmd.write (gColumns g + off + 16 * r.2)
        (tau ++ toLE 4 (toF32 (roundUp delta)) ++ toLE 4 (toF32 (roundUp gamma)) ++ toLE 4 0))
    Cmd.update (fun s => countWord s sw tide x)
    return x)
  return (((e1.add e2).add e3).add e4, !layers.isEmpty)

/-! ## UPDATE (R258 to R264) -/

/-- Whether another command holds an entry for writing: an UPDATE of it that has begun, or waits for a slot of it, and is not complete
(R220). -/
def entryTaken (s : State) (e : Entry) (where_ : Nat × Nat × Bool) : Bool :=
  s.entries.any (fun c => decide (c.tag ≠ e.tag) && decide (pktOp c.pkt = 0x60) && inFlight c &&
    (c.prepared || decide (c.phase = .running .slot)) &&
    decide (groupEntry s (groupDesc s (bodyAt c 0 2 % 4096)) = where_))

/-- Whether an earlier dispatched CHECKPOINT of the slot is not complete (R266). -/
def checkpointAhead (s : State) (e : Entry) : Bool :=
  s.entries.any (fun c => decide (pktOp c.pkt = 0x61) && decide (c.slot = e.slot) && inFlight c && decide (c.disp < e.disp))

/-- The format words that the write-back of a group uses; an embedding group's rows take the table's format (R262, R263). -/
def groupWords (g : List Byte) : List FmtWord :=
  if gEmbed g then [] else [gFwdFmt g, gBwdFmt g] ++ (if gShadow g = 0 then [] else [gShadowFmt g])

/-- What an UPDATE does before step 3: the checks, the layers of its group's words (R138, R140), its turn, its version slot (R258 steps 1
and 2, R220, R223). -/
def prepareUpdate (e : Entry) : Cmd Unit := do
  let s ← Cmd.state
  let g := groupDesc s (bodyAt e 0 2 % 4096)
  let ex := signed 16 (bodyAt e 2 2)
  let gb := bodyAt e 8 8
  let gs := bodyAt e 16 4
  let where_ := groupEntry s g
  let te := tideEntry s e.slot where_.2.1
  Cmd.checks [(decide (bodyAt e 0 2 < 4096 ∧ bodyAt e 4 1 < 2) && bodyZero e 5 8 && bodyZero e 20 32, 0xA2),
    (!g.isEmpty && decide (gSlot g = e.slot) &&
      decide (te.map (fun x => decide (x.kind = if where_.2.2 then 1 else 0)) = some true), 0xA0),
    (g.isEmpty || (if gEmbed g then decide (gb = 0 ∧ gs = 0)
      else decide (gb ≠ 0 ∧ gb % 16 = 0 ∧ gs % 16 = 0 ∧ 6 * gRows g ≤ gs)), 0xA1),
    (decide (-256 ≤ ex ∧ ex ≤ 127), 0x45),
    (g.isEmpty || (groupWords g).all (fun w => (pwCheck s e.pkt w).1), 0x46)]
  let te := te.getD ⟨0, 0, 0, 0, 0, 0, []⟩
  let t := pktTide e.pkt
  if gStep g = 2 ^ 32 - 1 then Cmd.fail 0x20 0xA1
  else if pktTideValid e.pkt && atOrAfter te.current t then Cmd.fail 0x16 0x04
  else if !allDecided s (groupWords g) t then throw .hold
  else if checkpointAhead s e || entryTaken s e where_ ||
      (pktTideValid e.pkt && decide ((te.current + 1) % 2 ^ 16 ≠ t)) then throw (.wait .turn)
  else
    let tau := (te.current + 1) % 2 ^ 16
    Cmd.update (fun s => setEntry s e.tag (fun c => { c with tide := tau }))
    if where_.2.2 then return ()
    else match findVslot { te with vslots := te.vslots.take (slotCount s te) } (fun v => v.state = 0) with
      | some v => Cmd.update (fun s => setVslot s e.slot where_.2.1 v (fun _ => ⟨tau, 1, 0, 0⟩))
      | none => do
        Cmd.update (fun s => s.setBit Reg.TIDE_EVENT 31 true)
        throw (.pause .slot)

/-- The WRITING slot of an UPDATE that ends without success returns to FREE (R220). -/
def abandonUpdate (s : State) (e : Entry) : State :=
  let w := groupEntry s (groupDesc s (bodyAt e 0 2 % 4096))
  if e.prepared && !w.2.2 then
    match tideEntry s w.1 w.2.1 with
    | some te =>
      match findVslot te (fun v => v.state = 1 && v.tide = e.tide) with
      | some v => setVslot s w.1 w.2.1 v (fun _ => VersionSlot.empty)
      | none => s
    | none => s
  else s

/-- Parameters of one fate. -/
def fateCount (f : ParamFate) (l : List (Val × ParamFate)) : Nat := (l.filter (fun p => p.2 = f)).length

/-- The FS48 gradient elements of a row. -/
def gradElems (h : Hyper) (width : Nat) (codes : List (Option Nat)) : List GradElem :=
  codes.map (fun c => match c with
    | none => .value .lost
    | some x => if x = 2 ^ (width - 1) then .poison else .value (gradValue h (signed width x)))

/-- The notes and counts of updated parameters. -/
def Cmd.noteParams (l : List (Val × ParamFate)) : Cmd Unit := do
  if 0 < fateCount .skipped l then Cmd.note (2 ^ 16)
  if 0 < fateCount .frozen l then Cmd.note (2 ^ 17)
  Cmd.update (fun s => s.count64 Reg.UPDATE_PARAMS_LO (fateCount .updated l))

/-- The end of an UPDATE that met poison: the group's state is undefined, and neither STEP nor the tide advances; the WRITING slot returns to
FREE when it completes (R258, R220). -/
def Cmd.updateFails (a n : Nat) : Cmd Done := do
  Cmd.update (fun s => undefDevice s a n (n / 2048 + 2))
  return ⟨0, 0, 0x9000, 0, 0⟩

/-- Steps 3 to 5 of an UPDATE of a dense group. -/
def updateDense (e : Entry) (g : List Byte) : Cmd Done := do
  let s ← Cmd.state
  let n := gRows g
  let k := gCols g
  let p := k * n
  let h := hyper g (gStep g + 1) (signed 16 (bodyAt e 2 2))
  let sb := gStateBase g
  let mb := sb + pad256 (4 * p)
  let vb := mb + pad256 (h.moment * p)
  let size := pad256 (4 * p) + pad256 (h.moment * p) * (if h.adaptive then 2 else 1)
  Cmd.declare sb size
  let all ← Cmd.allFrozen g p
  let rows ← (seqFrom 0 k).mapM (fun r => do
    let grad ← if all then pure (List.replicate n (GradElem.value (.zero false)))
      else (do return gradElems h 48 (unpackP 48 n (← Cmd.readP (bodyAt e 8 8 + r * bodyAt e 16 4) (6 * n))))
    grad.zipIdx.mapM (fun q => do
      let i := r * n + q.2
      let f ← Cmd.isFrozen g i
      Cmd.updateParam h (sb + 4 * i) (mb + h.moment * i) (vb + h.moment * i) f q.1))
  let flat := rows.flatten
  Cmd.noteParams flat
  let te := (tideEntry s e.slot (gEntry g)).getD ⟨0, 0, 0, 0, 0, 0, []⟩
  let v := (findVslot te (fun v => v.state = 1 && v.tide = e.tide)).getD 0
  let (ev, alt) ← Cmd.writeBack g v e.tide (rows.map (fun r => r.map (fun x => x.1)))
  if ev.sat + ev.escOvf ≠ 0 then Cmd.note (2 ^ 19)
  if alt then Cmd.note (2 ^ 20)
  let gi := bodyAt e 0 2 % 4096
  if (← get).poison.isSome then Cmd.updateFails sb size
  else
    Cmd.update (fun s => flipTide (if all then s else setStep s gi (gStep g + 1)) e.slot (gEntry g) e.tide)
    return ⟨0, 0, 0x9000, e.tide + 2 ^ 16 * (fateCount .skipped flat % 2 ^ 32), 0⟩

/-- The rows an embedding UPDATE goes through: row-map indices (R263). The touched list is read once: a row that a contribution lists again
while the UPDATE waits for a slot is left to the next one (R264). -/
def Cmd.embedRows (e : Entry) (d : List Byte) (dense : Bool) (listed : Nat) : Cmd (List Nat) := do
  if dense then return seqFrom 0 (tRows d + tGuests d)
  else if listed = 0 then return []
  else return (chunks 8 (listed + 1) (← Cmd.readOnce e (tTouched d + 64) (8 * listed))).map (fun b => leNat b % 2 ^ 37)

/-- The touched list cleared at the end of an embedding UPDATE. DESIGN CHOICE: what contributions have listed since the UPDATE read the
list, and an OVF they have set, stay for the next one (R263, R264, log entry 129). -/
def Cmd.clearTouched (d : List Byte) (listed : Nat) (ovf : Bool) : Cmd Unit := do
  let now ← Cmd.readNat (tTouched d) 4
  let later ← (seqFrom listed (now - listed)).mapM (fun k => Cmd.readNat (tTouched d + 64 + 8 * k) 8)
  let left ← later.filterM (fun i => do return eTouched (← Cmd.rowEntry d (i % 2 ^ 37)))
  let full := bit (← Cmd.readNat (tTouched d + 4) 4) 0
  if !left.isEmpty then Cmd.write (tTouched d + 64) (left.flatMap (toLE 8))
  Cmd.write (tTouched d) (toLE 4 left.length ++ toLE 4 (b2n (full && !ovf)))

/-- One row of an embedding group: a slot, the rule, the new slot written, the flip, the buffer cleared. None when no slot is free. -/
def Cmd.updateRow (t : Nat) (d g : List Byte) (h : Hyper) (i : Nat) : Cmd (Option (List (Val × ParamFate))) := do
  let s ← Cmd.state
  let en ← Cmd.rowEntry d i
  if eState en ≠ 1 ∧ eState en ≠ 2 then return some []
  else match ← Cmd.takeSlot d (eTier en) with
    | none => return none
    | some slot => do
      let n := tElems d
      let a := rowStateAddr s t d i
      let buf := tGrad d + i * (8 + 8 * n)
      let grad ← if tGrad d = 0 || !eTouched en then pure (List.replicate n (GradElem.value (.zero false)))
        else (do return gradElems h 64 (unpackP 64 n (← Cmd.readP (buf + 8) (8 * n))))
      let r ← grad.zipIdx.mapM (fun q => do
        let f ← Cmd.isFrozen g (i * n + q.2)
        Cmd.updateParam h (a + 4 * q.2) (a + 4 * n + h.moment * q.2) (a + (4 + h.moment) * n + h.moment * q.2) f q.1)
      Cmd.writeCells (slotAddr d (eTier en) slot) (tElemBytes d) (poisonCode (tElem d))
        (r.map (fun x => narrowCell (tElem d) x.1))
      Cmd.flipRow t d i (eTier en) slot
      if tGrad d ≠ 0 then Cmd.write buf (toLE (8 + 8 * n) 0)
      let en2 ← Cmd.rowEntry d i
      Cmd.setRowEntry d i (mkEntry (eTier en2) false (eState en2) (eVersion en2) (eSlot en2))
      Cmd.noteParams r
      return some r

/-- The rows of an embedding UPDATE from place `k` on. A row without a free slot waits (R106): `mode` is 1 in a dense update. -/
def Cmd.updateRows (t : Nat) (d g : List Byte) (h : Hyper) (mode : Nat) : List Nat → Nat → Nat → Cmd Nat
  | [], _, skipped => return skipped
  | i :: l, k, skipped => do
    match ← Cmd.updateRow t d g h i with
    | none => throw (.pause (.rows (2 * k + mode) skipped))
    | some r => Cmd.updateRows t d g h mode l (k + 1) (skipped + fateCount .skipped r)

/-- Steps 3 to 5 of an UPDATE of an embedding group (R263). -/
def updateEmbed (e : Entry) (g : List Byte) : Cmd Done := do
  let s ← Cmd.state
  let t := gEntry g
  let d := (tableDesc s t).getD []
  let h := hyper g (gStep g + 1) (signed 16 (bodyAt e 2 2))
  Cmd.declare (tState d) ((tRows d + tGuests d) * rowStateBytes s t d)
  let n := tRows d + tGuests d
  let all ← Cmd.allFrozen g (n * tElems d)
  let head ← if tTouched d = 0 then pure 0 else (do return leNat (← Cmd.readOnce e (tTouched d) 8))
  let ovf := bit head 32
  let listed := head % 2 ^ 32
  let lazy := gFlag g 4 && !bit (bodyAt e 4 1) 0
  let (place, skipped) := match e.phase with
    | .running (.rows k m) => (some k, m)
    | .running (.recovery _ (some (k, m))) => (some k, m)
    | _ => (none, 0)
  let dense := match place with
    | some k => decide (k % 2 = 1)
    | none => !lazy || ovf
  if lazy && dense then Cmd.note (2 ^ 18)
  let rows ← Cmd.embedRows e d dense listed
  let k := (place.getD 0) / 2
  let total ← Cmd.updateRows t d g h (b2n dense) (rows.drop k) k skipped
  if tTouched d ≠ 0 then Cmd.clearTouched d listed ovf
  let gi := bodyAt e 0 2 % 4096
  if (← get).poison.isSome then Cmd.updateFails (tState d) ((tRows d + tGuests d) * rowStateBytes s t d)
  else
    Cmd.update (fun s => switchTable (flipTide (if all then s else setStep s gi (gStep g + 1)) e.slot (tTide d) e.tide) t e.tide)
    return ⟨0, 0, 0x9000, e.tide + 2 ^ 16 * (total % 2 ^ 32), 0⟩

/-- UPDATE, steps 3 to 5. -/
def bodyUpdate (e : Entry) : Cmd Done := do
  modify (fun env => { env with engine := 0x9000 })
  let g := groupDesc (← Cmd.state) (bodyAt e 0 2 % 4096)
  if gEmbed g then updateEmbed e g else updateDense e g

/-! ## CHECKPOINT (R266, R267) -/

/-- A section of a checkpoint image. -/
structure Section where
  kind : Nat
  index : Nat
  bytes : List Byte
  deriving DecidableEq, Repr

/-- Bytes of the state arrays of a dense group (R257). -/
def stateBytes (g : List Byte) : Nat :=
  let p := gCols g * gRows g
  pad256 (4 * p) + pad256 (gMoment g * p) * (if gRule g = 1 then 2 else 1)

/-- Parameters of a group. -/
def groupParams (s : State) (g : List Byte) : Nat :=
  if gEmbed g then
    let d := (tableDesc s (gEntry g)).getD []
    (tRows d + tGuests d) * tElems d
  else gCols g * gRows g

/-- Bytes of a group's frozen mask and of its summary; none without a mask. -/
def frozenBytes (s : State) (g : List Byte) : Nat × Nat :=
  if gFrozen g = 0 then (0, 0)
  else (ceilDiv (groupParams s g) 8, ceilDiv (2 * ceilDiv (groupParams s g) 4096) 8)

/-- The rows of a table that are VALID or EBBING. -/
def liveRows (s : State) (d : List Byte) : List Nat :=
  (seqFrom 0 (tRows d + tGuests d)).filter (fun i => eState (storedEntry s d i) = 1 || eState (storedEntry s d i) = 2)

/-- The loaded groups of a model slot. -/
def slotGroups (s : State) (slot : Nat) : List Desc := s.pgroups.filter (fun d => gSlot d.bytes = slot)

/-- The layers in use whose records name a model slot. -/
def slotLayers (s : State) (slot : Nat) : List Nat := s.pw.layers.filter (fun l => pwField s l 70 1 % 64 = slot)

/-- The sections of an image with their sizes, in the order this model lists them (log entry 28): by kind, then by index. -/
def sectionSizes (s : State) (e : Entry) : List (Nat × Nat × Nat) :=
  let gs := slotGroups s e.slot
  let tides := ((modelSlot s e.slot).map (fun m => m.tides.length)).getD 0
  gs.map (fun d => (1, d.index, 192)) ++
  (gs.filter (fun d => !gEmbed d.bytes)).map (fun d => (2, d.index, stateBytes d.bytes)) ++
  (gs.filter (fun d => gFrozen d.bytes ≠ 0)).map (fun d =>
    (3, d.index, (frozenBytes s d.bytes).1 + (frozenBytes s d.bytes).2)) ++
  (seqFrom 0 tides).map (fun i => (4, i, 64)) ++
  (gs.filter (fun d => gEmbed d.bytes)).map (fun d =>
    let t := (tableDesc s (gEntry d.bytes)).getD []
    (5, gEntry d.bytes, (liveRows s t).length * (8 + rowStateBytes s (gEntry d.bytes) t))) ++
  (slotLayers s e.slot).map (fun l => (6, l, 128)) ++
  (if bodyAt e 34 2 = 0 then [] else [(7, bodyAt e 32 2 % 4096, 4 * bodyAt e 34 2)])

/-- The offsets of sections from `off` on, each 256-byte aligned, and the end of the last. -/
def sectionOffsets : Nat → List Nat → List Nat × Nat
  | off, [] => ([], off)
  | off, n :: ns =>
    let a := pad256 off
    let r := sectionOffsets (a + n) ns
    (a :: r.1, r.2)

/-- The size of the image: TOTAL_BYTES. -/
def imageSize (s : State) (e : Entry) : Nat :=
  let l := sectionSizes s e
  (sectionOffsets (128 + 32 * l.length) (l.map (fun x => x.2.2))).2

/-- The bytes of one section. -/
def Cmd.sectionOf (e : Entry) (x : Nat × Nat × Nat) : Cmd Section := do
  let s ← Cmd.state
  let g := groupDesc s x.2.1
  let bytes ←
    if x.1 = 1 then pure g
    else if x.1 = 2 then Cmd.master (gStateBase g) x.2.2
    else if x.1 = 3 then (do
      return (← Cmd.master (gFrozen g) (frozenBytes s g).1) ++ (← Cmd.master (gSummary g) (frozenBytes s g).2))
    else if x.1 = 4 then
      (match modelSlot s e.slot with
       | some m => (match m.tides[x.2.1]? with
         | some te => (do return (← Cmd.read (tideBase m + 64 * x.2.1) 26) ++ toLE 2 te.current ++ toLE 36 0)
         | none => pure [])
       | none => pure [])
    else if x.1 = 5 then (do
      let d := (tableDesc s x.2.1).getD []
      let parts ← (liveRows s d).mapM (fun i => do
        return toLE 8 i ++ (← Cmd.master (rowStateAddr s x.2.1 d i) (rowStateBytes s x.2.1 d)))
      return parts.flatten)
    else if x.1 = 6 then (do return toLE 64 0 ++ (← Cmd.read (pwAddr s x.2.1 + 64) 64))
    else pure ((seqFrom x.2.1 (x.2.2 / 4)).flatMap (fun c => toLE 4 (counter s c)))
  return ⟨x.1, x.2.1, bytes⟩

/-- The bytes of an image from byte 128 on: the directory and the sections, the gaps zero. -/
def imageBody (l : List Section) : List Byte :=
  let offs := sectionOffsets (128 + 32 * l.length) (l.map (fun x => x.bytes.length))
  let dir := (l.zip offs.1).flatMap (fun p =>
    toLE 1 p.1.kind ++ toLE 1 0 ++ toLE 2 p.1.index ++ toLE 4 0 ++ toLE 8 p.2 ++ toLE 8 p.1.bytes.length ++ toLE 8 0)
  (l.zip offs.1).foldl (fun acc p => acc ++ List.replicate (p.2 - 128 - acc.length) 0 ++ p.1.bytes) dir

/-- The 128 bytes of an image's header. -/
def imageHeader (s : State) (e : Entry) (sections : Nat) (body : List Byte) : List Byte :=
  toLE 4 0x4B434256 ++ toLE 2 1 ++ toLE 1 e.slot ++ toLE 1 0 ++ toLE 8 (slotSeed s e.slot) ++ toLE 8 (bodyAt e 24 8) ++
  toLE 8 (128 + body.length) ++ toLE 4 sections ++ toLE 4 0 ++ toLE 8 s.now ++ shake256 body ++ toLE 48 0

/-- CHECKPOINT before it reads: the checks, and the wait for the UPDATEs dispatched before it (R266). -/
def prepareCheckpoint (e : Entry) : Cmd Unit := do
  let s ← Cmd.state
  Cmd.checks [(decide (bits (bodyAt e 8 2) 14 12 = 0 ∧ bodyAt e 32 2 < 4096) && bodyZero e 10 16 && bodyZero e 36 48, 0xA2),
    (decide (bodyAt e 0 8 % 256 = 0) && decide (bodyAt e 32 2 % 4096 + bodyAt e 34 2 ≤ 4096) &&
      decide (imageSize s e ≤ bodyAt e 16 8), 0xA3)]
  if s.entries.any (fun c => decide (pktOp c.pkt = 0x60) && decide (c.slot = e.slot) && inFlight c && decide (c.disp < e.disp)) then
    throw (.wait .checkpoint)
  else return ()

/-- The image that a command has sent to another module, if any. -/
def imageAsked (e : Entry) : Option Ask :=
  (e.asked.find? (fun p => match p.1 with | .image _ _ => true | _ => false)).map (fun p => p.1)

/-- CHECKPOINT. -/
def bodyCheckpoint (e : Entry) : Cmd Done := do
  modify (fun env => { env with engine := 0x9000 })
  match imageAsked e with
  | some q =>
    match q with
    | .image _ n => do
      if answered (← get) q then
        let _ ← Cmd.answer q
        return ⟨0, 0, 0x9000, n, 0⟩
      else throw (.wait .remote)
    | _ => return ⟨0, 0, 0x9000, 0, 0⟩
  | none => do
    let s ← Cmd.state
    let dst := bodyAt e 0 8
    let size := imageSize s e
    let l ← (sectionSizes s e).mapM (Cmd.sectionOf e)
    let body := imageBody l
    let head := imageHeader s e l.length body
    let dest := bodyAt e 8 2 % 4096
    if bit (bodyAt e 8 2) 15 && decide (dest ≠ ownId s) then
      Cmd.update (fun s => setEntry (sendMessage s dest ⟨.migrationCopy, [e.tag, dst, size], head ++ body⟩).2 e.tag
        (fun c => { c with asked := c.asked ++ [(Ask.image dst size, dest)] }))
      throw (.pause .remote)
    else
      Cmd.declare dst size
      Cmd.write (dst + 128) body
      Cmd.write dst head
      return ⟨0, 0, 0x9000, size, 0⟩

/-! ## RESTORE (R268, R228) -/

/-- The sections of an image of `total` bytes, none where the directory is not inside it. -/
def parseImage (image : List Byte) (sections : Nat) : Option (List Section) :=
  if image.length < 128 + 32 * sections then none
  else (seqFrom 0 sections).mapM (fun i =>
    let d := (image.drop (128 + 32 * i)).take 32
    let off := leAt d 8 8
    let n := leAt d 16 8
    if off + n ≤ image.length then some ⟨leAt d 0 1, leAt d 2 2, (image.drop off).take n⟩ else none)

/-- Whether two descriptors have the same shape, rule and formats. -/
def sameGroup (a b : List Byte) : Bool :=
  decide (leAt a 62 10 = leAt b 62 10) && decide (leAt a 80 4 = leAt b 80 4) && decide (leAt a 96 4 = leAt b 96 4) &&
  decide (leAt a 128 4 = leAt b 128 4) && decide (gSlot a = gSlot b) && decide (gEntry a = gEntry b)

/-- The rows of a table section: index and state. -/
def sectionRows (n : Nat) (b : List Byte) : List (Nat × List Byte) :=
  (chunks (8 + n) (b.length / (8 + n) + 1) b).map (fun r => (leAt r 0 8, r.drop 8))

/-- Whether a section matches what is loaded (R268, METADATA_FAULT 0xA2). -/
def sectionOk (s : State) (slot : Nat) (x : Section) : Bool :=
  let g := groupDesc s x.index
  let mine := !g.isEmpty && decide (gSlot g = slot)
  if x.kind = 1 then mine && decide (x.bytes.length = 192) && sameGroup x.bytes g
  else if x.kind = 2 then mine && !gEmbed g && decide (x.bytes.length = stateBytes g)
  else if x.kind = 3 then mine && decide (gFrozen g ≠ 0) && decide (x.bytes.length = (frozenBytes s g).1 + (frozenBytes s g).2)
  else if x.kind = 4 then (tideEntry s slot x.index).isSome && decide (x.bytes.length = 64)
  else if x.kind = 5 then
    match tableDesc s x.index, embedGroup s x.index with
    | some d, some h =>
      decide (gSlot h = slot) &&
      decide ((sectionRows (rowStateBytes s x.index d) x.bytes).map (fun r => r.1) = liveRows s d) &&
      decide (x.bytes.length = (liveRows s d).length * (8 + rowStateBytes s x.index d))
    | _, _ => false
  else if x.kind = 6 then s.pw.layers.contains x.index && decide (x.bytes.length = 128)
  else if x.kind = 7 then decide (x.bytes.length % 4 = 0 ∧ x.index + x.bytes.length / 4 ≤ 4096)
  else false

/-- The rows of a table written in its format from restored state, from place `k` on (R268 step 5, R263). -/
def Cmd.restoreRows (t : Nat) (d : List Byte) : List (Nat × Nat) → Nat → Cmd Unit
  | [], _ => return ()
  | (i, k) :: l, done => do
    if k < done then Cmd.restoreRows t d l done
    else
      let s ← Cmd.state
      let en ← Cmd.rowEntry d i
      match ← Cmd.takeSlot d (eTier en) with
      | none => throw (.pause (.rows k 0))
      | some slot => do
        let w ← Cmd.master (rowStateAddr s t d i) (4 * tElems d)
        Cmd.writeCells (slotAddr d (eTier en) slot) (tElemBytes d) (poisonCode (tElem d))
          (((chunks 4 (w.length + 1) w).map (fun b => f32 (leNat b))).map (narrowCell (tElem d)))
        Cmd.flipRow t d i (eTier en) slot
        Cmd.restoreRows t d l done

/-- A tide entry set from an image: CURRENT, the lowest version slot LIVE, the others FREE (R228). -/
def restoreTide (s : State) (slot i current : Nat) : State :=
  setTide (unstale s slot i) slot i (fun te =>
    if te.kind = 0 then { te with current := current, vslots := ⟨current, 2, 0, 0⟩ :: te.vslots.tail.map (fun _ => VersionSlot.empty) }
    else { te with current := current })

/-- Steps 1 to 4 of R268 for one section. -/
def Cmd.restoreSection (keepEvc : Bool) (x : Section) : Cmd Unit := do
  let s ← Cmd.state
  let g := groupDesc s x.index
  if x.kind = 1 then Cmd.update (fun s => setStep s x.index (gStep x.bytes))
  else if x.kind = 2 then Cmd.write (gStateBase g) x.bytes
  else if x.kind = 3 then do
    Cmd.write (gFrozen g) (x.bytes.take (frozenBytes s g).1)
    Cmd.write (gSummary g) (x.bytes.drop (frozenBytes s g).1)
  else if x.kind = 5 then
    let d := (tableDesc s x.index).getD []
    (sectionRows (rowStateBytes s x.index d) x.bytes).forM (fun r => Cmd.write (rowStateAddr s x.index d r.1) r.2)
  else if x.kind = 6 then do
    Cmd.write (pwAddr s x.index) (toLE 64 0)
    Cmd.write (pwAddr s x.index + 64) ((x.bytes.drop 64).take 5)
  else if x.kind = 7 && !keepEvc then
    Cmd.update (fun s => (chunks 4 (x.bytes.length + 1) x.bytes).zipIdx.foldl (fun s p => setCounter s (x.index + p.2) (leNat p.1)) s)
  else return ()

/-- The write-back of every dense group of an image into version slot 0, under the tide the image records (R268 step 5). -/
def Cmd.restoreBack (l : List Section) (gi : Nat) : Cmd Unit := do
  let g := groupDesc (← Cmd.state) gi
  if gEmbed g then return ()
  else
    let tide := ((l.find? (fun x => x.kind = 4 && x.index = gEntry g)).map (fun x => leAt x.bytes 26 2)).getD 0
    let w ← (seqFrom 0 (gCols g)).mapM (fun k => do
      let b ← Cmd.master (gStateBase g + 4 * k * gRows g) (4 * gRows g)
      return (chunks 4 (b.length + 1) b).map (fun x => f32 (leNat x)))
    let _ ← Cmd.writeBack g 0 tide w

/-- The sections of an image that a RESTORE writes of some kinds, in directory order. -/
def sectionsOf (l : List Section) (kinds : List Nat) : List Section := l.filter (fun x => kinds.contains x.kind)

/-- The checks of a RESTORE's image, made whole before anything is written: its header and sections (R268). -/
def Cmd.checkImage (e : Entry) (h image : List Byte) : Cmd (List Section) := do
  let s ← Cmd.state
  if shake256 (image.drop 128) ≠ (h.drop 48).take 32 then Cmd.fail 0x13 0xA1
  else match parseImage image (leAt h 32 4) with
    | none => Cmd.fail 0x13 0xA2
    | some l =>
      if !l.all (sectionOk s e.slot) then Cmd.fail 0x13 0xA2
      else if leAt h 8 8 ≠ slotSeed s e.slot then Cmd.fail 0x13 0xA3
      else return l

/-- Steps 1 to 4 of a RESTORE and the write-back of its dense groups. -/
def Cmd.restoreState (keep : Bool) (l : List Section) : Cmd Unit := do
  (sectionsOf l [1, 2, 3] ++ sectionsOf l [5] ++ sectionsOf l [6] ++ sectionsOf l [7]).forM (Cmd.restoreSection keep)
  (sectionsOf l [1]).forM (fun x => Cmd.restoreBack l x.index)

/-- The rest of a RESTORE: the rows of its tables, where one without a free slot waits, then the tide entries (R106, R228, R268). -/
def Cmd.restoreRest (e : Entry) (l : List Section) : Cmd Unit := do
  let s ← Cmd.state
  let rows := (sectionsOf l [5]).flatMap (fun x =>
    (sectionRows (rowStateBytes s x.index ((tableDesc s x.index).getD [])) x.bytes).map (fun r => (x.index, r.1)))
  (sectionsOf l [5]).forM (fun x => do
    let mine := (rows.zipIdx.filter (fun r => r.1.1 = x.index)).map (fun r => (r.1.2, r.2))
    Cmd.restoreRows x.index ((tableDesc s x.index).getD []) mine (rowsDone e))
  Cmd.update (fun s => (sectionsOf l [4]).foldl (fun s x => restoreTide s e.slot x.index (leAt x.bytes 26 2)) s)

/-- RESTORE. One that waited for a row slot goes on with the image it has checked; its sections stay as they were written (R268). -/
def bodyRestore (e : Entry) : Cmd Done := do
  let s ← Cmd.state
  Cmd.checks [(decide (bodyAt e 8 1 < 2) && bodyZero e 9 16, 0xA2), (decide (bodyAt e 0 8 % 256 = 0), 0xA3)]
  if !rowsWaited e && s.entries.any (fun c => decide (c.tag ≠ e.tag) && decide (c.slot = e.slot)) then Cmd.fail 0x20 0xA0
  else
    modify (fun env => { env with engine := 0x9000 })
    let src := bodyAt e 0 8
    let keep := bit (bodyAt e 8 1) 0
    let h ← Cmd.readOnce e src 128
    if leAt h 0 4 ≠ 0x4B434256 ∨ leAt h 4 2 ≠ 1 ∨ leAt h 6 1 ≠ e.slot then Cmd.fail 0x13 0xA0
    else
      let image := h ++ (← Cmd.readOnce e (src + 128) (leAt h 24 8 - 128))
      (slotGroups s e.slot).forM (fun d => if gEmbed d.bytes then pure () else Cmd.declare (gStateBase d.bytes) (stateBytes d.bytes))
      let l ← if rowsWaited e then pure ((parseImage image (leAt h 32 4)).getD []) else (do
        let l ← Cmd.checkImage e h image
        Cmd.restoreState keep l
        return l)
      Cmd.restoreRest e l
      return ⟨0, 0, 0x9000, (l.filter (fun x => x.kind ≠ 7 || !keep)).length, 0⟩

end Sys2Proof.Machine
end

