-- ==== Sys2Proof/Machine/Coll.lean ====
section
/-! DEFINITION. Collectives: groups and trees, the reduction adders, REDUCE and SCALE_ROUND with their rounds and deadlines,
ALL_GATHER, ALL_TO_ALL and BROADCAST (14_collectives_and_exact_reduction). -/

namespace Sys2Proof.Machine

open Sys2Proof

/-! ## Groups (R297) -/

/-- N. -/
def cMembers (d : List Byte) : Nat := leAt d 8 2
/-- RANK. -/
def cRank (d : List Byte) : Nat := leAt d 10 2
/-- TREES. -/
def cTrees (d : List Byte) : Nat := leAt d 12 1
/-- BACKUP. -/
def cBackup (d : List Byte) : Bool := bit (leAt d 13 1) 1
/-- The pair port of a backup: P6 or P7. -/
def cPairPort (d : List Byte) : Nat := 6 + b2n (bit (leAt d 13 1) 2)
/-- A tree record. -/
def cTree (d : List Byte) (t : Nat) : Nat := leAt d (16 + 8 * t) 8
/-- The child ports of a tree. -/
def cKids (d : List Byte) (t : Nat) : List Nat := (seqFrom 0 8).filter (fun p => bit (bits (cTree d t) 23 16) p)
/-- The parent port of a tree; none at the root. -/
def cParent (d : List Byte) (t : Nat) : Option Nat :=
  if bits (cTree d t) 15 12 = 15 then none else some (bits (cTree d t) 15 12 % 8)
/-- ROOT of a tree. -/
def cRoot (d : List Byte) (t : Nat) : Nat := cTree d t % 4096

/-- The IDs of a group's members, ascending: those of the bitmap, which follows the descriptor's 128 bytes in the group's entry here. -/
def groupIds (d : List Byte) : List Nat :=
  let m := leAt d 128 512
  (seqFrom 0 4096).filter (fun i => m.testBit i)

/-- The role of a pair port: 0 NONE, 1 BACKED, 2 BACKUP (R306). -/
def pairRole (s : State) (port : Nat) : Nat :=
  if port = 6 then s.fieldAt Reg.PAIR_PORT_CFG 1 0 else s.fieldAt Reg.PAIR_PORT_CFG 9 8

/-- The pair ports whose partner backs this module. -/
def backedPorts (s : State) : List Nat := [6, 7].filter (fun p => decide (pairRole s p = 1))

/-- Whether a tree record holds no reserved value. -/
def treeOk (r : Nat) : Bool :=
  decide (r < 2 ^ 45) && decide (bits r 31 28 = 0) && decide (1 ≤ bits r 44 32 ∧ bits r 44 32 ≤ 4096) &&
  decide (bits r 15 12 < 8 ∨ bits r 15 12 = 15)

/-- Whether a group descriptor, with its bitmap behind it, is loaded (R297). -/
def collGroupOk (s : State) (d : List Byte) : Bool :=
  let ids := groupIds d
  let n := cTrees d
  bit (leAt d 13 1) 0 && decide (leAt d 13 1 < 8) && decide (leAt d 14 2 = ownId s) && decide (leAt d 0 8 % 64 = 0) &&
  decide (1 ≤ cMembers d ∧ cMembers d ≤ 4096 ∧ cMembers d = ids.length) && decide (1 ≤ n ∧ n ≤ 8) &&
  (seqFrom n (8 - n)).all (fun t => cTree d t = 0) && decide (leAt d 80 48 = 0) && decide (cRank d < 4096) &&
  (if cBackup d then
    !ids.contains (ownId s) && decide (pairRole s (cPairPort d) = 2) && (seqFrom 0 n).all (fun t => cTree d t = 0)
   else
    ids.contains (ownId s) && decide (cRank d = (ids.filter (fun i => decide (i < ownId s))).length) &&
    (seqFrom 0 n).all (fun t => treeOk (cTree d t)))

/-- A group's descriptor and its bitmap, read at the commit. -/
def readGroup (s : State) (a : Nat) : Option (List Byte) :=
  (tryRead s a 128).bind (fun d => (tryRead s (leAt d 0 8) 512).map (fun m => d ++ m))

/-- The groups loaded by a Collectives commit, from their words as they are scanned. -/
def loadCollGroups (s0 : State) : State :=
  let base := s0.pair Reg.COLL_GROUP_TABLE_LO / 2 ^ 7 * 2 ^ 7
  let ks := seqFrom 0 (s0.fieldAt Reg.COLL_GROUP_ENTRIES 6 0)
  let s1 := scanWords s0 base (128 * ks.length)
  let s := ks.foldl (fun s k => match tryRead s (base + 128 * k) 128 with
    | some d => scanWords s (leAt d 0 8) 512
    | none => s) s1
  let ds := ks.filterMap (fun k =>
    match readGroup s (base + 128 * k) with
    | some d => if collGroupOk s d then some (⟨k, d⟩ : Desc) else none
    | none => none)
  { s with coll := { s.coll with groups := ds } }.setPair Reg.COLL_GROUP_LOADED_LO
    (maskBits 64 (fun k => ds.any (fun d => d.index = k)))

/-- The descriptor of a loaded group. -/
def collGroup (s : State) (k : Nat) : List Byte := ((s.coll.groups.find? (fun d => d.index = k)).map (fun d => d.bytes)).getD []

/-! ## Reductions by name (R298) -/

/-- The open reduction of a name. -/
def findRed (s : State) (g l st : Nat) : Option Reduction :=
  s.coll.reductions.find? (fun r => r.group = g && r.layer = l && r.step = st)

/-- Whether two reductions have one name. -/
def sameName (a b : Reduction) : Bool := a.group = b.group && a.layer = b.layer && a.step = b.step

/-- A reduction as it now stands. -/
def refresh (s : State) (r : Reduction) : Reduction := (findRed s r.group r.layer r.step).getD r

/-- The state with an open reduction replaced. -/
def putRed (s : State) (r : Reduction) : State :=
  { s with coll := { s.coll with reductions := s.coll.reductions.map (fun x => if sameName x r then r else x) } }

/-- A reduction just opened. -/
def newRed (g l st : Nat) : Reduction := ⟨g, l, st, none, [], 1, 0, 0, [], [], false, 0, false, none, none⟩

/-- A reduction opened at its first input (R307); none beyond 64 open ones. -/
def openRed (s : State) (g l st : Nat) : Option State :=
  if (findRed s g l st).isSome then some s
  else if 64 ≤ s.coll.reductions.length then none
  else some { s with coll := { s.coll with reductions := s.coll.reductions ++ [newRed g l st] } }

/-- A reduction ended. -/
def closeRed (s : State) (r : Reduction) : State :=
  { s with coll := { s.coll with reductions := s.coll.reductions.filter (fun x => !sameName x r) } }

/-! ## The local command of a reduction -/

/-- A number of the local command's body. -/
def Reduction.body (r : Reduction) (off size : Nat) : Nat := leAt r.pkt (64 + off) size

/-- Whether the local command is a SCALE_ROUND. -/
def Reduction.scale (r : Reduction) : Bool := !r.pkt.isEmpty && decide (pktOp r.pkt = 0x54)

/-- Whether a local command has been dispatched and has not ended. -/
def Reduction.live (r : Reduction) : Bool := r.tag.isSome && r.outcome.isNone

/-- ELEMS. -/
def Reduction.elems (r : Reduction) : Nat := r.body 12 4
/-- SRC_ELEM. -/
def Reduction.srcElem (r : Reduction) : Nat := if r.scale then r.body 1 1 else r.body 16 1
/-- SRC_BASE. -/
def Reduction.src (r : Reduction) : Nat := if r.scale then r.body 16 8 else r.body 24 8
/-- DST_BASE. -/
def Reduction.dst (r : Reduction) : Nat := if r.scale then r.body 24 8 else r.body 32 8
/-- SCALE_REC. -/
def Reduction.record (r : Reduction) : Nat := if r.scale then r.body 32 8 else r.body 40 8
/-- EXP_PATCH. -/
def Reduction.patch (r : Reduction) : Nat := if r.scale then r.body 40 8 else r.body 48 8
/-- REDUCE_SCATTER. -/
def Reduction.scatter (r : Reduction) : Bool := !r.pkt.isEmpty && !r.scale && decide (r.body 1 1 = 1)
/-- Chunks of the layer. -/
def Reduction.count (r : Reduction) : Nat := ceilDiv r.elems 10880

/-- ⌈log2 n⌉. -/
def ceilLog2 (n : Nat) : Nat := if n ≤ 1 then 0 else log2 (n - 1) + 1

/-- H (R295). -/
def headroom (field members : Nat) : Nat := if field = 0 then ceilLog2 members else field

/-- H of a reduction's local command. -/
def Reduction.h (r : Reduction) (d : List Byte) : Nat := headroom (if r.scale then r.body 2 1 else r.body 3 1) (cMembers d)

/-- E_fresh (R294). -/
def eFresh (emax : Option Int) (h : Nat) : Int :=
  match emax with
  | none => -256
  | some x => clampInt (x + h - 45) (-256) 127

/-- The larger of two EMAX. -/
def maxE (a b : Option Int) : Option Int :=
  match a, b with
  | none, x => x
  | x, none => x
  | some x, some y => some (max x y)

/-! ## Contributions (R299, R304) -/

/-- One element's lane, EMAX, and whether it is over-range and non-finite. `e1`: the exponent of an FS48 source. -/
structure LaneIn where
  lane : Nat
  emax : Option Int
  overRange : Bool
  bad : Bool
  deriving DecidableEq, Repr

/-- The lane of a non-finite element: poison. -/
def badLane : LaneIn := ⟨2 ^ 47, none, false, true⟩

/-- A source element turned into a lane at exponent `e`; |q| beyond 2^(46 − H) is over-range (R293, R299, R304). -/
def laneOf (elem h : Nat) (e1 e : Int) (x : Nat) : LaneIn :=
  let lane (v : Val) (em : Option Int) : LaneIn :=
    let c := (toFs 0x0E e v).1
    ⟨c, em, decide (2 ^ (46 - h) < (signed 48 c).natAbs), false⟩
  let expOf (v : Val) : Option Int := if v.isZero then none else some ((log2 v.sig.natAbs : Int) + v.exp)
  if fsFmt elem then
    let q := signed 48 x
    if q = -2 ^ 47 ∨ q.natAbs = 2 ^ 47 - 1 then badLane
    else
      let v := Val.of q e1
      lane v (expOf v)
  else
    let v := decodeElem elem 0 0 x
    if v.finite then lane v (expOf v) else badLane

/-- The elements of chunk `k` of a source. -/
def Cmd.sourceChunk (r : Reduction) (k : Nat) : Cmd (List Nat) := do
  let w := fmtBits r.srcElem / 8
  let n := min 10880 (r.elems - 10880 * k)
  return (chunks w (n + 1) (← Cmd.read (r.src + w * 10880 * k) (w * n))).map leNat

/-- Source elements converted, each an eligible event of the GRADIENT rules that name the reduction: an injected one is treated
as non-finite (R299, R378). -/
def Cmd.convertLanes (r : Reduction) (conv : Nat → LaneIn) (xs : List Nat) : Cmd (List LaneIn) := do
  if (← Cmd.state).undertow.isEmpty then return xs.map conv
  else xs.mapM (fun x => do
    let (hits, s1) := uwEvents (← Cmd.state) (fun u => decide (u.target = 4) && decide (u.location % 64 = r.group) &&
      (decide (u.location / 2 ^ 32 = 0xFFFFFFFF) || decide (u.location / 2 ^ 32 = r.layer)))
    Cmd.update (fun _ => s1)
    return if hits.isEmpty then conv x else badLane)

/-- The module's own contribution to chunk `k` at the reduction's exponent (R299). -/
def Cmd.ownChunk (r : Reduction) (d : List Byte) (k : Nat) : Cmd Chunk := do
  let xs ← Cmd.sourceChunk r k
  let ls ← Cmd.convertLanes r (laneOf r.srcElem (r.h d) r.e1 r.e) xs
  return { group := r.group, tree := k % cTrees d, overRange := ls.any (fun l => l.overRange), saturated := false, down := false,
           fromBackup := cBackup d, pass2 := decide (r.pass = 2), layer := r.layer, step := r.step, chunk := k, e := r.e,
           emax := ls.foldl (fun a l => maxE a l.emax) none, count := 1, rank := cRank d,
           nonfinite := (ls.filter (fun l => l.bad)).length, lanes := ls.map (fun l => l.lane) }

/-- EMAX and the number of non-finite elements of the whole source (R312). -/
def Cmd.scanSource (r : Reduction) : Cmd (Option Int × Nat) := do
  let parts ← (seqFrom 0 r.count).mapM (fun k => do
    let ls ← Cmd.convertLanes r (laneOf r.srcElem 0 0 0) (← Cmd.sourceChunk r k)
    return (ls.foldl (fun a l => maxE a l.emax) none, (ls.filter (fun l => l.bad)).length))
  return parts.foldl (fun a p => (maxE a.1 p.1, a.2 + p.2)) (none, 0)

/-! ## Adders (R292) -/

/-- A lane of a sum of `x`: clamped to ±(2^47 − 1), and whether it was. -/
def clampLane (x : Int) : Nat × Bool := (unsigned 48 (clampInt x (-(2 ^ 47 - 1)) (2 ^ 47 - 1)), decide (2 ^ 47 - 1 < x.natAbs))

/-- Two lanes added. -/
def addLane (a b : Nat) : Nat × Bool :=
  if a = 2 ^ 47 ∨ b = 2 ^ 47 then (2 ^ 47, false) else clampLane (signed 48 a + signed 48 b)

/-- Two chunks summed (R300 step 1). -/
def addChunks (a b : Chunk) : Chunk :=
  let ls := (a.lanes.zip b.lanes).map (fun p => addLane p.1 p.2)
  { a with overRange := a.overRange || b.overRange, saturated := a.saturated || b.saturated || ls.any (fun l => l.2),
           fromBackup := false, emax := maxE a.emax b.emax, count := a.count + b.count, rank := 0xFFFF,
           nonfinite := a.nonfinite + b.nonfinite, lanes := ls.map (fun l => l.1) }

/-- A lane renormalised: round_nearest_even(q × N / n) (R308). -/
def scaleLane (n members q : Nat) : Nat × Bool :=
  if q = 2 ^ 47 ∨ n = 0 then (q, false)
  else
    let x := signed 48 q * members
    let a := x.natAbs / n
    let m := x.natAbs % n
    let y := if n < 2 * m ∨ (2 * m = n ∧ a % 2 = 1) then a + 1 else a
    clampLane (if x < 0 then -(y : Int) else y)

/-- A root's sum of fewer than N contributors renormalised (R308). -/
def renormalise (members : Nat) (c : Chunk) : Chunk :=
  if c.count < members then
    let ls := c.lanes.map (scaleLane c.count members)
    { c with lanes := ls.map (fun l => l.1), saturated := c.saturated || ls.any (fun l => l.2) }
  else c

/-! ## Messages -/

/-- An exponent as 16 bits; 0x8000 for NONE. -/
def exp16 (x : Option Int) : Nat :=
  match x with
  | none => 0x8000
  | some v => unsigned 16 v

/-- A chunk as the content of a message (Chunk header). -/
def chunkContent (c : Chunk) : Content :=
  ⟨.chunk, [c.group, c.tree, b2n c.overRange + 2 * b2n c.saturated + 4 * b2n c.down + 8 * b2n c.fromBackup + 16 * b2n c.pass2,
    c.layer, c.step, c.chunk, unsigned 16 c.e, exp16 c.emax, c.count, c.rank, c.nonfinite], c.lanes.flatMap (toLE 6)⟩

/-- Round values as the content of a message. -/
def roundContent (v : RoundValues) : Content :=
  ⟨.scale, [v.group, v.layer, v.step, v.round, b2n v.down, b2n v.overRange, b2n v.saturated, v.nonfinite, exp16 v.emax, v.count], []⟩

/-- A piece as the content of a message: TC2 for ALL_TO_ALL, TC1 for the others (R313). -/
def pieceContent (p : Piece) : Content :=
  ⟨if p.opcode = 0x52 then .piece else .treePiece,
    [p.opcode, p.group, p.layer, p.step, p.rank, p.index, p.total, b2n p.down], p.bytes⟩

/-! ## Accesses of the adders -/

/-- What an access of the adders came to: its value, or the status and detail it fails with; the state; whether it met a corrected error;
where it met poison. -/
structure Access (α : Type) where
  got : Except (Nat × Nat) α
  s : State
  corrected : Bool
  poisonAt : Nat

/-- A computation of the adders run; none while a held stack or the host link keeps it back. Its writes end the replay records they meet
(R368). -/
def serveColl {α : Type} (c : Cmd α) (s : State) : Option (Access α) :=
  let (x, env) := Cmd.serve c s
  let done (g : Except (Nat × Nat) α) : Option (Access α) :=
    some ⟨g, dropRecords env.s env.outs, env.corrected, (env.poison.map (fun p => p.2)).getD 0⟩
  match x with
  | .ok a => done (.ok a)
  | .error (.fail st d _) => done (.error (st, d))
  | .error (.bad d) => done (.error (0x11, d))
  | .error (.wait .host) => none
  | .error .hold => none
  | .error _ => done (.error (0x14, 0x01))

/-- A command that waits in its collective ends with an outcome; its place in the collective stays until it completes (R298, R314).
Corrected errors met on the way make DONE into DONE_CORRECTED. -/
def endCollective (s : State) (tag : Nat) (o : Done) : State :=
  setEntry s tag (fun e => if e.phase = .running .collective then
    { e with phase := .finished { o with status := if o.status = 0 && decide (0 < e.reruns) then 1 else o.status } } else e)

/-- What a failed access leaves of a command: its outputs undefined where the status says so, the record of POISON (R49, R371). -/
def noteFailed (s : State) (tag : Option Nat) (engine status detail address : Nat) (outs : List (Nat × Nat)) : State :=
  let s1 := if leavesUndefined status then undefOutputs s outs else s
  match tag.bind (entryOf s1) with
  | some e => if status = 0x14 then notePoison s1 e engine detail address else s1
  | none => s1

/-- The ENGINE of a collective: its one tree port, or several units. -/
def collEngine (s : State) (d : List Byte) : Nat :=
  let ports := (((seqFrom 0 (cTrees d)).flatMap (fun t => cKids d t ++ (cParent d t).toList)) ++
    (if cBackup d then [cPairPort d] else backedPorts s)).dedup
  match ports with
  | [] => 0x8000
  | [p] => 0x8000 + p
  | _ => 0xF000

/-! ## Chunks (R300, R306 to R308) -/

/-- A chunk state with no input yet. -/
def newChunk (idx : Nat) (pass2 : Bool) (now : Nat) : ChunkState := ⟨idx, pass2, now, 0, [], [], none, false, none, false⟩

/-- A chunk of a reduction, opened at its first input. -/
def Reduction.chunkOf (r : Reduction) (idx : Nat) (pass2 : Bool) (now : Nat) : ChunkState :=
  (r.chunks.find? (fun c => c.index = idx && c.pass2 = pass2)).getD (newChunk idx pass2 now)

/-- A chunk of a reduction replaced. -/
def Reduction.putChunk (r : Reduction) (c : ChunkState) : Reduction :=
  let rest := r.chunks.filter (fun x => !(x.index = c.index && x.pass2 = c.pass2))
  { r with chunks := rest ++ [c] }

/-- A contribution added to a chunk's partial sum, in which no copy is the backup's any more (R306). -/
def ChunkState.add (c : ChunkState) (x : Chunk) : ChunkState :=
  { c with sum := some (match c.sum with | none => { x with fromBackup := false } | some y => addChunks y x) }

/-- The module's own slot filled by a copy: 1 its own, 2 the backup's; a second copy is discarded and counted (R306, R307). -/
def fillOwn (s : State) (r : Reduction) (copy : Nat) (x : Chunk) : State :=
  let c := r.chunkOf x.chunk x.pass2 s.now
  if c.own = 0 then
    let r1 := r.putChunk ({ c with own := copy }.add x)
    putRed s { r1 with notes := if copy = 2 then r1.notes ||| 2 ^ 21 else r1.notes }
  else if c.own = 3 then s.count Reg.COLL_LATE_DISCARDS 1
  else s.count Reg.COLL_DUP_DISCARDS 1

/-- The module's own contributions to all chunks, at once; a backup sends them over its pair port (R306). -/
def contribute (s : State) (r : Reduction) (d : List Byte) (cs : List Chunk) : State :=
  if cBackup d then cs.foldl (fun s c => sendOnPort s (cPairPort d) (chunkContent c)) s
  else cs.foldl (fun s c => fillOwn s (refresh s r) 1 c) s

/-- The final chunk here: kept, and sent down the tree (ALL_REDUCE) and to a backup (R300 step 2, R306). -/
def takeFinal (s : State) (r : Reduction) (d : List Byte) (x : Chunk) (down : Bool) : State :=
  let c := r.chunkOf x.chunk x.pass2 s.now
  let r1 := r.putChunk { c with final := some x }
  let s1 := putRed s { r1 with e := x.e, notes := if x.count < cMembers d then r1.notes ||| 2 ^ 19 else r1.notes }
  let s2 := if x.saturated then s1.setBit Reg.COLL_EVENT 2 true else s1
  if cBackup d then s2
  else ((if down then cKids d x.tree else []) ++ backedPorts s).foldl (fun s p => sendOnPort s p (chunkContent x)) s2

/-- Whether every slot of a chunk has come or is excluded. -/
def ChunkState.ready (c : ChunkState) (d : List Byte) : Bool :=
  c.own ≠ 0 && (cKids d (c.index % cTrees d)).all (fun p => c.kids.contains p || c.excluded.contains p)

/-- Whether this member writes a chunk's result: each under ALL_REDUCE, that of rank c mod N alone under REDUCE_SCATTER (R300). -/
def Reduction.writes (r : Reduction) (d : List Byte) (k : Nat) : Bool := !r.scatter || decide (k % max 1 (cMembers d) = cRank d)

/-- A ready chunk sent on: up, or at the root down or to the member it is scattered to (R300). A root whose REDUCE has not been dispatched
knows no MODE and sends the sum down its tree (log entry 29). -/
def sendChunk (s : State) (d : List Byte) (r : Reduction) (c : ChunkState) : State :=
  let t := c.index % cTrees d
  match c.sum with
  | none => putRed s (r.putChunk { c with sent := true })
  | some x =>
    match cParent d t with
    | some p => sendOnPort (putRed s (r.putChunk { c with sent := true })) p (chunkContent x)
    | none =>
      let y := { renormalise (cMembers d) x with down := true, rank := 0xFFFF, fromBackup := false }
      let s1 := putRed s (r.putChunk { c with sent := true, sum := some y })
      if r.scatter then
        let dest := ((groupIds d)[c.index % max 1 (cMembers d)]?).getD (ownId s)
        if dest = ownId s then takeFinal s1 (refresh s1 r) d y false else (sendMessage s1 dest (chunkContent y)).2
      else takeFinal s1 (refresh s1 r) d y true

/-- The chunks that are ready are sent on. -/
def sendReady (s : State) (d : List Byte) (r : Reduction) : State :=
  r.chunks.foldl (fun s c =>
    let r' := refresh s r
    let c' := r'.chunkOf c.index c.pass2 s.now
    if !c'.sent && c'.ready d then sendChunk s d r' c' else s) s

/-- The outcome of a local command that a unit's access ended. -/
def failRed {α : Type} (x : Access α) (d : List Byte) (r : Reduction) (e : Nat × Nat) : State :=
  let engine := collEngine x.s d
  putRed (noteFailed x.s r.tag engine e.1 e.2 x.poisonAt [(r.dst, 6 * r.elems)])
    { r with outcome := some ⟨e.1, e.2, engine, 0, r.notes⟩ }

/-- A corrected error met for a reduction (R303). -/
def Reduction.meeting {α : Type} (r : Reduction) (x : Access α) : Reduction := { r with corrected := r.corrected || x.corrected }

/-- The final chunks not yet written are written at DST for a live local REDUCE, those that this member writes (R300). -/
def writeFinals (s : State) (d : List Byte) (r : Reduction) : State :=
  r.chunks.foldl (fun s c =>
    let r' := refresh s r
    let c' := r'.chunkOf c.index c.pass2 s.now
    match c'.final with
    | some x =>
      if r'.live && !r'.scale && !c'.written then
        if !r'.writes d c'.index then putRed s (r'.putChunk { c' with written := true })
        else match serveColl (Cmd.write (r'.dst + 65280 * x.chunk) (x.lanes.flatMap (toLE 6))) s with
        | none => s
        | some w =>
          match w.got with
          | .ok _ => putRed w.s ((r'.meeting w).putChunk { c' with written := true })
          | .error e => failRed w d r' e
      else s
    | none => s) s

/-! ## Rounds (R301, R302, R312) -/

/-- A round of a reduction. -/
def Reduction.roundOf (r : Reduction) (n : Nat) : RoundState :=
  (r.rounds.find? (fun x => x.round = n)).getD ⟨n, none, [], false, none, false⟩

/-- A round of a reduction replaced. -/
def Reduction.putRound (r : Reduction) (x : RoundState) : Reduction :=
  { r with rounds := r.rounds.filter (fun y => y.round ≠ x.round) ++ [x] }

/-- Neutral values: nothing over, no elements, every chunk full. -/
def neutralValues (r : Reduction) (d : List Byte) (round : Nat) : RoundValues :=
  ⟨r.group, r.layer, r.step, round, false, false, false, 0, none, cMembers d⟩

/-- Two sets of values combined (R302). -/
def combineValues (a b : RoundValues) : RoundValues :=
  { a with overRange := a.overRange || b.overRange, saturated := a.saturated || b.saturated, nonfinite := a.nonfinite + b.nonfinite,
           emax := maxE a.emax b.emax, count := min a.count b.count }

/-- The totals of the chunks this module is the root of in a pass. -/
def rootTotals (d : List Byte) (r : Reduction) (pass2 : Bool) (round : Nat) : RoundValues :=
  (r.chunks.filter (fun c => c.pass2 = pass2 && (cParent d (c.index % cTrees d)).isNone && c.sent)).foldl (fun v c =>
    match c.sum with
    | some x => combineValues v { v with overRange := x.overRange, saturated := x.saturated, nonfinite := x.nonfinite,
                                         emax := x.emax, count := x.count }
    | none => v) (neutralValues r d round)

/-- The chunks of a layer as far as they are known here: from the local REDUCE, or from a chunk shorter than the others, which is the
last (log entry 29). -/
def Reduction.known (r : Reduction) : Option Nat :=
  if !r.pkt.isEmpty then some r.count
  else (r.chunks.find? (fun c => decide (((c.final.orElse (fun _ => c.sum)).map (fun x => x.lanes.length)).getD 10880 < 10880))).map
    (fun c => c.index + 1)

/-- Whether a member is past its last chunk of a pass: all it sends is sent, all it is to receive is here. A module without a local
REDUCE receives nothing for itself, and is past a chunk once it has sent it or seen its result. -/
def passOver (d : List Byte) (r : Reduction) (pass2 : Bool) : Bool :=
  let mine := r.chunks.filter (fun c => c.pass2 = pass2)
  let over_ (c : ChunkState) : Bool :=
    if r.pkt.isEmpty then c.sent || c.final.isSome else c.sent && (c.final.isSome || !r.writes d c.index)
  match r.known with
  | none => false
  | some n => (seqFrom 0 n).all (fun k => mine.any (fun c => decide (c.index = k) && over_ c))

/-- This module's values of the closing round of the current pass, once it is past its last chunk. -/
def enterClosing (s : State) (d : List Byte) (r : Reduction) : State :=
  let x := r.roundOf r.pass
  if cBackup d || r.scale || x.own.isSome || !passOver d r (decide (r.pass = 2)) then s
  else putRed s (r.putRound { x with own := some (rootTotals d r (decide (r.pass = 2)) r.pass) })

/-- The combined values here: kept, and sent down tree 0 and to a backup. -/
def takeResult (s : State) (d : List Byte) (r : Reduction) (v : RoundValues) : State :=
  let s0 := if v.saturated then s.setBit Reg.COLL_EVENT 2 true else s
  let s1 := putRed s0 (r.putRound { r.roundOf v.round with result := some v })
  if cBackup d then s1 else (cKids d 0 ++ backedPorts s).foldl (fun s p => sendOnPort s p (roundContent v)) s1

/-- The rounds whose parts are all here go up tree 0, or at its root come down. -/
def sendRounds (s : State) (d : List Byte) (r : Reduction) : State :=
  r.rounds.foldl (fun s x =>
    let r' := refresh s r
    let x' := r'.roundOf x.round
    match x'.own with
    | none => s
    | some own =>
      if x'.sent || !(cKids d 0).all (fun p => x'.kids.any (fun k => k.1 = p)) then s
      else
        let v := x'.kids.foldl (fun v k => combineValues v k.2) own
        let s1 := putRed s (r'.putRound { x' with sent := true })
        match cParent d 0 with
        | some p => sendOnPort s1 p (roundContent v)
        | none => takeResult s1 d (refresh s1 r) { v with down := true }) s

/-! ## Decisions (R303, R312) -/

/-- The 16 bytes of a scale record. -/
def recordOf (eUsed fresh : Int) (emax : Option Int) (h : Nat) (again : Bool) (step : Nat) : List Byte :=
  toLE 2 (unsigned 16 eUsed) ++ toLE 2 (unsigned 16 fresh) ++ toLE 2 (exp16 emax) ++ toLE 1 h ++ toLE 1 (1 + 2 * b2n again) ++
  toLE 4 step ++ toLE 4 0

/-- The patch and the record written at completion (R296, R303): the record last, so that a write that fails leaves it unchanged. -/
def Cmd.writeRecord (r : Reduction) (d : List Byte) (e : Int) (emax : Option Int) : Cmd Unit := do
  if r.patch ≠ 0 then Cmd.write r.patch (toLE 2 (unsigned 16 e))
  if r.record ≠ 0 then Cmd.write r.record (recordOf e (eFresh emax (r.h d)) emax (r.h d) (decide (r.pass = 2)) r.step)

/-- The NOTES bits of a decision. -/
def decisionNotes (r : Reduction) (v : RoundValues) (propagate : Bool) (members : Nat) : Nat :=
  r.notes ||| (if v.count < members then 2 ^ 19 else 0) ||| (if r.pass = 2 then 2 ^ 16 else 0) ||| (if v.saturated then 2 ^ 17 else 0) |||
  (if 0 < v.nonfinite && propagate then 2 ^ 18 else 0)

/-- The outcome of a REDUCE whose last closing round gave `v` (R303 rules 1 and 3, R310). -/
def finishReduce (s : State) (d : List Byte) (r : Reduction) (v : RoundValues) : State :=
  let skip := decide (0 < v.nonfinite) && decide (s.fieldAt Reg.COLL_NONFINITE_POLICY 0 0 = 0)
  let result := unsigned 16 r.e + 2 ^ 16 * (v.count % 2 ^ 13) + 2 ^ 32 * (v.nonfinite % 2 ^ 32)
  let notes := decisionNotes r v (!skip) (cMembers d)
  let put (s : State) (st dt : Nat) : State := putRed s { r with outcome := some ⟨st, dt, collEngine s d, result, notes⟩ }
  if skip then put s 0x17 0x01
  else
    match serveColl (Cmd.writeRecord r d r.e v.emax) s with
    | none => s
    | some w =>
      match w.got with
      | .error e => failRed w d r e
      | .ok _ => if v.count < cMembers d then put w.s 0x18 0x01 else put w.s (b2n (r.corrected || w.corrected)) 0

/-- The conversion of a SCALE_ROUND's source into DST at `e` (R312). -/
def Cmd.convertSource (r : Reduction) (e : Int) : Cmd Unit :=
  (seqFrom 0 r.count).forM (fun k => do
    let ls ← Cmd.convertLanes r (laneOf r.srcElem 0 0 e) (← Cmd.sourceChunk r k)
    Cmd.write (r.dst + 65280 * k) (ls.flatMap (fun l => toLE 6 l.lane)))

/-- The outcome of a SCALE_ROUND (R312); under PROPAGATE its RESULT gives the poison count (R305). -/
def finishScale (s : State) (d : List Byte) (r : Reduction) (v : RoundValues) : State :=
  let e := eFresh v.emax (r.h d)
  let skip := decide (0 < v.nonfinite) && decide (s.fieldAt Reg.COLL_NONFINITE_POLICY 0 0 = 0)
  let notes := decisionNotes r v (!skip) (cMembers d)
  match serveColl (do
      Cmd.convertSource r e
      if skip then pure () else Cmd.writeRecord r d e v.emax) s with
  | none => s
  | some w =>
    match w.got with
    | .error x => failRed w d r x
    | .ok _ =>
      putRed w.s { r with e := e, outcome := some ⟨if skip then 0x17 else b2n (r.corrected || w.corrected), b2n skip,
                                                  collEngine s d, if skip then 0 else 2 ^ 32 * (v.nonfinite % 2 ^ 32), notes⟩ }

/-- A pass begun at exponent `e`: the module's contributions to it (R299, R301, R304), those of a REDUCE that has ended too (R309). None
while the source is held. -/
def startPass (s : State) (d : List Byte) (r : Reduction) (pass : Nat) (e : Int) : Option State :=
  let r1 := { r with pass := pass, e := e, e1 := if pass = 1 then e else r.e1 }
  if r1.pkt.isEmpty then some (putRed s r1)
  else (serveColl ((seqFrom 0 r1.count).mapM (Cmd.ownChunk r1 d)) s).map (fun w =>
    match w.got with
    | .error x => if r1.live then failRed w d r1 x else putRed w.s r1
    | .ok cs => contribute (putRed w.s (r1.meeting w)) r1 d cs)

/-- What follows a round's combined values, if they are here and not yet acted on (R301, R303, R309). -/
def decide_ (s : State) (d : List Byte) (r : Reduction) : State :=
  r.rounds.foldl (fun s x =>
    let r' := refresh s r
    let x' := r'.roundOf x.round
    match x'.result with
    | none => s
    | some v =>
      if x'.decided then s
      else
        let mark (s : State) : State :=
          let q := refresh s r
          putRed s (q.putRound { q.roundOf x.round with decided := true })
        if x.round = 0 then
          if r'.pkt.isEmpty then s
          else if r'.scale then
            (let s1 := if r'.live then finishScale s d r' v else s
             if (refresh s1 r).live then s1
             else mark (putRed s1 { refresh s1 r with closed := some s.now }))
          else ((startPass s d r' 1 (eFresh v.emax (r'.h d))).map mark).getD s
        else
          let skip := decide (0 < v.nonfinite) && decide (s.fieldAt Reg.COLL_NONFINITE_POLICY 0 0 = 0)
          if x.round = 1 && v.overRange && !skip then
            ((startPass s d r' 2 (eFresh v.emax (r'.h d))).map (fun s1 => mark (s1.count Reg.COLL_REREDUCE 1))).getD s
          else mark (putRed s { r' with closed := some s.now })) s

/-- Whether every result that a REDUCE writes has come and is written, in the pass that is its last. -/
def Reduction.settled (r : Reduction) (d : List Byte) : Bool :=
  r.chunks.all (fun c => c.final.isNone || c.written) &&
  (seqFrom 0 r.count).all (fun k => !r.writes d k ||
    r.chunks.any (fun c => decide (c.index = k) && decide (c.pass2 = decide (r.pass = 2)) && c.written))

/-- A live REDUCE whose closing round has ended, and whose results are all written, gets its outcome. -/
def finishLocal (s : State) (d : List Byte) (r : Reduction) : State :=
  match r.closed, (r.roundOf r.pass).result with
  | some _, some v => if r.live && !r.scale && r.settled d then finishReduce s d r v else s
  | _, _ => s

/-- One sweep over a reduction. -/
def sweepRed (s : State) (r : Reduction) : State :=
  let d := collGroup s r.group
  let now (s : State) : Reduction := refresh s r
  let s1 := sendReady s d (now s)
  let s2 := writeFinals s1 d (now s1)
  let s3 := enterClosing s2 d (now s2)
  let s4 := sendRounds s3 d (now s3)
  let s5 := decide_ s4 d (now s4)
  finishLocal s5 d (now s5)

/-- A reduction moved as far as its inputs take it. -/
def progressRed (s : State) (g l st : Nat) : State :=
  (seqFrom 0 8).foldl (fun s _ =>
    match findRed s g l st with
    | some r => sweepRed s r
    | none => s) s

/-- A reduction's outcome goes to its command; one whose closing round has ended and whose command has completed is closed (R298,
R309). -/
def reapRed (s : State) (g l st : Nat) : State :=
  match findRed s g l st with
  | none => s
  | some r =>
    if r.closed.isSome && r.tag.isNone && !r.pkt.isEmpty then closeRed s r
    else match r.outcome, r.tag with
      | some o, some t => endCollective s t o
      | _, _ => s

/-- A reduction moved on after an event at this module. -/
def advanceRed (s : State) (g l st : Nat) : State := reapRed (progressRed s g l st) g l st

/-- A command that completes leaves its reduction, to the adders where its closing round has not ended, and its collective (R309,
R314). -/
def leaveColl (s : State) (tag : Nat) : State :=
  { s with coll := { s.coll with
      reductions := (s.coll.reductions.map (fun r => if r.tag = some tag then { r with tag := none } else r)).filter
        (fun r => !(r.closed.isSome && r.tag.isNone && !r.pkt.isEmpty)),
      runs := s.coll.runs.filter (fun r => r.tag ≠ tag) } }

/-! ## Inputs of the adders -/

/-- A chunk taken by the port adders (R300, R306, R307). None: it waits in its queue. -/
def receiveChunk (s : State) (port : Nat) (c : Chunk) : Option State :=
  let d := collGroup s c.group
  if d.isEmpty then some s
  else match openRed s c.group c.layer c.step with
    | none => none
    | some s1 =>
      match findRed s1 c.group c.layer c.step with
      | none => some s
      | some r =>
        let s2 :=
          if c.down then
            takeFinal s1 r d c (decide (cParent d c.tree = some port) && (!r.scatter || !r.writes d c.chunk))
          else if c.fromBackup then (if (backedPorts s1).contains port then fillOwn s1 r 2 c else s1)
          else
            let x := r.chunkOf c.chunk c.pass2 s1.now
            if x.excluded.contains port then s1.count Reg.COLL_LATE_DISCARDS 1
            else if x.kids.contains port || !(cKids d c.tree).contains port then s1
            else putRed s1 (r.putChunk ({ x with kids := x.kids ++ [port] }.add c))
        some (advanceRed s2 c.group c.layer c.step)

/-- Round values taken (R302). -/
def receiveValues (s : State) (port : Nat) (v : RoundValues) : Option State :=
  let d := collGroup s v.group
  if d.isEmpty then some s
  else match openRed s v.group v.layer v.step with
    | none => none
    | some s1 =>
      match findRed s1 v.group v.layer v.step with
      | none => some s
      | some r =>
        let x := r.roundOf v.round
        let s2 :=
          if v.down then (if x.result.isSome then s1 else takeResult s1 d r v)
          else if x.kids.any (fun k => k.1 = port) || !(cKids d 0).contains port then s1
          else putRed s1 (r.putRound { x with kids := x.kids ++ [(port, v)] })
        some (advanceRed s2 v.group v.layer v.step)

/-- COLL_DEADLINE in nanoseconds. -/
def collDeadline (s : State) : Nat := 1000 * s.fieldAt Reg.COLL_DEADLINE 19 0

/-- The ports a group's tree records name. -/
def treePorts (d : List Byte) : List Nat :=
  ((seqFrom 0 (cTrees d)).flatMap (fun t => cKids d t ++ (cParent d t).toList)).dedup

/-- Whether a recovery of R277 to R284 runs on a port. -/
def recoveringPort (s : State) (p : Nat) : Bool := (s.port p).downSince.isSome

/-- The slots of a chunk past their deadline at `time`: whether its own, and the child ports (R307). -/
def lateSlots (s : State) (d : List Byte) (c : ChunkState) (time : Nat) : Bool × List Nat :=
  let t := c.index % cTrees d
  let height := bits (cTree d t) 27 24
  if c.sent || c.final.isSome || (treePorts d).any (recoveringPort s) then (false, [])
  else (decide (c.own = 0) && decide (c.first + collDeadline s ≤ time),
    (cKids d t).filter (fun p => !c.kids.contains p && !c.excluded.contains p &&
      decide (c.first + height * collDeadline s ≤ time)))

/-- The late slots of one reduction under COLL_MISSING_POLICY (R307). -/
def expireRed (s : State) (r : Reduction) (time : Nat) : State :=
  let d := collGroup s r.group
  let due := (r.chunks.map (fun c => (c, lateSlots s d c time))).filter (fun p => p.2.1 || !p.2.2.isEmpty)
  if due.isEmpty || cBackup d then s
  else if s.fieldAt Reg.COLL_MISSING_POLICY 0 0 = 0 then
    let s1 := putRed (s.setBit Reg.COLL_EVENT 0 true) { r with late := true, notes := r.notes ||| 2 ^ 20 }
    if !r.late && s.bitAt Reg.COLL_LATE_CTR 15 then addCounter s1 (s.fieldAt Reg.COLL_LATE_CTR 11 0) 1 else s1
  else
    let r1 := due.foldl (fun r p =>
      r.putChunk { p.1 with own := if p.2.1 then 3 else p.1.own, excluded := p.1.excluded ++ p.2.2 }) r
    let slots := due.foldl (fun n p => n + b2n p.2.1 + p.2.2.length) 0
    let s1 := s.setBit Reg.COLL_EVENT 1 true
    advanceRed (putRed { s1 with mgmt := { s1.mgmt with excluded := s1.mgmt.excluded + slots } } r1) r.group r.layer r.step

/-- A pause of the deadline clocks while a port recovered, from `since` until now (R307). The part during which another port of the
trees recovered and still does is left to that port's end: recoveries that overlap pause the clocks once. -/
def pauseDeadlines (s : State) (port since : Nat) : State :=
  { s with coll := { s.coll with reductions := s.coll.reductions.map (fun r =>
      let ports := treePorts (collGroup s r.group)
      let stop := (ports.filterMap (fun p => if p = port then none else (s.port p).downSince)).foldl min s.now
      if ports.contains port then
        { r with chunks := r.chunks.map (fun c => { c with first := c.first + (stop - max c.first since) }) }
      else r) } }

/-- An open reduction discarded when no local REDUCE came by COLL_DEADLINE after its closing round (R309). -/
def discardRed (s : State) (g l st : Nat) : State :=
  match findRed s g l st with
  | some r =>
    match r.closed with
    | some t =>
      if r.pkt.isEmpty && decide (t + collDeadline s ≤ s.now) then
        { closeRed s r with coll := { (closeRed s r).coll with discarded := s.coll.discarded ++ [(g, l, st)] } }
      else s
    | none => s
  | none => s

/-! ## REDUCE and SCALE_ROUND -/

/-- Bytes of `n` elements of a format. -/
def elemBytes (elem n : Nat) : Nat := ceilDiv (n * fmtBits elem) 8

/-- The checks REDUCE and SCALE_ROUND share, given the places of their fields. -/
def reduceChecks (s : State) (r : Reduction) (head : Nat) : List (Bool × Nat) :=
  let d := collGroup s r.group
  let n := r.elems
  [(decide (r.body 0 1 < 64), 0x01), (decide (r.srcElem ≤ 0x0F), 0x40), (decide (1 ≤ n ∧ n ≤ 2 ^ 28), 0xB1), (!d.isEmpty, 0xB2),
   (decide (head ≤ 12) && (decide (head = 0) || d.isEmpty || decide (ceilLog2 (cMembers d) ≤ head)), 0xB3),
   (decide (r.src % 16 = 0 ∧ r.dst % 16 = 0 ∧ r.record % 16 = 0 ∧ r.patch % 2 = 0) &&
     !rangesOverlap r.src (elemBytes r.srcElem n) r.dst (6 * n), 0xB4)]

/-- A name checked for a local command: refused while another holds it, or already discarded (R298, R309), or it waits for one of the 64
reductions. -/
def Cmd.checkName (e : Entry) (g l st : Nat) : Cmd Unit := do
  let s ← Cmd.state
  match findRed s g l st with
  | some r => if !r.pkt.isEmpty && r.tag ≠ some e.tag then Cmd.fail 0x20 0xB0
  | none => pure ()
  if s.coll.discarded.contains (g, l, st) then
    Cmd.update (fun s => { s with coll := { s.coll with discarded := s.coll.discarded.filter (fun x => x ≠ (g, l, st)) } })
    Cmd.fail 0x18 0x02
  else match openRed s g l st with
    | none => throw (.wait .collective)
    | some _ => pure ()

/-- The reduction of a name, open from here on. -/
def Cmd.openName (g l st : Nat) : Cmd Unit := Cmd.update (fun s => (openRed s g l st).getD s)

/-- What a collective command answers once its reduction has been moved on: its outcome, or a wait. -/
def Cmd.collOutcome (g l st : Nat) : Cmd Done := do
  let s := progressRed (← Cmd.state) g l st
  Cmd.update (fun _ => s)
  match findRed s g l st with
  | none => Cmd.fail 0x20 0xB0
  | some r =>
    match r.outcome with
    | some o => return o
    | none => throw (.pause .collective)

/-- Whether a command waits for its reduction to move on. -/
def inCollective (s : State) (e : Entry) : Bool :=
  s.coll.reductions.any (fun r => r.tag = some e.tag) || s.coll.runs.any (fun r => r.tag = e.tag)

/-- The exponent of the first pass: none for an opening round (R301). -/
def Cmd.firstExponent (r : Reduction) (d : List Byte) : Cmd (Option Int) := do
  let mode := r.body 2 1
  if mode = 0 then return some (signed 16 (r.body 18 2))
  else
    let b ← Cmd.read r.record 16
    let valid := bit (leAt b 7 1) 0
    if mode = 1 then
      if valid && leAt b 8 4 = r.step && leAt b 6 1 = r.h d then return some (signed 16 (leAt b 0 2))
      else Cmd.fail 0x13 0xB0
    else if valid then return some (min 127 (signed 16 (leAt b 2 2) + (← Cmd.field Reg.FS48_GUARD_BITS 3 0 : Nat)))
    else return none

/-- REDUCE. -/
def bodyReduce (e : Entry) : Cmd Done := do
  let s ← Cmd.state
  let r0 := { newRed (bodyAt e 0 1) (bodyAt e 4 4) (bodyAt e 8 4) with tag := some e.tag, pkt := e.pkt }
  let mode := bodyAt e 2 1
  let elem := bodyAt e 16 1
  let fs := signed 16 (bodyAt e 18 2)
  let d := collGroup s r0.group
  if inCollective s e then throw (.wait .collective)
  else
    Cmd.checks (reduceChecks s r0 (bodyAt e 3 1) ++
      [(bodyZero e 17 18 && bodyZero e 20 24 && bodyZero e 56 64, 0x01), (decide (bodyAt e 1 1 ≤ 1 ∧ mode ≤ 2), 0xB1),
       (if mode = 2 then decide (1 ≤ elem ∧ elem ≤ 3) else decide (elem = 0x0E), 0xB3),
       (decide (mode = 0) || decide (bodyAt e 40 8 ≠ 0), 0xB4),
       (if mode = 0 then decide (-256 ≤ fs ∧ fs ≤ 127) else decide (bodyAt e 18 2 = 0), 0x45)])
    modify (fun env => { env with engine := collEngine s d })
    Cmd.checkName e r0.group r0.layer r0.step
    Cmd.declare r0.dst (6 * r0.elems)
    let first ← Cmd.firstExponent r0 d
    Cmd.openName r0.group r0.layer r0.step
    let known := refresh (← Cmd.state) r0
    let pass := known.pass
    let put (r : Reduction) : Cmd Unit := Cmd.update (fun s => putRed s r)
    match first with
    | some x => do
      let xs := if pass = 2 then known.e else x
      let r1 := { known with tag := some e.tag, pkt := e.pkt, e1 := x, e := if known.closed.isSome then known.e else xs }
      put r1
      let cs ← (seqFrom 0 r1.count).mapM (Cmd.ownChunk { r1 with e := xs } d)
      Cmd.update (fun s => contribute s r1 d cs)
    | none => do
      let r1 := { known with tag := some e.tag, pkt := e.pkt, notes := known.notes ||| 2 ^ 22 }
      put r1
      if cBackup d then pure ()
      else
        let (emax, bad) ← Cmd.scanSource r1
        put (r1.putRound { r1.roundOf 0 with own := some { neutralValues r1 d 0 with emax := emax, nonfinite := bad } })
    let env ← get
    if env.corrected then Cmd.update (fun s => putRed s { refresh s r0 with corrected := true })
    Cmd.collOutcome r0.group r0.layer r0.step

/-- SCALE_ROUND. -/
def bodyScaleRound (e : Entry) : Cmd Done := do
  let s ← Cmd.state
  let r0 := { newRed (bodyAt e 0 1) (bodyAt e 4 4) (bodyAt e 8 4) with tag := some e.tag, pkt := e.pkt }
  let d := collGroup s r0.group
  if inCollective s e then throw (.wait .collective)
  else
    Cmd.checks (reduceChecks s r0 (bodyAt e 2 1) ++
      [(bodyZero e 3 4 && bodyZero e 48 64, 0x01), (decide (1 ≤ bodyAt e 1 1 ∧ bodyAt e 1 1 ≤ 3), 0xB3),
       (decide (bodyAt e 32 8 ≠ 0), 0xB4)])
    modify (fun env => { env with engine := collEngine s d })
    Cmd.checkName e r0.group r0.layer r0.step
    Cmd.openName r0.group r0.layer r0.step
    Cmd.declare r0.dst (6 * r0.elems)
    let known := refresh (← Cmd.state) r0
    let r1 := { known with tag := some e.tag, pkt := e.pkt }
    let (emax, bad) ← Cmd.scanSource r1
    let r2 := if cBackup d then r1
      else r1.putRound { r1.roundOf 0 with own := some { neutralValues r1 d 0 with emax := emax, nonfinite := bad } }
    Cmd.update (fun s => putRed s r2)
    let env ← get
    if env.corrected then Cmd.update (fun s => putRed s { refresh s r0 with corrected := true })
    Cmd.collOutcome r0.group r0.layer r0.step

/-! ## ALL_GATHER, ALL_TO_ALL and BROADCAST (R313, R314) -/

/-- The run a piece belongs to. -/
def findRun (s : State) (op g l st : Nat) : Option CollRun :=
  s.coll.runs.find? (fun r => r.opcode = op && r.group = g && r.layer = l && r.step = st)

/-- A number of a run's body. -/
def CollRun.body (r : CollRun) (off size : Nat) : Nat := leAt r.pkt (64 + off) size

/-- The state with a run replaced. -/
def putRun (s : State) (r : CollRun) : State :=
  { s with coll := { s.coll with runs := s.coll.runs.map (fun x => if x.tag = r.tag then r else x) } }

/-- The pieces of a block of one member, each of at most 65,280 bytes; an empty block is one empty piece. -/
def blockPieces (op g l st rank : Nat) (bytes : List Byte) : List Piece :=
  (if bytes.isEmpty then [[]] else chunks 65280 (bytes.length / 65280 + 1) bytes).zipIdx.map
    (fun p => ⟨op, g, l, st, rank, p.2, bytes.length, false, p.1⟩)

/-- The writes of a piece at its receiver; with SEND_COUNTS, the count too (R313). -/
def Cmd.writePiece (r : CollRun) (p : Piece) : Cmd Unit := do
  let base := if r.opcode = 0x53 then r.body 24 8 else r.body 24 8 + p.rank * r.body 4 4
  Cmd.write (base + 65280 * p.index) p.bytes
  if r.opcode = 0x52 && r.body 32 8 ≠ 0 then Cmd.writeNat (r.body 40 8 + 4 * p.rank) 4 p.total

/-- Where a run writes: one block, or one of each member. -/
def CollRun.output (r : CollRun) (d : List Byte) : Nat × Nat :=
  (r.body 24 8, (if r.opcode = 0x53 then 1 else cMembers d) * r.body 4 4)

/-- A piece written for its run, and counted. None: a held stack, the piece waits. -/
def storePiece (s : State) (r : CollRun) (p : Piece) : Option State :=
  (serveColl (Cmd.writePiece r p) s).map (fun w =>
    let engine := collEngine s (collGroup s r.group)
    match w.got with
    | .error e =>
      putRun (noteFailed w.s (some r.tag) engine e.1 e.2 w.poisonAt [r.output (collGroup s r.group)])
        { r with failed := some ⟨e.1, e.2, engine, 0, 0⟩ }
    | .ok _ =>
      let old := (r.got.find? (fun g => g.1 = p.rank)).getD (p.rank, 0, p.total)
      putRun (setEntry w.s r.tag (fun c => { c with reruns := c.reruns + b2n w.corrected }))
        { r with got := (p.rank, old.2.1 + p.bytes.length, p.total) :: r.got.filter (fun g => g.1 ≠ p.rank) })

/-- A piece taken by this module: sent down from the root of its tree, forwarded to the children, written (R313). -/
def takePiece (s : State) (r : CollRun) (p : Piece) : Option State :=
  let d := collGroup s r.group
  if p.opcode = 0x52 then storePiece s r p
  else
    match storePiece s r { p with down := true } with
    | none => none
    | some s1 => some ((cKids d (p.index % cTrees d)).foldl (fun s k => sendOnPort s k (pieceContent { p with down := true })) s1)

/-- Whether every block addressed to this member has been written. -/
def CollRun.complete (r : CollRun) (members : Nat) : Bool :=
  let whole (k : Nat) : Bool := r.got.any (fun g => g.1 = k && decide (g.2.2 ≤ g.2.1))
  if r.opcode = 0x53 then whole (r.body 2 2) else (seqFrom 0 members).all whole

/-- Whether a piece of this member's own block still waits for its acknowledgement (R50, R274). -/
def CollRun.unacknowledged (s : State) (r : CollRun) : Bool :=
  s.fab.sent.any (fun m => (decide (m.2.what = .piece) || decide (m.2.what = .treePiece)) &&
    decide (m.2.args.take 5 = [r.opcode, r.group, r.layer, r.step, cRank (collGroup s r.group)]))

/-- The outcome of a run, if it has one. -/
def CollRun.outcome (s : State) (r : CollRun) : Option Done :=
  match r.failed with
  | some o => some o
  | none =>
    if r.complete (cMembers (collGroup s r.group)) && !r.unacknowledged s then some ⟨0, 0, collEngine s (collGroup s r.group), 0, 0⟩ else none

/-- A run that has its outcome gives it to its command; the name stays in use until the command completes (R314). -/
def reapRun (s : State) (tag : Nat) : State :=
  match s.coll.runs.find? (fun r => r.tag = tag) with
  | none => s
  | some r =>
    match CollRun.outcome s r with
    | some o => endCollective s tag o
    | none => s

/-- Whether a waiting piece is of a run. -/
def pieceOf (r : CollRun) (p : Piece) : Bool :=
  p.opcode = r.opcode && p.group = r.group && p.layer = r.layer && p.step = r.step

/-- The pieces that waited for a run are taken. -/
def takeWaiting (s : State) (tag : Nat) : State :=
  s.coll.waiting.foldl (fun s p =>
    match s.coll.runs.find? (fun r => r.tag = tag) with
    | none => s
    | some r =>
      if pieceOf r p then
        match takePiece s r p with
        | none => s
        | some s1 => { s1 with coll := { s1.coll with waiting := s1.coll.waiting.erase p } }
      else s) s

/-- The collectives moved on as far as they can after a stack is held no more or the host link has come up: the pieces that wait are
taken, the reductions go on. -/
def resumeColl (s : State) : State :=
  let s1 := (s.coll.runs.map (fun r => r.tag)).foldl (fun s t => reapRun (takeWaiting s t) t) s
  s1.coll.reductions.foldl (fun s r => advanceRed s r.group r.layer r.step) s1

/-- A piece on its way: to the root of its tree, or to its member (R313). -/
def launchPiece (s : State) (r : CollRun) (p : Piece) (dest : Nat) : State :=
  if dest = ownId s then
    (match takePiece s ((s.coll.runs.find? (fun x => x.tag = r.tag)).getD r) p with
     | some s1 => s1
     | none => { s with coll := { s.coll with waiting := s.coll.waiting ++ [p] } })
  else (sendMessage s dest (pieceContent p)).2

/-- SEND_COUNTS read: a fault of that read comes after the other checks of the body (R428). -/
def Cmd.sendCounts (a members : Nat) : Cmd (Except Stop (List Nat)) :=
  tryCatch (do return .ok ((chunks 4 (members + 1) (← Cmd.read a (4 * members))).map leNat)) (fun x => pure (.error x))

/-- ALL_GATHER, ALL_TO_ALL and BROADCAST. -/
def bodyExchange (e : Entry) : Cmd Done := do
  let s ← Cmd.state
  let op := pktOp e.pkt
  let g := bodyAt e 0 1
  let d := collGroup s g
  let n := bodyAt e 4 4
  let st := bodyAt e 8 4
  let l := bodyAt e 12 4
  if inCollective s e then throw (.wait .collective)
  else
    Cmd.checks [(decide (g < 64) && bodyZero e 1 2 && decide (bodyAt e 2 2 < 4096) &&
        (decide (op = 0x53) || decide (bodyAt e 2 2 = 0)) && (decide (op = 0x52) || decide (bodyAt e 32 8 = 0)) &&
        (decide (bodyAt e 32 8 ≠ 0) || decide (bodyAt e 40 8 = 0)), 0x01),
      (decide (n % 16 = 0 ∧ 16 ≤ n ∧ n ≤ 2 ^ 30) && (d.isEmpty || decide (op ≠ 0x53) || decide (bodyAt e 2 2 < cMembers d)), 0xB1),
      (!d.isEmpty, 0xB2)]
    modify (fun env => { env with engine := collEngine s d })
    let members := cMembers d
    let fixed := decide (op ≠ 0x52) || decide (bodyAt e 32 8 = 0)
    let read ← if fixed then pure (.ok (List.replicate members n)) else Cmd.sendCounts (bodyAt e 32 8) members
    let range := match read with
      | .ok l => l.all (fun k => decide (k ≤ n))
      | .error _ => true
    Cmd.checks [(range, 0xB1), (!cBackup d, 0xB2), (decide (bodyAt e 16 8 % 16 = 0 ∧ bodyAt e 24 8 % 16 = 0), 0xB4)]
    let counts ← match read with
      | .ok l => pure l
      | .error x => throw x
    if (findRun s op g l st).isSome then Cmd.fail 0x20 0xB0
    else
      let src := bodyAt e 16 8
      let rank := cRank d
      do
        let run : CollRun := ⟨op, g, l, st, e.tag, e.pkt, [], none⟩
        Cmd.declare (run.output d).1 (run.output d).2
        let ids := groupIds d
        let out ← if op = 0x52 then
            (do
              let blocks ← counts.zipIdx.mapM (fun k => Cmd.read (src + k.2 * n) k.1)
              return blocks.zipIdx.flatMap (fun b =>
                (blockPieces op g l st rank b.1).map (fun p => (p, (ids[b.2]?).getD (ownId s)))))
          else if op = 0x53 && rank ≠ bodyAt e 2 2 then pure []
          else (do
            let block ← Cmd.read src n
            return (blockPieces op g l st rank block).map (fun p => (p, cRoot d (p.index % cTrees d))))
        Cmd.update (fun s => out.foldl (fun s p => launchPiece s run p.1 p.2)
          { s with coll := { s.coll with runs := s.coll.runs ++ [run] } })
        Cmd.update (fun s => takeWaiting s e.tag)
        let s2 ← Cmd.state
        match s2.coll.runs.find? (fun r => r.tag = e.tag) with
        | none => throw (.pause .collective)
        | some r =>
          match CollRun.outcome s2 r with
          | some o => return o
          | none => throw (.pause .collective)

end Sys2Proof.Machine
end

