-- ==== Sys2Proof/Machine/Mgmt.lean ====
section
/-! DEFINITION. The management core: telemetry records and frames, QUERY, the hot-row policy, board management
(17_management_and_telemetry). -/

namespace Sys2Proof.Machine

open Sys2Proof

/-- Whether the management core runs: MGMT_STATUS.STATE is RUNNING. -/
def mgmtRunning (s : State) : Bool := decide (s.fieldAt Reg.MGMT_STATUS 2 0 = 2)

/-- The bays below floor (R348). -/
def belowFloor (s : State) : Nat := s.fieldAt Reg.FLOOR_STATUS 7 0

/-- A sum over the indices 0 to n − 1. -/
def sumTo (n : Nat) (f : Nat → Nat) : Nat := (seqFrom 0 n).foldl (fun a i => a + f i) 0

/-- A sensor without a reading among the rows of the table: a free value (log entry 3). -/
def freeSensor (s : State) (i : Nat) : Nat := Config.freeValue (s.free + i)

/-! ## The telemetry record (R339) -/

/-- The counters whose deltas a record holds, field by field in the record's order: EDGES, ARRAY_STEPS, FEED_STALLS, STALL_US, HBM_CE,
HBM_UE, REPLAYS, REREDUCE, UPDATE_PARAMS, BAY_ROWS. -/
def telemCounters (s : State) : List (List Nat) :=
  let each (f : Nat → List Nat) : List Nat := (seqFrom 0 8).flatMap f
  [each (fun b => [s.pair (Reg.SAMPLE_BAY_CTR_EDGES_LO b)]),
   each (fun b => [s.pair (Reg.ARRAY_BAY_CTR_FLOOD_STEPS_LO b), s.pair (Reg.ARRAY_BAY_CTR_EBB_D_STEPS_LO b),
     s.pair (Reg.ARRAY_BAY_CTR_EBB_W_STEPS_LO b)]),
   each (fun b => [s.pair (Reg.ARRAY_BAY_CTR_FEED_STALLS_LO b)]),
   [(s.reg Reg.CMD_STALL_COUNT).toNat],
   each (fun b => [(s.reg (Reg.STACK_CE b)).toNat]),
   each (fun b => [(s.reg (Reg.STACK_UE b)).toNat]),
   each (fun p => [(s.reg (Reg.REPLAYS p)).toNat]),
   [(s.reg Reg.COLL_REREDUCE).toNat],
   [s.pair Reg.UPDATE_PARAMS_LO]] ++
  (seqFrom 0 8).map (fun b => [s.pair (Reg.GATHER_BAY_CTR_LOCAL_ROWS_LO b), s.pair (Reg.GATHER_BAY_CTR_SERVED_REMOTE_LO b)])

/-- What a counter counted since a record; one cleared since counts from its clearing (log entry 32). -/
def delta (old new : Nat) : Nat := if old ≤ new then new - old else new

/-- What the counters of a field counted since a record, each on its own. -/
def deltaSum (old new : List Nat) : Nat := (new.zipIdx.map (fun c => delta ((old[c.2]?).getD 0) c.1)).foldl (fun a n => a + n) 0

/-- A number saturated to `n` bytes. -/
def satLE (n v : Nat) : List Byte := toLE n (min v (256 ^ n - 1))

/-- The effective power ceiling (R342, R358). -/
def ceilingW (s : State) : Nat :=
  let lim (w : Nat) : Nat := if w = 0 then 1650 else w
  min 1650 (min (lim (s.fieldAt Reg.PWR_CEILING 10 0)) (lim (s.fieldAt Reg.MGMT_BMC_CEILING 15 0)))

/-- The entries of the hot-row snapshots as they stand in memory, bay by bay, of the bays that have written one: key (table in bits
55:48, row ID below) and estimate. -/
def snapEntries (s : State) : List (Nat × Nat) :=
  if s.pair Reg.HOTROW_SNAP_LO / 2 ^ 20 = 0 then []
  else ((seqFrom 0 8).filter (bit s.gath.snaps)).flatMap (fun b =>
    let a := s.pair Reg.HOTROW_SNAP_LO / 2 ^ 20 * 2 ^ 20 + 0x20000 * b
    (seqFrom 0 (min 4096 (leNat (unitBytes s (a + 16) 4)))).map (fun i =>
      (leNat (unitBytes s (a + 64 + 16 * i) 7), leNat (unitBytes s (a + 72 + 16 * i) 4))))

/-- The entry with the highest estimate, the first of equals. -/
def hottest (l : List (Nat × Nat)) : Nat × Nat := l.foldl (fun b p => if b.2 < p.2 then p else b) (0, 0)

/-- The hottest of a bay's eight die sensors. -/
def bayTemp (temps : List Int) (b : Nat) : Int :=
  match (temps.drop (8 * b)).take 8 with
  | [] => 0
  | t :: l => l.foldl max t

/-- The input energy since power-on at this instant: what came since the last record is a free value (log entry 3). -/
def energyNow (s : State) : Nat := s.mgmt.energy + freeSensor s 8

/-- The 240 bytes of the record of this instant (R339). Temperatures below 0 °C stand in two's complement (log entry 32). -/
def telemBytes (s : State) : List Byte :=
  let counts := telemCounters s
  let d (i : Nat) : Nat := deltaSum ((s.mgmt.base[i]?).getD []) ((counts[i]?).getD [])
  let hot := hottest (snapEntries s)
  let flags := b2n (decide (belowFloor s ≠ 0)) +
    2 * b2n ((seqFrom 0 8).any (fun b => decide (s.fieldAt (Reg.BAY_VDD b) 31 28 = 4))) +
    4 * b2n ((seqFrom 0 8).any (fun b => decide (s.fieldAt (Reg.STACK_STATE b) 10 8 ≠ 0))) +
    8 * b2n s.mgmt.promoted + 16 * b2n (s.bitAt Reg.SEC_STATE 0)
  toLE 8 s.now ++ toLE 4 s.mgmt.seq ++ toLE 2 (ownId s) ++ toLE 1 1 ++ toLE 1 flags ++
  (seqFrom 0 8).flatMap (fun b => toLE 2 (s.fieldAt (Reg.RATE_BAY b) 15 0)) ++
  (seqFrom 0 8).flatMap (fun b => toLE 1 ((s.fieldAt (Reg.BAY_VDD b) 9 0 - 500) / 2)) ++
  (seqFrom 0 8).flatMap (fun b => toLE 2 (freeSensor s b)) ++
  (seqFrom 0 8).flatMap (fun b => toLE 1 (unsigned 8 (bayTemp s.power.temps b))) ++
  (seqFrom 0 8).flatMap (fun b => toLE 1 ((s.power.stackTemps[b]?).getD 0)) ++
  toLE 2 (s.power.inputMv / 10) ++ toLE 2 s.power.watts ++ toLE 2 (ceilingW s) ++ toLE 2 0 ++ toLE 8 (energyNow s) ++
  (seqFrom 0 8).flatMap (fun b => satLE 4 (d (9 + b))) ++
  toLE 8 (d 0) ++ toLE 8 (d 1) ++ toLE 8 (d 2) ++ toLE 2 (tagsHeld s) ++ satLE 2 (d 3) ++
  toLE 2 s.mgmt.promotions ++ toLE 2 s.mgmt.layer ++ satLE 4 (d 4) ++ satLE 4 (d 5) ++ satLE 4 (d 6) ++
  toLE 4 (sumTo 8 (fun p => portState s p * 2 ^ (3 * p))) ++ satLE 2 (d 7) ++ satLE 2 s.mgmt.excluded ++
  satLE 4 s.mgmt.belowUs ++ toLE 8 hot.1 ++ toLE 4 hot.2 ++ toLE 4 (d 8 / 1024) ++ toLE 48 0

/-- The record of this instant taken, written into the telemetry ring and sent on the ports of FAB_TELEM (R290, R339, R340). -/
def telemRecord (s : State) : State :=
  let r := telemBytes s
  let seq := s.mgmt.seq
  let s1 := { s with
    free := s.free + 9
    mgmt := { s.mgmt with seq := (seq + 1) % 2 ^ 32, last := r, base := telemCounters s, energy := energyNow s, promoted := false, belowUs := 0,
                          excluded := 0 } }
  let lg := s.fieldAt Reg.TELEM_RING_SIZE 4 0
  let s2 :=
    if lg = 0 then s1
    else (writeThrough s1 (s.pair Reg.TELEM_RING_LO / 2 ^ 8 * 2 ^ 8 + 256 * (seq % 2 ^ lg)) (r ++ toLE 4 seq ++ toLE 12 0)).setReg
      Reg.TELEM_HEAD (BitVec.ofNat 32 seq)
  ((seqFrom 0 8).filter (fun p => s.bitAt Reg.FAB_TELEM p && portUp s p)).foldl
    (fun s p => sendOnPort s p ⟨.telemetry, [], r⟩) s2

/-- Whether a timebase value is a telemetry period boundary. -/
def telemBoundary (s : State) (t : Nat) : Bool := decide (t % (1000 * s.fieldAt Reg.TELEM_PERIOD 16 0) = 0)

/-- A received frame written into TELEM_RX of its port (R290). -/
def takeFrame (s : State) (p src : Nat) (payload : List Byte) : State :=
  let seq := (s.reg (Reg.TELEM_RX_SEQ p)).toNat
  let body := padTo 240 payload
  let s1 := (seqFrom 0 60).foldl (fun s i => s.setReg (Reg.TELEM_RX_PAYLOAD p i) (BitVec.ofNat 32 (leAt body (4 * i) 4))) s
  ((s1.setReg (Reg.TELEM_RX_SRC p) (BitVec.ofNat 32 (src % 4096))).setPair (Reg.TELEM_RX_TIMESTAMP_LO p) s.now).setReg
    (Reg.TELEM_RX_SEQ p) (BitVec.ofNat 32 (seq + 2))

/-! ## QUERY (R344) -/

/-- The 192 bytes of a sensor dump. -/
def sensorBytes (s : State) : List Byte :=
  toLE 8 s.now ++ (seqFrom 0 64).flatMap (fun i => toLE 1 (unsigned 8 ((s.power.temps[i]?).getD 0))) ++
  (seqFrom 0 8).flatMap (fun b => toLE 1 ((s.power.stackTemps[b]?).getD 0)) ++
  (seqFrom 0 8).flatMap (fun b => toLE 2 (s.fieldAt (Reg.BAY_VDD b) 9 0)) ++
  (seqFrom 0 8).flatMap (fun b => toLE 2 (freeSensor s b)) ++
  (seqFrom 0 8).flatMap (fun b => toLE 2 (s.fieldAt (Reg.RATE_BAY b) 15 0)) ++
  toLE 2 (s.power.inputMv / 10) ++ toLE 2 (freeSensor s 8) ++ toLE 2 s.power.watts ++ toLE 58 0

/-- QUERY. Before the first record of all, RECORD writes bytes that no spec gives: its output is undefined (log entry 33). -/
def bodyQuery (e : Entry) : Cmd Done := do
  modify (fun env => { env with engine := 0xB000 })
  Cmd.checks [(bodyZero e 1 8, 0x01), (decide (bodyAt e 0 1 ≤ 1), 0xC0), (decide (bodyAt e 8 8 % 64 = 0), 0xC1)]
  let s ← Cmd.state
  let dest := bodyAt e 8 8
  if !mgmtRunning s then throw .hold
  else if bodyAt e 0 1 = 0 then
    if s.mgmt.last.isEmpty then Cmd.writeP dest (List.replicate 240 none) else Cmd.write dest s.mgmt.last
    return ⟨0, 0, 0xB000, 240, 0⟩
  else
    Cmd.update (fun s => { s with free := s.free + 9 })
    Cmd.write dest (sensorBytes s)
    return ⟨0, 0, 0xB000, 192, 0⟩

/-! ## The hot-row policy (R343) -/

/-- The sum of BAY_ROWS of a record. -/
def rowsOf (r : List Byte) : Nat := sumTo 8 (fun b => leAt r (88 + 4 * b) 4)

/-- The sender of the frame that a port holds. -/
def frameSource (s : State) (p : Nat) : Nat := (s.reg (Reg.TELEM_RX_SRC p)).toNat % 4096

/-- When the frame that a port holds came. -/
def frameTime (s : State) (p : Nat) : Nat := s.pair (Reg.TELEM_RX_TIMESTAMP_LO p)

/-- The partner modules whose latest frame is no older than 4 periods, with the sum of its BAY_ROWS (the period is this module's: log
entry 34). A partner on several ports counts by the port with its latest frame, the lowest of equals. -/
def freshPartners (s : State) : List (Nat × Nat) :=
  let held := (seqFrom 0 8).filter (fun p => decide ((s.reg (Reg.TELEM_RX_SEQ p)).toNat ≠ 0))
  let latest (p : Nat) : Bool := held.all (fun q => decide (frameSource s q ≠ frameSource s p) || decide (frameTime s q < frameTime s p) ||
    (decide (frameTime s q = frameTime s p) && decide (p ≤ q)))
  let fresh (p : Nat) : Bool := decide (s.now ≤ frameTime s p + 4000 * s.fieldAt Reg.TELEM_PERIOD 16 0)
  (held.filter (fun p => latest p && fresh p)).map (fun p =>
    (frameSource s p, sumTo 8 (fun b => (s.reg (Reg.TELEM_RX_PAYLOAD p (22 + b))).toNat)))

/-- The destination of a table's rows: the fresh partner in its group mask with the least sum, the lowest ID among equals. -/
def migrationTarget (s : State) (d : List Byte) : Option (Nat × Nat) :=
  let mask := groupMask s d
  ((freshPartners s).filter (fun p => mask.contains p.1)).foldl (fun b p =>
    match b with
    | none => some p
    | some q => if p.2 < q.2 || (p.2 = q.2 && p.1 < q.1) then some p else some q) none

/-- The candidates: entries of MIGRATABLE tables, rows owned here and VALID, estimates of at least HOTROW_THRESH, in descending
order of estimate, then ascending row ID. -/
def migrationCandidates (s : State) : List (Nat × Nat) :=
  let ok (p : Nat × Nat) : Bool :=
    decide ((s.reg Reg.HOTROW_THRESH).toNat ≤ p.2) &&
    (match tableDesc s (p.1 / 2 ^ 48 % 256) with
     | some d => tMigratable d && (ownedFault s (p.1 / 2 ^ 48 % 256) d 0x30 (p.1 % 2 ^ 48)).isNone
     | none => false)
  ((snapEntries s).filter ok).mergeSort (fun a b => decide (b.2 < a.2) || (decide (a.2 = b.2) && decide (a.1 % 2 ^ 48 ≤ b.1 % 2 ^ 48)))

/-- A ROW_MIGRATE packet of at most four rows whose list stands behind its body in its last granule, at packet offset 96 (log entry
35). -/
def migratePacket (ring table dest at_ : Nat) (rows : List Nat) : List Byte :=
  toLE 1 0x26 ++ toLE 1 0 ++ toLE 2 2 ++ toLE 2 ring ++ toLE 58 0 ++
  (toLE 2 table ++ toLE 2 dest ++ toLE 4 rows.length ++ toLE 8 (at_ + 96) ++ toLE 16 0) ++
  padTo 32 (rows.flatMap (toLE 8))

/-- One packet of the core placed on its ring, where two granules in a row are free and the ring takes it; a ring with REMOTE_EN = 1
takes no doorbell of this module and sets TAIL_ERR (R38). -/
def issueMigrate (s : State) (ring table dest : Nat) (rows : List Nat) : State :=
  let tail := ringTail s ring
  let a := ringBase s ring + 64 * tail
  if s.bitAt (Reg.RING_PRIO ring) 8 then s.setBit (Reg.RING_STATUS ring) 4 true
  else if ringActive s ring && decide (2 ≤ ringFree s ring) && decide (tail + 2 ≤ ringSize s ring) && (faultIn s true a 128).isNone then
    (storeBytes s a (migratePacket ring table dest a rows)).setField (Reg.RING_TAIL ring) 11 0 ((tail + 2) % ringSize s ring)
  else s

/-- What the firmware does after a hot-row snapshot (R343). -/
def hotrowPolicy (s : State) : State :=
  if mgmtRunning s && s.bitAt Reg.MGMT_POLICY 31 then
    let ring := s.fieldAt Reg.MGMT_POLICY 27 24
    let own := rowsOf s.mgmt.last
    let picked := ((migrationCandidates s).filterMap (fun p =>
      let t := p.1 / 2 ^ 48 % 256
      match (tableDesc s t).bind (migrationTarget s) with
      | some m => if 5 * m.2 ≤ 4 * own && decide (m.1 ≠ ownId s) then some (t, m.1, p.1 % 2 ^ 48) else none
      | none => none)).take (s.fieldAt Reg.MGMT_POLICY 12 0)
    let kinds := (picked.map (fun p => (p.1, p.2.1))).dedup
    kinds.foldl (fun s k =>
      let rows := ((picked.filter (fun p => p.1 = k.1 && p.2.1 = k.2)).map (fun p => p.2.2)).dedup
      (chunks 4 (rows.length + 1) rows).foldl (fun s l => issueMigrate s ring k.1 k.2 l) s) s
  else s

/-- The core's handling of a reply on its ring: the entry freed; a refused or failed one sets RING_ERR (17, registers). -/
def mgmtReply (s : State) (ring status : Nat) : State :=
  if mgmtRunning s && s.bitAt Reg.MGMT_POLICY 31 && decide (ring = s.fieldAt Reg.MGMT_POLICY 27 24) then
    let s1 := s.setField (Reg.CPL_HEAD ring) 11 0 (s.fieldAt (Reg.CPL_TAIL ring) 11 0)
    if 0x10 ≤ status then setStatus s1 Reg.MGMT_EVENT 3 else s1
  else s

/-! ## Board management (R345) -/

/-- The value of the state sensor: the highest of the conditions in force (log entry 36). -/
def moduleState (s : State) : Nat :=
  if s.fieldAt Reg.MGMT_STATUS 2 0 = 3 then 4
  else if (seqFrom 0 8).any (fun b => decide (s.fieldAt (Reg.STACK_STATE b) 10 8 = 4)) then 3
  else if (seqFrom 0 8).any (fun b => decide (s.fieldAt (Reg.STACK_STATE b) 10 8 = 3)) then 2
  else b2n (decide (belowFloor s ≠ 0))

/-- The value of a PLDM sensor as a reading and a power of ten of its unit, none for another ID (log entry 36). -/
def pldmSensor (s : State) (id : Nat) : Option (Int × Int) :=
  if 1 ≤ id ∧ id ≤ 64 then some ((s.power.temps[id - 1]?).getD 0, 0)
  else if 65 ≤ id ∧ id ≤ 72 then some (((s.power.stackTemps[id - 65]?).getD 0 : Nat), 0)
  else if id = 73 then some (s.power.inputMv, -3)
  else if id = 74 then some (s.power.watts, 0)
  else if 75 ≤ id ∧ id ≤ 82 then some ((s.fieldAt (Reg.RATE_BAY (id - 75)) 15 0 : Nat), -3)
  else if id = 83 then some (moduleState s, 0)
  else none

/-- The first byte of an answer that succeeds, of an unsupported request, and of a value out of range (PLDM and MCTP completion
codes: log entry 36). -/
def answerOk : Int := 0
def answerInvalidData : Int := 2
def answerUnsupported : Int := 5

/-- The answer to board management recorded. -/
def answer (s : State) (l : List Int) : State := { s with mgmt := { s.mgmt with answer := l } }

/-- SMB_ALERT#: asserted while the state sensor has a change unread (22, J1 signals). -/
def smbAlert (s : State) : Bool := decide (moduleState s ≠ s.mgmt.stateRead)

/-- A sensor read: its value is the answer, and a state change is read with it. -/
def readSensor (s : State) (id : Nat) : State :=
  match pldmSensor s id with
  | some v =>
    let s1 := answer s [answerOk, v.1, v.2]
    if id = 83 then { s1 with mgmt := { s1.mgmt with stateRead := moduleState s } } else s1
  | none => answer s [answerUnsupported]

/-- An MCTP control message: Set Endpoint ID (1), Get Endpoint ID (2), Get MCTP Version Support (4), Get Message Type Support (5), the
last two with the number of entries before them. -/
def mctpControl (s : State) (cmd arg : Nat) : State :=
  if cmd = 1 then
    if 8 ≤ arg ∧ arg < 255 then answer { s with mgmt := { s.mgmt with endpoint := arg } } [answerOk, arg]
    else answer s [answerInvalidData]
  else if cmd = 2 then answer s [answerOk, s.mgmt.endpoint]
  else if cmd = 4 then answer s ([answerOk, (Config.mctpVersions.length : Nat)] ++ Config.mctpVersions.map (fun (v : Nat) => (v : Int)))
  else if cmd = 5 then answer s [answerOk, 1, 1]
  else answer s [answerUnsupported]

/-- PLDM SetNumericEffecterValue of effecter 1: the board ceiling (R342, R345). -/
def setEffecter (s : State) (id v : Nat) : State :=
  if id ≠ 1 then answer s [answerUnsupported]
  else if v = 0 ∨ (600 ≤ v ∧ v ≤ 1650) then
    answer (setStatus (s.setField Reg.MGMT_BMC_CEILING 15 0 v) Reg.MGMT_EVENT 2) [answerOk]
  else answer s [answerInvalidData]

end Sys2Proof.Machine
end

