-- ==== Sys2Proof/Machine/Sec.lean ====
section
/-! DEFINITION. The security engine: fuses, images, measurements, attestation and the mailbox requests (20_security). -/

namespace Sys2Proof.Machine

open Sys2Proof

/-- An ASCII string as bytes. -/
def ascii (x : String) : List Byte := x.toList.map (fun k => BitVec.ofNat 8 k.toNat)

/-- SERIAL as 8 bytes. -/
def serialBytes : List Byte := toLE 8 Config.serial.toNat

/-- A key slot. -/
def keySlot (s : State) (k : Nat) : KeySlot := (s.sec.keys[k]?).getD ⟨[], false, false⟩

/-- Whether a key slot is usable: PROGRAMMED and not REVOKED (R381). -/
def keyUsable (s : State) (k : Nat) : Bool := decide (k < 4) && (keySlot s k).programmed && !(keySlot s k).revoked

/-- Whether a usable slot's fused hash is that of a public key (R382). -/
def keyMatches (s : State) (k : Nat) (pub : List Byte) : Bool := keyUsable s k && decide ((keySlot s k).hash = shake256 pub)

/-- KEY_SLOTS: bit 2k PROGRAMMED, bit 2k + 1 REVOKED. -/
def keySlotBits (s : State) : Nat :=
  sumTo 4 (fun k => b2n (keySlot s k).programmed * 2 ^ (2 * k) + b2n (keySlot s k).revoked * 2 ^ (2 * k + 1))

/-- SEC_FUSES as it reads. -/
def secFuses (s : State) : Nat := s.sec.svn * 2 ^ 16 + b2n s.sec.labFuse * 2 ^ 8 + keySlotBits s

/-! ## Measurements (R385, R386) -/

/-- An accumulator extended by a digest, with its log entry, or LOG_OVF where the log is full. -/
def extend (s : State) (acc kind index : Nat) (digest : List Byte) : State :=
  let m := shake256 (((s.sec.acc[acc]?).getD []) ++ digest)
  let k := (s.sec.counts[acc]?).getD 0 + 1
  let s1 := { s with sec := { s.sec with acc := s.sec.acc.set acc m, counts := s.sec.counts.set acc k } }
  if s.sec.log.length < 512 then
    { s1 with sec := { s1.sec with log := s1.sec.log ++ [⟨s1.sec.log.length, acc, kind, index, s.now, digest⟩] } }
  else setStatus { s1 with sec := { s1.sec with overflow := true } } Reg.SEC_EVENT 3

/-- An accumulator extended by an event. -/
def extendEvent (s : State) (acc code param : Nat) : State := extend s acc 2 code (shake256 (toLE 1 code ++ toLE 8 param))

/-- The 48 bytes of a log entry. -/
def measureBytes (m : Measure) : List Byte :=
  toLE 4 m.seq ++ toLE 1 m.acc ++ toLE 1 m.kind ++ toLE 2 m.index ++ toLE 8 m.time ++ m.digest

/-! ## Images (R381 to R384) -/

/-- Bytes of the configuration flash. -/
def flashBytes (a n : Nat) : List Byte := (seqFrom a n).map Config.flash

/-- The offsets of a component's copies A and B in the directory, 0 where a copy is absent. -/
def imageCopies (comp : Nat) : List Nat :=
  match (seqFrom 0 6).find? (fun i => decide (leNat (flashBytes (16 * i) 1) = comp)) with
  | some i => [leNat (flashBytes (16 * i + 4) 4), leNat (flashBytes (16 * i + 8) 4)]
  | none => [0, 0]

/-- What a verified copy gives: whether it is copy B, its key slot, its SVN, LAB_MODE, its digest D. -/
structure Verified where
  copyB : Bool
  slot : Nat
  svn : Nat
  lab : Bool
  digest : List Byte
  deriving DecidableEq, Repr

/-- A copy of a component judged: verified, or the FAIL_REASON (R382, R384). -/
def verifyCopy (s : State) (comp off : Nat) (copyB : Bool) : Except Nat Verified :=
  if off = 0 then .error 1
  else
    let h := flashBytes off 5376
    let n := leAt h 12 4
    let serial := leAt h 16 8
    let lab := bit (leAt h 9 1) 0
    let headerOk := decide (leAt h 0 4 = 0x57464256 ∧ leAt h 4 2 = 1 ∧ leAt h 6 1 = comp ∧ leAt h 9 1 < 2 ∧ leAt h 10 2 = 0 ∧
      1 ≤ n ∧ n ≤ 2 ^ 24 ∧ leAt h 24 8 = 0 ∧ leAt h 5293 83 = 0) &&
      (decide (comp = 5) || (decide (serial = 0) && !lab)) &&
      (!lab || decide (serial = 0) || decide (serial = Config.serial.toNat))
    let pub := (h.drop 32).take 1952
    let pdigest := shake256 (flashBytes (off + 5376) n)
    let msg := h.take 32 ++ pdigest
    if !headerOk then .error 2
    else if !keyMatches s (leAt h 7 1) pub then .error 3
    else if leAt h 8 1 < s.sec.svn then .error 4
    else if !Config.mldsaVerify pub (ascii "VBT-FW") msg ((h.drop 1984).take 3309) then .error 5
    else .ok ⟨copyB, leAt h 7 1, leAt h 8 1, lab, shake256 msg⟩

/-- The first valid copy of a component, else the reason of the last copy present (R383). -/
def verifyComponent (s : State) (comp : Nat) : Except Nat Verified :=
  let copies := imageCopies comp
  match verifyCopy s comp (copies.headD 0) false with
  | .ok v => .ok v
  | .error e =>
    match verifyCopy s comp ((copies[1]?).getD 0) true with
    | .ok v => .ok v
    | .error 1 => .error e
    | .error f => .error f

/-- A component that runs: measured, its SVN, copy and slot shown (R383, R385). -/
def runComponent (s : State) (comp : Nat) (v : Verified) : State :=
  let s1 := extend s (comp - 1) 1 comp v.digest
  let s2 := { s1 with sec := { s1.sec with compSvn := s1.sec.compSvn.set (comp - 1) v.svn } }
  let s3 := if v.copyB then s2.setBit Reg.SEC_BOOT_STATUS (comp - 1) true else s2
  let s4 := if comp = 1 then s3.setField Reg.SEC_BOOT_STATUS 9 8 v.slot else s3
  if comp = 5 && v.lab then s4.setBit Reg.SEC_STATE 0 true else s4

/-- Every component verified and run in turn: whether boot goes on, and the state (R383, R384). -/
def bootImages (s : State) : List Nat → Bool × State
  | [] => (true, s)
  | comp :: rest =>
    match verifyComponent s comp with
    | .ok v => bootImages (runComponent s comp v) rest
    | .error r =>
      if comp = 5 && r = 1 then bootImages s rest
      else (false, (s.setField Reg.SEC_BOOT_STATUS 31 24 comp).setField Reg.SEC_BOOT_STATUS 23 16 r)

/-- The boot's part in the security engine: accumulators and log cleared, the images, lab mode (R383 to R385). -/
def bootSecurity (s : State) : Bool × State :=
  let s0 := { s with sec := { s.sec with acc := List.replicate 8 (List.replicate 32 0), counts := List.replicate 8 0, log := [],
                                         overflow := false, challenge := none, reports := 0, measured := [],
                                         compSvn := List.replicate 5 0 } }
  let (ok, s1) := bootImages s0 [1, 2, 3, 4, 5]
  let s2 := if s1.sec.labFuse then s1.setBit Reg.SEC_STATE 0 true else s1
  (ok, if ok && s2.bitAt Reg.SEC_STATE 0 then extendEvent s2 5 1 0 else s2)

/-! ## ATTEST and MEASURE_PROGRAM -/

/-- The identity public key (R387). -/
def identityKey : List Byte := padTo 1952 (Config.identityKey Config.identitySeed)

/-- Bytes 0 to 511 of a report: the snapshot (R388). -/
def reportBytes (s : State) (nonce : List Byte) (log : Bool) : List Byte :=
  let flags := b2n (s.bitAt Reg.SEC_STATE 0) + 2 * b2n (s.bitAt Reg.SEC_STATE 1) + 4 * b2n s.sec.labFuse + 8 * b2n log +
    16 * b2n s.sec.overflow
  toLE 4 0x54414256 ++ toLE 2 1 ++ toLE 2 flags ++ serialBytes ++ toLE 8 s.now ++ nonce ++ toLE 1 s.sec.svn ++
  toLE 1 (s.fieldAt Reg.SEC_BOOT_STATUS 9 8) ++ toLE 1 (keySlotBits s) ++ toLE 1 (s.fieldAt Reg.SEC_STATE 6 4) ++
  toLE 4 s.sec.reports ++ padTo 256 s.sec.acc.flatten ++ padTo 32 (s.sec.counts.flatMap (toLE 4)) ++
  padTo 8 (s.sec.compSvn.flatMap (toLE 1)) ++ toLE 2 (s.reg Reg.DEV_ID).toNat ++ toLE 2 (s.reg Reg.REV_ID).toNat ++
  toLE 4 (if log then s.sec.log.length else 0) ++ shake256 identityKey ++ toLE 112 0

/-- ATTEST. -/
def bodyAttest (e : Entry) : Cmd Done := do
  modify (fun env => { env with engine := 0xA000 })
  let s ← Cmd.state
  let dest := bodyAt e 32 8
  let withLog := bit (bodyAt e 44 1) 0
  let n := if withLog then s.sec.log.length else 0
  Cmd.checks [(decide (bodyAt e 44 1 < 2) && bodyZero e 45 48 && decide (dest % 64 = 0), 0xE0),
    (decide (3840 + 48 * n ≤ bodyAt e 40 4), 0xE1)]
  let signed := padTo 512 (reportBytes s ((pktBody e.pkt).take 32) withLog)
  let signature := padTo 3309 (Config.mldsaSign Config.identitySeed (ascii "VBT-ATTEST") signed s.free)
  Cmd.update (fun s => { s with free := s.free + 1, sec := { s.sec with reports := (s.sec.reports + 1) % 2 ^ 32 } })
  Cmd.write (dest + 3840) (if withLog then s.sec.log.flatMap measureBytes else [])
  Cmd.write dest (signed ++ signature ++ toLE 19 0)
  return ⟨0, 0, 0xA000, 3840 + 48 * n, 0⟩

/-- MEASURE_PROGRAM. -/
def bodyMeasureProgram (e : Entry) : Cmd Done := do
  let k := bodyAt e 0 1
  Cmd.checks [(decide (k < 64) && bodyZero e 1 16, 0xE0)]
  let s ← Cmd.state
  match modelSlot s k with
  | none => Cmd.fail 0x20 0x02
  | some m =>
    if !bit (leAt m.desc 12 4) 1 then Cmd.fail 0x20 0xE1
    else
      modify (fun env => { env with engine := 0xA000 })
      let prog ← Cmd.read (leAt m.desc 0 8) (leAt m.desc 8 4)
      let d := shake256 (toLE 1 k ++ toLE 4 (leAt m.desc 8 4) ++ prog)
      Cmd.update (fun s => { extend s 6 3 k d with sec := { (extend s 6 3 k d).sec with
        measured := if s.sec.measured.contains k then s.sec.measured else s.sec.measured ++ [k] } })
      return ⟨0, 0, 0xA000, leAt d 0 8, 0⟩

/-- A Model slots commit that changes measured descriptors extends M6 with event 0x05 for each (R389). -/
def measureChanges (s : State) (changed : List Nat) : State :=
  (changed.filter s.sec.measured.contains).foldl (fun s k => extendEvent s 6 5 k) s

/-! ## Mailbox requests (R390 to R393) -/

/-- SEC_MBOX_BUF. -/
def mboxBuf (s : State) : Nat := s.pair Reg.SEC_MBOX_BUF_LO / 2 ^ 8 * 2 ^ 8

/-- Whether the request of an OP is under way: RESULT is BUSY. -/
def mboxBusy (s : State) (op : Nat) : Bool :=
  decide (s.fieldAt Reg.SEC_MBOX_STATUS 2 0 = 1) && decide (s.fieldAt Reg.SEC_MBOX_CMD 7 0 = op)

/-- A request ends with a RESULT and its output, which is written where the buffer can be reached (R390). -/
def mboxEnd (s : State) (result : Nat) (out : List Byte) : State :=
  let s1 := if out.isEmpty then s else writeThrough s (mboxBuf s) out
  let s2 := ((s1.setField Reg.SEC_MBOX_STATUS 28 16 out.length).setField Reg.SEC_MBOX_STATUS 2 0 result).setBit Reg.SEC_MBOX_CMD 31 false
  setStatus s2 Reg.SEC_EVENT 0

/-- The input of a request of `n` bytes, none where SEC_MBOX_LEN says otherwise or the buffer faults. -/
def mboxInput (s : State) (n : Nat) : Option (List Byte) :=
  if s.fieldAt Reg.SEC_MBOX_LEN 12 0 = n then tryRead s (mboxBuf s) n else none

/-- A write of SEC_MBOX_CMD (R390): an OP that is not listed leaves OP as it was (R14); with GO = 1 the request that OP then names starts,
and where it names none (before the first request) ends as BAD_REQUEST. -/
def mboxCmd (s : State) (v : Word) : State :=
  if s.fieldAt Reg.SEC_MBOX_STATUS 2 0 = 1 then s
  else
    let s1 := if 1 ≤ fld v 7 0 ∧ fld v 7 0 ≤ 6 then s.setField Reg.SEC_MBOX_CMD 7 0 (fld v 7 0) else s
    let op := s1.fieldAt Reg.SEC_MBOX_CMD 7 0
    if !flag v 31 then s1
    else if 1 ≤ op ∧ op ≤ 6 then (s1.setBit Reg.SEC_MBOX_CMD 31 true).setField Reg.SEC_MBOX_STATUS 2 0 1
    else mboxEnd s1 3 []

/-- GET_CERTS: the chain of flash in the output's form (log entry 37). -/
def mboxCerts (s : State) : State := mboxEnd s 2 (Config.certChain.take 8191)

/-- DEBUG_CHALLENGE. -/
def mboxChallenge (s : State) : State :=
  let x := (seqFrom 0 32).map (Config.challengeByte s.free)
  mboxEnd { s with free := s.free + 1, sec := { s.sec with challenge := some (x, s.now) } } 2 (x ++ serialBytes)

/-- A debug response rejected: counted to 3 (R391). -/
def rejectDebug (s : State) (result : Nat) : State :=
  mboxEnd (s.setField Reg.SEC_STATE 10 8 (min 3 (s.fieldAt Reg.SEC_STATE 10 8 + 1))) result []

/-- DEBUG_RESPONSE (R391). -/
def mboxResponse (s : State) : State :=
  if 3 ≤ s.fieldAt Reg.SEC_STATE 10 8 then mboxEnd s 6 []
  else match mboxInput s 5269 with
    | none => mboxEnd s 3 []
    | some b =>
      let mask := leAt b 4 4
      let pub := (b.drop 8).take 1952
      let s1 := { s with sec := { s.sec with challenge := none } }
      if leAt b 1 3 ≠ 0 ∨ 8 ≤ mask then mboxEnd s 3 []
      else match s.sec.challenge with
        | none => rejectDebug s1 5
        | some (x, t) =>
          if t + 60000000000 < s.now then rejectDebug s1 5
          else if !keyMatches s (leAt b 0 1) pub then rejectDebug s1 5
          else if !Config.mldsaVerify pub (ascii "VBT-DEBUG") (x ++ serialBytes ++ toLE 4 mask ++ toLE 1 s.sec.svn)
              ((b.drop 1960).take 3309) then rejectDebug s1 4
          else
            let s2 := (s1.setField Reg.SEC_STATE 6 4 mask).setBit Reg.SEC_STATE 1 true
            mboxEnd (setStatus (extendEvent s2 5 2 mask) Reg.SEC_EVENT 1) 2 []

/-- REVOKE (R392). -/
def mboxRevoke (s : State) : State :=
  match mboxInput s 5269 with
  | none => mboxEnd s 3 []
  | some b =>
    let target := leAt b 0 1
    let k := leAt b 1 1
    let pub := (b.drop 8).take 1952
    if leAt b 2 6 ≠ 0 ∨ 4 ≤ target then mboxEnd s 3 []
    else if !keyMatches s k pub || decide (k = target) ||
        !(seqFrom 0 4).any (fun i => decide (i ≠ target) && keyUsable s i) then mboxEnd s 5 []
    else if !Config.mldsaVerify pub (ascii "VBT-REVOKE") (toLE 1 target ++ serialBytes ++ toLE 1 s.sec.svn)
        ((b.drop 1960).take 3309) then mboxEnd s 4 []
    else
      let s1 := { s with sec := { s.sec with keys := s.sec.keys.set target { keySlot s target with revoked := true } } }
      mboxEnd (setStatus (extendEvent s1 5 3 target) Reg.SEC_EVENT 2) 2 []

/-- ADVANCE_SVN (R393). -/
def mboxAdvance (s : State) : State :=
  match mboxInput s 1 with
  | none => mboxEnd s 3 []
  | some b =>
    let v := leAt b 0 1
    let running := (seqFrom 0 5).filter (fun i => decide ((s.sec.counts[i]?).getD 0 ≠ 0))
    if s.sec.svn < v && decide (v < 64) && running.all (fun i => decide (v ≤ (s.sec.compSvn[i]?).getD 0)) then
      mboxEnd (extendEvent { s with sec := { s.sec with svn := v } } 5 4 v) 2 []
    else mboxEnd s 5 []

/-- EXTEND_HOST (R385). -/
def mboxExtend (s : State) : State :=
  match mboxInput s 32 with
  | none => mboxEnd s 3 []
  | some b => mboxEnd (extend s 7 4 0 b) 2 []

end Sys2Proof.Machine
end

