-- ==== Sys2Proof/Machine/Tiles.lean ====
section
/-! DEFINITION. Tiles and spares: the tile spare map, tile faults, self-tests (R18, R372 to R374, R397, R419), and the opcodes of
Undertow and of tide retirement. -/

namespace Sys2Proof.Machine

open Sys2Proof

/-! ## The spare map -/

/-- The physical tile of a logical one. -/
def physOf (s : State) (t : Nat) : Nat := s.fieldAt (Reg.TILE_MAP t) 9 0

/-- The home tile of a logical one (R419). -/
def homeOf (t : Nat) : Nat := t / 64 * 68 + t % 64

/-- The spares of a bay in the pool. -/
def goodSpares (s : State) (b : Nat) : List Nat := (seqFrom 0 4).filter (fun k => s.bitAt (Reg.SPARE_STATE b) k)

/-- A spare's state: GOOD, IN_USE, FAILED, at most one of them. -/
def setSpare (s : State) (b k : Nat) (good inUse bad : Bool) : State :=
  ((s.setBit (Reg.SPARE_STATE b) k good).setBit (Reg.SPARE_STATE b) (4 + k) inUse).setBit (Reg.SPARE_STATE b) (8 + k) bad

/-- The spare that serves a logical tile, if one does. -/
def spareOf (s : State) (t : Nat) : Option Nat := if physOf s t % 68 < 64 then none else some (physOf s t % 68 - 64)

/-- A logical tile mapped: to its home tile, or to a spare of its bay. -/
def mapTile (s : State) (t : Nat) (spare : Option Nat) : State :=
  match spare with
  | none => s.setReg (Reg.TILE_MAP t) (BitVec.ofNat 32 (homeOf t))
  | some k => s.setReg (Reg.TILE_MAP t) (BitVec.ofNat 32 (2 ^ 31 + t / 64 * 68 + 64 + k))

/-- A failing tile replaced by the lowest-numbered good spare of its bay, none where there is none (R373, R397). -/
def replaceTile (s : State) (t : Nat) : Option State :=
  let b := t / 64
  match goodSpares s b with
  | [] => none
  | k :: _ =>
    let s1 := match spareOf s t with
      | some j => setSpare s b j false false true
      | none => s
    some (mapTile (setSpare s1 b k false true false) t (some k))

/-- The map of a bay as it is before any replacement: every home tile, the failing spares FAILED, the others GOOD. -/
def plainMap (s : State) (b : Nat) (failing : List Nat) : State :=
  let s1 := (seqFrom (64 * b) 64).foldl (fun s t => mapTile s t none) s
  (seqFrom 0 4).foldl (fun s k => let bad := failing.contains (b * 68 + 64 + k); setSpare s b k (!bad) false bad) s1

/-- A bay's map built afresh (R397): failing home tiles replaced; the bay disabled where the spares do not suffice. -/
def buildMap (s : State) (b : Nat) (failing : List Nat) : State :=
  let s0 := plainMap s b failing
  let s1 := ((seqFrom (64 * b) 64).filter (fun t => failing.contains (homeOf t))).foldl (fun acc t =>
    acc.bind (fun s => replaceTile s t)) (some s0)
  let dead := s.power.deadTiles.filter (fun t => decide (t / 64 ≠ b))
  match s1 with
  | some x => { x.setBit Reg.BAY_ENABLE_MASK b true with power := { s.power with deadTiles := dead } }
  | none => { s0.setBit Reg.BAY_ENABLE_MASK b false with power := { s.power with deadTiles := dead } }

/-! ## Which bays and tiles a command uses -/

/-- A mask of bays from the bays' numbers. -/
def maskOfBays (l : List Nat) : Nat := maskBits 8 l.contains

/-- The tiles a command's operations run on. -/
def tilesOf (e : Entry) : List Nat :=
  let op := pktOp e.pkt
  if op = 0x30 ∨ op = 0x31 ∨ op = 0x32 ∨ op = 0x40 then (queuesOf e).map (fun a => a % 512) else []

/-- The bays a command's operations run in, as a mask. Control, skerry, collective, security and management opcodes use none. -/
def bayMask (s : State) (e : Entry) : Nat :=
  let op := pktOp e.pkt
  if op = 0x10 then maskOfBays [bodyAt e 32 1 % 8]
  else if op = 0x12 then maskOfBays [bodyAt e 33 1 % 8]
  else if op = 0x13 then maskOfBays [bodyAt e 64 1 % 8]
  else if op = 0x11 then maskOfBays [bodyAt e 72 1 % 8]
  else if op = 0x20 then maskOfBays [bayOfAddr s (bodyAt e 48 8)]
  else if op = 0x21 then maskOfBays [bayOfAddr s (bodyAt e 32 8)]
  else if op = 0x22 ∨ op = 0x23 ∨ op = 0x24 then maskOfBays [bodyAt e 2 1 % 8]
  else if op = 0x25 ∨ op = 0x26 then 1
  else maskOfBays ((tilesOf e).map (fun t => t / 64))

/-! ## Tile faults (R373) -/

/-- Whether a command has an operation in a queue of a tile. -/
def queuedOn (t : Nat) (e : Entry) : Bool := inQueues e && e.queued.any (fun q => decide (q.1 % 512 = t))

/-- The commands with an operation in a queue of a tile, changed. -/
def onTile (s : State) (t : Nat) (f : Entry → Entry) : State :=
  { s with entries := s.entries.map (fun e => if queuedOn t e then f e else e) }

/-- A tile stopped for good: its commands end with DEVICE_FAULT 0x03 (R373). -/
def loseTile (s : State) (t : Nat) : State :=
  let s1 := onTile (setStatus s Reg.RAS_EVENT 5) t (fun e =>
    { e with phase := .finished ⟨0x30, 0x03, if pktOp e.pkt = 0x40 then 0x4000 + t else (matBody e).engineId, 0, 0⟩ })
  logTimed { s1 with power := { s1.power with deadTiles := if s.power.deadTiles.contains t then s.power.deadTiles
                                                           else s.power.deadTiles ++ [t] } }
    0x0B (plainLog 8 (0x4000 + t) 0)

/-- A tile remapped: the map, RAS_EVENT, the counter, the log (R373). -/
def remapTile (s : State) (t : Nat) : Option State :=
  (replaceTile s t).map (fun s1 =>
    logTimed ((setStatus s1 Reg.RAS_EVENT 4).count Reg.RAS_TILE_REMAPS 1) 0x0B (plainLog 4 (0x4000 + t) 0))

/-- A tile fault: the tile is remapped and its operations replayed, or it is lost (R373). -/
def faultTile (s : State) (t : Nat) : State :=
  if s.bitAt Reg.RAS_POLICY 1 then
    match remapTile s t with
    | some s1 => onTile s1 t (fun e => { e with notes := e.notes ||| 12, replays := e.replays + 1 })
    | none => loseTile s t
  else loseTile s t

/-! ## Self-test (R374) -/

/-- What a test of bays found: the bays with a failing tile, the tiles remapped, whether one found no spare. -/
structure TestCount where
  bays : Nat
  remapped : Nat
  stuck : Bool
  deriving DecidableEq, Repr

/-- The results of one spare applied: a failing one unusable, one that passes in the pool unless it serves. -/
def judgeSpare (s : State) (failing : List Nat) (b k : Nat) : State :=
  if failing.contains (b * 68 + 64 + k) then
    (if s.bitAt (Reg.SPARE_STATE b) (4 + k) then s else setSpare s b k false false true)
  else if s.bitAt (Reg.SPARE_STATE b) (4 + k) then s
  else setSpare s b k true false false

/-- A replaced tile that passes returns: its logical tile runs on it again and the spare is free (R374, R380). -/
def returnHome (s : State) (failing : List Nat) (t : Nat) : State :=
  match spareOf s t with
  | some k =>
    if failing.contains (homeOf t) then s
    else
      let bad := failing.contains (t / 64 * 68 + 64 + k)
      mapTile (setSpare s (t / 64) k (!bad) false bad) t none
  | none => s

/-- A logical tile judged after the pool is settled. -/
def judgeTile (failing : List Nat) (remap : Bool) (acc : State × TestCount) (t : Nat) : State × TestCount :=
  let s := acc.1
  let alive := { s with power := { s.power with deadTiles := s.power.deadTiles.filter (fun x => decide (x ≠ t)) } }
  if !failing.contains (physOf s t) then (alive, acc.2)
  else if !remap then acc
  else match remapTile alive t with
    | some s1 => (s1, { acc.2 with remapped := acc.2.remapped + 1 })
    | none => (loseTile s t, { acc.2 with stuck := true })

/-- One bay tested and the results applied. -/
def testBay (failing : List Nat) (remap full : Bool) (acc : State × TestCount) (b : Nat) : State × TestCount :=
  let s0 := if full then
      putZeros ((seqFrom (64 * b) 64).foldl (fun s t => putZeros s (0x400000000000 + 0x100000 * t) (0x400000080000 + 0x100000 * t)) acc.1)
        (0x410000000000 + 0x1000000 * b) (0x410001000000 + 0x1000000 * b)
    else acc.1
  let s1 := (seqFrom 0 4).foldl (fun s k => judgeSpare s failing b k) s0
  let s2 := (seqFrom (64 * b) 64).foldl (fun s t => returnHome s failing t) s1
  let any := failing.any (fun p => decide (p / 68 = b))
  (seqFrom (64 * b) 64).foldl (judgeTile failing remap)
    (s2, { acc.2 with bays := acc.2.bays + if any then 2 ^ b else 0 })

/-- The bays of a mask, ascending. -/
def baysIn (mask : Nat) : List Nat := (seqFrom 0 8).filter (fun b => bit mask b)

/-- Whether another dispatched, incomplete command has operations in the bays of a mask. -/
def baysBusy (s : State) (e : Entry) (mask : Nat) : Bool :=
  s.entries.any (fun c => decide (c.tag ≠ e.tag) && inFlight c && decide (bayMask s c &&& mask ≠ 0))

/-- SELF_TEST; the operand of its row says which physical tiles of the bays fail. -/
def bodySelfTest (failing : List Nat) (e : Entry) : Cmd Done := do
  let s ← Cmd.state
  let mask := bodyAt e 0 1
  Cmd.checks [(decide (mask ≠ 0 ∧ bodyAt e 1 1 ≤ 1 ∧ bodyAt e 2 1 < 2) && bodyZero e 3 16 &&
    (baysIn mask).all (bayEnabled s), 0xF1)]
  if baysBusy s e mask then throw (.wait (.bays mask))
  else
    let (s1, n) := (baysIn mask).foldl (testBay failing (bit (bodyAt e 2 1) 0) (bodyAt e 1 1 = 1)) (s, ⟨0, 0, false⟩)
    Cmd.update (fun _ => s1)
    if n.stuck then Cmd.fail 0x30 0x03
    else
      let spares := (baysIn mask).foldl (fun k b => k + (goodSpares s1 b).length) 0
      return ⟨0, 0, 0, n.bays + 2 ^ 8 * n.remapped + 2 ^ 24 * spares, 0⟩

/-! ## UNDERTOW and TIDE_RETIRE -/

/-- UNDERTOW (R378 to R380): DISARM removes the slot's rule. -/
def bodyUndertow (e : Entry) : Cmd Done := do
  let body := (pktBody e.pkt).take 48
  Cmd.checks [(uwBodyOk body, 0xF0)]
  if uwLocked (← Cmd.state) then Cmd.fail 0x20 0x03
  else
    let n := bodyAt e 0 1
    Cmd.update (fun s => if bodyAt e 1 1 = 0 then uwDisarm s n else uwArm s n body)
    return ⟨0, 0, 0, n, 0⟩

/-- TIDE_RETIRE (R222): the named tides RETIRING, their holds discarded; it completes when they have retired. A TIDE that is CURRENT is
refused in either mode. -/
def bodyTideRetire (e : Entry) : Cmd Done := do
  let s ← Cmd.state
  let i := bodyAt e 0 4
  let t := bodyAt e 4 2
  let te := tideEntry s e.slot i
  Cmd.checks [(bodyZero e 7 16 && decide (bodyAt e 6 1 < 2) && decide (te.map (fun x => x.kind) = some 0), 0x82)]
  match te with
  | none => Cmd.bad 0x82
  | some te =>
    let mode := bodyAt e 6 1
    if t = te.current then Cmd.fail 0x20 0x80
    else if atOrAfter t te.current then Cmd.fail 0x20 0x81
    else
      let named (v : VersionSlot) : Bool := v.state = 3 &&
        (if mode = 0 then decide (v.tide = t) else atOrAfter t v.tide)
      let tides := (te.vslots.filter named).map (fun v => v.tide)
      let holds := (te.vslots.filter named).foldl (fun n v => n + v.holds) 0
      if tides.isEmpty then return ⟨0, 0, 0, 0, 0⟩
      else
        Cmd.update (fun s =>
          let s1 := setTide s e.slot i (fun x => { x with vslots := x.vslots.map (fun v =>
            if named v then { v with state := 4, holds := 0 } else v) })
          settleEntry (setEntry s1 e.tag (fun c => { c with phase := .running (.retiring e.slot i tides 0 holds) })) e.slot i)
        match entryOf (← Cmd.state) e.tag with
        | none => throw .hold
        | some c =>
          match c.phase with
          | .finished o => return o
          | .running w => throw (.pause w)
          | _ => throw .hold

end Sys2Proof.Machine
end

