-- ==== Sys2Proof/Machine/Run.lean ====
section
/-! DEFINITION. The run of a dispatched command: the gates of dispatch, what each way of stopping leaves, poison and its record,
recovery (02_soloc_command_model, 19_reliability_and_undertow). -/

namespace Sys2Proof.Machine

open Sys2Proof

/-! ## Where uncorrectable data comes from (R366 to R370) -/

/-- The loaded dense parameter group that names a WEIGHT entry. -/
def denseGroup (s : State) (slot entry : Nat) : Option Desc :=
  s.pgroups.find? (fun d => !gEmbed d.bytes && decide (gSlot d.bytes = slot) && decide (gEntry d.bytes = entry))

/-- Whether an address lies in the column records of a group's version slot. -/
def inColumns (g : List Byte) (te : TideEntry) (v a : Nat) : Bool :=
  decide (gShadow g ≠ 0) && decide (gColumns g + v * te.vstride ≤ a) && decide (a < gColumns g + v * te.vstride + 16 * gRows g)

/-- Whether an UPDATE that names a group has begun its step 3. -/
def updateBegun (s : State) (c : List Byte → Bool) : Bool :=
  s.entries.any (fun e => decide (pktOp e.pkt = 0x60) && inFlight e && e.prepared && c (groupDesc s (bodyAt e 0 2 % 4096)))

/-- Whether the tide of a version slot is rebuildable (R366). -/
def rebuildable (s : State) (slot entry v : Nat) : Bool :=
  match tideEntry s slot entry, denseGroup s slot entry with
  | some te, some d =>
    let x := (te.vslots[v]?).getD VersionSlot.empty
    x.state = 2 && decide (x.tide = te.current) && !updateBegun s (fun g => decide (g = d.bytes)) &&
    !s.stale.contains ⟨slot, entry, x.tide⟩
  | _, _ => false

/-- Whether a row-map entry's slot has a byte of a 256-byte granule. -/
def slotMeets (d : List Byte) (e granule : Nat) : Bool :=
  decide (eState e ≠ 0) && decide (slotAddr d (eTier e) (eSlot e) < granule + 256) &&
  decide (granule < slotAddr d (eTier e) (eSlot e) + tBytes d)

/-- The row-map indices of a table whose slots have a byte of the granule of an address. -/
def rowsMeeting (s : State) (d : List Byte) (a : Nat) : List Nat :=
  (seqFrom 0 (tRows d + tGuests d)).filter (fun i => slotMeets d (storedEntry s d i) (a / 256 * 256))

/-- The table one of whose row slots holds an address. -/
def rowTableAt (s : State) (a : Nat) : Option Desc :=
  s.gath.tables.find? (fun t => (rowsMeeting s t.bytes a).any (fun i =>
    let e := storedEntry s t.bytes i
    decide (slotAddr t.bytes (eTier e) (eSlot e) ≤ a) && decide (a < slotAddr t.bytes (eTier e) (eSlot e) + tBytes t.bytes)))

/-- The newest valid replay record whose outputs cover the word of an address (R369). -/
def producerOf (s : State) (a : Nat) : Option ReplayRecord :=
  s.replay.reverse.find? (fun r => (seqFrom (a / 64 * 64) 64).all (fun x =>
    r.outs.any (fun o => decide (o.1 ≤ x) && decide (x < o.1 + o.2))))

/-- Whether an address lies in the master state of a loaded parameter group: a dense group's arrays, or the optimizer state of a table's
rows (R254, R257). -/
def inMaster (s : State) (a : Nat) : Bool :=
  s.pgroups.any (fun p =>
    let g := p.bytes
    if gEmbed g then
      match tableDesc s (gEntry g) with
      | some d => decide (tState d ≠ 0) && decide (tState d ≤ a) && decide (a < tState d + (tRows d + tGuests d) * rowStateBytes s (gEntry g) d)
      | none => false
    else decide (gStateBase g ≤ a) && decide (a < gStateBase g + stateBytes g))

/-- What an uncorrectable word of a command's input comes to: none where it is recovered, `masterLost` in master state, of which no other
copy is (R254), else the POISON detail (R366 to R371). -/
def planFor (s : State) (e : Entry) (a : Nat) : Option Nat :=
  match locate s a with
  | .error _ => some 1
  | .ok p =>
    if p.region = .host then some 4
    else match versionAt s a with
      | some (slot, entry, v) =>
        match denseGroup s slot entry, tideEntry s slot entry with
        | some d, some te => if inColumns d.bytes te v a || !rebuildable s slot entry v then some 3 else none
        | _, _ => some 6
      | none =>
        match rowTableAt s a with
        | some t => if (embedGroup s t.index).isSome then none else some 6
        | none =>
          let lost := match p.region with
            | .hbm st => fenced s st (p.key % 2 ^ 37)
            | _ => false
          if inMaster s a then some masterLost
          else if lost then some 5
          else if pktNoReplay e.pkt || !flag e.policy 0 then some 1
          else if (producerOf s a).isNone then some 2 else none

/-- An uncorrectable word met on a command's path and recovered: counted and shown (R242, R243, R254). -/
def noteDetected (s : State) (a : Nat) : State :=
  match locate s a with
  | .ok ⟨_, .hbm st⟩ => setStatus (s.count (Reg.STACK_UE st) 1) Reg.RAS_EVENT 0
  | .ok ⟨_, .skerry⟩ => setStatus (s.count Reg.SKERRY_UE 1) Reg.RAS_EVENT 2
  | .ok ⟨_, .host⟩ => s
  | .ok _ => setStatus s Reg.RAS_EVENT 1
  | .error _ => s

/-- The error-log class of uncorrectable data at an address. -/
def ueClass (s : State) (a : Nat) : Nat :=
  match locate s a with
  | .ok ⟨_, .hbm _⟩ => 0x02
  | .ok ⟨_, .skerry⟩ => 0x06
  | _ => 0x04

/-- The unit of an address in the error log. -/
def unitAt (s : State) (a : Nat) : Nat :=
  match locate s a with
  | .ok p => unitOf s p
  | .error _ => 0

/-! ## What carries out a command -/

/-- What carries out an opcode: its preparation, whose effects stay once it succeeds, and its body. -/
structure Job where
  prep : Entry → Cmd Unit
  body : Entry → Cmd Done

/-- A job without preparation. -/
def Job.plain (body : Entry → Cmd Done) : Job := ⟨fun _ => pure (), body⟩

/-- The environment in which a command runs. -/
def runEnv (s : State) (e : Entry) : Env :=
  { Env.start s with overlay := e.overlay, answers := e.answers, plan := planFor s e, ins := e.ins, outs := e.outs,
                     touched := e.touched, policy := e.policy }

/-- What carries out an opcode, for the rows that resume a command whatever its opcode is. -/
def jobOf (op : Nat) : Job :=
  if op = 0x06 then .plain bodyQuery
  else if op = 0x10 then .plain bodyCopy
  else if op = 0x11 then .plain bodyStoreCompressed
  else if op = 0x12 then .plain bodyTransposeCopy
  else if op = 0x13 then .plain bodyConvert
  else if op = 0x20 then .plain bodySample
  else if op = 0x21 then .plain bodyRandomWalk
  else if op = 0x22 then .plain bodyGather
  else if op = 0x23 then .plain bodyGatherPool
  else if op = 0x24 then .plain bodyScatterAdd
  else if op = 0x25 then .plain bodyRowReplace
  else if op = 0x26 then .plain bodyRowMigrate
  else if op = 0x30 ∨ op = 0x31 ∨ op = 0x32 then ⟨prepareMatrix, bodyMatrix⟩
  else if op = 0x40 then .plain bodyVectorRun
  else if op = 0x50 then .plain bodyReduce
  else if op = 0x51 ∨ op = 0x52 ∨ op = 0x53 then .plain bodyExchange
  else if op = 0x54 then .plain bodyScaleRound
  else if op = 0x60 then ⟨prepareUpdate, bodyUpdate⟩
  else if op = 0x61 then ⟨prepareCheckpoint, bodyCheckpoint⟩
  else if op = 0x62 then .plain bodyRestore
  else if op = 0x70 then .plain bodyTideRetire
  else if op = 0xE0 then .plain bodyAttest
  else if op = 0xE1 then .plain bodyMeasureProgram
  else .plain bodyUndertow

/-- What a command's body would declare, write, reach and run on when nothing holds it back: alone in the module, no tile gated, no stack
held, the host link up. -/
def trial (s : State) (e : Entry) : Env :=
  let free := (s.setReg Reg.HBM_HOLD 0).setField Reg.HOST_LINK_STATUS 19 16 1
  let alone := { free with
    regs := free.regs.filter (fun r => decide (r.1 < Reg.TILE_GATED 0) || decide (Reg.TILE_GATED 16 ≤ r.1))
    entries := [e]
    coll := { s.coll with reductions := [], runs := [] } }
  (((jobOf (pktOp e.pkt)).body e).run.run (runEnv alone e)).2

/-- The output locations of a command. -/
def outputsOf (s : State) (e : Entry) : List (Nat × Nat) :=
  let env := trial s e
  (e.outs ++ env.declared ++ env.outs).dedup

/-- The unit that carries out a command: ENGINE. -/
def engineOf (s : State) (e : Entry) : Nat := (trial s e).engine

/-! ## Blocks and their users (R64, R65) -/

/-- Whether a commit with a key is APPLYING. -/
def isApplying (s : State) (key : Nat) : Bool := s.applying.any (fun c => decide (c.key = key))

/-- The model slots whose descriptors an APPLYING commit of block 0x0E changes. -/
def applyingSlots (s : State) : List Nat :=
  match s.applying.find? (fun c => decide (c.key = 14)) with
  | some k =>
    let word (off : Nat) : Word := ((k.set.find? (fun p => decide (p.1 = off))).map (fun p => p.2)).getD (s.reg off)
    changedSlots s ((word Reg.SLOT_TABLE_LO).toNat / 2 ^ 12 * 2 ^ 12 + 2 ^ 32 * (word Reg.SLOT_TABLE_HI).toNat)
  | none => []

/-- Whether a command's accesses lie, or would lie, in memory (R65, users of block 0x05); control opcodes access none. -/
def usesMemory (s : State) (e : Entry) : Bool := decide (6 ≤ pktOp e.pkt) && (e.touched || (trial s e).touched)

/-- Whether a command's opcode, slot or accesses make it a user of a block (R65). -/
def usesBlock (s : State) (e : Entry) (key : Nat) : Bool :=
  let op := pktOp e.pkt
  if key = 5 then usesMemory s e
  else if key = 7 then decide (0x50 ≤ op ∧ op ≤ 0x54)
  else if key = 8 then decide ((0x20 ≤ op ∧ op ≤ 0x26) ∨ (0x60 ≤ op ∧ op ≤ 0x62))
  else if key = 9 then
    decide (op = 0x11 ∨ op = 0x13 ∨ (0x30 ≤ op ∧ op ≤ 0x32) ∨ op = 0x40 ∨ op = 0x54 ∨ (0x60 ≤ op ∧ op ≤ 0x62))
  else if key = 13 then decide ((0x60 ≤ op ∧ op ≤ 0x62) ∨ op = 0x70)
  else if key = 14 then (applyingSlots s).contains e.slot
  else false

/-- Whether a dispatched command waits in one of the waits of R64, in which it uses no block. -/
def r64Wait (e : Entry) : Bool :=
  match e.phase with
  | .running .tide => true
  | .running .turn => true
  | .running .slot => true
  | .running .checkpoint => true
  | _ => false

/-- Whether an APPLYING commit holds a command back. -/
def blockedByCommit (s : State) (e : Entry) : Bool :=
  s.applying.any (fun c => decide (c.key < 16) && decide (c.key ≠ 5) && usesBlock s e c.key)

/-! ## Gates of dispatch -/

/-- Whether a SELF_TEST holds dispatch to a bay that a command uses (R374). -/
def heldByTest (s : State) (e : Entry) : Bool :=
  s.entries.any (fun c => match c.phase with
    | .running (.bays m) => decide (c.tag ≠ e.tag) && decide (bayMask s e &&& m ≠ 0)
    | _ => false)

/-- The bays that issue no new operation: paused by R247 or R353. -/
def pausedBays (s : State) : Nat := s.power.paused ||| maskBits 8 (fun b => decide (3 ≤ s.fieldAt (Reg.STACK_STATE b) 10 8))

/-- Whether a command has issued none of its operations: it is ready, or waits before its first access or for its engine queues. -/
def notIssued (e : Entry) : Bool :=
  match e.phase with
  | .ready => true
  | .running .queueRoom => true
  | .running .serialised => true
  | .running .gated => true
  | _ => r64Wait e

/-- Whether Soloc is ready: BOOT_STATUS.READY. -/
def solocReady (s : State) : Bool := s.bitAt Reg.BOOT_STATUS 31

/-- Whether nothing holds a command back from its units: a commit APPLYING at its dispatch or at the end of a wait of R64, a SELF_TEST at
its dispatch, a pause before its operations are issued, a shut-down bay always. Operations under way go on during a pause (R353). -/
def gateOpen (s : State) (e : Entry) : Bool :=
  solocReady s && !((decide (e.phase = .ready) || r64Wait e) && blockedByCommit s e) &&
  !(decide (e.phase = .ready) && heldByTest s e) && decide (bayMask s e &&& s.power.bayOff = 0) &&
  (!notIssued e || decide (bayMask s e &&& pausedBays s = 0))

/-! ## Running -/

/-- What a run leaves in the tracking entry: notes, whether it touched memory, corrected errors met, the descriptors read at dispatch. -/
def keepRun (env : Env) (e : Entry) : Entry :=
  { e with kept := ((entryOf env.s e.tag).map (fun c => c.kept)).getD e.kept, notes := e.notes ||| env.notes,
           touched := e.touched || env.touched, reruns := e.reruns + b2n env.corrected }

/-- A question as the numbers of a message (Remote expansion, R95, R101, R266). -/
def askArgs : Ask → List Nat
  | .row g k0 k1 hop mode f c w node => [0, g, k0, k1, hop, mode, f, b2n c, b2n w, node]
  | .step g k0 k1 walk start t node prev p q => [1, g, k0, k1, walk, start, t, node, (prev.map (fun u => u + 1)).getD 0, p, q]
  | .member g node x => [2, g, node, x]
  | .tableRow t row tide => [3, t, row, tide]
  | .contribute t row tide k codes => [4, t, row, tide, k, codes.length] ++ codes
  | .takeRow t row => [5, t, row]
  | .switchRow t row tide => [6, t, row, tide]
  | .image a n => [7, a, n]

/-- The message of questions of a gather unit: the module that asks, its command, the questions. -/
def rowsMessage (what : MsgWhat) (requester tag : Nat) (qs : List Ask) : Content := ⟨what, [requester, tag] ++ qs.flatMap askArgs, []⟩

/-- The message that carries questions of one destination. -/
def askMessage (own tag : Nat) (qs : List Ask) : Content :=
  match qs.head? with
  | some (.tableRow _ _ _) => rowsMessage .gatherRequest own tag qs
  | some (.contribute _ _ _ _ _) => rowsMessage .contribution own tag qs
  | some (.image a n) => ⟨.migrationCopy, [tag, a, n], []⟩
  | _ => ⟨.expandRequest, tag :: qs.flatMap askArgs, []⟩

/-- Questions grouped into messages: gather rows and contributions of one destination in batches, the others one by one. -/
def askGroups (qs : List (Nat × Ask)) : List (Nat × List Ask) :=
  let rows := qs.filter (fun q => match q.2 with | .tableRow _ _ _ => true | _ => false)
  let adds := qs.filter (fun q => match q.2 with | .contribute _ _ _ _ _ => true | _ => false)
  let rest := qs.filter (fun q => match q.2 with | .tableRow _ _ _ => false | .contribute _ _ _ _ _ => false | _ => true)
  let batch (l : List (Nat × Ask)) : List (Nat × List Ask) :=
    (l.map (fun q => q.1)).dedup.map (fun d => (d, (l.filter (fun q => q.1 = d)).map (fun q => q.2)))
  batch rows ++ batch adds ++ rest.map (fun q => (q.1, [q.2]))

/-- Whether a question is a row request of a gather unit. -/
def isRowAsk : Ask → Bool
  | .tableRow _ _ _ => true
  | _ => false

/-- The row requests outstanding in the gather unit that serves a command (R53). -/
def rowsOutstanding (s : State) (e : Entry) : Nat :=
  let mine (c : Entry) : Bool := decide (pktOp c.pkt = 0x22 ∨ pktOp c.pkt = 0x23) && decide (bodyAt c 2 1 % 8 = bodyAt e 2 1 % 8)
  let left (c : Entry) : Nat := (c.asked.filter (fun q => isRowAsk q.1 && !c.answers.any (fun p => decide (p.1 = q.1)))).length
  ((s.entries.filter mine).map left).foldl (fun a n => a + n) 0

/-- The questions that may be sent now: of the row requests of a gather unit those within its bound of 4,096; the others wait in it until
the command goes on (R53). -/
def withinBound (s : State) (e : Entry) (qs : List (Nat × Ask)) : List (Nat × Ask) :=
  let rows := qs.filter (fun q => isRowAsk q.2)
  rows.take (4096 - rowsOutstanding s e) ++ qs.filter (fun q => !isRowAsk q.2)

/-- The questions of a command sent to their modules; those asked already are not sent again. -/
def sendAsks (s : State) (e : Entry) (qs : List (Nat × Ask)) : State :=
  let fresh := withinBound s e (qs.filter (fun q => !e.asked.any (fun a => a.1 = q.2)))
  let s1 := (askGroups fresh).foldl (fun s g => (sendMessage s g.1 (askMessage (ownId s) e.tag g.2)).2) s
  setEntry s1 e.tag (fun c => { c with asked := c.asked ++ fresh.map (fun q => (q.2, q.1)), phase := .running .remote })

/-- A command that has ended: its outcome awaits COMMAND_COMPLETE. -/
def finishWith (s : State) (e : Entry) (env : Env) (o : Done) : State :=
  setEntry (dropRecords s env.outs) e.tag (fun c => { keepRun env c with phase := .finished o, ins := env.ins, outs := env.outs })

/-- The place of a wait for row slots in a phase. -/
def rowsPlace (e : Entry) : Option (Nat × Nat) :=
  match e.phase with
  | .running (.rows k m) => some (k, m)
  | .running (.recovery _ r) => r
  | _ => none

/-- What a stop leaves: `orig` is the state before the command was dispatched or resumed, `base` the state at its start. -/
def settleStop (orig base : State) (e : Entry) (env : Env) (x : Stop) : State :=
  let running (s : State) (w : Wait) : State := setEntry s e.tag (fun c => { keepRun env c with phase := .running w })
  match x with
  | .hold => orig
  | .bad d => finishWith base e { env with outs := e.outs } ⟨0x11, d, 0, 0, 0⟩
  | .fail st d engine =>
    if st = 0x20 ∨ st = 0x16 then finishWith base e { env with outs := e.outs } ⟨st, d, 0, 0, 0⟩
    else if st = 0x11 then finishWith base e { env with outs := e.outs } ⟨st, d, engine, 0, 0⟩
    else if leavesUndefined st then
      let s1 := undefOutputs env.s (env.declared ++ env.outs)
      let s2 := if st = 0x14 then notePoison s1 e engine d ((env.poison.map (fun p => p.2)).getD 0) else s1
      finishWith s2 e env ⟨st, d, engine, 0, 0⟩
    else finishWith env.s e env ⟨st, d, engine, 0, 0⟩
  | .wait w => running base w
  | .pause w => setEntry (running (dropRecords env.s env.outs) w) e.tag (fun c => { c with ins := env.ins, outs := env.outs })
  | .ask qs => sendAsks (setEntry base e.tag (keepRun env)) e qs
  | .recover a =>
    setEntry (running (noteDetected base a) (.recovery a (rowsPlace e))) e.tag (fun c => { c with pauseFrom := some orig.now })

/-- The TILE rules' injections into the operations of a command: each tile hit faults (R372, R378); whether a tile is lost. -/
def injectTiles (s : State) (e : Entry) : Bool × State :=
  if s.undertow.isEmpty then (false, s)
  else (tilesOf e).dedup.foldl (fun acc t =>
    let (hits, s1) := uwEvents acc.2 (fun u => decide (u.target = 3) && decide (u.location = t))
    if hits.isEmpty then (acc.1, s1)
    else
      let s2 := if flag e.policy 1 then remapTile s1 t else none
      match s2 with
      | some s3 => (acc.1, setEntry (onTile s3 t (fun c => { c with notes := c.notes ||| 12, replays := c.replays + 1 })) e.tag
          (fun c => { c with notes := c.notes ||| 12, replays := c.replays + 1 }))
      | none => (true, loseTile s1 t)) (false, s)

/-- The tiles of a command whose operations have run: when they last had one (R355). -/
def noteUsed (s : State) (e : Entry) : State :=
  let l := (tilesOf e).dedup
  if l.isEmpty then s
  else { s with power := { s.power with used := l.map (fun t => (t, s.now)) ++ s.power.used.filter (fun p => !l.contains p.1) } }

/-- The part that two extents share: none where it is empty. -/
def sharedPart (a b : Nat × Nat) : Option (Nat × Nat) :=
  let lo := max a.1 b.1
  let hi := min (a.1 + a.2) (b.1 + b.2)
  if lo < hi then some (lo, hi - lo) else none

/-- Whether one of two commands is a VECTOR_RUN and the other a matrix command. -/
def vectorAndMatrix (a b : Nat) : Bool :=
  let matrix (op : Nat) : Bool := decide (op = 0x30 ∨ op = 0x31 ∨ op = 0x32)
  (decide (a = 0x40) && matrix b) || (matrix a && decide (b = 0x40))

/-- The scratchpad bytes that a VECTOR_RUN and a matrix command both touch, at least one of them writing, while the one that ran first has
not completed: nothing orders them (R198; log entry 90). -/
def racingBytes (s : State) (e : Entry) (env : Env) : List (Nat × Nat) :=
  let ran (c : Entry) : Bool := (match c.phase with
    | .finished _ => true
    | _ => false) && decide (c.tag ≠ e.tag) && vectorAndMatrix (pktOp e.pkt) (pktOp c.pkt)
  let scratch (x : Nat × Nat) : Bool := match locate s x.1 with
    | .ok ⟨_, .scratchpad _⟩ => true
    | _ => false
  let shared (a b : List (Nat × Nat)) : List (Nat × Nat) := a.flatMap (fun x => b.filterMap (sharedPart x))
  ((s.entries.filter ran).flatMap (fun c => shared env.outs (c.ins ++ c.outs) ++ shared env.ins c.outs)).filter scratch

/-- A body that ran to its end: scratchpad bytes left undefined by a race, poison, corrected errors, injected tile faults. -/
def settleDone (e : Entry) (env : Env) (o : Done) : State :=
  let (lost, s1) := injectTiles (noteUsed (undefOutputs env.s (racingBytes env.s e env)) e) e
  if lost then finishWith (undefOutputs s1 (env.declared ++ env.outs)) e env { o with status := 0x30, detail := 0x03, result := 0 }
  else match env.poison with
    | some (d, a) =>
      finishWith (notePoison s1 e o.engine d a) e env
        { o with status := 0x14, detail := d, result := o.result % 2 ^ 32 + 2 ^ 32 * (env.poisoned % 2 ^ 32) }
    | none =>
      let corrected := env.corrected || decide (0 < e.reruns)
      finishWith s1 e env { o with status := if o.status = 0 && corrected then 1 else o.status }

/-- The conditions that BAD_FORMAT alone precedes at dispatch: the slot loaded (R62), skerry memory in service (R395), the tiles alive
(R373). A check of weight addresses against a slot that is not loaded gives way to R62. -/
def dispatchFault (s : State) (e : Entry) : Option Done :=
  let op := pktOp e.pkt
  if !slotLoaded s e.slot then some ⟨0x20, 0x02, 0, 0, 0⟩
  else if 0x60 ≤ op ∧ op ≤ 0x62 ∧ s.fieldAt Reg.SKERRY_STATUS 1 0 = 3 then some ⟨0x30, 0x06, 0x9000, 0, 0⟩
  else match (tilesOf e).find? s.power.deadTiles.contains with
    | some t => some ⟨0x30, 0x03, if op = 0x40 then 0x4000 + t else (matBody e).engineId, 0, 0⟩
    | none => none

/-- Whether a stop is a BAD_FORMAT that precedes the conditions of `dispatchFault`. -/
def badFirst (s : State) (e : Entry) (x : Stop) : Bool :=
  match x with
  | .bad d => slotLoaded s e.slot || !(d = 0x80 || d = 0x81 || d = 0x82 || d = 0xA0)
  | _ => false

/-- The body of a prepared command run; `base` holds the command's entry as it starts. -/
def runBody (base : State) (job : Job) (e : Entry) : Env × Except Stop Done :=
  let r := (job.body e).run.run (runEnv base e)
  (r.2, r.1)

/-- Whether a run that has stopped waits: what it would reach later it has not reached yet. -/
def waits (x : Except Stop Done) : Bool :=
  match x with
  | .error (.pause _) => true
  | .error (.wait _) => true
  | .error (.ask _) => true
  | _ => false

/-- A command run from its tracking entry: the preparation where it is still due, then the body. It takes its configuration at its dispatch
and at the end of a wait of R64. First dispatch checks what only BAD_FORMAT precedes; a commit of the Memory block APPLYING holds, there and
at the end of such a wait, a command that reaches memory (R65). -/
def runEntry (s : State) (job : Job) (e0 : Entry) : State :=
  let first := e0.phase = .ready
  let fresh := decide first || r64Wait e0
  let e1 := if fresh then { e0 with policy := s.reg Reg.RAS_POLICY } else e0
  let e := if first then { e1 with disp := s.readSeq, notes := e0.notes ||| b2n (decide (belowFloor s ≠ 0)) } else e1
  let base := setEntry (if first then { s with readSeq := s.readSeq + 1 } else s) e.tag (fun _ => e)
  let fault := if first then dispatchFault s e else none
  let end_ (b : State) (env : Env) (x : Except Stop Done) : State :=
    if fresh && isApplying s 5 && (env.touched || (waits x && usesMemory s e)) then s
    else match x with
      | .error x =>
        if badFirst s e x then settleStop s b e env x
        else match fault with
          | some o => finishWith base e (runEnv base e) o
          | none => settleStop s b e env x
      | .ok o => match fault with
        | some f => finishWith base e (runEnv base e) f
        | none => settleDone ((entryOf env.s e.tag).getD e) env o
  if e.prepared then
    let (env, x) := runBody base job e
    end_ base env x
  else
    let (x, env) := (job.prep e).run.run (runEnv base e)
    match x with
    | .error x => end_ base env (.error x)
    | .ok _ =>
      let s1 := setEntry env.s e.tag (fun c => { keepRun env c with prepared := true })
      match entryOf s1 e.tag with
      | none => s
      | some e1 =>
        let (env1, y) := runBody s1 job e1
        end_ s1 env1 y

/-- Whether a command that waits may go on at its own row: every answer is there, or what it waited for may have come. -/
def mayGoOn (s : State) (e : Entry) : Bool :=
  match e.phase with
  | .ready => true
  | .running .remote => e.asked.all (fun q => (e.answers.filter (fun p => p.1 = q.1)).any (fun p => p.2.last))
  | .running .collective => !inCollective s e
  | .running (.bays _) => true
  | .running .migrationBound => true
  | .running (.rows _ _) => true
  | .running .host => decide (s.fieldAt Reg.HOST_LINK_STATUS 19 16 ≠ 0)
  | _ => false

/-- The row of an opcode: the command of a tag, where it is of that opcode and may run now, is dispatched or goes on. -/
def runRow (op : Nat) (job : Job) (tag : Nat) (s : State) : State :=
  match entryOf s tag with
  | some e => if pktOp e.pkt = op && mayGoOn s e && gateOpen s e then runEntry s job e else s
  | none => s

/-- A command in a given wait goes on, by a row of its own (R43, R53, R64). -/
def resumeFrom (s : State) (tag : Nat) (w : Wait) : State :=
  match entryOf s tag with
  | some e => if e.phase = .running w && gateOpen s e then runEntry s (jobOf (pktOp e.pkt)) e else s
  | none => s

/-! ## Recovery -/

/-- The command whose recovery of an address runs. -/
def recovering (s : State) (tag : Nat) : Option (Entry × Nat) :=
  match entryOf s tag with
  | some e =>
    match e.phase with
    | .running (.recovery a _) => some (e, a)
    | _ => none
  | none => none

/-- A command whose recovery ended reads again: its clock goes on, with its notes (R56, R362, R369). -/
def readAgain (s : State) (tag notes : Nat) : State :=
  let s1 := setEntry s tag (fun c => { c with
    notes := c.notes ||| notes, reruns := c.reruns + 1, replays := c.replays + b2n (bit notes 2),
    paused := c.paused + (s.now - c.pauseFrom.getD s.now), pauseFrom := none })
  match entryOf s1 tag with
  | some e => runEntry s1 (jobOf (pktOp e.pkt)) e
  | none => s1

/-- A command whose recovery failed ends. -/
def recoveryFailed (s : State) (e : Entry) (status detail engine : Nat) : State :=
  finishWith (undefOutputs s (outputsOf s e)) { e with pauseFrom := none } (runEnv s e) ⟨status, detail, engine, 0, 0⟩

/-- A recovered granule's bytes: stored, or delivered to the command only where its channel is fenced (R366, R370). -/
def deliver (s : State) (tag a : Nat) (bytes : List Byte) : State :=
  match locate s a with
  | .ok ⟨k, .hbm st⟩ =>
    if fenced s st (k % 2 ^ 37) then
      let cells := (bytes.zipIdx.filterMap (fun b => match locate s (a + b.2) with
        | .ok p => some (p.key, b.1)
        | .error _ => none))
      setEntry s tag (fun c => { c with overlay := cells ++ c.overlay })
    else storeBytes s a bytes
  | _ => storeBytes s a bytes

/-- The write-back of a rebuildable tide computed again from master state, on a copy of the state (R366). -/
def rebuildTide (s : State) (d : Desc) (v : Nat) : Except Stop Unit × Env :=
  let g := d.bytes
  Cmd.serve (do
    let w ← (seqFrom 0 (gCols g)).mapM (fun k => do
      let b ← Cmd.master (gStateBase g + 4 * k * gRows g) (4 * gRows g)
      return (chunks 4 (b.length + 1) b).map (fun x => f32 (leNat x)))
    let _ ← Cmd.writeBack g v 0 w) s

/-- A rebuild counted and logged (R366, R367, R375). -/
def noteRebuilt (s : State) (e : Entry) (a : Nat) : State :=
  logTimed (s.count Reg.RAS_REBUILDS 1) (ueClass s a) (commandLog e 2 (unitAt s a) a 0)

/-- WEIGHT_REBUILD: the granule rebuilt and delivered; the command reads again (R366). -/
def rebuildWeight (s : State) (tag : Nat) : State :=
  match recovering s tag with
  | none => s
  | some (e, a) =>
    match versionAt s a with
    | none => s
    | some (slot, entry, v) =>
      match denseGroup s slot entry with
      | none => s
      | some d =>
        if !rebuildable s slot entry v then readAgain s tag 0
        else
          let (x, env) := rebuildTide s d v
          let g := a / 256 * 256
          match x with
          | .ok _ => readAgain (noteRebuilt (deliver s tag g (peekBytes env.s g 256)) e a) tag 8
          | .error (.fail st det _) => recoveryFailed s e st det 0x9000
          | .error _ => s

/-- The bytes of a table row from its master state (R263). -/
def masterRow (s : State) (t : Nat) (d : List Byte) (i : Nat) : Except Stop (List (Option (List Byte))) × Env :=
  Cmd.serve (do
    let w ← Cmd.master (rowStateAddr s t d i) (4 * tElems d)
    return ((chunks 4 (w.length + 1) w).map (fun b => f32 (leNat b))).map (narrowCell (tElem d))) s

/-- The row slots of a granule rewritten from master state: the state, or the status of a failure. -/
def rebuildRows (s : State) (tag t : Nat) (d : List Byte) : List Nat → Except (Nat × Nat) State
  | [] => .ok s
  | i :: l =>
    match masterRow s t d i with
    | (.ok cells, _) =>
      let e := storedEntry s d i
      let bytes := cells.flatMap (fun c => c.getD (toLE (tElemBytes d) (poisonCode (tElem d))))
      rebuildRows (deliver s tag (slotAddr d (eTier e) (eSlot e)) bytes) tag t d l
    | (.error (.fail st det _), _) => .error (st, det)
    | (.error _, _) => .error (0x30, 0x01)

/-- The error patterns of the words of a granule removed: everything in them has been rewritten. -/
def clearGranule (s : State) (g : Nat) : State :=
  (seqFrom 0 4).foldl (fun s i => match locate s (g + 64 * i) with
    | .ok p => clearErr s p.key
    | .error _ => s) s

/-- TABLE_ROW_REBUILD: the row slot rewritten from master state; while an UPDATE of the table runs, the request is issued again
once the row has flipped (R367). -/
def rebuildRow (s : State) (tag : Nat) : State :=
  match recovering s tag with
  | none => s
  | some (e, a) =>
    match rowTableAt s a with
    | none => readAgain s tag 8
    | some t =>
      if updateBegun s (fun g => gEmbed g && decide (gEntry g = t.index)) then s
      else match rebuildRows s tag t.index t.bytes (rowsMeeting s t.bytes a) with
        | .ok s1 => readAgain (noteRebuilt (clearGranule s1 (a / 256 * 256)) e a) tag 8
        | .error (st, det) => recoveryFailed s e st det 0x9000

/-- The tracking entry a rerun runs under: it has no tag, ring or signals (R369). -/
def rerunEntry (s : State) (r : ReplayRecord) : Entry :=
  let e : Entry := { tag := 1024, ring := 0, pkt := r.pkt, slot := r.slot, remote := false, start := s.now, paused := 0,
                     pauseFrom := none, seq := 0, phase := .running (.recovery 0 none), touched := false, notes := 0, overlay := [],
                     outs := [], ins := [], tide := r.tide, reads := [], readsLater := [], reruns := 0, answers := r.answers,
                     asked := [], disp := 0, prepared := true, replays := 0, policy := s.reg Reg.RAS_POLICY, kept := [], queued := [] }
  if pktOp r.pkt = 0x30 ∨ pktOp r.pkt = 0x31 then
    match weightEntryAt s r.slot (matBody e).bBase with
    | some i =>
      match (tideEntry s r.slot i).bind (fun te => presentSlot te r.tide) with
      | some v => { e with reads := [⟨r.slot, i, v⟩] }
      | none => e
    | none => e
  else e

/-- A recorded command run again, on a copy of the state of which only its outputs are taken; none where it meets uncorrectable
data itself (R369; log entry 38). -/
def rerun (s : State) (r : ReplayRecord) : Option State :=
  let e := rerunEntry s r
  let alone := { s with
    regs := s.regs.filter (fun x => decide (x.1 < Reg.TILE_GATED 0) || decide (Reg.TILE_GATED 16 ≤ x.1))
    entries := [] }
  let (x, env) := ((jobOf (pktOp r.pkt)).body e).run.run { runEnv alone e with plan := fun _ => some 1 }
  match x, env.poison with
  | .ok _, none =>
    some (r.outs.foldl (fun s o =>
      storeBytes s o.1 (peekBytes env.s o.1 o.2)) s)
  | _, _ => none

/-- PRODUCER_RERUN: the recorded producer run again; the reader reads again, or ends with DEVICE_FAULT 0x04 (R369). -/
def rerunProducer (s : State) (tag : Nat) : State :=
  match recovering s tag with
  | none => s
  | some (e, a) =>
    if (versionAt s a).isSome || (rowTableAt s a).isSome then s
    else match producerOf s a with
      | none => readAgain s tag 0
      | some r =>
        let s1 := s.count Reg.RAS_REPLAYS 1
        match rerun s1 r with
        | some s2 =>
          readAgain (logMerged (logTimed s2 (ueClass s a) (commandLog e 3 (unitAt s a) a 0)) 0x0C (commandLog e 3 0 a 0)) tag 12
        | none =>
          recoveryFailed (setStatus (logEvent s1 (ueClass s a) (commandLog e 8 (unitAt s a) a 4)) Reg.RAS_EVENT 7) e 0x30 0x04 0

end Sys2Proof.Machine
end

