-- ==== Sys2Proof/Machine/Commit.lean ====
section
/-! DEFINITION. Shadows and commits: requests, quiet points, what an application of each block's set does
(00_scope R11, R12; 02_soloc_command_model R64 to R66; 23_register_map R413 to R417; 13_fabric_ports R291). -/

namespace Sys2Proof.Machine

open Sys2Proof

/-! ## Registers written by the module for a commit -/

/-- The keys of the 15 blocks that commit, and of the 16 rings (R414). -/
def commitKeys : List Nat := [2, 3, 4, 5, 6, 7, 8, 9, 10, 11, 13, 14] ++ seqFrom 16 16

/-- The commit register of a key (BAR0 blocks). -/
def commitReg (key : Nat) : Nat :=
  if 16 ≤ key then Reg.RING_COMMIT (key - 16)
  else if key = 2 then Reg.IRQ_COMMIT else if key = 3 then Reg.TELEM_COMMIT else if key = 4 then Reg.PWR_COMMIT
  else if key = 5 then Reg.MEM_COMMIT else if key = 6 then Reg.FAB_COMMIT else if key = 7 then Reg.COLL_COMMIT
  else if key = 8 then Reg.GRAPH_COMMIT else if key = 9 then Reg.NUM_COMMIT else if key = 10 then Reg.RAS_COMMIT
  else if key = 11 then Reg.UW_COMMIT else if key = 13 then Reg.SKERRY_COMMIT else Reg.SLOTS_COMMIT

/-- Whether a shadow of a key is uncommitted: PENDING (R11). The shadows of a set that is not applied yet are uncommitted too. -/
def isPendingKey (s : State) (key : Nat) : Bool := isApplying s key || s.shadow.any (fun p => decide (commitKey p.1 = key))

/-- The fields of a register. -/
def fieldsOf (off : Nat) : List Field :=
  match findReg off with
  | some (r, _) => r.fields
  | none => []

/-- One register's shadow applied: its RWS fields take the shadow's values (R11). -/
def applyWord (s : State) (p : Nat × Word) : State :=
  s.setReg p.1 (writeFields .rws (fieldsOf p.1) (s.reg p.1) p.2)

/-- A set of shadows applied together (R12). -/
def applyWords (s : State) (set : List (Nat × Word)) : State := set.foldl applyWord s

/-- The commit of a key that is APPLYING. -/
def applyingSet (s : State) (key : Nat) : Option Commit := s.applying.find? (fun c => decide (c.key = key))

/-- A commit no longer APPLYING. -/
def endApplying (s : State) (key : Nat) : State := { s with applying := s.applying.filter (fun c => decide (c.key ≠ key)) }

/-! ## The Fabric block's parts (R291) -/

/-- The mark of PORT_CTRL's fields that wait for the port's training, beside the register's own offset, which stands for EN. -/
def portMark (p : Nat) : Nat := Reg.PORT_CTRL p + 1

/-- The set of a Fabric commit, with each PORT_CTRL word twice: for EN, and for the fields that wait for the port. -/
def fabricSet (set : List (Nat × Word)) : List (Nat × Word) :=
  set.flatMap (fun p =>
    match (seqFrom 0 8).find? (fun q => decide (p.1 = Reg.PORT_CTRL q)) with
    | some q => [p, (portMark q, p.2)]
    | none => [p])

/-- Whether a word of a Fabric set belongs to a part. -/
def inPart (part : FabPart) (off : Nat) : Bool :=
  match part with
  | .routes => decide (off = Reg.FAB_ROUTE_CFG ∨ (Reg.ROUTE_TABLE 0 ≤ off ∧ off < Reg.ROUTE_TABLE 4096))
  | .flits => (seqFrom 0 8).any (fun p => decide (off = Reg.BREAKWATER_RATE p ∨ off = Reg.REPLAY_LIMIT p ∨ off = Reg.PORT_CTRL p)) ||
      decide (off = Reg.FAB_TELEM)
  | .port p => decide (off = portMark p.val ∨ off = Reg.LANE_MAP p.val ∨ off = Reg.TC_CREDITS p.val)
  | .moduleId => decide (off = Reg.FAB_MODULE_ID)

/-- Whether a port can train: EN = 1, a cable, and the fabric reference clock (R283). -/
def canTrain (s : State) (p : Nat) : Bool := s.bitAt (Reg.PORT_CTRL p) 31 && (s.port p).cable && bit s.fab.clocks (p / 4)

/-- The commands that use the fabric now: collectives, commands whose questions or signals are outstanding. -/
def onFabric (e : Entry) : Bool :=
  match e.phase with
  | .running .collective => true
  | .running .remote => true
  | .running (.migration _ _ _) => true
  | .acks _ _ => true
  | _ => false

/-- A recovery on a port pauses the clocks of the commands on the fabric (R56, R364). -/
def pauseFabric (s : State) : State :=
  { s with entries := s.entries.map (fun e => if onFabric e && e.pauseFrom.isNone then { e with pauseFrom := some s.now } else e) }

/-- A recovery of a port begins, a replay or a training: the clocks of the commands on the fabric stand (R56, R364). -/
def beginRecovery (s : State) (p : Nat) : State :=
  pauseFabric (s.setPort p (fun ps => { ps with downSince := some (ps.downSince.getD s.now) }))

/-- The state of a port set (PORT_STATUS.STATE). -/
def setPortState (s : State) (p v : Nat) : State := s.setField (Reg.PORT_STATUS p) 10 8 v

/-- A training of a port begins: counted, replay ended, the unacknowledged flits kept (R277, R283). -/
def startTraining (s : State) (p : Nat) (requested : Bool) : State :=
  let s1 := beginRecovery ((setPortState s p 1).count (Reg.RETRAINS p) 1) p
  s1.setPort p (fun ps => { ps with requested := requested, discarding := false, nakDue := false, nakSeen := false })

/-- The clocks of the commands on the fabric go on once no port recovers (R56, R364). -/
def resumeFabric (s : State) : State :=
  if (seqFrom 0 8).any (recoveringPort s) then s
  else { s with entries := s.entries.map (fun e =>
    match e.phase with
    | .running (.recovery _ _) => e
    | _ => match e.pauseFrom with
      | some t => { e with paused := e.paused + (s.now - t), pauseFrom := none }
      | none => e) }

/-- A port's recovery is over: the deadline clocks of its trees and the clocks of the commands go on (R56, R307). -/
def endRecovery (s : State) (p : Nat) : State :=
  let s1 := match (s.port p).downSince with
    | some t => pauseDeadlines s p t
    | none => s
  resumeFabric (s1.setPort p (fun ps => { ps with downSince := none }))

/-- A port's training is over. -/
def endTraining (s : State) (p : Nat) : State :=
  endRecovery ((s.setBit (Reg.PORT_CTRL p) 30 false).setPort p (fun ps => { ps with requested := false })) p

/-- A change of EN as it applies: EN = 1 starts a training of a port that can train; EN = 0 takes the port DOWN (R291, R403). -/
def applyEnable (s : State) (p : Nat) (en : Bool) : State :=
  let s1 := s.setBit (Reg.PORT_CTRL p) 31 en
  if en && !s.bitAt (Reg.PORT_CTRL p) 31 then (if canTrain s1 p then startTraining s1 p true else s1)
  else if !en && s.bitAt (Reg.PORT_CTRL p) 31 then endTraining (setPortState s1 p 0) p
  else s1

/-- Whether a division of the receive buffer is legal (R278). -/
def creditsOk (w : Word) : Bool := decide (4 ≤ fld w 7 0) && decide (fld w 7 0 + fld w 15 8 + fld w 23 16 + fld w 31 24 ≤ 96)

/-- One word of a Fabric part applied. -/
def applyFabricWord (s : State) (p : Nat × Word) : State :=
  match (seqFrom 0 8).find? (fun q => decide (p.1 = portMark q ∨ p.1 = Reg.PORT_CTRL q ∨ p.1 = Reg.TC_CREDITS q)) with
  | some q =>
    if p.1 = Reg.PORT_CTRL q then applyEnable s q (flag p.2 31)
    else if p.1 = portMark q then
      let w := s.reg (Reg.PORT_CTRL q)
      s.setReg (Reg.PORT_CTRL q) (setFlag (writeFields .rws (fieldsOf (Reg.PORT_CTRL q)) w p.2) 31 (flag w 31))
    else if creditsOk p.2 then applyWord s p else s
  | none => applyWord s p

/-- Whether the moment of a part is now: a port's fields wait for a training that was asked for, FAB_MODULE_ID for every port to be
DOWN or disabled; the other parts apply between two steps (R291). -/
def partDue (s : State) : FabPart → Bool
  | .routes => true
  | .flits => true
  | .port p => !canTrain s p || (decide (portState s p = 1) && (s.port p).requested)
  | .moduleId => (seqFrom 0 8).all (fun p => decide (portState s p = 0) || !s.bitAt (Reg.PORT_CTRL p) 31)

/-! ## Budgets in 1/16,000 byte (R286) -/

/-- What a flit costs. -/
def flitCost : Nat := 256 * 16000

/-- The depth of a port's bucket. -/
def bucketDepth (s : State) (p : Nat) : Nat := s.fieldAt (Reg.BREAKWATER_RATE p) 29 24 * flitCost

/-- What a bucket holds after a time: it refills at RATE × 0.1 % of the payload rate, 1,587 Gb/s at x8 and half of it at x4. -/
def refilled (s : State) (p level dt : Nat) : Nat :=
  let width := if portState s p = 2 then 2 else 1
  min (bucketDepth s p) (level + dt * s.fieldAt (Reg.BREAKWATER_RATE p) 7 0 * 1587 * width)

/-- A port's buckets brought up to now. -/
def refillPort (s : State) (p : Nat) : State :=
  s.setPort p (fun ps => { ps with
    bucket := refilled s p ps.bucket (s.now - ps.bucketTime), bucketTime := s.now,
    transit := refilled s p ps.transit (s.now - ps.transitTime), transitTime := s.now })

/-! ## What a commit does beyond its registers -/

/-- The stale tides: every CURRENT tide stops being rebuildable at a Numerics or Skerry commit (R366). -/
def markStale (s : State) : State :=
  { s with stale := s.slots.flatMap (fun m => (m.tides.zipIdx.filter (fun p => decide (p.1.kind = 0))).map
      (fun p => (⟨m.slot, p.2, p.1.current⟩ : Reading))) }

/-- The replay records of opcodes that use a block are no longer valid (R368). -/
def dropUsers (old s : State) (key : Nat) (changed : List Nat) : State :=
  let uses (r : ReplayRecord) : Bool :=
    let op := pktOp r.pkt
    let reach (x : Nat × Nat) : Bool := match locate old x.1 with
      | .ok p => memoryUser p.region
      | .error _ => false
    if key = 5 then (r.ins ++ r.outs).any reach
    else if key = 8 then decide (0x20 ≤ op ∧ op ≤ 0x26)
    else if key = 9 then decide (op = 0x11 ∨ op = 0x13 ∨ (0x30 ≤ op ∧ op ≤ 0x32) ∨ op = 0x40)
    else if key = 14 then changed.contains r.slot
    else false
  { s with replay := s.replay.filter (fun r => !uses r) }

/-- An enabling commit of a ring (R35): LOG2 from 0 to another value, or a change of BASE or LOG2 of an enabled one. -/
def enabling (oldLog newLog oldBase newBase : Nat) : Bool := decide (newLog ≠ 0) && (decide (oldLog ≠ newLog) || decide (oldBase ≠ newBase))

/-- The commands in flight of a ring whose completion half a commit disables or enables anew: their replies will be late (R429). -/
def lateReplies (s : State) (n : Nat) : State :=
  { s with entries := s.entries.map (fun e => if e.ring = n then { e with notes := e.notes ||| 16 } else e) }

/-- A ring's indices and phase after its commit (R35), and what it does to the replies still to come (R429). -/
def enableRing (old s : State) (n : Nat) : State :=
  let s1 := if enabling (old.fieldAt (Reg.RING_SIZE n) 3 0) (s.fieldAt (Reg.RING_SIZE n) 3 0) (ringBase old n) (ringBase s n) then
      { (s.setReg (Reg.RING_HEAD n) 0).setReg (Reg.RING_TAIL n) 0 with formatPosted := s.formatPosted.filter (fun r => decide (r ≠ n)) }
    else s
  if enabling (old.fieldAt (Reg.CPL_SIZE n) 3 0) (s.fieldAt (Reg.CPL_SIZE n) 3 0) (cplBase old n) (cplBase s n) then
    let s2 := lateReplies ((s1.setReg (Reg.CPL_HEAD n) 0).setReg (Reg.CPL_TAIL n) 0) n
    { s2 with cplPhase := (seqFrom 0 16).map (fun r => if r = n then 1 else phaseOf s2 r) }
  else if old.fieldAt (Reg.CPL_SIZE n) 3 0 ≠ 0 ∧ s.fieldAt (Reg.CPL_SIZE n) 3 0 = 0 then lateReplies s1 n
  else s1

/-- The prediction descriptor that a command read at its dispatch (R185). -/
def keptPrediction (e : Entry) : Option Prediction :=
  let x := matBody e
  if x.pred then (e.kept.find? (fun k => decide (k.1 = x.pd))).map (fun k => prediction k.2) else none

/-- The commands that wait for a tide or a slot, checked against new tide tables (R432). -/
def recheckWaiting (s : State) (e : Entry) : State :=
  let bad (d : Nat) : State := finishWith s e (runEnv s e) ⟨0x11, d, 0, 0, 0⟩
  let op := pktOp e.pkt
  if (op = 0x30 ∨ op = 0x31) ∧ e.phase = .running .tide then
    (if (weightEntry s e.slot ((matBody e).weights (keptPrediction e))).isSome then s else bad 0x80)
  else if op = 0x60 ∧ (e.phase = .running .turn ∨ e.phase = .running .slot) then
    let g := groupDesc s (bodyAt e 0 2 % 4096)
    let (slot, entry, table) := groupEntry s g
    (match tideEntry s slot entry with
     | some te => if decide (te.kind = 1) = table then s else bad 0xA0
     | none => bad 0xA0)
  else s

/-- The tide that a version slot's number stands for is no longer read where the slot's table has been loaded anew: what a command
counted there is forgotten with the table. -/
def forgetReads (s : State) (changed : List Nat) : State :=
  { s with entries := s.entries.map (fun e =>
      { e with reads := e.reads.filter (fun r => !changed.contains r.slot),
               readsLater := e.readsLater.filter (fun r => !changed.contains r.slot) }) }

/-- A block's set applied, with what its commit loads (R12, R35, R65 and the owning chapters). -/
def applyBlock (s : State) (c : Commit) : State :=
  let s1 := applyWords s c.set
  if 16 ≤ c.key then enableRing s s1 (c.key - 16)
  else if c.key = 2 then runTimers (oweNew s s1)
  else if c.key = 5 then dropUsers s (loadWindows s1) 5 []
  else if c.key = 7 then loadCollGroups s1
  else if c.key = 8 then
    let s2 := dropUsers s (loadTables (loadGraphs s1)) 8 []
    if s.pair Reg.HOTROW_SNAP_LO = s1.pair Reg.HOTROW_SNAP_LO then s2 else { s2 with gath := { s2.gath with snaps := 0 } }
  else if c.key = 9 then dropUsers s (markStale (loadWatch s1)) 9 []
  else if c.key = 13 then markStale (loadGroups s1)
  else if c.key = 14 then
    let changed := changedSlots s1 (s1.pair Reg.SLOT_TABLE_LO / 2 ^ 12 * 2 ^ 12)
    let s2 := dropUsers s (forgetReads (loadSlots (measureChanges s1 changed)) changed) 14 changed
    (s2.entries.filter (fun e => changed.contains e.slot)).foldl recheckWaiting s2
  else s1

/-! ## Requests -/

/-- A commit requested: the pending shadows of a key become the set being applied; nothing without pending shadows or while a commit
of the key is APPLYING (R65, R415). RAS and Undertow apply at once. -/
def requestCommit (s : State) (key : Nat) : State :=
  let set := s.shadow.filter (fun p => decide (commitKey p.1 = key))
  if isApplying s key || set.isEmpty then s
  else
    let s1 := { s with shadow := s.shadow.filter (fun p => decide (commitKey p.1 ≠ key)) }
    if key = 10 ∨ key = 11 then applyBlock s1 ⟨key, set⟩
    else { s1 with applying := s.applying ++ [⟨key, if key = 6 then fabricSet set else set⟩] }

/-- The keys that a block of BLOCK_MASK stands for: every ring for block 1 (R414). -/
def keysOfBlock (b : Nat) : List Nat := if b = 1 then seqFrom 16 16 else [b]

/-- The block of a key. -/
def blockOfKey (key : Nat) : Nat := if 16 ≤ key then 1 else key

/-- A bit of a result word set. -/
def withBit (n b : Nat) : Nat := n ||| 2 ^ b

/-- A CONFIG_COMMIT after the application of a key: its own set done, or its request made again (R415). -/
def commitSeen (pending : Bool) (key : Nat) (e : Entry) : Entry :=
  match e.phase with
  | .running (.commit mine again result) =>
    let left := mine.filter (fun k => decide (k ≠ key))
    let more := again.contains key && pending
    let mine' := if more then left ++ [key] else left
    let again' := again.filter (fun k => decide (k ≠ key))
    let r := if more then withBit result (blockOfKey key) else result
    if mine'.isEmpty && again'.isEmpty then { e with phase := .finished ⟨0, 0, 0, r, 0⟩ }
    else { e with phase := .running (.commit mine' again' r) }
  | _ => e

/-- Whether some CONFIG_COMMIT waits to request a commit of a key again. -/
def commitAgain (s : State) (key : Nat) : Bool :=
  s.entries.any (fun e => match e.phase with
    | .running (.commit _ again _) => again.contains key
    | _ => false)

/-- A set has been applied: the waiting CONFIG_COMMITs go on (R415). -/
def commitApplied (s : State) (key : Nat) : State :=
  let pending := isPendingKey s key
  let s1 := { s with entries := s.entries.map (commitSeen pending key) }
  if commitAgain s key && pending then requestCommit s1 key else s1

/-! ## Quiet points -/

/-- Whether no stack is held: a hold delays the reads of a loading commit, and the quiet point of a Memory commit (R421). -/
def noHold (s : State) : Bool := s.fieldAt Reg.HBM_HOLD 7 0 = 0

/-- Whether no dispatched, incomplete command uses a block (R65). -/
def noUsers (s : State) (key : Nat) : Bool := s.entries.all (fun e => !inFlight e || r64Wait e || !usesBlock s e key)

/-- Whether a key's quiet point is now (Commands that use each block; Collectives: no reduction open). -/
def quiet (s : State) (key : Nat) : Bool :=
  if 16 ≤ key then ringHead s (key - 16) = ringTail s (key - 16)
  else if key = 3 then telemBoundary s s.now
  else if key = 4 then s.now % 1000000 = 0
  else if key = 5 ∨ key = 8 ∨ key = 9 ∨ key = 13 ∨ key = 14 then noUsers s key && noHold s
  else if key = 7 then noUsers s 7 && noHold s && s.coll.reductions.isEmpty
  else if key = 6 then false
  else true

/-- COMMIT_APPLY: a key's set applied at its quiet point (R12, R65). -/
def commitApply (key : Nat) (s : State) : State :=
  match applyingSet s key with
  | some c => if quiet s key then commitApplied (applyBlock (endApplying s key) c) key else s
  | none => s

/-- The words of a Fabric commit that one part takes, applied; the commit ends with its last part (R291). The buckets are brought up to now
under the old rates (R286), and flits that waited for a route look again (R282). -/
def applyPart (part : FabPart) (s : State) : State :=
  match applyingSet s 6 with
  | none => s
  | some c =>
    if partDue s part then
      let now := c.set.filter (fun p => inPart part p.1)
      let left := c.set.filter (fun p => !inPart part p.1)
      let s0 := if part = .flits then (seqFrom 0 8).foldl refillPort s else s
      let s1 := reroute (now.foldl applyFabricWord s0)
      if left.isEmpty then commitApplied (endApplying s1 6) 6
      else { s1 with applying := s1.applying.map (fun k => if k.key = 6 then { k with set := left } else k) }
    else s

end Sys2Proof.Machine
end

