-- ==== Sys2Proof/Machine/Control.lean ====
section
/-! DEFINITION. The command processor: the passing of time, the reading of packets, completion, timeouts, cancellation, and the
control opcodes (02_soloc_command_model). -/

namespace Sys2Proof.Machine

open Sys2Proof

/-! ## What every row is -/

/-- A row that takes no time: its effect on everything but the queue, the timebase and the PCI Express configuration. -/
def act (f : State → State) (s : State) : Host.Outcome State Fault Refusal :=
  .next { f s with pending := s.pending, now := s.now, pci := s.pci }

/-- A row of the host interface, which may also change the PCI Express configuration. -/
def actPci (f : State → State) (s : State) : Host.Outcome State Fault Refusal :=
  .next { f s with pending := s.pending, now := s.now }

/-! ## Reading rings (R31 to R34, R426) -/

/-- The address of granule `i` from a ring's head. -/
def granuleAddr (s : State) (n i : Nat) : Nat := ringBase s n + 64 * ((ringHead s n + i) % ringSize s n)

/-- Whether an access to an address may start: its stack is not held, its host link is up and the module is bus master (R323, R327,
R421). -/
def mayAccess (s : State) (a : Nat) : Bool :=
  match locate s a with
  | .ok p => !heldRegion s p.region && (decide (p.region ≠ .host) || decide (s.fieldAt Reg.HOST_LINK_STATUS 19 16 ≠ 0))
  | .error _ => false

/-- The 64 bytes of a granule as they are read, and the state with what the decoder corrects written back (R242). -/
def loadGranule (s : State) (a : Nat) : List Byte × State :=
  match locate s a with
  | .error _ => ([], s)
  | .ok p =>
    let s1 := settleWord s p a
    (unitBytes s1 a 64, s1)

/-- Whether the decoder cannot deliver a granule's word: it is never delivered as data (R242). -/
def granuleLost (s : State) (a : Nat) : Bool :=
  match locate s a with
  | .ok p => decide (wordState s p = .uncorrectable)
  | .error _ => false

/-- The faulting address of a granule: its memory faults, or its word cannot be delivered (R242, R426; log entry 39). -/
def badGranule (s : State) (a : Nat) : Option Nat :=
  match faultIn s false a 64 with
  | some b => some b
  | none => if granuleLost s a then some a else none

/-- What a ring-memory fault at an address does, an uncorrectable word counted and logged too (R242, R426). -/
def granuleFaults (s : State) (n a : Nat) : State :=
  let s1 := if granuleLost s a then (match locate s a with
    | .ok p => noteUncorrectable s p a
    | .error _ => s) else s
  ringFault s1 n a

/-- Several granules read, in order. -/
def loadGranules (s : State) : List Nat → List Byte × State
  | [] => ([], s)
  | a :: l =>
    let (b, s1) := loadGranule s a
    let (r, s2) := loadGranules s1 l
    (b ++ r, s2)

/-- BODY_LEN of the packet at a ring's head. -/
def headLen (s : State) (n : Nat) : Nat := leAt (loadGranule s (granuleAddr s n 0)).1 2 2

/-- The granules of the packet at a ring's head; one that has no length counts one. -/
def headGranules (s : State) (n : Nat) : Nat := if 60 < headLen s n then 1 else pktGranules (headLen s n)

/-- The addresses of the granules of the packet at a ring's head. -/
def headAddrs (s : State) (n : Nat) : List Nat := (seqFrom 0 (headGranules s n)).map (granuleAddr s n)

/-- The first fault among granules. -/
def granuleFault (s : State) (l : List Nat) : Option Nat := l.findSome? (badGranule s)

/-- Whether a FLUSH of a ring is under way. -/
def flushing (s : State) (n : Nat) : Bool := s.bitAt (Reg.RING_STATUS n) 9

/-- Whether the command processor reads a ring at all: ready, in D0, the ring active, not stopped, not held and not being flushed (R37, R48,
R59, R326, R395, R429). -/
def ringOpen (s : State) (n : Nat) : Bool :=
  solocReady s && !s.pci.d3hot && ringActive s n && !ringStopped s n && !ringHeld s n && !flushing s n

/-- Whether a ring has a packet that can be read now: all its granules before the tail, its memory reached or faulting (R32, R426). -/
def hasPacket (s : State) (n : Nat) : Bool :=
  ringOpen s n && decide (ringHead s n ≠ ringTail s n) &&
  (let a := granuleAddr s n 0
   if (badGranule s a).isSome then true
   else mayAccess s a && decide (headGranules s n ≤ ringUsed s n) &&
     ((granuleFault s (headAddrs s n)).isSome || (headAddrs s n).all (mayAccess s)))

/-- Whether a ring's head packet waits for a tag: RING_STATUS.TAG_WAIT (R53). -/
def tagWait (s : State) (n : Nat) : Bool := hasPacket s n && !tagFree s n

/-- The ring granted among those with a readable packet and a tag: the lowest PRIO, round-robin among equals (R34). DESIGN CHOICE: the
round starts at ring 0 after reset, and a ring that has no tag is passed over (log entry 130). -/
def grantedRing (s : State) : Option Nat :=
  let ready := (seqFrom 0 16).filter (fun n => hasPacket s n && tagFree s n)
  let prio (n : Nat) : Nat := s.fieldAt (Reg.RING_PRIO n) 2 0
  (seqFrom 0 8).findSome? (fun p =>
    let from_ := (s.grantNext[p]?).getD 0
    ((seqFrom 0 16).map (fun i => (from_ + i) % 16)).find? (fun n => ready.contains n && decide (prio n = p)))

/-- The grant of a ring recorded: the next search of its priority starts behind it. -/
def noteGrant (s : State) (n : Nat) : State :=
  let p := s.fieldAt (Reg.RING_PRIO n) 2 0
  { s with grantNext := (seqFrom 0 8).map (fun q => if q = p then (n + 1) % 16 else (s.grantNext[q]?).getD 0) }

/-- The words of a command that count under R218 from its tag on: of CONVERT, STORE_COMPRESSED and the matrix opcodes, without those
of the entry a MATMUL or MATMUL_DGRAD reads by R217. -/
def userWords (s : State) (e : Entry) : List FmtWord :=
  let op := pktOp e.pkt
  if op = 0x30 ∨ op = 0x31 then
    let own := weightEntryAt s e.slot (matBody e).bBase
    (matBody e).words.filter (fun w => pwNames w &&
      !(decide (pwField s w.pwLayer 70 1 % 64 = e.slot) && decide (own = some (pwField s w.pwLayer 72 4))))
  else watchedWords e.pkt (wordOffsets op)

/-- The tracking entry of a packet just read. -/
def newEntry (s : State) (n : Nat) (pkt : List Byte) : Entry where
  tag := freeTag s
  ring := n
  pkt := pkt
  slot := if bit (pktFlags pkt) 4 then leAt pkt 6 1 % 64 else s.fieldAt (Reg.SLOT_ACTIVE n) 5 0
  remote := s.bitAt (Reg.RING_PRIO n) 8
  start := s.now
  paused := 0
  pauseFrom := none
  seq := s.readSeq
  phase := match headerCheck pkt n with
    | some (st, d) => .finished ⟨st, d, 0, 0, 0⟩
    | none => if waitsHold s pkt then .ready else .waiting
  touched := false
  notes := 0
  overlay := []
  outs := []
  ins := []
  tide := 65536
  reads := []
  readsLater := []
  reruns := 0
  answers := []
  asked := []
  disp := 0
  prepared := false
  replays := 0
  policy := s.reg Reg.RAS_POLICY
  kept := []
  queued := []

/-- A packet that has been read takes a tag (R33, R43, R62, R218). -/
def takeTag (s : State) (n : Nat) (pkt : List Byte) : State :=
  let e := newEntry s n pkt
  let s1 := { s with entries := s.entries ++ [e], readSeq := s.readSeq + 1 }
  if (headerCheck pkt n).isNone then countUsers s1 e.tag pkt (userWords s e) else s1

/-- RING_HEAD moved on. -/
def moveHead (s : State) (n k : Nat) : State :=
  { s.setField (Reg.RING_HEAD n) 11 0 ((ringHead s n + k) % ringSize s n) with formatPosted := s.formatPosted.filter (fun r => decide (r ≠ n)) }

/-- A ring's head packet read: it faults, has no length, or takes a tag (R33, R40, R426). -/
def readPacket (s : State) (n : Nat) : State :=
  match badGranule s (granuleAddr s n 0) with
  | some a => granuleFaults s n a
  | none =>
    match granuleFault s (headAddrs s n) with
    | some a => granuleFaults s n a
    | none =>
      let len := headLen s n
      let (bytes, s1) := loadGranules s (headAddrs s n)
      if 60 < len then
        let s2 := takeTag (s1.setBit (Reg.RING_STATUS n) 5 true) n bytes
        { s2 with formatPosted := n :: s2.formatPosted.filter (fun r => decide (r ≠ n)) }
      else moveHead (takeTag s1 n (bytes.take (64 + 16 * len))) n (pktGranules len)

/-! ## The passing of time (R420) -/

/-- The timebase value at or before a time. -/
def tickAt (t : Nat) : Nat := t / 40 * 40

/-- The timebase after a row that happens at `t`: it never decreases (R420). -/
def timeAt (s : State) (t : Nat) : Nat := max s.now (tickAt t)

/-- Time passes to `t`: CMD_STALL_COUNT and FLOOR_TIME count their microseconds (R53, R348; the telemetry record's below-floor time). -/
def passTime (s : State) (t : Nat) : State :=
  let d := timeAt s t - s.now
  let stall := s.stallRem + if (seqFrom 0 16).any (tagWait s) then d else 0
  let below := s.power.floorRem + if belowFloor s ≠ 0 then d else 0
  let s1 := (s.count Reg.CMD_STALL_COUNT (stall / 1000)).count Reg.FLOOR_TIME (below / 1000)
  { s1 with now := timeAt s t, stallRem := stall % 1000,
            power := { s.power with floorRem := below % 1000 }, mgmt := { s.mgmt with belowUs := s.mgmt.belowUs + below / 1000 } }

/-- A row that happens at timebase `t`. -/
def actAt (t : Nat) (f : State → State) (s : State) : Host.Outcome State Fault Refusal :=
  .next { f (passTime s t) with pending := s.pending, now := timeAt s t, pci := s.pci }

/-! ## Completion (R50 to R52) -/

/-- The signals of a packet that are performed here: local ones (R44). -/
def localSignals (s : State) (p : List Byte) : List Signal :=
  (pktSignals p).filter (fun g => g.enable && (!g.remote || decide (g.dest = ownId s)))

/-- Those sent to other modules. -/
def remoteSignals (s : State) (p : List Byte) : List Signal :=
  (pktSignals p).filter (fun g => g.enable && g.remote && decide (g.dest ≠ ownId s))

/-- A counter incremented modulo 2^32, before anything looks at it. -/
def bumpCounter (s : State) (g : Signal) : State :=
  s.setReg (Reg.EVC_VALUE g.counter) (BitVec.ofNat 32 ((counter s g.counter + g.increment) % 2 ^ 32))

/-- The local increments of a command, all together: waits and watches see the counters once all have changed (R45, R48). DESIGN CHOICE: no
value between two increments of one command is ever seen (log entry 130). -/
def applySignals (s : State) (p : List Byte) : State :=
  wakeWaiting (fireWatches s ((localSignals s p).foldl bumpCounter s))

/-- The result word of SIGNAL: the header's local counter after its increment (log entry 40), else 0. -/
def signalResult (s : State) (p : List Byte) : Nat :=
  match (localSignals s p).head? with
  | some g => if g = signalAt p 48 then (counter s g.counter + g.increment) % 2 ^ 32 else 0
  | none => 0

/-- Whether a status performs the signals (R21, R49). -/
def signals (o : Done) : Bool := decide (o.status < 0x10)

/-- The hold that a successful MATMUL_DGRAD releases on a PAIRED entry, unless it was replayed more than once (R219). -/
def releaseHold (s : State) (e : Entry) (o : Done) : State :=
  if decide (pktOp e.pkt = 0x31) && signals o && decide (e.replays ≤ 1) then
    match weightEntryAt s e.slot (matBody e).bBase with
    | some i =>
      (e.reads.filter (fun r => decide (r.slot = e.slot) && decide (r.entry = i))).foldl (fun s r =>
        match tideEntry s r.slot r.entry with
        | some te => if te.paired then setVslot s r.slot r.entry r.which (fun v => { v with holds := v.holds - 1 }) else s
        | none => s) s
    | none => s
  else s

/-- The opcodes the replay log records (R368). -/
def recordedOp (op : Nat) : Bool :=
  [0x10, 0x12, 0x13, 0x11, 0x20, 0x21, 0x22, 0x23, 0x30, 0x31, 0x32, 0x40].contains op

/-- A command recorded in the replay log: its entry in HBM is rewritten in a layout of the module's own (R368). -/
def recordReplay (s : State) (e : Entry) (o : Done) : State :=
  let lg := s.fieldAt Reg.REPLAY_LOG_SIZE 3 0
  if decide (lg ≠ 0) && signals o && !pktNoReplay e.pkt && recordedOp (pktOp e.pkt) && decide (e.ins.length ≤ 16) && decide (e.outs.length ≤ 16) then
    let k := s.replayNext % 2 ^ lg
    let r : ReplayRecord := ⟨e.pkt, e.slot, e.tide, e.ins, e.outs, e.answers⟩
    let l := s.replay ++ [r]
    let s1 := { s with replay := l.drop (l.length - 2 ^ lg), replayNext := (k + 1) % 2 ^ lg }
    undefDevice s1 (s.pair Reg.REPLAY_LOG_LO / 2 ^ 12 * 2 ^ 12 + 2048 * k) 2048 2
  else s

/-- What a command leaves behind when it ends: its tide reads and hold, its WRITING slot, its place in a collective, its migrations
(R217 to R220, R309, R368). -/
def leaveUnits (s : State) (e : Entry) (o : Done) : State :=
  let s1 := if decide (pktOp e.pkt = 0x60) && !signals o then abandonUpdate s e else s
  let s2 := dropReaders (releaseHold (leaveColl s1 e.tag) e o) e
  let s3 := { s2 with gath := { s2.gath with migrations := s2.gath.migrations.map (fun m => if m.tag = e.tag then { m with tag := 1024 } else m) } }
  recordReplay s3 e o

/-- The outcome as its reply gives it: QUERY and ATTEST always name their unit (R344, R388, R430). -/
def namedUnit (e : Entry) (o : Done) : Done :=
  if pktOp e.pkt = 0x06 then { o with engine := 0xB000 } else if pktOp e.pkt = 0xE0 then { o with engine := 0xA000 } else o

/-- The end of a command: what it leaves, TIDE_EVENT.UNAVAILABLE, the reply, the firmware's look at it (R50 step 3, R225, R343). -/
def endCommand (s : State) (e : Entry) (o : Done) : State :=
  let s1 := setEntry (leaveUnits s e o) e.tag (fun c => { c with reads := [], readsLater := [], pauseFrom := none })
  let s2 := if o.status = 0x16 then s1.setBit Reg.TIDE_EVENT 30 true else s1
  mgmtReply (finishReply s2 e (namedUnit e o)) e.ring o.status

/-- A command completed without remote signals to wait for: the local increments, then its end (R50). -/
def completeNow (s : State) (e : Entry) (o : Done) : State :=
  let o1 := if decide (pktOp e.pkt = 2) && signals o then { o with result := signalResult s e.pkt } else o
  endCommand (if signals o then applySignals s e.pkt else s) e o1

/-- The remote signals of a completing command sent; it waits for their acknowledgements (R50, R288). -/
def sendSignals (s : State) (e : Entry) (o : Done) : State :=
  let (s1, left) := (remoteSignals s e.pkt).foldl (fun acc g =>
    let (n, s1) := sendMessage acc.1 g.dest ⟨.signal, [g.counter, g.increment, e.tag], []⟩
    (s1, acc.2 ++ [(⟨g.dest, n⟩ : RemoteSignal)])) (s, [])
  setEntry s1 e.tag (fun c => { c with phase := .acks o left })

/-- COMMAND_COMPLETE (R50). -/
def completeCommand (tag : Nat) (s : State) : State :=
  match entryOf s tag with
  | none => s
  | some e =>
    match e.phase with
    | .finished o => if signals o && !(remoteSignals s e.pkt).isEmpty then sendSignals s e o else completeNow s e o
    | .acks o [] => completeNow s e o
    | _ => s

/-- REPLY_DEFERRED_POST: the reply that has waited longest is written, with REPLY_DELAYED (R36, R429). DESIGN CHOICE: the order among the
held replies, and that a new completion may be posted before them (log entry 130). -/
def deferredPost (n : Nat) (s : State) : State :=
  let heldAt (e : Entry) : Option Nat := match e.phase with
    | .replyHeld _ t => some t
    | _ => none
  let first := (s.entries.filter (fun e => decide (e.ring = n) && (heldAt e).isSome)).foldl (fun b e =>
    match b with
    | none => some e
    | some c => if (heldAt e).getD 0 < (heldAt c).getD 0 then some e else some c) none
  match first with
  | some e =>
    match e.phase with
    | .replyHeld o t => if cplReady s n then mgmtReply (postReply s e o t true) n o.status else s
    | _ => s
  | none => s

/-! ## Cancellation (R59, R60) -/

/-- Whether a command is tagged and undispatched. -/
def undispatched (e : Entry) : Bool := decide (e.phase = .waiting) || decide (e.phase = .ready)

/-- Every tagged, undispatched command of a ring completed with CANCELLED. -/
def cancelRing (s : State) (n detail : Nat) : State :=
  (s.entries.filter (fun e => decide (e.ring = n) && undispatched e)).foldl (fun s e => completeNow s e ⟨0x21, detail, 0, 0, 0⟩) s

/-- CANCELLED posted for a packet that FLUSH reads. -/
def cancelPacket (s : State) (n : Nat) (pkt : List Byte) : State :=
  let e := newEntry s n pkt
  completeNow { s with entries := s.entries ++ [e], readSeq := s.readSeq + 1 } e ⟨0x21, 0x02, 0, 0, 0⟩

/-- The ring emptied at the end of a FLUSH, the FLUSH bit cleared. -/
def endFlush (s : State) (n : Nat) : State :=
  let s1 := if ringHead s n = ringTail s n then s else moveHead s n (ringUsed s n)
  s1.setBit (Reg.RING_STATUS n) 9 false

/-- The remaining packets of a ring read from head to tail and cancelled (R59, R426). A packet with a granule that cannot be read gets no
reply, and the FLUSH goes on behind it; where its first granule cannot be read its length is unknown, and the FLUSH ends. A FLUSH that finds
no free tag, or memory it cannot reach now, stays under way: its bit still reads 1. -/
def flushPackets (n : Nat) : Nat → State → State
  | 0, s => endFlush s n
  | fuel + 1, s =>
    if ringHead s n = ringTail s n then endFlush s n
    else
      match badGranule s (granuleAddr s n 0) with
      | some a => endFlush (granuleFaults s n a) n
      | none =>
        if !mayAccess s (granuleAddr s n 0) || decide (1024 ≤ tagsHeld s) || s.pci.d3hot then s
        else if 60 < headLen s n then
          if s.formatPosted.contains n then endFlush s n
          else endFlush (cancelPacket s n (loadGranule s (granuleAddr s n 0)).1) n
        else
          let l := (headAddrs s n).take (ringUsed s n)
          match granuleFault s l with
          | some a => flushPackets n fuel (moveHead (granuleFaults s n a) n l.length)
          | none =>
            if !l.all (mayAccess s) then s
            else
              let (bytes, s1) := loadGranules s l
              flushPackets n fuel (moveHead (cancelPacket s1 n (bytes.take (64 + 16 * headLen s n))) n l.length)

/-- FLUSH (R59). -/
def flushRing (n : Nat) (s : State) : State :=
  flushPackets n 4096 (cancelRing (s.setBit (Reg.RING_STATUS n) 9 true) n 0x02)

/-- PACKET_FETCH (R33, R34): a FLUSH under way reads on first (log entry 80). -/
def fetchPacket (s : State) : State :=
  let s1 := ((seqFrom 0 16).filter (flushing s)).foldl (fun s n => flushPackets n 4096 s) s
  match grantedRing s1 with
  | some n => readPacket (noteGrant s1 n) n
  | none => s1

/-! ## Timeouts (R56 to R58) -/

/-- Whether a command touches the fabric (R57). -/
def touchesFabric (s : State) (e : Entry) : Bool :=
  decide (0x50 ≤ pktOp e.pkt ∧ pktOp e.pkt ≤ 0x54) || decide (0x20 ≤ pktOp e.pkt ∧ pktOp e.pkt ≤ 0x26 ∧ pktOp e.pkt ≠ 0x25) ||
  !e.asked.isEmpty || !(remoteSignals s e.pkt).isEmpty

/-- A command's timeout in nanoseconds. -/
def timeoutNs (s : State) (e : Entry) : Nat :=
  1000 * (if touchesFabric s e then max (pktTimeout e.pkt) (s.fieldAt Reg.CMD_TIMEOUT_MIN 19 0) else pktTimeout e.pkt)

/-- Whether a command's timeout has expired by now; its clock stands while a recovery runs (R56). -/
def expired (s : State) (e : Entry) : Bool :=
  decide (pktTimeout e.pkt ≠ 0) && e.pauseFrom.isNone && decide (e.start + e.paused + timeoutNs s e ≤ s.now)

/-- The notes that a collective has gathered for its command (R310). -/
def collNotes (s : State) (tag : Nat) : Nat :=
  ((s.coll.reductions.find? (fun r => decide (r.tag = some tag))).map (fun r => r.notes)).getD 0

/-- What a timeout completes a command with, by where it stands; none for one that has executed. -/
def timeoutDone (s : State) (e : Entry) : Option Done :=
  match e.phase with
  | .waiting => some ⟨0x15, 0x01, 0, 0, 0⟩
  | .ready => some ⟨0x15, 0x01, 0, 0, 0⟩
  | .running .tide => some ⟨0x16, 0x02, 0, 0, 0⟩
  | .running .slot => some ⟨0x16, 0x01, 0, 0, 0⟩
  | .running .remote => some ⟨0x15, 0x02, engineOf s e, 0, 0⟩
  | .running .host => some ⟨0x15, 0x02, engineOf s e, 0, 0⟩
  | .running .collective => some ⟨0x15, 0x02, 0xF000, 0, collNotes s e.tag⟩
  | .running (.migration _ _ _) => some ⟨0x15, 0x02, 0x6000, 0, 0⟩
  | .running (.rows _ _) => some ⟨0x15, 0x02, engineOf s e, 0, 0⟩
  | .running _ => some ⟨0x15, 0x02, 0, 0, 0⟩
  | .acks o _ => some ⟨0x15, 0x03, o.engine, 0, 0⟩
  | _ => none

/-- COMMAND_TIMEOUT: the command completes, the outputs of one that was running are undefined (R49, R56, R58, R216, R223). -/
def timeoutCommand (tag : Nat) (s : State) : State :=
  match entryOf s tag with
  | none => s
  | some e =>
    if expired s e then
      match timeoutDone s e with
      | none => s
      | some o =>
        let running := inFlight e && e.prepared && decide (o = { o with status := 0x15, detail := 0x02 })
        let s1 := if running then dropRecords (undefOutputs s (outputsOf s e)) (outputsOf s e) else s
        completeNow s1 e o
    else s

/-! ## Control opcodes (R48, R63, R415) -/

/-- A control command ends. -/
def controlEnds (s : State) (e : Entry) (o : Done) : State := setEntry s e.tag (fun c => { c with phase := .finished o })

/-- The dispatch of a control opcode: it has no body fault, its slot is loaded (R62, R428), then `f`. -/
def controlRow (op : Nat) (bodyOk : Entry → Bool) (f : State → Entry → State) (tag : Nat) (s : State) : State :=
  match entryOf s tag with
  | none => s
  | some e =>
    if decide (pktOp e.pkt = op) && decide (e.phase = .ready) && solocReady s && !blockedByCommit s e then
      let s0 := { s with readSeq := s.readSeq + 1 }
      let e0 := { e with disp := s.readSeq, notes := e.notes ||| b2n (decide (belowFloor s ≠ 0)) }
      let s1 := setEntry s0 tag (fun _ => e0)
      if !bodyOk e then controlEnds s1 e0 ⟨0x11, 0x01, 0, 0, 0⟩
      else if !slotLoaded s e.slot then controlEnds s1 e0 ⟨0x20, 0x02, 0, 0, 0⟩
      else f s1 e0
    else s

/-- Whether every earlier packet of a command's ring has completed (R48). -/
def earlierDone (s : State) (e : Entry) : Bool :=
  s.entries.all (fun c => decide (c.ring ≠ e.ring) || decide (e.seq ≤ c.seq) || completed c)

/-- FENCE: it is dispatched, and completes once every earlier packet of its ring has completed. -/
def fenceRow (tag : Nat) (s : State) : State :=
  match entryOf s tag with
  | none => s
  | some e =>
    if e.phase = .running .fence then (if earlierDone s e then controlEnds s e ⟨0, 0, 0, 0, 0⟩ else s)
    else controlRow 0x01 (fun _ => true) (fun s e =>
      if earlierDone s e then controlEnds s e ⟨0, 0, 0, 0, 0⟩
      else setEntry s e.tag (fun c => { c with phase := .running .fence })) tag s

/-- SIGNAL's body: the reserved bits of its targets are 0. -/
def signalBodyOk (e : Entry) : Bool := (seqFrom 0 (2 * pktBodyLen e.pkt)).all (fun i => signalReservedOk e.pkt (64 + 8 * i))

/-- CONFIG_COMMIT dispatched: the keys named, those pending, those whose commit is APPLYING (R414, R415). -/
def configCommit (s : State) (e : Entry) : State :=
  let keys := ((seqFrom 0 16).filter (fun b => bit (bodyAt e 0 2) b)).flatMap keysOfBlock
  let again := keys.filter (isApplying s)
  let ask := keys.filter (fun k => !isApplying s k && isPendingKey s k)
  let result := keys.foldl (fun r k => if isPendingKey s k then withBit r (blockOfKey k) else r) 0
  let s1 := ask.foldl requestCommit s
  let mine := ask.filter (isApplying s1)
  if mine.isEmpty && again.isEmpty then controlEnds s1 e ⟨0, 0, 0, result, 0⟩
  else setEntry s1 e.tag (fun c => { c with phase := .running (.commit mine again result) })

/-- SLOT_SWITCH dispatched (R63). -/
def slotSwitch (s : State) (e : Entry) : State :=
  let old := s.fieldAt (Reg.SLOT_ACTIVE e.ring) 5 0
  let new := bodyAt e 0 1 % 64
  let refuse (d : Nat) : State := controlEnds (s.setBit (Reg.RING_STATUS e.ring) 10 true) e ⟨0x20, d, 0, 0, 0⟩
  if new = old then controlEnds s e ⟨0, 0, 0, old, 0⟩
  else if !slotLoaded s new then refuse 0x02
  else if s.entries.any (fun c => decide (c.slot = old) && decide (0x50 ≤ pktOp c.pkt ∧ pktOp c.pkt ≤ 0x54)) then refuse 0x01
  else controlEnds (s.setField (Reg.SLOT_ACTIVE e.ring) 5 0 new) e ⟨0, 0, 0, old, 0⟩

end Sys2Proof.Machine
end

