-- ==== Sys2Proof/Machine/RingRows.lean ====
section
/-! DEFINITION. The rows of rings, commits and event counters: doorbells, packet fetch, completion, timeouts, cancellation, the
clearing of RING_STATUS bits (02_soloc_command_model, 13_fabric_ports R291, 23_register_map R414, R415). -/

namespace Sys2Proof.Machine

open Sys2Proof

/-- A host or firmware access to a block that is served only once Soloc is ready (R396). -/
def whenReady (f : State → State) (s : State) : State := if solocReady s then f s else s

/-- A doorbell: the tail advances by at most the free granules of an active ring that is not the remote path's (R31, R38). -/
def ringDoorbell (n : Nat) (v : Word) (s : State) : State :=
  let tail := fld v 11 0 % ringSize s n
  let advance := (tail + ringSize s n - ringTail s n % ringSize s n) % ringSize s n
  if s.bitAt (Reg.RING_PRIO n) 8 || !ringActive s n || decide (ringFree s n < advance) then s.setBit (Reg.RING_STATUS n) 4 true
  else s.setField (Reg.RING_TAIL n) 11 0 tail

/-- DOORBELL (R31, R38, R396). -/
def execDoorbell (ring : Fin 16) (v : Word) (s : State) : Host.Outcome State Fault Refusal := act (whenReady (ringDoorbell ring.val v)) s

/-- PACKET_FETCH (R33, R34, R40, R426, R427). -/
def execPacketFetch (s : State) : Host.Outcome State Fault Refusal := act fetchPacket s

/-- COMMAND_COMPLETE (R50 to R52, R219, R221, R368). -/
def execCommandComplete (tag : Fin 1024) (s : State) : Host.Outcome State Fault Refusal := act (completeCommand tag.val) s

/-- REPLY_DEFERRED_POST (R36, R429). -/
def execReplyDeferredPost (ring : Fin 16) (s : State) : Host.Outcome State Fault Refusal := act (deferredPost ring.val) s

/-- COMMAND_TIMEOUT (R56 to R58). -/
def execCommandTimeout (tag : Fin 1024) (time : Nat) (s : State) : Host.Outcome State Fault Refusal :=
  actAt time (timeoutCommand tag.val) s

/-- A write of CPL_HEAD: bits above LOG2 − 1 are ignored (R36, Ring registers). -/
def writeCplHead (n : Nat) (v : Word) (s : State) : State := s.setField (Reg.CPL_HEAD n) 11 0 (fld v 11 0 % cplSize s n)

/-- CPL_HEAD_WRITE (R36). -/
def execCplHeadWrite (ring : Fin 16) (v : Word) (s : State) : Host.Outcome State Fault Refusal := act (whenReady (writeCplHead ring.val v)) s

/-- FLUSH (R59). -/
def execFlush (ring : Fin 16) (s : State) : Host.Outcome State Fault Refusal := act (whenReady (flushRing ring.val)) s

/-- CANCEL_WAITING (R59): done in one step, its bit reads 0 again. -/
def execCancelWaiting (ring : Fin 16) (s : State) : Host.Outcome State Fault Refusal :=
  act (whenReady (fun s => cancelRing s ring.val 0x01)) s

/-- ADDR_ERR_CLEAR (R426). -/
def execAddrErrClear (ring : Fin 16) (s : State) : Host.Outcome State Fault Refusal :=
  act (whenReady (fun s => clearStatus s (Reg.RING_STATUS ring.val) 7)) s

/-- FORMAT_ERR_CLEAR (R40). -/
def execFormatErrClear (ring : Fin 16) (s : State) : Host.Outcome State Fault Refusal :=
  act (whenReady (fun s => clearStatus s (Reg.RING_STATUS ring.val) 5)) s

/-- SWITCH_REFUSED_CLEAR (R63). -/
def execSwitchRefusedClear (ring : Fin 16) (s : State) : Host.Outcome State Fault Refusal :=
  act (whenReady (fun s => clearStatus s (Reg.RING_STATUS ring.val) 10)) s

/-- The key of a commit row: block 1 commits ring by ring (R414). -/
def rowKey (block ring : Fin 16) : Nat := if block.val = 1 then 16 + ring.val else block.val

/-- COMMIT_REQUEST (R65, R414, R415). -/
def execCommitRequest (block ring : Fin 16) (s : State) : Host.Outcome State Fault Refusal :=
  act (whenReady (fun s => requestCommit s (rowKey block ring))) s

/-- COMMIT_APPLY (R12, R35, R65, R432). -/
def execCommitApply (block ring : Fin 16) (s : State) : Host.Outcome State Fault Refusal := act (commitApply (rowKey block ring)) s

/-- FABRIC_COMMIT_PART_APPLY (R291). -/
def execFabricCommitPartApply (part : FabPart) (s : State) : Host.Outcome State Fault Refusal := act (applyPart part) s

/-- EVC_VALUE_WRITE (R43, R45, R46). -/
def execEvcValueWrite (c : Fin 4096) (v : Word) (s : State) : Host.Outcome State Fault Refusal :=
  act (whenReady (fun s => setCounter s c.val v.toNat)) s

/-- EVC_ADD_WRITE (R43, R45). -/
def execEvcAddWrite (c : Fin 4096) (v : Word) (s : State) : Host.Outcome State Fault Refusal :=
  act (whenReady (fun s => addCounter s c.val v.toNat)) s

/-- A write of a watch's register; the watch fires if its condition becomes true (R45). -/
def writeWatch (w : Nat) (threshold : Bool) (v : Word) (s : State) : State :=
  let off := if threshold then Reg.EVC_WATCH_THRESH w else Reg.EVC_WATCH_CFG w
  fireWatches s (s.setReg off (writeFields .rw (fieldsOf off) (s.reg off) v))

/-- EVC_WATCH_WRITE (R45). -/
def execEvcWatchWrite (w : Fin 64) (threshold : Bool) (v : Word) (s : State) : Host.Outcome State Fault Refusal :=
  act (whenReady (writeWatch w.val threshold v)) s

/-- NOP (R48). -/
def execNop (tag : Fin 1024) (s : State) : Host.Outcome State Fault Refusal :=
  act (controlRow 0x00 (fun _ => true) (fun s e => controlEnds s e ⟨0, 0, 0, 0, 0⟩) tag.val) s

/-- FENCE (R48). -/
def execFence (tag : Fin 1024) (s : State) : Host.Outcome State Fault Refusal := act (fenceRow tag.val) s

/-- SIGNAL (R48): its signals are performed at completion. -/
def execSignal (tag : Fin 1024) (s : State) : Host.Outcome State Fault Refusal :=
  act (controlRow 0x02 signalBodyOk (fun s e => controlEnds s e ⟨0, 0, 0, 0, 0⟩) tag.val) s

/-- WAIT (R48). -/
def execWait (tag : Fin 1024) (s : State) : Host.Outcome State Fault Refusal :=
  act (controlRow 0x03 (fun _ => true) (fun s e => controlEnds s e ⟨0, 0, 0, 0, 0⟩) tag.val) s

/-- CONFIG_COMMIT (R48, R66, R414, R415). -/
def execConfigCommit (tag : Fin 1024) (s : State) : Host.Outcome State Fault Refusal :=
  act (controlRow 0x04 (fun e => bodyZero e 2 16) configCommit tag.val) s

/-- SLOT_SWITCH (R48, R63). -/
def execSlotSwitch (tag : Fin 1024) (s : State) : Host.Outcome State Fault Refusal :=
  act (controlRow 0x05 (fun e => decide (bodyAt e 0 1 < 64) && bodyZero e 1 16) slotSwitch tag.val) s

end Sys2Proof.Machine
end

