-- ==== Sys2Proof/Machine/OpRows.lean ====
section
/-! DEFINITION. The rows that carry out the opcodes of the units, and those that let a waiting command go on. Each names its command
by its tag; the fields are in the packet the tracking entry holds (02_soloc_command_model and the owning chapters). -/

namespace Sys2Proof.Machine

open Sys2Proof

/-- QUERY (R344). -/
def execQuery (tag : Fin 1024) (s : State) : Host.Outcome State Fault Refusal := act (runRow 0x06 (.plain bodyQuery) tag.val) s

/-- COPY (R249). -/
def execCopy (tag : Fin 1024) (s : State) : Host.Outcome State Fault Refusal := act (runRow 0x10 (.plain bodyCopy) tag.val) s

/-- TRANSPOSE_COPY (R250). -/
def execTransposeCopy (tag : Fin 1024) (s : State) : Host.Outcome State Fault Refusal := act (runRow 0x12 (.plain bodyTransposeCopy) tag.val) s

/-- STORE_COMPRESSED (R179). -/
def execStoreCompressed (tag : Fin 1024) (s : State) : Host.Outcome State Fault Refusal := act (runRow 0x11 (.plain bodyStoreCompressed) tag.val) s

/-- CONVERT (R137). -/
def execConvert (tag : Fin 1024) (s : State) : Host.Outcome State Fault Refusal := act (runRow 0x13 (.plain bodyConvert) tag.val) s

/-- SAMPLE (R77). -/
def execSample (tag : Fin 1024) (s : State) : Host.Outcome State Fault Refusal := act (runRow 0x20 (.plain bodySample) tag.val) s

/-- RANDOM_WALK (R84). -/
def execRandomWalk (tag : Fin 1024) (s : State) : Host.Outcome State Fault Refusal := act (runRow 0x21 (.plain bodyRandomWalk) tag.val) s

/-- GATHER (R94). -/
def execGather (tag : Fin 1024) (s : State) : Host.Outcome State Fault Refusal := act (runRow 0x22 (.plain bodyGather) tag.val) s

/-- GATHER_POOL (R97). -/
def execGatherPool (tag : Fin 1024) (s : State) : Host.Outcome State Fault Refusal := act (runRow 0x23 (.plain bodyGatherPool) tag.val) s

/-- SCATTER_ADD (R100). -/
def execScatterAdd (tag : Fin 1024) (s : State) : Host.Outcome State Fault Refusal := act (runRow 0x24 (.plain bodyScatterAdd) tag.val) s

/-- ROW_REPLACE (R104). -/
def execRowReplace (tag : Fin 1024) (s : State) : Host.Outcome State Fault Refusal := act (runRow 0x25 (.plain bodyRowReplace) tag.val) s

/-- ROW_MIGRATE (R111). -/
def execRowMigrate (tag : Fin 1024) (s : State) : Host.Outcome State Fault Refusal := act (runRow 0x26 (.plain bodyRowMigrate) tag.val) s

/-- MATMUL (R146). -/
def execMatmul (tag : Fin 1024) (s : State) : Host.Outcome State Fault Refusal := act (runRow 0x30 (⟨prepareMatrix, bodyMatrix⟩) tag.val) s

/-- MATMUL_DGRAD (R146). -/
def execMatmulDgrad (tag : Fin 1024) (s : State) : Host.Outcome State Fault Refusal := act (runRow 0x31 (⟨prepareMatrix, bodyMatrix⟩) tag.val) s

/-- MATMUL_WGRAD (R158). -/
def execMatmulWgrad (tag : Fin 1024) (s : State) : Host.Outcome State Fault Refusal := act (runRow 0x32 (⟨prepareMatrix, bodyMatrix⟩) tag.val) s

/-- VECTOR_RUN (R196). -/
def execVectorRun (tag : Fin 1024) (s : State) : Host.Outcome State Fault Refusal := act (runRow 0x40 (.plain bodyVectorRun) tag.val) s

/-- REDUCE (R300). -/
def execReduce (tag : Fin 1024) (s : State) : Host.Outcome State Fault Refusal := act (runRow 0x50 (.plain bodyReduce) tag.val) s

/-- SCALE_ROUND (R312). -/
def execScaleRound (tag : Fin 1024) (s : State) : Host.Outcome State Fault Refusal := act (runRow 0x54 (.plain bodyScaleRound) tag.val) s

/-- ALL_GATHER (R313). -/
def execAllGather (tag : Fin 1024) (s : State) : Host.Outcome State Fault Refusal := act (runRow 0x51 (.plain bodyExchange) tag.val) s

/-- ALL_TO_ALL (R313). -/
def execAllToAll (tag : Fin 1024) (s : State) : Host.Outcome State Fault Refusal := act (runRow 0x52 (.plain bodyExchange) tag.val) s

/-- BROADCAST (R313). -/
def execBroadcast (tag : Fin 1024) (s : State) : Host.Outcome State Fault Refusal := act (runRow 0x53 (.plain bodyExchange) tag.val) s

/-- UPDATE (R258). -/
def execUpdate (tag : Fin 1024) (s : State) : Host.Outcome State Fault Refusal := act (runRow 0x60 (⟨prepareUpdate, bodyUpdate⟩) tag.val) s

/-- CHECKPOINT (R266). -/
def execCheckpoint (tag : Fin 1024) (s : State) : Host.Outcome State Fault Refusal := act (runRow 0x61 (⟨prepareCheckpoint, bodyCheckpoint⟩) tag.val) s

/-- RESTORE (R268). -/
def execRestore (tag : Fin 1024) (s : State) : Host.Outcome State Fault Refusal := act (runRow 0x62 (.plain bodyRestore) tag.val) s

/-- TIDE_RETIRE (R222). -/
def execTideRetire (tag : Fin 1024) (s : State) : Host.Outcome State Fault Refusal := act (runRow 0x70 (.plain bodyTideRetire) tag.val) s

/-- ATTEST (R388). -/
def execAttest (tag : Fin 1024) (s : State) : Host.Outcome State Fault Refusal := act (runRow 0xE0 (.plain bodyAttest) tag.val) s

/-- MEASURE_PROGRAM (R389). -/
def execMeasureProgram (tag : Fin 1024) (s : State) : Host.Outcome State Fault Refusal := act (runRow 0xE1 (.plain bodyMeasureProgram) tag.val) s

/-- UNDERTOW (R380). -/
def execUndertow (tag : Fin 1024) (s : State) : Host.Outcome State Fault Refusal := act (runRow 0xF0 (.plain bodyUndertow) tag.val) s

/-- SELF_TEST (R374); the operand says which physical tiles fail their test. -/
def execSelfTest (tag : Fin 1024) (failing : List Nat) (s : State) : Host.Outcome State Fault Refusal :=
  act (runRow 0xF1 (.plain (bodySelfTest failing)) tag.val) s

/-- OPERATION_ENQUEUE (R53): the operations of a command held for its engine queues enter them. -/
def execOperationEnqueue (tag : Fin 1024) (s : State) : Host.Outcome State Fault Refusal :=
  act (fun s => resumeFrom s tag.val .queueRoom) s

/-- SERIALISED_OPERATION_START (R153). -/
def execSerialisedOperationStart (tag : Fin 1024) (s : State) : Host.Outcome State Fault Refusal :=
  act (fun s => resumeFrom s tag.val .serialised) s

/-- TIDE_WAIT_EXIT (R64, R214, R215). -/
def execTideWaitExit (tag : Fin 1024) (s : State) : Host.Outcome State Fault Refusal :=
  act (fun s => resumeFrom s tag.val .tide) s

/-- An UPDATE leaves its wait for its turn or for a version slot. -/
def updateGoesOn (tag : Nat) (s : State) : State := resumeFrom (resumeFrom s tag .turn) tag .slot

/-- UPDATE_SLOT_WAIT_EXIT (R64, R220, R223). -/
def execUpdateSlotWaitExit (tag : Fin 1024) (s : State) : Host.Outcome State Fault Refusal :=
  act (updateGoesOn tag.val) s

/-- CHECKPOINT_WAIT_EXIT (R64, R266). -/
def execCheckpointWaitExit (tag : Fin 1024) (s : State) : Host.Outcome State Fault Refusal :=
  act (fun s => resumeFrom s tag.val .checkpoint) s

/-- WEIGHT_REBUILD (R366). -/
def execWeightRebuild (tag : Fin 1024) (s : State) : Host.Outcome State Fault Refusal := act (fun s => rebuildWeight s tag.val) s

/-- TABLE_ROW_REBUILD (R367). -/
def execTableRowRebuild (tag : Fin 1024) (s : State) : Host.Outcome State Fault Refusal := act (fun s => rebuildRow s tag.val) s

/-- PRODUCER_RERUN (R369). -/
def execProducerRerun (tag : Fin 1024) (s : State) : Host.Outcome State Fault Refusal := act (fun s => rerunProducer s tag.val) s

end Sys2Proof.Machine
end

