-- ==== Sys2Proof/Machine/MemRows.lean ====
section
/-! DEFINITION. The rows of the memory system, of repair below the command level, and of the units' own work: patrol scrub, channel
fencing, stack temperatures, holds, tile faults, the error log's intervals, precision watch's registers, slot releases and hot-row
snapshots (04, 05, 07, 11, 19, 23). -/

namespace Sys2Proof.Machine

open Sys2Proof

/-! ## Gather and skew measurement -/

/-- Whether a slot is still the source's slot of a migrated row that it forwards (R111 phase 5). -/
def drainsSlot (s : State) (t slot : Nat) : Bool :=
  s.gath.migrations.any (fun m => decide (m.table = t) && decide (m.phase = 3) && (match tableDesc s t with
    | some d => let e := storedEntry s d m.index; decide (slot = eSlot e + 2 ^ 63 * eTier e)
    | none => false))

/-- An old slot whose readers have completed goes back to the free ring (R105). -/
def releaseSlot (t slot : Nat) (s : State) : State :=
  match s.gath.releases.find? (fun r => decide (r.table = t) && decide (r.slot = slot)), tableDesc s t with
  | some r, some d =>
    if releaseReady s r && !drainsSlot s t slot then returnSlot (dropRelease s r) d (slot / 2 ^ 63) (slot % 2 ^ 63) else s
  | _, _ => s

/-- SLOT_RELEASE (R105): `slot` is the slot with its tier in bit 63. -/
def execSlotRelease (t slot : Nat) (s : State) : Host.Outcome State Fault Refusal := act (releaseSlot t slot) s

/-- MIGRATE_GRACE_EXPIRY (R111 phase 5). -/
def execMigrateGraceExpiry (t row time : Nat) (s : State) : Host.Outcome State Fault Refusal :=
  actAt time (fun s => releaseMigrated s t row s.now) s

/-- HOTROW_SNAPSHOT (R109), with the firmware's policy (R343). -/
def execHotrowSnapshot (time : Nat) (s : State) : Host.Outcome State Fault Refusal :=
  actAt time (fun s => if solocReady s && snapshotDue s s.now then hotrowPolicy (snapshotAll s) else s) s

/-! ## Known-answer test and precision watch -/

/-- The tide generator evaluated on the KAT registers, within the one step (R169): BUSY reads 0 again at its end. -/
def katGo (s : State) : State :=
  let w (off : Nat) : Nat := (s.reg off).toNat
  let g := tideGen (w (Reg.KAT_KEY 0)) (w (Reg.KAT_KEY 1)) (w (Reg.KAT_CTR 0)) (w (Reg.KAT_CTR 1)) (w (Reg.KAT_CTR 2)) (w (Reg.KAT_CTR 3))
  [g.c0, g.c1, g.c2, g.c3].zipIdx.foldl (fun s p => s.setReg (Reg.KAT_OUT p.2) (BitVec.ofNat 32 p.1)) s

/-- KAT_GO (R166, R169). -/
def execKatGo (s : State) : Host.Outcome State Fault Refusal := act (whenReady katGo) s

/-- PW_DEMOTE_WRITE (R141): LAYER in bits 9:0, FROM_TIDE in bits 31:16. -/
def execPwDemoteWrite (v : Word) (s : State) : Host.Outcome State Fault Refusal :=
  act (whenReady (fun s => demote s (fld v 9 0) (fld v 31 16))) s

/-- The firmware's service of a promotion (R341): counted, its layer kept, logged, PW_EVENT.PENDING cleared. -/
def servicePromotion (s : State) : State :=
  if mgmtRunning s && s.bitAt Reg.PW_EVENT 31 then
    let layer := s.fieldAt Reg.PW_EVENT 9 0
    let s1 := { s with mgmt := { s.mgmt with promotions := (s.mgmt.promotions + 1) % 2 ^ 16, layer := layer, promoted := true } }
    (logEvent s1 0x0F (plainLog 0 0xB000 0)).setBit Reg.PW_EVENT 31 false
  else s

/-- PW_EVENT_SERVICE (R341). -/
def execPwEventService (s : State) : Host.Outcome State Fault Refusal := act servicePromotion s

/-! ## Patrol scrub (R246) -/

/-- The offset in its window of a stack-local address at distance `x` from the window's PBASE, by the inverse of R233. -/
def windowOffset (mode stack st x : Nat) : Nat :=
  if mode = 0 then x
  else if mode = 1 then ((x >>> 11) <<< 12) + ((st - stack) <<< 11) + x % 0x800
  else ((x >>> 15) <<< 18) + ((st ^^^ ((x >>> 15) % 8)) <<< 15) + x % 0x8000

/-- The device address of a stack-local address: through the first loaded window that maps it, 0 where none does. -/
def deviceOf (s : State) (st l : Nat) : Nat :=
  ((seqFrom 0 16).findSome? (fun w =>
    let o := windowOffset (winMode s w) (winStack s w) st (l - winPbase s w)
    if winLoaded s w && decide (winPbase s w ≤ l) && (winStacks (winMode s w) (winStack s w)).contains st &&
        decide (winBase s w + o ≤ winEnd s w) && decide (place o (winMode s w) (winStack s w) (winPbase s w) = (st, l))
    then some (winBase s w + o) else none)).getD 0

/-- Where scrub reads next in a stack: at its position or past the fenced channels that follow; none where every channel is fenced. -/
def scrubPlace (s : State) (st pos : Nat) : Option Nat :=
  (pos :: (seqFrom 0 16).map (fun i => (pos / 2048 + 1 + i) * 2048)).find? (fun l => decide (stackCapacity s st ≤ l) || !fenced s st l)

/-- The position of scrub in a stack set. -/
def setScrub (s : State) (st l : Nat) : State := { s with scrub := s.scrub.set st l }

/-- The end of a pass. -/
def endPass (s : State) (st : Nat) : State := setScrub (s.countWrap (Reg.STACK_SCRUB_PASSES st) 1) st 0

/-- One codeword scrubbed: corrected and written back, or counted and logged and left in place. -/
def scrubWord (s : State) (st l : Nat) : State :=
  let p : Located := ⟨st * 2 ^ 37 + l, .hbm st⟩
  match wordState s p with
  | .uncorrectable => logEvent (s.count (Reg.STACK_UE st) 1) 0x02 (plainLog 0 (unitOf s p) (deviceOf s st l))
  | _ => settleWord s p (deviceOf s st l)

/-- The next codeword of a stack's patrol. -/
def patrolScrub (st : Nat) (s : State) : State :=
  if s.fieldAt (Reg.STACK_STATE st) 2 0 = 2 ∧ s.fieldAt Reg.SCRUB_RATE 12 0 ≠ 0 ∧ s.bitAt Reg.HBM_HOLD st = false then
    match scrubPlace s st ((s.scrub[st]?).getD 0) with
    | none => s
    | some l =>
      if stackCapacity s st ≤ l then endPass s st
      else
        let s1 := scrubWord s st l
        if stackCapacity s st ≤ l + 64 then endPass s1 st else setScrub s1 st (l + 64)
  else s

/-- PATROL_SCRUB (R246, R421). -/
def execPatrolScrub (st : Fin 8) (s : State) : Host.Outcome State Fault Refusal := act (patrolScrub st.val) s

/-! ## Fencing and temperatures (R245, R247, R248) -/

/-- A channel of an ACTIVE stack fenced. -/
def fenceChannel (st ch : Nat) (s : State) : State :=
  if s.fieldAt (Reg.STACK_STATE st) 2 0 = 2 && !s.bitAt (Reg.STACK_CHANNELS st) ch && !s.bitAt (Reg.STACK_CHANNELS st) (16 + ch) then
    logTimed (setStatus (s.setBit (Reg.STACK_CHANNELS st) (16 + ch) true) Reg.RAS_EVENT 3) 0x07 (plainLog 5 (0xC000 + 16 * st + ch) 0)
  else s

/-- CHANNEL_FENCE (R245, R362). -/
def execChannelFence (st : Fin 8) (ch : Fin 16) (s : State) : Host.Outcome State Fault Refusal := act (fenceChannel st.val ch.val) s

/-- The highest action in force at a temperature, given the one in force before: 85, 92, 100 and 105 °C, each ending 3 K below
(R247). -/
def stackAction (old t : Nat) : Nat :=
  if old = 4 ∨ 105 ≤ t then 4
  else if 100 ≤ t ∨ (3 ≤ old ∧ 97 < t) then 3
  else if 92 ≤ t ∨ (2 ≤ old ∧ 89 < t) then 2
  else if 85 ≤ t ∨ (1 ≤ old ∧ 82 < t) then 1
  else 0

/-- A stack and its bay shut down (R248). -/
def shutStack (s : State) (st : Nat) : State :=
  let s1 := s.setField (Reg.STACK_STATE st) 2 0 4
  logEvent { s1 with power := { s1.power with bayOff := s1.power.bayOff ||| 2 ^ st } } 0x0E (plainLog 0 (0xC000 + 16 * st) 0)

/-- One stack's temperature compared. -/
def checkStack (s : State) (st t : Nat) : State :=
  let old := s.fieldAt (Reg.STACK_STATE st) 10 8
  let new := stackAction old t
  let s1 := (s.setField (Reg.STACK_STATE st) 23 16 t).setField (Reg.STACK_STATE st) 10 8 new
  let s2 := (seqFrom 0 4).foldl (fun s k => if old ≤ k ∧ k < new then setStatus s (Reg.STACK_THERMAL_EVENTS st) k else s) s1
  if new = 4 ∧ old ≠ 4 then shutStack s2 st else s2

/-- Whether a time is a governor tick: every 1 ms of the timebase. -/
def governorTick (s : State) : Bool := decide (s.now % 1000000 = 0)

/-- The temperatures of the eight stacks at a tick. -/
def checkStacks (temps : List Nat) (s : State) : State :=
  if governorTick s && !s.power.off then
    let s1 := { s with power := { s.power with stackTemps := (seqFrom 0 8).map (fun b => (temps[b]?).getD 0) } }
    (seqFrom 0 8).foldl (fun s b => checkStack s b ((temps[b]?).getD 0)) s1
  else s

/-- STACK_THERMAL_CHECK (R247, R248). -/
def execStackThermalCheck (temps : List Nat) (time : Nat) (s : State) : Host.Outcome State Fault Refusal :=
  actAt time (checkStacks temps) s

/-! ## Holds (R421, R422) -/

/-- The RW fields of a register written, at once. -/
def writeRw (off : Nat) (v : Word) (s : State) : State := s.setReg off (writeFields .rw (fieldsOf off) (s.reg off) v)

/-- Where a byte of BAR2 lies; none where it is faulty: not in HBM or skerry memory, in no loaded window, beyond the stack's capacity,
in a fenced channel or a stack that is shut down (R320). -/
def bar2Byte (s : State) (a : Nat) : Option Located :=
  match locate s a with
  | .ok ⟨k, .hbm st⟩ => if fenced s st (k % 2 ^ 37) then none else some ⟨k, .hbm st⟩
  | .ok ⟨k, .skerry⟩ => some ⟨k, .skerry⟩
  | _ => none

/-- Whether a device address waits for a held stack (R421). -/
def bar2Held (s : State) (a : Nat) : Bool :=
  match bar2Byte s a with
  | some p => heldRegion s p.region
  | none => false

/-- The part of a BAR2 write that lies in one 64-byte word: stored as a command's write is (R231, R320, R368, R378), or waiting behind
the writes that wait while its stack is held (R421). A faulty word takes nothing. -/
def bar2Word (s : State) (w : Nat × List Byte) : State :=
  if (bar2Byte s w.1).isNone then s
  else if bar2Held s w.1 then { s with posted := s.posted ++ [w] }
  else dropRecords (injectWrite (storeBytes s w.1 w.2) w.1 w.2.length) [(w.1, w.2.length)]

/-- The BAR2 writes that wait, taken again in the order in which they arrived. -/
def drainPosted (s : State) : State := s.posted.foldl bar2Word { s with posted := [] }

/-- The hold register written: what waited for a stack that is no longer held starts, the posted writes of the host first (log entry
50), then the collectives' own writes. -/
def writeHold (v : Word) (s : State) : State := resumeColl (drainPosted (writeRw Reg.HBM_HOLD v s))

/-- HBM_HOLD_WRITE (R421). Every access is one step, so a held stack is idle at once. -/
def execHbmHoldWrite (v : Word) (s : State) : Host.Outcome State Fault Refusal := act (whenReady (writeHold v)) s

/-- HBM_PHY_TUNE_WRITE (R422). -/
def execHbmPhyTuneWrite (st : Fin 8) (v : Word) (s : State) : Host.Outcome State Fault Refusal :=
  act (whenReady (writeRw (Reg.HBM_PHY_TUNE st.val) v)) s

/-! ## Faults below the command level -/

/-- A mesh flit resent by its sending node: it shows in the error log only (R362). -/
def resendMesh (bay attempts : Nat) (s : State) : State :=
  if 1 ≤ attempts ∧ attempts ≤ 4 then logMerged s 0x04 (plainLog 3 (0x7000 + bay) 0) else s

/-- MESH_FLIT_RESEND (R243, R362). -/
def execMeshFlitResend (bay : Fin 8) (attempts : Nat) (s : State) : Host.Outcome State Fault Refusal := act (resendMesh bay.val attempts) s

/-- TILE_FAULT (R18, R372, R373): of a tile of an enabled bay that is not stopped. -/
def execTileFault (t : Fin 512) (s : State) : Host.Outcome State Fault Refusal :=
  act (fun s => if bayEnabled s (t.val / 64) && !s.power.deadTiles.contains t.val then faultTile s t.val else s) s

/-- ERRLOG_MERGE_INTERVAL (R376). -/
def execErrlogMergeInterval (time : Nat) (s : State) : Host.Outcome State Fault Refusal := actAt time flushMerged s

end Sys2Proof.Machine
end

