-- ==== Sys2Proof/Machine/PowerRows.lean ====
section
/-! DEFINITION. The rows of power, speed and temperature, and of the management core: the governor, the floor monitor, junction
limits, the limiters, gating, the input's limits, telemetry, the watchdog and board management (17, 18, 22). -/

namespace Sys2Proof.Machine

open Sys2Proof

/-- A row that happens at timebase `t` and may take every supply away, the PCI Express configuration with it. -/
def actAtPci (t : Nat) (f : State → State) (s : State) : Host.Outcome State Fault Refusal :=
  .next { f (passTime s t) with pending := s.pending, now := timeAt s t }

/-- Every supply removed (R353, R359, R409): only fuses and flash keep state. What the host's memory holds, and what has been sent, is
not the module's. -/
def powerLost (s : State) : State :=
  { State.reset with
    free := s.free
    mem := s.mem.filter (fun c => decide (2 ^ 47 ≤ c.1))
    undef := s.undef.filter (fun u => decide (2 ^ 47 ≤ u.lo))
    errs := s.errs.filter (fun c => decide (2 ^ 47 ≤ c.1))
    irq := { State.reset.irq with sent := s.irq.sent }
    fab := { State.reset.fab with wire := s.fab.wire }
    sec := { State.reset.sec with keys := s.sec.keys, svn := s.sec.svn, labFuse := s.sec.labFuse }
    power := { PowerState.fresh with off := true, inputMv := s.power.inputMv } }

/-- An effect that needs a supply. -/
def powered (f : State → State) (s : State) : State := if s.power.off then s else f s

/-- The bays 0 to 7 taken in order. -/
def eachBay (f : State → Nat → State) (s : State) : State := (seqFrom 0 8).foldl f s

/-! ## The governor (R351, R352, R358) -/

/-- Whether a stretch of the droop guard holds a bay below floor: LIMIT is then 5 (R350, R357, log entry 60). -/
def droopHolds (s : State) (b : Nat) : Bool := bit s.power.drooping b && bit (belowFloor s) b && !s.power.hold

/-- VDD_CORE of a bay and the cause in force. -/
def setVdd (s : State) (b mv limit : Nat) : State :=
  (s.setField (Reg.BAY_VDD b) 9 0 mv).setField (Reg.BAY_VDD b) 31 28 (if droopHolds s b then 5 else limit)

/-- The set voltage of a bay in mV. -/
def vddOf (s : State) (b : Nat) : Nat := s.fieldAt (Reg.BAY_VDD b) 9 0

/-- The highest stack action in force (STACK_STATE.ACTION). -/
def actionOf (s : State) (b : Nat) : Nat := s.fieldAt (Reg.STACK_STATE b) 10 8

/-- A lowering step, down to 0.60 V. -/
def lowered (mv step : Nat) : Nat := max 600 (mv - step)

/-- The governor's action for a bay at a tick: the first row of the table that applies. -/
def governBay (watts : Nat) (s : State) (b : Nat) : State :=
  let mv := vddOf s b
  let rate := s.fieldAt (Reg.RATE_BAY b) 15 0
  let target := s.fieldAt Reg.GOV_TARGET 11 0
  let ceiling := ceilingW s
  if 3 ≤ actionOf s b ∨ bit s.power.paused b then setVdd s b mv 7
  else if 2 ≤ actionOf s b then setVdd s b (lowered mv 10) 2
  else if bit s.power.throttled b then setVdd s b (lowered mv 10) 3
  else if ceiling < watts then setStatus (setVdd s b (lowered mv 10) 4) Reg.POWER_EVENT 1
  else if rate + 25 < target then
    if watts + 50 ≤ ceiling ∧ mv < 850 then setVdd s b (min 850 (mv + 10)) 0
    else setVdd s b mv (if mv = 850 then 1 else 4)
  else if target + 25 < rate then setVdd s b (lowered mv 5) 0
  else setVdd s b mv 0

/-- A bay under the hold of R338: its voltage stands, but the stack action at 92 °C lowers it. -/
def heldBay (s : State) (b : Nat) : State :=
  if 2 ≤ actionOf s b then setVdd s b (lowered (vddOf s b) 10) 2 else setVdd s b (vddOf s b) 6

/-- A governor tick with the 1 ms mean input power. -/
def governorStep (watts : Nat) (s : State) : State :=
  if governorTick s then
    let s1 := { s.setField Reg.PWR_NOW 15 0 (min watts 65535) with power := { s.power with watts := watts } }
    if s1.power.hold then eachBay heldBay s1
    else if mgmtRunning s1 then eachBay (governBay watts) s1
    else s1
  else s

/-- GOVERNOR_TICK (R351, R352). -/
def execGovernorTick (watts time : Nat) (s : State) : Host.Outcome State Fault Refusal := actAt time (powered (governorStep watts)) s

/-! ## The floor monitor (R348 to R350) -/

/-- A bay enters the below-floor state: shown, and noted for every command in flight (R348, R349). -/
def enterBelow (s : State) (b : Nat) : State :=
  let s1 := ((s.setBit Reg.FLOOR_STATUS b true).setBit Reg.FLOOR_STATUS (8 + b) true).setBit Reg.FLOOR_STATUS 31 true
  let s2 := setStatus s1 Reg.POWER_EVENT 0
  { s2 with entries := s2.entries.map (fun e => if inFlight e && decide (e.disp ≠ 0) then { e with notes := e.notes ||| 1 } else e) }

/-- A bay leaves it. -/
def leaveBelow (s : State) (b : Nat) : State :=
  let s1 := s.setBit Reg.FLOOR_STATUS b false
  s1.setBit Reg.FLOOR_STATUS 31 (decide (belowFloor s1 ≠ 0))

/-- A window below 19,500 steps that a stretch of the droop guard holds there: LIMIT 5 (R357). -/
def noteStretch (s : State) (b : Nat) : State := if droopHolds s b then s.setField (Reg.BAY_VDD b) 31 28 5 else s

/-- The gauge counts of a bay's last windows with a new one. -/
def newGauge (s : State) (b count : Nat) : List Nat := (count :: (s.power.gauge[b]?).getD []).take 10

/-- The end of one window of a bay: RATE_BAY is the mean of the last 100 µs in M steps/s; the state of R348. -/
def floorWindow (rates : List Nat) (s : State) (b : Nat) : State :=
  let count := (rates[b]?).getD 0
  let g := newGauge s b count
  let rate := g.foldl (fun a n => a + n) 0 / (10 * g.length)
  let good := if count < 19500 then 0 else min 100 ((s.power.windows[b]?).getD 0 + 1)
  let s1 := { s.setField (Reg.RATE_BAY b) 15 0 (min rate 65535) with
    power := { s.power with gauge := s.power.gauge.set b g, windows := s.power.windows.set b good } }
  if count < 19500 then noteStretch (if bit (belowFloor s) b then s1 else enterBelow s1 b) b
  else if bit (belowFloor s) b ∧ good = 100 ∧ s.power.hold = false then leaveBelow s1 b
  else s1

/-- The end of a 10 µs window of the timebase. -/
def floorWindows (rates : List Nat) (s : State) : State := if s.now % 10000 = 0 then eachBay (floorWindow rates) s else s

/-- FLOOR_MONITOR_WINDOW (R7, R348, R349). -/
def execFloorMonitorWindow (rates : List Nat) (time : Nat) (s : State) : Host.Outcome State Fault Refusal :=
  actAt time (powered (floorWindows rates)) s

/-! ## Junction limits (R353) -/

/-- A bit of a mask set or cleared. -/
def maskBit (m b : Nat) (v : Bool) : Nat := maskBits 8 (fun i => if i = b then v else bit m i)

/-- An action with 3 K of hysteresis: in force from `limit` on, until 3 K below it. -/
def inForce (old : Bool) (limit t : Int) : Bool := decide (limit ≤ t) || (old && decide (limit < t + 3))

/-- The hottest sensor of a bay compared with 100 °C and 105 °C. -/
def junctionBay (temps : List Int) (s : State) (b : Nat) : State :=
  let t := bayTemp temps b
  let slow := inForce (bit s.power.throttled b) 100 t
  let stop := inForce (bit s.power.paused b) 105 t
  let s1 := { s with power := { s.power with throttled := maskBit s.power.throttled b slow, paused := maskBit s.power.paused b stop } }
  let s2 := if slow && !bit s.power.throttled b then setStatus s1 Reg.POWER_EVENT 3 else s1
  if stop && !bit s.power.paused b then setStatus s2 Reg.POWER_EVENT 4 else s2

/-- A thermal trip: every supply removed, and THERM_TRIP# asserted until the next power-on reset (R353, R406). -/
def thermalTrip (s : State) : State :=
  let s1 := powerLost s
  { s1 with power := { s1.power with therm := true } }

/-- The 64 die sensors read: the actions of each bay, or the thermal trip. -/
def junctionCheck (temps : List Int) (s : State) : State :=
  if temps.any (fun t => decide (110 ≤ t)) then thermalTrip s
  else eachBay (junctionBay temps) { s with power := { s.power with temps := (seqFrom 0 64).map (fun i => (temps[i]?).getD 0) } }

/-- JUNCTION_CHECK (R353, R359). -/
def execJunctionCheck (temps : List Int) (time : Nat) (s : State) : Host.Outcome State Fault Refusal :=
  actAtPci time (powered (junctionCheck temps)) s

/-! ## Limiter, droop guard, gating (R355 to R358) -/

/-- The hardware limiter at a 100 µs mean of the input power. -/
def limitPower (watts : Nat) (s : State) : State :=
  let s1 := s.setField Reg.PWR_NOW 31 16 (max (s.fieldAt Reg.PWR_NOW 31 16) (min watts 65535))
  if s.power.limited then (if watts < 1650 then { s1 with power := { s1.power with limited := false } } else s1)
  else if 1900 < watts then setStatus { s1 with power := { s1.power with limited := true } } Reg.POWER_EVENT 5
  else s1

/-- FAST_LIMITER (R24, R358). -/
def execFastLimiter (watts time : Nat) (s : State) : Host.Outcome State Fault Refusal := actAt time (powered (limitPower watts)) s

/-- The droop guard of a bay at a supply voltage. -/
def droopCheck (b mv : Nat) (s : State) : State :=
  let limit := s.fieldAt Reg.DROOP_CFG 6 0
  if bit s.power.drooping b then
    (if 2 * (vddOf s b - mv) ≤ limit then { s with power := { s.power with drooping := maskBit s.power.drooping b false } } else s)
  else if limit < vddOf s b - mv then
    setStatus ({ s with power := { s.power with drooping := maskBit s.power.drooping b true } }.count Reg.DROOP_EVENTS 1) Reg.POWER_EVENT 2
  else s

/-- DROOP_DETECT (R357). -/
def execDroopDetect (b : Fin 8) (mv : Nat) (s : State) : Host.Outcome State Fault Refusal := act (powered (droopCheck b.val mv)) s

/-- When a tile last had an operation; 0 for one that had none. -/
def lastUsed (s : State) (t : Nat) : Nat := ((s.power.used.find? (fun p => decide (p.1 = t))).map (fun p => p.2)).getD 0

/-- A tile's supply bit in TILE_GATED. -/
def setGated (s : State) (t : Nat) (v : Bool) : State := s.setBit (Reg.TILE_GATED (t / 32)) (t % 32) v

/-- An idle tile gated. -/
def gateTile (t : Nat) (s : State) : State :=
  if s.bitAt Reg.GATE_CFG 31 && bayEnabled s (t / 64) && !tileGated s t && !s.entries.any (queuedOn t) &&
      decide (lastUsed s t + 1000 * s.fieldAt Reg.GATE_CFG 15 0 ≤ s.now)
  then setGated s t true else s

/-- TILE_POWER_GATE (R355). -/
def execTilePowerGate (t : Fin 512) (time : Nat) (s : State) : Host.Outcome State Fault Refusal := actAt time (powered (gateTile t.val)) s

/-- Whether a command waits for a gated tile. -/
def waitsForTile (t : Nat) (e : Entry) : Bool := decide (e.phase = .running .gated) && (tilesOf e).contains t

/-- Whether an operation for the tile arrived no later than those for the bay's other gated tiles: no command dispatched before every one
that waits for the tile waits for another gated tile of its bay (R355). -/
def wakesNext (s : State) (t : Nat) : Bool :=
  s.entries.all (fun e => !(tilesOf e).any (fun u => decide (u / 64 = t / 64) && !(u == t) && tileGated s u && waitsForTile u e) ||
    s.entries.any (fun f => waitsForTile t f && decide (f.disp ≤ e.disp)))

/-- A gated tile that an operation is for wakes, in its bay's order; the commands it held go on (R355, R356). -/
def wakeTile (t : Nat) (s : State) : State :=
  if tileGated s t && s.entries.any (waitsForTile t) && wakesNext s t then
    (s.entries.filter (waitsForTile t)).foldl (fun s e => resumeFrom s e.tag .gated) (setGated s t false)
  else s

/-- TILE_WAKE (R355, R356). -/
def execTileWake (t : Fin 512) (s : State) : Host.Outcome State Fault Refusal := act (powered (wakeTile t.val)) s

/-- A read of PWR_NOW resets PEAK_W (R358). -/
def readPwrNow (s : State) : State :=
  { s.setField Reg.PWR_NOW 31 16 0 with readOut := (s.reg Reg.PWR_NOW).toNat, readPoisoned := false }

/-- PWR_NOW_READ (R358, Power block registers). -/
def execPwrNowRead (s : State) : Host.Outcome State Fault Refusal :=
  act (fun s => if solocReady s then readPwrNow s else { s with readOut := 0, readPoisoned := false }) s

/-! ## The 54 V input (R409) -/

/-- A reading of the input. -/
def noteInput (mv : Nat) (s : State) : State := { s with power := { s.power with inputMv := mv } }

/-- INPUT_OUT_OF_RANGE (R409). -/
def execInputOutOfRange (mv : Nat) (s : State) : Host.Outcome State Fault Refusal :=
  act (powered (fun s => if mv < 48000 ∨ 56000 < mv then setStatus (noteInput mv s) Reg.POWER_EVENT 6 else noteInput mv s)) s

/-- UNDERVOLTAGE_LOCKOUT (R359, R409): the input stays below 45 V for 100 µs. -/
def execUndervoltageLockout (mv : Nat) (s : State) : Host.Outcome State Fault Refusal :=
  actPci (fun s => if mv < 45000 then powerLost (noteInput mv s) else s) s

/-- OVERVOLTAGE (R359, R409): the input stays above 58 V for 100 µs. -/
def execOvervoltage (mv : Nat) (s : State) : Host.Outcome State Fault Refusal :=
  actPci (fun s => if 58000 < mv then powerLost (noteInput mv s) else s) s

/-! ## Management (R290, R338 to R345) -/

/-- TELEMETRY_PERIOD (R290, R339, R340). -/
def execTelemetryPeriod (time : Nat) (s : State) : Host.Outcome State Fault Refusal :=
  actAt time (fun s => if mgmtRunning s && telemBoundary s s.now then telemRecord s else s) s

/-- A missing watchdog refresh: the core HALTED, the voltages held, every bay reported below floor (R338). -/
def watchdogHalt (s : State) : State :=
  if mgmtRunning s then
    let s1 := setStatus (s.setField Reg.MGMT_STATUS 2 0 3) Reg.MGMT_EVENT 0
    let s2 := { s1 with power := { s1.power with hold := true } }
    eachBay (fun s b => (if bit (belowFloor s) b then s else enterBelow s b).setField (Reg.BAY_VDD b) 31 28 6) s2
  else s

/-- WATCHDOG_EXPIRY (R338). -/
def execWatchdogExpiry (time : Nat) (s : State) : Host.Outcome State Fault Refusal := actAt time watchdogHalt s

/-- What only the running core does. -/
def whenMgmt (f : State → State) (s : State) : State := if mgmtRunning s then f s else s

/-- MCTP_CONTROL_MESSAGE (R345). -/
def execMctpControlMessage (command argument : Nat) (s : State) : Host.Outcome State Fault Refusal :=
  act (whenMgmt (fun s => mctpControl s command argument)) s

/-- PLDM_GET_SENSOR (R345). -/
def execPldmGetSensor (sensor : Nat) (s : State) : Host.Outcome State Fault Refusal :=
  act (whenMgmt (fun s => readSensor s sensor)) s

/-- PLDM_SET_EFFECTER (R342, R345). -/
def execPldmSetEffecter (effecter value : Nat) (s : State) : Host.Outcome State Fault Refusal :=
  act (whenMgmt (fun s => setEffecter s effecter value)) s

/-- SMBUS_ADDRESS_RESOLUTION (R345): a 7-bit address. -/
def execSmbusAddressResolution (address : Nat) (s : State) : Host.Outcome State Fault Refusal :=
  act (whenMgmt (fun s => if address < 128 then { s with mgmt := { s.mgmt with smbus := address } } else s)) s

end Sys2Proof.Machine
end

