-- ==== Sys2Proof/Machine/LinkRows.lean ====
section
/-! DEFINITION. The rows of the links: flits sent and received, replay, lane failover, training and reroute (13_fabric_ports R269 to
R287, with Undertow's link rules, R378 to R380). -/

namespace Sys2Proof.Machine

open Sys2Proof

/-! ## Undertow on links (R378 to R380) -/

/-- Whether a rule looks at the flits of a class crossing a port; side 0: transmit, 1: receive. -/
def linkRule (p side tc : Nat) (r : UwRule) : Bool :=
  decide (r.target = 1) && decide (r.location % 8 = p) && bit r.location (8 + tc) && decide (bits r.location 16 16 = side)

/-- One bit of a flit flipped. -/
def flipBit (f : List Byte) (i : Nat) : List Byte := f.set (i / 8) ((f[i / 8]?).getD 0 ^^^ BitVec.ofNat 8 (2 ^ (i % 8)))

/-- A flit with the bits that CORRUPT_POST_FEC flips. -/
def flipBits (r : UwRule) (i : Nat) (f : List Byte) : List Byte :=
  (seqFrom 1 r.param).foldl (fun f c => flipBit f (drawIndex (r.draw i c) 2048)) f

/-- The symbols that CORRUPT_PRE_FEC corrupts, in all. -/
def hitSymbols (hits : List (UwRule × Nat)) : Nat :=
  (hits.filter (fun h => decide (h.1.action = 2))).foldl (fun n h => n + h.1.param) 0

/-- The flips of the hits of CORRUPT_POST_FEC. -/
def hitFlips (hits : List (UwRule × Nat)) (f : List Byte) : List Byte :=
  (hits.filter (fun h => decide (h.1.action = 3))).foldl (fun f h => flipBits h.1 h.2 f) f

/-- The parameter of the first hit of an action. -/
def hitParam (hits : List (UwRule × Nat)) (action : Nat) : Option Nat :=
  (hits.find? (fun h => decide (h.1.action = action))).map (fun h => h.1.param)

/-! ## Transmission (R276, R278, R279, R286) -/

/-- The place of a class and VC among the credits. -/
def creditIx (tc vc : Nat) : Nat := tc * 2 + vc

/-- The credits of a class and VC at a port. -/
def creditsOf (ps : PortState) (i : Nat) : Nat := (ps.credits[i]?).getD 0

/-- Whether a REORDER rule holds a flit's message. -/
def heldAt (l : List (Nat × QFlit)) (q : QFlit) : Bool := l.any (fun h => decide (routeKey h.2 = routeKey q))

/-- Whether Breakwater makes a flit wait: a TC0 flit that the module originates, with too little in the bucket (R286). -/
def shaped (ps : PortState) (q : QFlit) : Bool := q.own && decide (q.tc = 0) && decide (ps.bucket < flitCost)

/-- Whether a queued flit may be sent now. -/
def sendable (s : State) (p : Nat) (q : QFlit) : Bool :=
  decide (0 < creditsOf (s.port p) (creditIx q.tc (leaveVc s p q))) && !shaped (s.port p) q && !heldAt (s.port p).held q

/-- The first flit of a class that may be sent: those of one VC stay in order, the VCs do not block each other. -/
def candidate (s : State) (p tc : Nat) : Option QFlit := ((s.port p).queue.filter (fun q => decide (q.tc = tc))).find? (sendable s p)

/-- The shares of TC1, TC2 and TC3 in one round: 4:2:1. -/
def wrrOrder : List Nat := [1, 1, 1, 1, 2, 2, 3]

/-- The flit that arbitration chooses, with the next place in the round: TC0 first, then the round from its place on (R279). -/
def arbitrate (s : State) (p : Nat) : Option (QFlit × Nat) :=
  let w := (s.port p).wrr
  match candidate s p 0 with
  | some q => some (q, w)
  | none => (seqFrom 0 7).findSome? (fun k =>
      let i := (w + k) % 7
      (candidate s p ((wrrOrder[i]?).getD 1)).map (fun q => (q, (i + 1) % 7)))

/-- The TC0 flits that Breakwater makes wait, each counted once (R286). -/
def countWaits (s : State) (p : Nat) : State :=
  let ps := s.port p
  let new (q : QFlit) : Bool := shaped ps q && !q.waited && !heldAt ps.held q
  let k := (ps.queue.filter new).length
  if k = 0 then s
  else (s.count (Reg.BREAKWATER_WAITS p) k).setPort p (fun ps => { ps with queue := ps.queue.map (fun q => if new q then { q with waited := true } else q) })

/-- A class and VC noted as without credit, or no longer so (R280). -/
def noteStarved (s : State) (p i : Nat) : State :=
  s.setPort p (fun ps =>
    if 0 < creditsOf ps i then { ps with starved := ps.starved.filter (fun x => decide (x.1 ≠ i)) }
    else if ps.starved.any (fun x => decide (x.1 = i)) then ps
    else { ps with starved := ps.starved ++ [(i, s.now)] })

/-- The CREDIT field of the next flit: the class and VC with the most owed, up to 31. -/
def creditField (ps : PortState) : Nat :=
  let best := ps.owed.zipIdx.foldl (fun (b : Nat × Nat) x => if b.1 < x.1 then x else b) (0, 0)
  if best.1 = 0 then 0 else best.2 / 2 * 64 + best.2 % 2 * 32 + min best.1 31

/-- The credits of a CREDIT field paid. -/
def payCredits (s : State) (p c : Nat) : State :=
  s.setPort p (fun ps => { ps with owed := ps.owed.set (c / 32) ((ps.owed[c / 32]?).getD 0 - c % 32) })

/-- The flit that carries acknowledgements and credits only. -/
def nullFlit (s : State) (p : Nat) : QFlit :=
  { dest := (s.port p).partner, origin := ownId s, tc := 0, kind := 0, msg := 0, vc := 0, alt := false, last := false, resent := false,
    own := false, head := false, waited := false, judged := false, buf := none, payload := [] }

/-- The link fields of a flit sent now: ACK is the highest number received in order. -/
def linkNow (ps : PortState) (seq credit : Nat) : LinkFields := ⟨seq, (ps.rxSeq + 4095) % 4096, true, ps.nakDue, credit⟩

/-- A flit's bytes on the lanes; no bytes stand for a codeword that cannot be corrected. -/
def putWire (s : State) (p : Nat) (b : List Byte) : State := { s with fab := { s.fab with wire := s.fab.wire ++ [(p, b)] } }

/-- A flit sent: numbered, kept in the replay buffer, its credit taken; the injections of the hits (R275, R276, R278, R379). -/
def sendFlit (s : State) (p : Nat) (q : QFlit) (hits : List (UwRule × Nat)) : State :=
  let ps := s.port p
  let credit := creditField ps
  let bytes := hitFlips hits (flitBytes q (linkNow ps ps.txSeq credit))
  let s1 := (payCredits s p credit).setPort p (fun ps => { ps with
    txSeq := (ps.txSeq + 1) % 4096, replay := ps.replay ++ [⟨ps.txSeq, q, credit, s.now⟩], nakDue := false, ackDue := false })
  if (hitParam hits 1).isSome then s1
  else putWire s1 p (if 15 < hitSymbols hits then [] else bytes)

/-- The messages that a REORDER rule holds, after one more flit of a class has passed. -/
def passHeld (l : List (Nat × QFlit)) (tc : Nat) : List (Nat × QFlit) :=
  (l.map (fun h => if h.2.tc = tc then (h.1 - 1, h.2) else h)).filter (fun h => decide (h.1 ≠ 0))

/-- The chosen flit leaves its queue, on the VC and with the budget it takes. -/
def sendChosen (s : State) (p : Nat) (q : QFlit) (next : Nat) (hits : List (UwRule × Nat)) : State :=
  let i := creditIx q.tc (leaveVc s p q)
  let s1 := s.setPort p (fun ps => { ps with
    queue := ps.queue.erase q, wrr := next, held := passHeld ps.held q.tc,
    credits := ps.credits.set i (creditsOf ps i - 1),
    bucket := if q.own && decide (q.tc = 0) then ps.bucket - flitCost else ps.bucket })
  let s2 := oweCredit (noteStarved s1 p i) q.buf
  sendFlit (s2.count64 (Reg.TX_FLITS_LO p) 1) p { q with vc := leaveVc s p q, buf := none } hits

/-- The transmit-side rules look at a flit once. -/
def judgeFlit (s : State) (p : Nat) (q : QFlit) : List (UwRule × Nat) × State :=
  if q.judged || s.undertow.isEmpty then ([], s) else uwEvents s (linkRule p 0 q.tc)

/-- A queued flit marked as looked at. -/
def markJudged (q : QFlit) (ps : PortState) : PortState :=
  { ps with queue := ps.queue.map (fun x => if x = q then { x with judged := true } else x) }

/-- The transmitter's action at a flit boundary. -/
def transmit (p : Nat) (s0 : State) : State :=
  if !portUp s0 p || decide (512 ≤ (s0.port p).replay.length) || decide (s0.now < (s0.port p).delayUntil) then s0
  else
    let s := countWaits (refillPort s0 p) p
    match arbitrate s p with
    | none => sendFlit s p (nullFlit s p) []
    | some (q, next) =>
      let (hits, s1) := judgeFlit s p q
      match hitParam hits 5, hitParam hits 4 with
      | some ns, _ => s1.setPort p (fun ps => { markJudged q ps with delayUntil := s.now + ns })
      | none, some k => s1.setPort p (fun ps => { markJudged q ps with held := ps.held ++ [(k, q)] })
      | none, none => sendChosen s1 p q next hits

/-- FLIT_TRANSMIT (R272, R276, R278 to R280, R286, R379). -/
def execFlitTransmit (p : Fin 8) (time : Nat) (s : State) : Host.Outcome State Fault Refusal := actAt time (transmit p.val) s

/-! ## Reception (R272, R273, R275, R278, R287) -/

/-- Whether link number `a` is `b` or older, modulo 4,096. -/
def upTo (a b : Nat) : Bool := decide ((b % 4096 + 4096 - a % 4096) % 4096 < 2048)

/-- The acknowledgement and NAK of a flit taken: the flits up to ACK leave the replay buffer (R275). -/
def takeAck (s : State) (p : Nat) (l : LinkFields) : State :=
  s.setPort p (fun ps => { ps with
    replay := if l.ackValid then ps.replay.filter (fun f => !upTo f.seq l.ack) else ps.replay,
    nakSeen := ps.nakSeen || l.nak })

/-- The credits that a flit returns. -/
def takeCredits (s : State) (p c : Nat) : State :=
  if c % 32 = 0 then s
  else noteStarved (s.setPort p (fun ps => { ps with credits := ps.credits.set (c / 32) (creditsOf ps (c / 32) + c % 32) })) p (c / 32)

/-- A transit TC0 flit held against the port's own Breakwater rate (R287). -/
def checkTransit (s0 : State) (p : Nat) : State :=
  let s := refillPort s0 p
  if (s.port p).transit < flitCost then (setStatus s (Reg.PORT_EVENT p) 5).count (Reg.TC0_TRANSIT_OVER p) 1
  else s.setPort p (fun ps => { ps with transit := ps.transit - flitCost })

/-- The head of the message of a flit. -/
def headOf (q : QFlit) : MsgHead := ⟨q.origin, q.tc, q.msg, q.resent⟩

/-- Whether the bytes of a message so far hold a flit's payload already (a flit that came again after a reroute). -/
def holdsPart (bytes part : List Byte) : Bool :=
  (seqFrom 0 (bytes.length / 240 + 1)).any (fun i => decide (((bytes.drop (240 * i)).take part.length) = part) && decide (240 * i < bytes.length))

/-- A flit for this module joins its message; the last one delivers it (R272, R273). `b` is the receive buffer it came in: a flit that the
message is not yet whole with, or that is discarded, is consumed; the last one holds its buffer until the message is (R278, log entry
131). -/
def deliverFlit (s : State) (q : QFlit) (b : Nat × Nat) : State :=
  let h := headOf q
  if q.resent && s.fab.accepted.contains (acceptKey h) then oweCredit s (some b)
  else
    let same (i : Inbound) : Bool := decide (acceptKey i.head = acceptKey h)
    let old := ((s.fab.parts.find? same).map (fun i => i.bytes)).getD []
    let bytes := if q.resent && holdsPart old q.payload then old else old ++ q.payload
    let rest := s.fab.parts.filter (fun i => !same i)
    if q.last then
      if q.resent && s.fab.inbox.any same then oweCredit { s with fab := { s.fab with parts := rest } } (some b)
      else admitExpansions { s with fab := { s.fab with parts := rest, inbox := s.fab.inbox ++ [⟨h, q.kind, bytes, [b]⟩] } }
    else oweCredit { s with fab := { s.fab with parts := rest ++ [⟨h, q.kind, bytes, []⟩] } } (some b)

/-- A flit accepted from a link: delivered here or forwarded (R278, R280, R282). -/
def handleFlit (s : State) (p : Nat) (q : QFlit) : State :=
  let b := (p, creditIx q.tc q.vc)
  if q.dest = ownId s then deliverFlit s q b
  else routeFlit (if q.tc = 0 then checkTransit s p else s) { q with buf := some b }

/-- The flits that a receive-side REORDER rule lets go. -/
def releaseHeld (s : State) (p tc : Nat) : State :=
  let l := (s.port p).heldIn.map (fun h => if h.2.tc = tc then (h.1 - 1, h.2) else h)
  let s1 := s.setPort p (fun ps => { ps with heldIn := l.filter (fun h => decide (h.1 ≠ 0)) })
  (l.filter (fun h => decide (h.1 = 0))).foldl (fun s h => handleFlit s p h.2) s1

/-- A flit received in order. -/
def takeFlit (s : State) (p : Nat) (q : QFlit) (hits : List (UwRule × Nat)) : State :=
  if q.kind = 0 then s
  else
    let s1 := s.count64 (Reg.RX_FLITS_LO p) 1
    if q.kind = 0xB then s1
    else if !kindOnClass q.kind q.tc then oweCredit (s1.count (Reg.PROTO_ERR p) 1) (some (p, creditIx q.tc q.vc))
    else match (s1.port p).heldIn.find? (fun h => decide (routeKey h.2 = routeKey q)) with
      | some h => s1.setPort p (fun ps => { ps with heldIn := ps.heldIn ++ [(h.1, q)] })
      | none =>
        match hitParam hits 4 with
        | some k => s1.setPort p (fun ps => { ps with heldIn := ps.heldIn ++ [(k, q)] })
        | none => releaseHeld (handleFlit s1 p q) p q.tc

/-- A flit that fails: discarded with every later one until the replay, and a NAK due (R275). -/
def failFlit (s : State) (p : Nat) : State := s.setPort p (fun ps => { ps with discarding := true, nakDue := true })

/-- What forward error correction leaves of a flit with the symbols that injection corrupts: none where a codeword is uncorrectable. -/
def fecSymbols (fec : FecResult) (injected : Nat) : Option Nat :=
  match fec with
  | .decoded n => if injected ≠ 0 ∧ 15 < n + injected then none else some (n + injected)
  | .uncorrectable => none

/-- A flit received at an UP port. -/
def receive (p : Nat) (fec : FecResult) (flit : List Byte) (s0 : State) : State :=
  if !portUp s0 p then s0
  else
    let tc := (parseFlit flit).tc
    let (hits, s) := if s0.undertow.isEmpty || decide ((parseFlit flit).kind = 0) then ([], s0) else uwEvents s0 (linkRule p 1 tc)
    if (hitParam hits 1).isSome then failFlit s p
    else match fecSymbols fec (hitSymbols hits) with
      | none => failFlit (s.count (Reg.FEC_UNCORR p) 1) p
      | some n =>
        let s1 := s.count (Reg.FEC_CORR_SYM p) n
        let f := hitFlips hits flit
        if f.length ≠ 256 ∨ flitCrc f ≠ leAt f 12 4 then failFlit (s1.count (Reg.CRC_ERR p) 1) p
        else
          let l := parseLink f
          let s2 := takeAck s1 p l
          if l.seq = (s2.port p).rxSeq then
            let s3 := s2.setPort p (fun ps => { ps with rxSeq := (ps.rxSeq + 1) % 4096, discarding := false, ackDue := true })
            takeFlit (takeCredits s3 p l.credit) p (parseFlit f) hits
          else if (s2.port p).discarding || upTo l.seq ((s2.port p).rxSeq + 4095) then s2
          else failFlit s2 p

/-- A replay under way at a port is a recovery: while flits are discarded until it arrives, or a NAK waits for it, the clocks of R56 and
R307 stand (R364). -/
def trackReplay (s : State) (p : Nat) : State :=
  let ps := s.port p
  if !portUp s p then s
  else if ps.discarding || ps.nakSeen then (if ps.downSince.isNone then beginRecovery s p else s)
  else if ps.downSince.isSome then endRecovery s p else s

/-- FLIT_RECEIVE (R272, R273, R275, R276, R278, R280, R282, R286, R287, R379). -/
def execFlitReceive (p : Fin 8) (fec : FecResult) (flit : List Byte) (s : State) : Host.Outcome State Fault Refusal :=
  act (fun s => trackReplay (receive p.val fec flit s) p.val) s

/-! ## Replay and retraining (R275, R277, R283) -/

/-- The flits of the replay buffer sent again, in order. -/
def resendAll (s : State) (p : Nat) : State :=
  (s.port p).replay.foldl (fun s f => putWire s p (flitBytes f.flit (linkNow (s.port p) f.seq f.credit))) s

/-- The window of REPLAY_LIMIT in nanoseconds. -/
def replayWindow (s : State) (p : Nat) : Nat := 1000 * s.fieldAt (Reg.REPLAY_LIMIT p) 25 16

/-- A replay on a NAK: counted, shown, logged (R275, R362, R376). -/
def linkReplay (p : Nat) (s : State) : State :=
  let ps := s.port p
  if !portUp s p || !ps.nakSeen then s
  else if ps.replay.isEmpty then s.setPort p (fun ps => { ps with nakSeen := false })
  else
    let s1 := logMerged (setStatus (s.count (Reg.REPLAYS p) 1) (Reg.PORT_EVENT p) 0) 0x08 (plainLog 3 (0x8000 + p) 0)
    (resendAll s1 p).setPort p (fun ps => { ps with
      nakSeen := false, nakDue := false, replays := s.now :: ps.replays.filter (fun t => decide (s.now ≤ t + replayWindow s p)) })

/-- LINK_REPLAY (R275, R362). -/
def execLinkReplay (p : Fin 8) (time : Nat) (s : State) : Host.Outcome State Fault Refusal :=
  actAt time (fun s => trackReplay (linkReplay p.val s) p.val) s

/-- Whether the replay budget is exhausted: COUNT replays within TIME_US, or one flit unacknowledged for TIME_US (R277). -/
def replayExhausted (s : State) (p : Nat) : Bool :=
  let ps := s.port p
  decide (s.fieldAt (Reg.REPLAY_LIMIT p) 5 0 ≤ (ps.replays.filter (fun t => decide (s.now ≤ t + replayWindow s p))).length) ||
  ps.replay.any (fun f => decide (f.time + replayWindow s p ≤ s.now))

/-- REPLAY_LIMIT_EXCEEDED (R277, R283, R285). -/
def execReplayLimitExceeded (p : Fin 8) (time : Nat) (s : State) : Host.Outcome State Fault Refusal :=
  actAt time (fun s => if portUp s p.val && replayExhausted s p.val then startTraining s p.val false else s) s

/-- LANE_LOSS_OF_LOCK (R283, R285): of a lane that is neither failed nor disabled. -/
def execLaneLossOfLock (p : Fin 8) (lane : Fin 9) (s : State) : Host.Outcome State Fault Refusal :=
  act (fun s =>
    if portUp s p.val && !s.bitAt (Reg.LANE_MAP p.val) (16 + lane.val) && !s.bitAt (Reg.LANE_MAP p.val) lane.val
    then startTraining s p.val false else s) s

/-- A write of PORT_CTRL.RETRAIN = 1: the bit reads 1 until the training is done; a port that cannot train ignores it (R283). -/
def retrainPort (p : Nat) (s : State) : State :=
  if !canTrain s p then s
  else
    let s1 := s.setBit (Reg.PORT_CTRL p) 30 true
    if portState s p = 1 then s1.setPort p (fun ps => { ps with requested := true }) else startTraining s1 p true

/-- RETRAIN (R283). -/
def execRetrain (p : Fin 8) (s : State) : Host.Outcome State Fault Refusal := act (whenReady (retrainPort p.val)) s

/-! ## The end of a training (R269, R270, R278, R283, R284) -/

/-- The lanes in service after a training, as a mask of nine: those found good and not disabled, and, unless all are retested, not
marked as failed before. -/
def goodLanes (s : State) (p found : Nat) (retest : Bool) : Nat :=
  maskBits 9 (fun i => bit found i && !s.bitAt (Reg.LANE_MAP p) i && (retest || !s.bitAt (Reg.LANE_MAP p) (16 + i)))

/-- The lane that LS replaces where exactly one of L0 to L7 failed and LS is good. -/
def spareFor (good : Nat) : Option Nat :=
  if bit good 8 && decide (popcount good 9 = 8) then (seqFrom 0 8).find? (fun i => !bit good i) else none

/-- LANE_MAP after a training. -/
def setLanes (s : State) (p good : Nat) : State :=
  let s1 := s.setField (Reg.LANE_MAP p) 24 16 (511 - good)
  let s2 := s1.setField (Reg.LANE_MAP p) 15 12 ((spareFor good).getD 15)
  s2.setBit (Reg.PORT_STATUS p) 0 (spareFor good).isSome

/-- The credits that a partner's division gives each class and VC, less those of the flits still to be sent again (R277, R278). -/
def advertised (w : Word) (replay : List SentFlit) : List Nat :=
  (seqFrom 0 8).map (fun i => 4 * fld w (8 * (i / 2) + 7) (8 * (i / 2)) -
    (replay.filter (fun f => decide (f.flit.kind ≠ 0) && decide (creditIx f.flit.tc f.flit.vc = i))).length)

/-- The flits and messages that still hold a receive buffer of a port no longer do: its division has been advertised anew. -/
def freeBuffers (s : State) (p : Nat) : State :=
  let clear (q : QFlit) : QFlit := match q.buf with
    | some (r, _) => if r = p then { q with buf := none } else q
    | none => q
  { s with fab := { s.fab with
      noRoute := s.fab.noRoute.map clear,
      inbox := s.fab.inbox.map (fun i => { i with holds := i.holds.filter (fun b => decide (b.1 ≠ p)) }),
      ports := s.fab.ports.map (fun ps => { ps with queue := ps.queue.map clear }) } }

/-- The replay buffer renumbered from 0 for a partner that has received nothing. -/
def renumber (l : List SentFlit) : List SentFlit := l.zipIdx.map (fun f => { f.1 with seq := f.2 })

/-- Whether the partner that a training shows differs from that of the previous training; the first one's always does (R269, R403). -/
def partnerDiffers (s : State) (p : Nat) (r : Training) : Bool :=
  let st := s.reg (Reg.PORT_STATUS p)
  !(s.port p).trained || decide (¬ (fld st 31 20 = r.partnerId % 4096 ∧ fld st 19 16 = r.partnerPort % 16))

/-- The exchange of IDs and port numbers, at every training with a partner whatever its end (R269). -/
def notePartner (s : State) (p : Nat) (r : Training) : State :=
  let s1 := if partnerDiffers s p r then setStatus s (Reg.PORT_EVENT p) 6 else s
  let s2 := (s1.setField (Reg.PORT_STATUS p) 31 20 r.partnerId).setField (Reg.PORT_STATUS p) 19 16 r.partnerPort
  s2.setPort p (fun ps => { ps with trained := true, partner := r.partnerId % 4096 })

/-- A port comes UP: its credits and buckets; the unacknowledged flits are sent again, renumbered for a partner that has changed, and the
flits that waited for a route are routed. -/
def portComesUp (s : State) (p width good : Nat) (changed : Bool) (r : Training) : State :=
  let s3 := setLanes (setPortState s p width) p good
  let s4 := (freeBuffers s3 p).setPort p (fun ps =>
    let replay := if changed then renumber ps.replay else ps.replay
    { ps with
      replay := replay.map (fun f => { f with time := s.now }),
      txSeq := if changed then replay.length % 4096 else ps.txSeq, rxSeq := if changed then 0 else ps.rxSeq,
      credits := advertised r.credits replay, owed := List.replicate 8 0, starved := [], replays := [],
      bucket := bucketDepth s p, bucketTime := s.now, transit := bucketDepth s p, transitTime := s.now })
  let s5 := match spareFor good with
    | some i => logTimed (setStatus s4 (Reg.PORT_EVENT p) 1) 0x09 (plainLog 4 (0xD000 + 16 * p + i) 0)
    | none => s4
  let s6 := if width = 3 then
      logTimed (setStatus s5 (Reg.PORT_EVENT p) 2) 0x09 (plainLog 0 (0xD000 + 16 * p) 0)
    else s5
  reroute (resendAll (endTraining ((seqFrom 0 8).foldl (fun s i => noteStarved s p i) s6) p) p)

/-- A port becomes FAILED: the flits of its replay buffer enter routing again with RESENT, those of its queues without (R284). Its link
numbers start again from 0 (log entry 131). -/
def portFails (s : State) (p good : Nat) : State :=
  let s1 := setLanes (setPortState s p 4) p good
  let s2 := setStatus (setStatus s1 (Reg.PORT_EVENT p) 3) (Reg.PORT_EVENT p) 4
  let ps := s2.port p
  let sent := (ps.replay.filter (fun f => decide (f.flit.kind ≠ 0))).map (fun f => { f.flit with resent := true })
  let s3 := s2.setPort p (fun ps => { ps with replay := [], queue := [], held := [], starved := [], txSeq := 0, rxSeq := 0 })
  let s4 := (sent ++ ps.queue).foldl routeFlit { s3 with fab := { s3.fab with routes := s3.fab.routes.filter (fun r => decide (r.2 % 8 ≠ p)) } }
  reroute (endTraining (logTimed s4 0x0A (plainLog 6 (0x8000 + p) 0)) p)

/-- The end of a port's training (R283's table). Failed lanes are tested again where RETRAIN asked for it. -/
def trainingDone (p : Nat) (r : Training) (s0 : State) : State :=
  if portState s0 p ≠ 1 then s0
  else
    let s1 := if (s0.port p).requested && decide (p < 8) then applyPart (.port (Fin.ofNat 8 p)) s0 else s0
    let good := goodLanes s1 p r.goodLanes (s1.bitAt (Reg.PORT_CTRL p) 30)
    let n := popcount good 9
    let changed := partnerDiffers s1 p r
    let s := if r.partner then notePartner s1 p r else s1
    if !r.partner then portFails s p good
    else if r.partnerId % 4096 = ownId s then
      endTraining (setLanes (setPortState (setStatus s (Reg.PORT_EVENT p) 6) p 0) p good) p
    else if 8 ≤ n then portComesUp s p 2 good changed r
    else if 4 ≤ n ∧ s.bitAt (Reg.PORT_CTRL p) 28 = true then portComesUp s p 3 good changed r
    else portFails s p good

/-- PORT_TRAINING_DONE (R269, R270, R278, R282 to R285, R291, R362). -/
def execPortTrainingDone (p : Fin 8) (r : Training) (s : State) : Host.Outcome State Fault Refusal := act (trainingDone p.val r) s

/-! ## Adaptive fallback (R280) -/

/-- The alternates of a destination that are UP and have credit for a flit's class and VC. -/
def alternateFor (s : State) (q : QFlit) : Option Nat :=
  let e := s.reg (Reg.ROUTE_TABLE q.dest)
  [fld e 11 8, fld e 15 12].find? (fun a => decide (a < 8) && portUp s a && decide (0 < creditsOf (s.port a) (creditIx q.tc (leaveVc s a q))))

/-- Whether a queued flit begins a message that may fall back: of TC2 or TC3, on its PRIMARY port, ADAPT_NS without credit. -/
def fallsBack (s : State) (p : Nat) (q : QFlit) : Bool :=
  q.head && !q.alt && decide (2 ≤ q.tc) && decide (s.fieldAt (Reg.ROUTE_TABLE q.dest) 3 0 = p) &&
  (s.port p).starved.any (fun x => decide (x.1 = creditIx q.tc (leaveVc s p q)) && decide (x.2 + s.fieldAt Reg.FAB_ROUTE_CFG 15 0 ≤ s.now)) &&
  (alternateFor s q).isSome

/-- The first such message moves to its alternate port, all of its flits with ALTERNATE_TAKEN. -/
def fallBack (p : Nat) (s : State) : State :=
  if !s.bitAt Reg.FAB_ROUTE_CFG 31 then s
  else match (s.port p).queue.find? (fallsBack s p) with
    | none => s
    | some q =>
      let a := (alternateFor s q).getD p
      let mine (x : QFlit) : Bool := decide (routeKey x = routeKey q)
      let moved := ((s.port p).queue.filter mine).map (fun x => { x with alt := true })
      let s1 := s.setPort p (fun ps => { ps with queue := ps.queue.filter (fun x => !mine x) })
      let s2 := { s1 with fab := { s1.fab with routes := s1.fab.routes.map (fun r => if r.1 = routeKey q then (r.1, a + 8) else r) } }
      moved.foldl (fun s x => enqueue s a x) s2

/-- ADAPTIVE_FALLBACK (R280). -/
def execAdaptiveFallback (p : Fin 8) (time : Nat) (s : State) : Host.Outcome State Fault Refusal := actAt time (fallBack p.val) s

end Sys2Proof.Machine
end

