-- ==== Sys2Proof/Machine/MsgRows.lean ====
section
/-! DEFINITION. The rows of the messages that the fabric brings: remote signals, remote Soloc packets and the relay, requests and
replies of sampling and gather, migration, collectives, telemetry frames (02 R37, 03, 04, 13 R273, R274, R288 to R290, 14). Each acts
on a message whose flits have arrived; the row's operands say what the message says. -/

namespace Sys2Proof.Machine

open Sys2Proof

/-- Whether a message of a kind has arrived and not been acted on. -/
def delivered (s : State) (h : MsgHead) (kind : Nat) : Bool :=
  s.fab.inbox.any (fun i => decide (acceptKey i.head = acceptKey h) && decide (i.kind = kind))

/-- A delivered message taken up once (R273), with what it does. -/
def onMessage (h : MsgHead) (kind : Nat) (f : State → State) (s : State) : State :=
  if delivered s h kind then (if accepts s h then f (takeMessage s h) else takeMessage s h) else s

/-- A delivered message that stays where it is while its effect cannot take place. -/
def tryMessage (h : MsgHead) (kind : Nat) (f : State → Option State) (s : State) : State :=
  if delivered s h kind then
    (if accepts s h then (match f (takeMessage s h) with
      | some s1 => s1
      | none => s) else takeMessage s h)
  else s

/-! ## Signals, Soloc packets, the relay (R37, R38, R288, R289) -/

/-- SIGNAL_MESSAGE (R43, R45, R273, R274, R288). -/
def execSignalMessage (h : MsgHead) (counter increment _sender : Nat) (s : State) : Host.Outcome State Fault Refusal :=
  act (onMessage h 3 (fun s => sendAck (addCounter s (counter % 4096) increment) h)) s

/-- The first address that faults in the ring memory of a number of granules from a ring's tail (R426). -/
def tailFault (s : State) (n size : Nat) : Option Nat :=
  ((seqFrom 0 size).filterMap (fun i => faultIn s true (ringBase s n + 64 * ((ringTail s n + i) % ringSize s n)) 64)).head?

/-- The reason for which a remote packet is refused, by the checks of R37 in their order. Its length agrees with BODY_LEN when it covers
the body and ends in the body's last granule (R32). -/
def refuseReason (s : State) (p : List Byte) : Option Nat :=
  let n := leAt p 4 2 % 16
  let bodyLen := leAt p 2 2
  let size := pktGranules bodyLen
  if p.length < 64 ∨ 256 < p.length ∨ 60 < bodyLen ∨ p.length < 64 + 16 * bodyLen ∨ 64 * size < p.length ∨ 16 ≤ leAt p 4 2 then some 4
  else if s.bitAt (Reg.RING_PRIO n) 8 = false then some 1
  else if [0x04, 0x05, 0xE0, 0xE1, 0xF0].contains (pktOp p) then some 3
  else if !solocReady s || !ringActive s n || ringStopped s n || decide (ringFree s n < size) then some 2
  else if (tailFault s n size).isSome then some 5
  else none

/-- The bytes of a packet written granule by granule from a ring's tail. -/
def writeGranules (s : State) (n : Nat) (p : List Byte) : State :=
  (chunks 64 (p.length + 1) p).zipIdx.foldl (fun s g =>
    storeBytes s (ringBase s n + 64 * ((ringTail s n + g.2) % ringSize s n)) g.1) s

/-- A remote packet checked and written as a doorbell, or refused, with ADDR_ERR where its ring memory faults (R426); none while its ring's memory cannot be reached. -/
def solocArrives (h : MsgHead) (p : List Byte) (s : State) : Option State :=
  let n := leAt p 4 2 % 16
  match refuseReason s p with
  | some r =>
    let s1 := setStatus s (Reg.RING_STATUS n) 6
    let s2 := match tailFault s n (pktGranules (leAt p 2 2)) with
      | some a => if r = 5 then ringFault s1 n a else s1
      | none => s1
    some (sendMessage s2 h.peer ⟨.refuse, [r], []⟩).2
  | none =>
    let size := pktGranules (leAt p 2 2)
    if (seqFrom 0 size).all (fun i => mayAccess s (ringBase s n + 64 * ((ringTail s n + i) % ringSize s n))) then
      some (sendAck ((writeGranules s n p).setField (Reg.RING_TAIL n) 11 0 ((ringTail s n + size) % ringSize s n)) h)
    else none

/-- Whether a remote packet is the one that arrived first of those not yet taken (R38). -/
def firstPacket (s : State) (h : MsgHead) (packet : List Byte) : Bool :=
  match s.fab.inbox.find? (fun i => decide (i.kind = 4)) with
  | some i => decide (acceptKey i.head = acceptKey h) && decide (i.bytes = packet)
  | none => false

/-- SOLOC_MESSAGE (R37, R38, R273, R274): `packet` is the payload that arrived. -/
def execSolocMessage (h : MsgHead) (packet : List Byte) (s : State) : Host.Outcome State Fault Refusal :=
  act (fun s => if firstPacket s h packet then tryMessage h 4 (solocArrives h packet) s else s) s

/-- A message that has been acknowledged or refused no longer outstanding. -/
def dropSent (s : State) (m : MsgHead) : State :=
  { s with fab := { s.fab with sent := s.fab.sent.filter (fun x => decide (acceptKey x.1 ≠ acceptKey m)) } }

/-- RELAY_STATUS set; the relay no longer waits. -/
def endRelay (s : State) (result reason : Nat) : State :=
  let s1 := (s.setField Reg.RELAY_STATUS 2 0 result).setField Reg.RELAY_STATUS 15 8 reason
  { s1 with fab := { s1.fab with relayMsg := none } }

/-- Whether the relay waits for a reply: RELAY_STATUS.RESULT is BUSY. -/
def relayBusy (s : State) : Bool := decide (s.fieldAt Reg.RELAY_STATUS 2 0 = 1)

/-- REFUSE_MESSAGE (R289). -/
def execRefuseMessage (h : MsgHead) (reason : Nat) (s : State) : Host.Outcome State Fault Refusal :=
  act (onMessage h 5 (fun s =>
    match s.fab.relayMsg with
    | some (dest, n) =>
      if relayBusy s && decide (dest = h.peer) then
        endRelay (dropSent s { peer := dest, tc := classOf .soloc, msg := n, resent := false }) 3 reason
      else s
    | none => s)) s

/-- The packet in RELAY_DATA. -/
def relayPacket (s : State) (n : Nat) : List Byte := ((seqFrom 0 64).flatMap (fun i => toLE 4 (s.reg (Reg.RELAY_DATA i)).toNat)).take n

/-- A write of RELAY_CTRL with GO = 1: the packet sent as a SOLOC message, or NO_ROUTE (R38, R280, R289). -/
def relayGo (v : Word) (s : State) : State :=
  if relayBusy s then s
  else
    let s1 := writeRw Reg.RELAY_CTRL v s
    if !flag v 31 then s1
    else
      let dest := s1.fieldAt Reg.RELAY_CTRL 27 16
      if dest ≠ ownId s1 ∧ (routePort s1 dest).isNone then endRelay s1 4 0
      else
        let (n, s2) := sendMessage s1 dest ⟨.soloc, [], relayPacket s1 (s1.fieldAt Reg.RELAY_CTRL 8 0)⟩
        let s3 := endRelay s2 1 0
        { s3 with fab := { s3.fab with relayMsg := some (dest, n), relayStart := s3.now } }

/-- RELAY_GO (R38, R280, R289). -/
def execRelayGo (v : Word) (s : State) : Host.Outcome State Fault Refusal := act (whenReady (relayGo v)) s

/-- RELAY_TIMEOUT (R289): CMD_TIMEOUT_MIN without a reply. -/
def execRelayTimeout (time : Nat) (s : State) : Host.Outcome State Fault Refusal :=
  actAt time (fun s =>
    if relayBusy s && decide (s.fab.relayStart + 1000 * s.fieldAt Reg.CMD_TIMEOUT_MIN 19 0 ≤ s.now) then endRelay s 5 0 else s) s

/-! ## Answers to commands -/

/-- An answer to a question that a command has asked and that is not yet answered whole. -/
def takeAnswer (e : Entry) (q : Ask) (a : Answer) : Entry :=
  if inFlight e && e.asked.any (fun x => decide (x.1 = q)) && !(e.answers.filter (fun p => decide (p.1 = q))).any (fun p => p.2.last) then
    { e with answers := e.answers ++ [(q, a)] }
  else e

/-- Answers recorded for a command. -/
def recordAnswers (s : State) (tag : Nat) (l : List (Ask × Answer)) : State :=
  setEntry s tag (fun e => l.foldl (fun e p => takeAnswer e p.1 p.2) e)

/-- What an acknowledgement reports of a question; nothing more than that it was done, where it names none. -/
def reported (answers : List (Ask × Answer)) (q : Ask) : Answer := ((answers.find? (fun p => decide (p.1 = q))).map (fun p => p.2)).getD plainAnswer

/-- The contributions a command has asked of a module. -/
def contributionsTo (e : Entry) (peer : Nat) : List Ask :=
  (e.asked.filter (fun x => decide (x.2 = peer) && (match x.1 with
    | .contribute _ _ _ _ _ => true
    | _ => false))).map (fun x => x.1)

/-- What an acknowledgement reports of the contributions that a command has asked of the module that sends it. One that was sent on to
another owner, or answered by a redirect, is not reported here: its own answer is still to come, in whichever order the fabric brings
the two (R103, R113, R282). -/
def contributionReports (e : Entry) (peer : Nat) (answers : List (Ask × Answer)) : List (Ask × Answer) :=
  answers.filter (fun p => (contributionsTo e peer).contains p.1)

/-- A signal of a command acknowledged (R50, R288). -/
def signalAcked (s : State) (tag : Nat) (m : MsgHead) : State :=
  setEntry s tag (fun e => match e.phase with
    | .acks o left => { e with phase := .acks o (left.filter (fun g => decide (¬ (g.dest = m.peer ∧ g.msg = m.msg)))) }
    | _ => e)

/-- The runs of collectives that have their outcome end. -/
def reapRuns (s : State) : State := (s.coll.runs.map (fun r => r.tag)).foldl reapRun s

/-- What an acknowledgement of a message that this module sent lets go on (R50, R101, R103, R111, R266, R274, R288, R289). -/
def acknowledge (s0 : State) (m : MsgHead) (c : Content) (answers : List (Ask × Answer)) : State :=
  let s := dropSent s0 m
  match c.what, c.args with
  | .signal, [_, _, tag] => signalAcked s tag m
  | .soloc, _ => if relayBusy s && decide (s.fab.relayMsg = some (m.peer, m.msg)) then endRelay s 2 0 else s
  | .contribution, requester :: tag :: _ => match entryOf s tag with
    | some e => if requester = ownId s then recordAnswers s tag (contributionReports e m.peer answers) else s
    | none => s
  | .migrationCopy, [tag, a, n] => recordAnswers s tag [(.image a n, reported answers (.image a n))]
  | .migrationCopy, t :: row :: _ :: switch :: _ =>
    if switch = 0 then copyAnswered s t row (reported answers (.takeRow t row)) else switchAnswered s t row
  | .piece, _ => reapRuns s
  | .treePiece, _ => reapRuns s
  | _, _ => s

/-- E2E_ACK (R274): `acked` is the message acknowledged, by its destination, class and number, and `answers` what the acknowledgement
reports. -/
def execE2eAck (h acked : MsgHead) (answers : List (Ask × Answer)) (s : State) : Host.Outcome State Fault Refusal :=
  act (onMessage h 0xA (fun s =>
    match s.fab.sent.find? (fun x => decide (acceptKey x.1 = acceptKey acked)) with
    | some x => acknowledge s acked x.2 answers
    | none => s)) s

/-! ## Remote expansion (R82, R84, R86) -/

/-- The bay whose sampler serves a request on a graph: that of the stack that holds the start of its ROWPTR (log entry 23). -/
def graphBay (s : State) (graph : Nat) : Nat := match graphDesc s graph with
  | some g => bayOfAddr s (leAt g 0 8)
  | none => 0

/-- What answers a question of another module's sampler. -/
def answerExpand (s : State) : Ask → Option (Cmd Answer)
  | .row g k0 k1 hop mode f cap w node => some (Cmd.expandLocal (graphBay s g) g k0 k1 hop mode f cap w node)
  | .step g k0 k1 walk start t node prev p q => some (Cmd.stepLocal (graphBay s g) g k0 k1 walk start t node prev p q)
  | .member g node x => some (Cmd.memberLocal (graphBay s g) g node x)
  | _ => none

/-- An answer as the content of a message. -/
def answerArgs (a : Answer) : List Nat :=
  [a.status, a.detail, a.flags, b2n a.last, a.nums.length, a.weights.length] ++ a.nums ++ a.weights ++ a.bytes

/-- What an execution without a command comes to: its answer and the state after it, questions for other modules, or nothing while
memory is held. -/
inductive Served where
  | done (a : Answer) (s : State)
  | asks (qs : List (Nat × Ask))
  | held

/-- An execution without a command, with the answers of other modules that it has; the replay records of what it wrote end (R368). -/
def serveWith (answers : List (Ask × Answer)) (c : Cmd Answer) (s : State) : Served :=
  match c.run.run { Env.start s with answers := answers } with
  | (.ok a, env) => .done a (dropRecords env.s env.outs)
  | (.error (.fail st d _), env) => .done { plainAnswer with status := st, detail := d } (dropRecords env.s env.outs)
  | (.error (.bad d), _) => .done { plainAnswer with status := 0x11, detail := d } s
  | (.error (.ask qs), _) => .asks qs
  | (.error _, _) => .held

/-- The answer that an execution without a command comes to; none while it is held. -/
def serveAnswer (c : Cmd Answer) (s : State) : Option (Answer × State) :=
  match serveWith [] c s with
  | .done a s1 => some (a, s1)
  | _ => none

/-- The replies of one answer: at most 40 neighbours in a message, or 24 with their weights (Remote expansion). -/
def replyParts (a : Answer) : List Answer :=
  let n := if a.weights.isEmpty then 40 else 24
  let count := ceilDiv a.nums.length n
  if count ≤ 1 then [a]
  else (seqFrom 0 count).map (fun k => { a with
    nums := (a.nums.drop (n * k)).take n, weights := (a.weights.drop (n * k)).take n, last := decide (k + 1 = count) })

/-- An answer sent to the module that asked. -/
def sendReply (s : State) (peer sender : Nat) (a : Answer) : State :=
  (replyParts a).foldl (fun s p => (sendMessage s peer ⟨.expandReply, sender :: answerArgs p, []⟩).2) s

/-- What names a walk step that is carried here for another module, in place of a tag. -/
def stepSender (number : Nat) : Nat := 1024 + number

/-- The questions of a walk step carried here, sent to the owners of the nodes before it (R86). -/
def askForStep (s : State) (number : Nat) (qs : List (Nat × Ask)) : State :=
  qs.foldl (fun s q => (sendMessage s q.1 ⟨.expandRequest, stepSender number :: askArgs q.2, []⟩).2) s

/-- A request served and answered (R82). A walk step whose test needs another module's row waits for it (R86). -/
def serveExpand (h : MsgHead) (sender : Nat) (q : Ask) (s : State) : Option State :=
  match answerExpand s q with
  | none => some s
  | some c =>
    match serveWith [] c s with
    | .done a s1 => some (sendReply s1 h.peer sender a)
    | .asks qs =>
      let number := s.steps.foldl (fun n x => max n (x.number + 1)) 0
      some (askForStep { s with steps := s.steps ++ [⟨number, h.peer, sender, q, []⟩] } number qs)
    | .held => none

/-- A walk step carried here goes on with the answer it waited for: to its end, or to its next question. None: its memory is held. -/
def resumeStep (s : State) (x : ServedStep) (q : Ask) (a : Answer) : Option State :=
  let x1 := { x with answers := x.answers ++ [(q, a)] }
  let waits := { s with steps := s.steps.map (fun y => if y.number = x.number then x1 else y) }
  match answerExpand s x.ask with
  | none => some s
  | some c =>
    match serveWith x1.answers c s with
    | .done r s1 => some (sendReply { s1 with steps := s1.steps.filter (fun y => decide (y.number ≠ x.number)) } x.peer x.sender r)
    | .asks qs => some (if a.last then askForStep waits x.number qs else waits)
    | .held => none

/-- EXPAND_REQUEST (R82, R84, R86). -/
def execExpandRequest (h : MsgHead) (sender : Nat) (q : Ask) (s : State) : Host.Outcome State Fault Refusal :=
  act (whenReady (tryMessage h 6 (serveExpand h sender q))) s

/-- A reply taken by the command that asked, or by the walk step carried here that did. -/
def takeReply (sender : Nat) (q : Ask) (a : Answer) (s : State) : Option State :=
  match s.steps.find? (fun x => decide (stepSender x.number = sender)) with
  | some x => resumeStep s x q a
  | none => some (recordAnswers s sender [(q, a)])

/-- EXPAND_REPLY (R82, R83, R86). -/
def execExpandReply (h : MsgHead) (sender : Nat) (q : Ask) (a : Answer) (s : State) : Host.Outcome State Fault Refusal :=
  act (tryMessage h 6 (takeReply sender q a)) s

/-! ## Rows for other modules (R94, R95, R101, R111 to R114) -/

/-- What a request for a row meets at this module, with the row-map index. -/
inductive Meets where
  | fault (status detail : Nat)
  | row (index : Nat) (turn : RowTurn)
  deriving DecidableEq, Repr

/-- What a request for a row of a table meets here. -/
def meets (s : State) (t row : Nat) : Meets :=
  match tableDesc s t with
  | none => .fault 0x12 0x32
  | some d =>
    if shardOf row = ownId s ∧ tRows d ≤ localOf row then .fault 0x12 0x30
    else match ownedIndex s t d row with
      | some i => .row i (rowTurn s t d row i (storedEntry s d i))
      | none => match dirLookup s d row with
        | some x => .row 0 (.redirect x)
        | none => .fault 0x12 0x33

/-- Whether a request served here is of an older tide than the row's switch (R114). -/
def lateTide (s : State) (t row tide : Nat) : Bool :=
  match tableDesc s t with
  | some d => lateAt s t d row tide
  | none => false

/-- The row of a request read from its slot by the gather unit of the bay that holds it (R95). -/
def readForOther (s : State) (t row tide entry : Nat) : Cmd Answer :=
  let d := (tableDesc s t).getD []
  let bay := servingBay s d entry
  do
    let f ← Cmd.readSlotRow bay t d row entry
    Cmd.update (fun s => s.count64 (Reg.GATHER_BAY_CTR_SERVED_REMOTE_LO bay) 1)
    Cmd.countGranules bay d 1
    return { plainAnswer with flags := 2 * b2n (lateTide s t row tide), nums := [f.version], bytes := bytesAnswer f.bytes }

/-- The contribution of a request added at its owner (R101, R102). -/
def addForOther (s : State) (t row tide index : Nat) (codes : List Nat) : Cmd Answer :=
  do
    Cmd.addContribution ((tableDesc s t).getD []) index codes
    return { plainAnswer with flags := (← get).notes ||| (if lateTide s t row tide then 2 ^ 22 else 0) }

/-- A batch being served: the state, the answers so far, the requests sent on, by module. -/
structure Batch where
  s : State
  answers : List (Ask × Answer)
  onward : List (Nat × Ask)
  redirects : List (Ask × DirEntry)

/-- The table and row of a request. -/
def askRow : Ask → Option (Nat × Nat)
  | .tableRow t row _ => some (t, row)
  | .contribute t row _ _ _ => some (t, row)
  | _ => none

/-- One request of a batch; none while a row is held or its memory cannot be reached. -/
def serveOne (b : Batch) (q : Ask) : Option Batch :=
  match askRow q with
  | none => some b
  | some (t, row) =>
    let reply (a : Answer) (s : State) : Option Batch := some { b with s := s, answers := b.answers ++ [(q, a)] }
    match meets b.s t row with
    | .fault st d => reply { plainAnswer with status := st, detail := d } b.s
    | .row i turn =>
      match turn with
      | .held => none
      | .forward m => some { b with onward := b.onward ++ [(m, q)] }
      | .redirect x => some { b with redirects := b.redirects ++ [(q, x)] }
      | .malformed => reply { plainAnswer with status := 0x13, detail := 0x31 } b.s
      | .absent => (match q with
        | .tableRow _ _ _ =>
          let zeros := List.replicate (tBytes ((tableDesc b.s t).getD [])) 0
          reply { plainAnswer with flags := 1, nums := [0], bytes := zeros } b.s
        | _ => reply { plainAnswer with status := 0x12, detail := 0x33 } b.s)
      | .serve e =>
        let c := match q with
          | .tableRow _ _ tide => readForOther b.s t row tide e
          | .contribute _ _ tide _ codes => addForOther b.s t row tide i codes
          | _ => pure plainAnswer
        (serveAnswer c b.s).bind (fun r => reply r.1 r.2)

/-- All requests of a message served. -/
def serveBatch (s : State) (asks : List Ask) : Option Batch :=
  asks.foldl (fun acc q => acc.bind (fun b => serveOne b q)) (some ⟨s, [], [], []⟩)

/-- The redirects and the forwarded requests of a batch sent, these in the name of the module that asked (R111, R113). -/
def sendOnward (b : Batch) (what : MsgWhat) (requester sender : Nat) : State :=
  let s1 := b.redirects.foldl (fun s r =>
    (sendMessage s requester ⟨.redirect, [sender, r.2.owner, r.2.index, r.2.tide, r.2.row], []⟩).2) b.s
  ((b.onward.map (fun o => o.1)).dedup).foldl (fun s m =>
    (sendMessage s m (rowsMessage what requester sender ((b.onward.filter (fun o => decide (o.1 = m))).map (fun o => o.2)))).2) s1

/-- A batch of row requests served: the rows returned to the requester in one message. -/
def serveGather (requester sender : Nat) (asks : List Ask) (s : State) : Option State :=
  (serveBatch s asks).map (fun b =>
    let s1 := sendOnward b .gatherRequest requester sender
    if b.answers.isEmpty then s1
    else (sendMessage s1 requester ⟨.gatherReply, sender :: b.answers.flatMap (fun a => answerArgs a.2), []⟩).2)

/-- GATHER_REQUEST (R94, R95, R111, R113, R114). -/
def execGatherRequest (h : MsgHead) (requester sender : Nat) (asks : List Ask) (s : State) : Host.Outcome State Fault Refusal :=
  act (whenReady (tryMessage h 2 (serveGather requester sender asks))) s

/-- GATHER_REPLY (R95): the command writes the rows when it goes on. -/
def execGatherReply (h : MsgHead) (sender : Nat) (answers : List (Ask × Answer)) (s : State) : Host.Outcome State Fault Refusal :=
  act (onMessage h 2 (fun s => recordAnswers s sender answers)) s

/-- A directory entry written where there is none or one with an older SWITCH_TIDE (R113). -/
def updateDirectory (s : State) (t : Nat) (x : DirEntry) : State :=
  match tableDesc s t with
  | some d =>
    if tMigratable d && ((dirLookup s d x.row).map (fun o => !atOrAfter o.tide x.tide)).getD true then dirWrite s d x else s
  | none => s

/-- A redirect taken by the command it answers: the directory entry, the new owner, the request to be asked again (R113). -/
def takeRedirect (peer tag : Nat) (q : Ask) (owner index tide : Nat) (s : State) : State :=
  match entryOf s tag, askRow q with
  | some e, some (t, row) =>
    if inFlight e && e.asked.any (fun x => decide (x.1 = q)) then
      let s1 := updateDirectory s t ⟨row, tide, owner, peer, index⟩
      setEntry s1 tag (fun e => { e with
        asked := e.asked.filter (fun x => decide (x.1 ≠ q)), notes := e.notes ||| 2 ^ 23,
        answers := (.takeRow t row, { plainAnswer with nums := [owner, index] }) :: e.answers })
    else s
  | _, _ => s

/-- REDIRECT (R113). -/
def execRedirect (h : MsgHead) (sender : Nat) (q : Ask) (owner index tide : Nat) (s : State) : Host.Outcome State Fault Refusal :=
  act (onMessage h 2 (takeRedirect h.peer sender q owner index tide)) s

/-- Contributions added and acknowledged; what became of each is reported to the module that asked, in the acknowledgement or, where
another module sent the message on, beside it (R101 to R103, R111, R274, log entry 127). -/
def serveContributions (h : MsgHead) (requester sender : Nat) (asks : List Ask) (s : State) : Option State :=
  (serveBatch s asks).map (fun b =>
    let s1 := sendOnward b .contribution requester sender
    let report := sender :: b.answers.flatMap (fun a => answerArgs a.2)
    if requester = h.peer then (sendMessage s1 h.peer ⟨.ack, [h.tc, h.msg] ++ report, []⟩).2
    else (sendMessage (sendAck s1 h) requester ⟨.gatherReply, report, []⟩).2)

/-- CONTRIBUTION_RECEIVE (R101, R102, R274). -/
def execContributionReceive (h : MsgHead) (requester sender : Nat) (asks : List Ask) (s : State) : Host.Outcome State Fault Refusal :=
  act (whenReady (tryMessage h 2 (serveContributions h requester sender asks))) s

/-! ## Migration at the destination (R110, R111) -/

/-- The copy of a row, or its switch, as it arrives: the copy is acknowledged with the row's index here, the switch once it is made. -/
def migrationArrives (h : MsgHead) (t row tide : Nat) (switch : Bool) (im : RowImage) (s : State) : State :=
  if switch then
    { s with gath := { s.gath with guests := s.gath.guests.map (fun g =>
        if g.table = t && g.row = row then { g with switch := some (h, tide, im) } else g) } }
  else
    let (i, s1) := receiveCopy s t row h.peer im
    (sendMessage s1 h.peer ⟨.ack, [h.tc, h.msg] ++ (match i with
      | some k => [0, k]
      | none => [1]), []⟩).2

/-- MIGRATION_COPY_RECEIVE (R110, R111, R274). -/
def execMigrationCopyReceive (h : MsgHead) (t row tide : Nat) (switch : Bool) (im : RowImage) (s : State) :
    Host.Outcome State Fault Refusal :=
  act (whenReady (onMessage h 1 (migrationArrives h t row tide switch im))) s

/-- The guest whose switch has been received becomes VALID and acknowledges; its tide tells late requests (R114). -/
def makeSwitch (t row : Nat) (s : State) : State :=
  match s.gath.guests.find? (fun g => g.table = t && g.row = row) with
  | some g =>
    match g.switch with
    | some (h, tide, im) =>
      let s1 := switchGuest s g im
      let gs := s1.gath.guests.map (fun x => if x = g then { x with switch := none, since := some tide } else x)
      sendAck { s1 with gath := { s1.gath with guests := gs } } h
    | none => s
  | none => s

/-- DESTINATION_SWITCH (R111 phase 3). -/
def execDestinationSwitch (t row : Nat) (s : State) : Host.Outcome State Fault Refusal := act (makeSwitch t row) s

/-- DIRECTORY_MESSAGE (R111, R274). -/
def execDirectoryMessage (h : MsgHead) (t row tide owner previous index : Nat) (s : State) : Host.Outcome State Fault Refusal :=
  act (onMessage h 7 (fun s => sendAck (updateDirectory s t ⟨row, tide, owner, previous, index⟩) h)) s

/-! ## Collectives (R292, R300 to R309, R314) -/

/-- CHUNK_RECEIVE (R274, R292, R300, R306, R307): a chunk for which no reduction can open waits. -/
def execChunkReceive (h : MsgHead) (port : Fin 8) (c : Chunk) (s : State) : Host.Outcome State Fault Refusal :=
  act (tryMessage h 1 (fun s => (receiveChunk s port.val c).map (fun s => sendAck s h))) s

/-- SCALE_MESSAGE (R294, R296, R299, R302, R303). -/
def execScaleMessage (h : MsgHead) (port : Fin 8) (v : RoundValues) (s : State) : Host.Outcome State Fault Refusal :=
  act (tryMessage h 8 (fun s => receiveValues s port.val v)) s

/-- COLL_DEADLINE_EXPIRY (R307). -/
def execCollDeadlineExpiry (group layer time : Nat) (s : State) : Host.Outcome State Fault Refusal :=
  actAt time (fun s =>
    (s.coll.reductions.filter (fun r => decide (r.group = group) && decide (r.layer = layer))).foldl (fun s r =>
      match findRed s r.group r.layer r.step with
      | some x => expireRed s x s.now
      | none => s) s) s

/-- REDUCTION_DISCARD (R309). -/
def execReductionDiscard (group layer step : Nat) (s : State) : Host.Outcome State Fault Refusal :=
  act (fun s => discardRed s group layer step) s

/-- A piece written for the receiver's own command of its name; before that is dispatched it waits in its class queue (R314). -/
def pieceArrives (h : MsgHead) (p : Piece) (s : State) : Option State :=
  match findRun s p.opcode p.group p.layer p.step with
  | none => none
  | some r => (takePiece s r p).map (fun s1 => reapRun (sendAck s1 h) r.tag)

/-- COLLECTIVE_PIECE_RECEIVE (R274, R313, R314). -/
def execCollectivePieceReceive (h : MsgHead) (_port : Fin 8) (p : Piece) (s : State) : Host.Outcome State Fault Refusal :=
  act (tryMessage h (if p.opcode = 0x52 then 2 else 1) (pieceArrives h p)) s

/-- TELEMETRY_FRAME (R290): `payload` is the payload that arrived. -/
def execTelemetryFrame (port : Fin 8) (h : MsgHead) (payload : List Byte) (s : State) : Host.Outcome State Fault Refusal :=
  act (fun s =>
    if s.fab.inbox.any (fun i => decide (acceptKey i.head = acceptKey h) && decide (i.bytes = payload)) then
      onMessage h 9 (fun s => takeFrame s port.val h.peer payload) s
    else s) s

end Sys2Proof.Machine
end

