-- ==== Sys2Proof/Machine/ResetRows.lean ====
section
/-! DEFINITION. The rows of boot and reset: power-on and warm reset with the boot phases, function-level and data-plane reset, bay
reset, D3hot (21_boot_and_reset, 15_host_interface R325 and R326, 11_memory_system R237 and R244, 20_security R383). -/

namespace Sys2Proof.Machine

open Sys2Proof

/-! ## The host link (R315) -/

/-- The host link as it has trained: a generation of 0 is a link that is down. -/
def setHostLink (s : State) (generation width : Nat) : State :=
  let s1 := s.setReg Reg.HOST_LINK_STATUS 0
  if generation = 0 then s1
  else
    let s2 := ((s1.setField Reg.HOST_LINK_STATUS 19 16 generation).setField Reg.HOST_LINK_STATUS 12 8 width).setBit
      Reg.HOST_LINK_STATUS 0 (decide (generation = 6))
    if generation < 6 ∨ width < 16 then setStatus s2 Reg.HOST_EVENT 1 else s2

/-! ## HBM training (R232, R237, R244, R245) -/

/-- The failed lanes of one pseudo-channel among those a training found. -/
def failedLanes (found : List (Nat × Nat × Nat)) (ch pc : Nat) : Nat :=
  (found.filter (fun f => decide (f.1 = ch ∧ f.2.1 = pc))).foldl (fun n f => n + f.2.2) 0

/-- The failed lanes of a channel's two pseudo-channels. -/
def channelLanes (found : List (Nat × Nat × Nat)) (ch : Nat) : Nat := failedLanes found ch 0 + failedLanes found ch 1

/-- Whether a channel cannot be repaired under a policy, or was fenced before. -/
def channelLost (policy fence : Nat) (found : List (Nat × Nat × Nat)) (ch : Nat) : Bool :=
  bit fence ch || (if policy = 1 then decide (0 < channelLanes found ch)
    else decide (2 < failedLanes found ch 0) || decide (2 < failedLanes found ch 1))

/-- The state of a stack set. -/
def setStackState (s : State) (st v : Nat) : State := s.setField (Reg.STACK_STATE st) 2 0 v

/-- One stack trained: `fence` are the channels fenced before, `found` what the last attempt found. A FAILED stack has capacity 0. -/
def trainStack (policy : Nat) (s : State) (st fence : Nat) (found : Option (List (Nat × Nat × Nat))) : State :=
  match found with
  | none => setStackState s st 3
  | some l =>
    let lost := (seqFrom 0 16).filter (channelLost policy fence l)
    let s1 := if policy = 0 then s else s.setField (Reg.STACK_CHANNELS st) 15 0 (maskBits 16 lost.contains)
    if (policy = 0 ∧ lost ≠ []) ∨ 4 < lost.length then setStackState s1 st 3
    else
      let spared := if policy = 1 then 0
        else ((seqFrom 0 16).filter (fun c => !lost.contains c)).foldl (fun n c => n + channelLanes l c) 0
      let s2 := setStackState (s1.setField (Reg.STACK_CAPACITY st) 16 0 ((16 - lost.length) * 4608)) st 2
      let s3 := s2.setField (Reg.STACK_REPAIR st) 7 0 spared
      { s3.setField (Reg.HBM_PHY_TUNE st) 23 0 (Config.freeValue s.free) with free := s.free + 1 }

/-- A stack that was shut down stays so (R399): no capacity until the next power-on. -/
def keepShut (s : State) (st : Nat) : State := (setStackState s st 4).setField (Reg.STACK_STATE st) 10 8 4

/-- The training of the eight stacks; `old` is the state before the reset. -/
def trainStacks (old s : State) (training : List (Option (List (Nat × Nat × Nat)))) : State :=
  let policy := s.fieldAt Reg.HBM_REPAIR_POLICY 1 0
  (seqFrom 0 8).foldl (fun s st =>
    if bit s.power.bayOff st then keepShut s st
    else trainStack policy s st (old.fieldAt (Reg.STACK_CHANNELS st) 31 16) (((training[st]?).getD none))) s

/-- The ACTIVE stacks, ascending. -/
def activeStacks (s : State) : List Nat := (seqFrom 0 8).filter (fun st => decide (s.fieldAt (Reg.STACK_STATE st) 2 0 = 2))

/-- Window 0 set over `mib` MiB from address 0. -/
def setWindow0 (s : State) (mode stack mib : Nat) : State :=
  ((s.setPair (Reg.PLACE_WIN_LIMIT_LO 0) ((mib / 2 - 1) * 2 ^ 21)).setReg (Reg.PLACE_WIN_MODE 0)
    (BitVec.ofNat 32 (2 ^ 31 + mode))).setReg (Reg.PLACE_WIN_STACK 0) (BitVec.ofNat 32 stack)

/-- Window 0 from the result of the training (R237). -/
def bootWindow (s : State) : State :=
  let cap (st : Nat) : Nat := s.fieldAt (Reg.STACK_CAPACITY st) 16 0
  let s1 := match activeStacks s with
    | [] => s.setBit (Reg.PLACE_WIN_MODE 0) 31 false
    | st :: rest =>
      if rest.length = 7 then setWindow0 s 2 0 (8 * (rest.foldl (fun n x => min n (cap x)) (cap st)))
      else setWindow0 s 0 st (cap st)
  loadWindows s1

/-! ## Boot (R394 to R397, R408) -/

/-- The fabric ports as phase 3F leaves them: none trained; the lanes that failed their test; no clock, no good lane (R397, R408). -/
def bootPorts (s : State) (b : Boot) : State :=
  let s1 := { s with fab := { s.fab with
    clocks := b.clocks, ports := (seqFrom 0 8).map (fun p => { PortState.idle with cable := bit b.cables (p / 4) }) } }
  (seqFrom 0 8).foldl (fun s p =>
    s.setField (Reg.LANE_MAP p) 24 16 (if !bit b.clocks (p / 4) then 511 else if bit b.cables (p / 4) then (b.lanes[p]?).getD 0 else 0)) s1

/-- BOOT_STATUS at the end of a boot or reset: READY or FAILED, the phase, the kind of reset and its milliseconds, which saturate. -/
def bootStatus (s : State) (ready : Bool) (kind ms : Nat) : State :=
  s.setReg Reg.BOOT_STATUS (BitVec.ofNat 32
    ((if ready then 2 ^ 31 + 5 * 2 ^ 24 else 2 ^ 30 + 6 * 2 ^ 24) + kind * 2 ^ 16 + min ms 65535))

/-- The nanoseconds of a boot. -/
def bootNs (b : Boot) : Nat := b.ms * 1000000

/-- The boot's part in the security engine, at a time within the boot: a free value (log entry 3). -/
def bootMeasured (b : Boot) (s : State) : Bool × State :=
  let t := s.now - bootNs b + Config.freeValue s.free % (25000 * b.ms + 1) * 40
  let (ok, s1) := bootSecurity { s with now := t, free := s.free + 1 }
  (ok, { s1 with now := s.now })

/-- The boot phases from the ROM on a state whose registers are reset; `old` is the state before (R394). A boot stopped under R383
serves the Identity and Security mailbox blocks alone. -/
def boot (kind : Nat) (b : Boot) (old s : State) : State :=
  let (ok, s1) := bootMeasured b (setHostLink s b.generation b.width)
  if !ok then
    bootStatus (s1.setField Reg.MGMT_STATUS 2 0 (if s1.fieldAt Reg.SEC_BOOT_STATUS 31 24 = 1 then 0 else 3)) false kind b.ms
  else
    let s2 := bootPorts (trainStacks old (s1.setField Reg.MGMT_STATUS 2 0 2) b.training) b
    let s3 := s2.setField Reg.SKERRY_STATUS 2 0 (if b.skerry then 2 else 3)
    let s4 := (seqFrom 0 8).foldl (fun s k => buildMap s k b.failing) s3
    bootStatus (bootWindow s4) true kind b.ms

/-- What a module that has just lost all it held holds: the contents of its memories are lost, so undefined. -/
def lostMemories (s : State) : State := putUndef (putUndef s 0 0x020000000000) 0x400000000000 0x410008000000

/-- Power-on: everything but fuses and flash is lost, and the module boots; the timebase starts at 0 (R394, R399). -/
def powerOn (b : Boot) (s : State) : State :=
  let s0 := powerLost s
  boot 0 b s0 (lostMemories { s0 with now := bootNs b, power := { PowerState.fresh with inputMv := s.power.inputMv } })

/-- POWER_ON_RESET (R394 to R399). -/
def execPowerOnReset (b : Boot) (s : State) : Host.Outcome State Fault Refusal :=
  .next { powerOn b s with pending := s.pending, now := bootNs b }

/-- The registers that a warm reset keeps, SEC_STATE for its UNLOCK_FAILS (R399). -/
def keepWarm (old s : State) : State :=
  ((s.setReg Reg.HBM_SPEED (old.reg Reg.HBM_SPEED)).setReg Reg.HBM_REPAIR_POLICY (old.reg Reg.HBM_REPAIR_POLICY)).setField
    Reg.SEC_STATE 10 8 (old.fieldAt Reg.SEC_STATE 10 8)

/-- A warm reset: all but the timebase, the shut-down stacks, the registers of `keepWarm`, and what is not the module's, as at
power-on (R398, R399). The sensors' readings stand, and what is counted since power-on goes on (Telemetry record). -/
def warm (b : Boot) (s : State) : State :=
  let s0 := { powerLost s with
    now := s.now + bootNs b
    power := { PowerState.fresh with bayOff := s.power.bayOff, temps := s.power.temps, stackTemps := s.power.stackTemps,
                                     inputMv := s.power.inputMv, watts := s.power.watts }
    mgmt := { MgmtState.fresh with energy := s.mgmt.energy, promotions := s.mgmt.promotions } }
  boot 1 b s (lostMemories (keepWarm s s0))

/-- WARM_RESET (R327, R397 to R399). -/
def execWarmReset (b : Boot) (s : State) : Host.Outcome State Fault Refusal :=
  if s.power.off then act (fun s => s) s
  else .next { warm b s with pending := s.pending, now := s.now + bootNs b }

/-! ## Data-plane and function-level reset (R325, R326, R398 to R401) -/

/-- Whether a data-plane reset keeps a register (R399): Memory, Fabric, Power, Timebase and telemetry, RAS and Security mailbox
blocks, the spare map and the module's identity, and the PCI Express function's own structures. -/
def keptInDataPlane (off : Nat) : Bool := [0, 3, 4, 5, 6, 10, 12].contains (blockOf off) || decide (16 ≤ blockOf off)

/-- The shadows after a reset: those of the kept registers, with the words of commits still APPLYING pending again (R401, R416). -/
def shadowsKept (s : State) : List (Nat × Word) :=
  let word (p : Nat × Word) : Nat × Word :=
    match (seqFrom 0 8).find? (fun q => decide (p.1 = portMark q)) with
    | some q => (Reg.PORT_CTRL q, p.2)
    | none => p
  let back := ((s.applying.flatMap (fun c => c.set)).map word).dedup
  (s.shadow ++ back.filter (fun p => !s.shadow.any (fun q => decide (q.1 = p.1)))).filter (fun p => keptInDataPlane p.1)

/-- The units of the data plane, their blocks and what they hold as after reset; commands in flight end without replies. -/
def clearDataPlane (s : State) : State :=
  let r := State.reset
  { s with
    regs := s.regs.filter (fun p => keptInDataPlane p.1)
    shadow := shadowsKept s
    applying := []
    holdLo := s.holdLo.filter (fun p => keptInDataPlane p.1)
    grantNext := [], cplPhase := [], formatPosted := [], stallRem := 0, readSeq := 0
    entries := [], slots := [], replay := [], stale := []
    irq := { s.irq with active := [], timers := [] }
    pw := r.pw, graphs := [], caches := r.caches, gath := r.gath, pgroups := [], coll := r.coll
    vstore := [], undertow := [], steps := [], conts := [], summary := r.summary }

/-- A data-plane reset of a module that is ready: READY again, and a record of CLASS 0x12 (R398, R399). The milliseconds, at most 10,
are measured: a free value. The skerry memory stays trained or at fault. -/
def dataPlaneReset (kind : Nat) (s : State) : State :=
  let skerry := s.fieldAt Reg.SKERRY_STATUS 2 0
  let s1 := putUndef (clearDataPlane s) 0x400000000000 0x410008000000
  let s2 := s1.setField Reg.SKERRY_STATUS 2 0 skerry
  let s3 := bootStatus { s2 with free := s2.free + 1 } true kind (Config.freeValue s2.free % 11)
  logTimed s3 0x12 (plainLog 0 0 0)

/-- DATA_PLANE (R398 to R401): the keyed write of RESET_CTRL.DATA_PLANE. -/
def execDataPlane (s : State) : Host.Outcome State Fault Refusal := act (whenReady (dataPlaneReset 3)) s

/-- The function's configuration state at its reset values, the BAR2 size kept (R325, R399). -/
def resetFunction (s : State) : State :=
  { s with
    pci := { State.reset.pci with bar2Log2 := s.pci.bar2Log2 }
    regs := s.regs.filter (fun p => decide (blockOf p.1 < 16)) }

/-- A function-level reset (R325): a data-plane reset where the module is ready, and the function's state. -/
def functionReset (s : State) : State := resetFunction (whenReady (dataPlaneReset 2) s)

/-- FUNCTION_LEVEL_RESET (R325, R398, R399). -/
def execFunctionLevelReset (s : State) : Host.Outcome State Fault Refusal := actPci (powered functionReset) s

/-- D3HOT_ENTRY (R326): the command processor stops reading rings. -/
def execD3hotEntry (s : State) : Host.Outcome State Fault Refusal :=
  actPci (powered (fun s => { s with pci := { s.pci with d3hot := true } })) s

/-- D3HOT_EXIT (R326): a return to D0 is a function-level reset. -/
def execD3hotExit (s : State) : Host.Outcome State Fault Refusal :=
  actPci (powered (fun s => if s.pci.d3hot then functionReset s else s)) s

/-! ## Bay reset (R400) -/

/-- Whether a command has an operation queued or running in a bay. -/
def operatesIn (s : State) (b : Nat) (e : Entry) : Bool :=
  bit (bayMask s e) b && !r64Wait e && (match e.phase with
    | .running _ => true
    | _ => false)

/-- A command stopped with its bay: its outputs undefined, DEVICE_FAULT 0x05. -/
def stopWithBay (s : State) (e : Entry) : State := recoveryFailed s e 0x30 0x05 (engineOf s e)

/-- The local devices of a bay: its scratchpads and its shelf. -/
def bayRanges (b : Nat) : List (Nat × Nat) :=
  (seqFrom (64 * b) 64).map (fun t => (0x400000000000 + 0x100000 * t, 0x80000)) ++ [(0x410000000000 + 0x1000000 * b, 0x1000000)]

/-- A bay reset (R399, R400): the bay's commands fault, its scratchpads, shelf and program stores are undefined, its tiles have power,
and its part of the spare map is built from the self-test; a record of CLASS 0x12. -/
def resetBay (b : Nat) (failing : List Nat) (s : State) : State :=
  let s1 := (s.entries.filter (operatesIn s b)).foldl stopWithBay s
  let s2 := putUndef (putUndef s1 (0x400000000000 + 0x100000 * (64 * b)) (0x400000000000 + 0x100000 * (64 * b + 64)))
    (0x410000000000 + 0x1000000 * b) (0x410001000000 + 0x1000000 * b)
  let s3 := dropRecords { s2 with
    vstore := s2.vstore.filter (fun v => decide (v.tile / 64 ≠ b)), caches := s2.caches.set b [], summary := s2.summary.set b [] } (bayRanges b)
  let s4 := (s3.setReg (Reg.TILE_GATED (2 * b)) 0).setReg (Reg.TILE_GATED (2 * b + 1)) 0
  logTimed (buildMap s4 b failing) 0x12 (plainLog 0 (0x7000 + b) 0)

/-- BAY_RESET (R398 to R401): the keyed write of RESET_CTRL.BAY bit `b`; `failing` are the physical tiles that fail the test. -/
def execBayReset (b : Fin 8) (failing : List Nat) (s : State) : Host.Outcome State Fault Refusal :=
  act (whenReady (resetBay b.val failing)) s

end Sys2Proof.Machine
end

