-- ==== Sys2Proof/Machine/HostRows.lean ====
section
/-! DEFINITION. The rows of the host interface: the host link, the PCI Express configuration, BAR2, interrupts, mailbox requests, and
register writes and reads that have no row of their own (00_scope R9 to R14, 15_host_interface, 16_interrupt_controller, 20_security
R390 to R393, 23_register_map). -/

namespace Sys2Proof.Machine

open Sys2Proof

/-! ## The host link (R315, R327) -/

/-- The link goes down without a warm reset. -/
def hostLinkDown (s : State) : State :=
  if s.fieldAt Reg.HOST_LINK_STATUS 19 16 = 0 then s
  else logEvent (setStatus (s.setReg Reg.HOST_LINK_STATUS 0) Reg.HOST_EVENT 2) 0x11 (plainLog 0 0 0)

/-- HOST_LINK_DOWN (R327). -/
def execHostLinkDown (s : State) : Host.Outcome State Fault Refusal := act hostLinkDown s

/-- The generations and widths a link can train to (R315). -/
def linkLegal (generation width : Nat) : Bool := decide (1 ≤ generation ∧ generation ≤ 6) && [1, 2, 4, 8, 16].contains width

/-- HOST_LINK_UP (R315): a link that is down trains. -/
def execHostLinkUp (generation width : Nat) (s : State) : Host.Outcome State Fault Refusal :=
  act (powered (fun s =>
    if s.fieldAt Reg.HOST_LINK_STATUS 19 16 = 0 && linkLegal generation width then resumeColl (setHostLink s generation width) else s)) s

/-- A command whose host request has met the completion timeout: DEVICE_FAULT 0x02 (R327). -/
def hostTimeout (tag : Nat) (s : State) : State :=
  match entryOf s tag with
  | some e =>
    if e.phase = .running .host ∧ s.pci.cplTimeoutOff = false then
      recoveryFailed (logEvent s 0x12 (commandLog e 8 (engineOf s e) 0 2)) e 0x30 0x02 (engineOf s e)
    else s
  | none => s

/-- HOST_COMPLETION_TIMEOUT (R327). -/
def execHostCompletionTimeout (tag : Fin 1024) (s : State) : Host.Outcome State Fault Refusal := act (hostTimeout tag.val) s

/-! ## PCI Express configuration (R319, R323, R324) -/

/-- The command register written: Bus Master Enable and Memory Space Enable. Pending messages of open vectors are sent. -/
def setBusMaster (enable memorySpace : Bool) (s : State) : State :=
  releaseMsix { s with pci := { s.pci with busMaster := enable, memorySpace := memorySpace } }

/-- BUS_MASTER_ENABLE_CHANGE (R323). -/
def execBusMasterEnableChange (enable memorySpace : Bool) (s : State) : Host.Outcome State Fault Refusal :=
  actPci (powered (setBusMaster enable memorySpace)) s

/-- A size of BAR2 as its binary logarithm, 64 GiB to 1 TiB, written while Memory Space Enable is 0 (R317, R319). -/
def resizeBar2 (log2 : Nat) (s : State) : State :=
  if s.pci.memorySpace = false ∧ 36 ≤ log2 ∧ log2 ≤ 40 then { s with pci := { s.pci with bar2Log2 := log2 } } else s

/-- BAR2_RESIZE (R317, R319). -/
def execBar2Resize (log2 : Nat) (s : State) : Host.Outcome State Fault Refusal := actPci (powered (resizeBar2 log2)) s

/-- A write of a vector's control word, or of the function's enable and mask; pending messages then open are sent (R324). -/
def writeMsixControl (c : MsixControl) (s : State) : State :=
  match c with
  | .vector v w => releaseMsix (writeRw (Reg.MSIX_CTRL v.val) w s)
  | .function enable mask => releaseMsix { s with pci := { s.pci with msixEnable := enable, functionMask := mask } }

/-- MSIX_VECTOR_CONTROL_WRITE (R324). -/
def execMsixVectorControlWrite (c : MsixControl) (s : State) : Host.Outcome State Fault Refusal :=
  actPci (whenReady (writeMsixControl c)) s

/-! ## BAR2 (R319, R320, R321) -/

/-- HOST_BAR2_MAP.BASE, aligned to the BAR2 size. -/
def bar2Base (s : State) : Nat := s.pair Reg.HOST_BAR2_MAP_LO / 2 ^ s.pci.bar2Log2 * 2 ^ s.pci.bar2Log2

/-- The device addresses of a request. -/
def bar2Addrs (s : State) (offset n : Nat) : List Nat := seqFrom (bar2Base s + offset) n

/-- Whether a request lies within BAR2. -/
def bar2Within (s : State) (offset n : Nat) : Bool := decide (offset + n ≤ 2 ^ s.pci.bar2Log2)

/-- Whether a read lies within BAR2, and none of its bytes waits for a held stack (R421). -/
def bar2Served (s : State) (offset n : Nat) : Bool :=
  bar2Within s offset n && (bar2Addrs s offset n).all (fun a => !bar2Held s a)

/-- A request that covers faulty bytes, counted once. -/
def noteBar2 (s : State) (offset n : Nat) : State :=
  if (bar2Addrs s offset n).any (fun a => (bar2Byte s a).isNone) then setStatus (s.count Reg.HOST_BAR2_FAULTS 1) Reg.HOST_EVENT 0 else s

/-- The bytes read from consecutive device addresses, whether an uncorrectable word is among them, and the state after: each corrected
word written back, each uncorrectable one counted and logged. `seen`: the words settled so far. -/
def bar2Bytes (s : State) (seen : List Nat) : List Nat → List Byte × Bool × State
  | [] => ([], false, s)
  | a :: l =>
    match bar2Byte s a with
    | none => let (bs, p, s1) := bar2Bytes s seen l; (0xFF :: bs, p, s1)
    | some k =>
      let w := k.key / 64
      match wordState s k with
      | .uncorrectable =>
        let s0 := if seen.contains w then s else noteUncorrectable s k a
        let (bs, _, s1) := bar2Bytes s0 (w :: seen) l
        (unitByte s a :: bs, true, s1)
      | _ =>
        let s0 := settleWord s k a
        let (bs, p, s1) := bar2Bytes s0 seen l
        (unitByte s0 a :: bs, p, s1)

/-- A read through BAR2. -/
def readBar2 (offset n : Nat) (s : State) : State :=
  if bar2Served s offset n then
    let (bs, poisoned, s1) := bar2Bytes (noteBar2 s offset n) [] (bar2Addrs s offset n)
    { s1 with readOut := leNat bs, readPoisoned := poisoned }
  else s

/-- BAR2_READ (R319, R320, R371). -/
def execBar2Read (offset length : Nat) (s : State) : Host.Outcome State Fault Refusal := act (whenReady (readBar2 offset length)) s

/-- The bytes of a write at a device address by the 64-byte words that hold them. -/
def wordParts (a : Nat) (data : List Byte) : List (Nat × List Byte) :=
  (seqFrom (a / 64) ((a + data.length + 63) / 64 - a / 64)).map (fun w =>
    let lo := max a (64 * w)
    (lo, (data.drop (lo - a)).take (64 * w + 64 - lo)))

/-- A write through BAR2: each word reaches memory as a command's write does, or waits for its held stack (R320, R321, R421). -/
def writeBar2 (offset : Nat) (data : List Byte) (s : State) : State :=
  let n := data.length
  if bar2Within s offset n then (wordParts (bar2Base s + offset) data).foldl bar2Word (noteBar2 s offset n) else s

/-- BAR2_WRITE (R319 to R321). -/
def execBar2Write (offset : Nat) (data : List Byte) (s : State) : Host.Outcome State Fault Refusal := act (whenReady (writeBar2 offset data)) s

/-- A BAR0 access that is not a naturally aligned one of 32 or 64 bits (R318): a read returns 0, a write is discarded. -/
def invalidBar0 (write : Bool) (offset size : Nat) (s : State) : State :=
  if (size = 4 ∨ size = 8) ∧ offset % size = 0 then s
  else
    let s1 := setStatus s Reg.HOST_EVENT 3
    if write then s1 else { s1 with readOut := 0, readPoisoned := false }

/-- BAR0_INVALID_ACCESS (R318). -/
def execBar0InvalidAccess (write : Bool) (offset size : Nat) (s : State) : Host.Outcome State Fault Refusal :=
  act (powered (invalidBar0 write offset size)) s

/-! ## Interrupts (R331 to R337) -/

/-- What a read of a register returned. -/
def returned (s : State) (v : Nat) : State := { s with readOut := v, readPoisoned := false }

/-- A claim register read. -/
def readClaim (t : IrqTarget) (s : State) : State := returned (claim s t).2 (claim s t).1

/-- IRQ_CLAIM (R330, R331). -/
def execIrqClaim (t : IrqTarget) (s : State) : Host.Outcome State Fault Refusal :=
  act (fun s => if solocReady s then readClaim t s else returned s 0) s

/-- IRQ_COMPLETE (R332). -/
def execIrqComplete (t : IrqTarget) (v : Word) (s : State) : Host.Outcome State Fault Refusal :=
  act (whenReady (fun s => complete s t (fld v 9 0))) s

/-- IRQ_GLOBAL_ENABLE_WRITE (R335). -/
def execIrqGlobalEnableWrite (v : Word) (s : State) : Host.Outcome State Fault Refusal := act (whenReady (fun s => writeEnable s v)) s

/-- COALESCE_TIMER_EXPIRY (R336, R337). -/
def execCoalesceTimerExpiry (v : Fin 64) (time : Nat) (s : State) : Host.Outcome State Fault Refusal :=
  actAt time (fun s => if timerDue s v.val s.now then fireVector s v.val else s) s

/-! ## Mailbox requests (R387 to R393) -/

/-- The request of an OP carried out, while it is under way. -/
def mailbox (op : Nat) (f : State → State) (s : State) : State := if mboxBusy s op then f s else s

/-- GET_CERTS (R387, R390). -/
def execGetCerts (s : State) : Host.Outcome State Fault Refusal := act (mailbox 1 mboxCerts) s

/-- DEBUG_CHALLENGE (R390, R391). -/
def execDebugChallenge (s : State) : Host.Outcome State Fault Refusal := act (mailbox 2 mboxChallenge) s

/-- DEBUG_RESPONSE (R391). -/
def execDebugResponse (s : State) : Host.Outcome State Fault Refusal := act (mailbox 3 mboxResponse) s

/-- REVOKE (R392). -/
def execRevoke (s : State) : Host.Outcome State Fault Refusal := act (mailbox 4 mboxRevoke) s

/-- ADVANCE_SVN (R393). -/
def execAdvanceSvn (s : State) : Host.Outcome State Fault Refusal := act (mailbox 5 mboxAdvance) s

/-- EXTEND_HOST (R385). -/
def execExtendHost (s : State) : Host.Outcome State Fault Refusal := act (mailbox 6 mboxExtend) s

/-! ## Register writes (R9 to R14, R318, R396) -/

/-- Whether a write of an offset is a row of its own: doorbells, CPL_HEAD, commits, event counters and watches, holds and PHY tuning,
KAT_CTRL, PW_DEMOTE, interrupt completes and enables, RESET_CTRL, MSI-X vector control. -/
def hasOwnRow (off : Nat) : Bool :=
  (seqFrom 0 16).any (fun n => decide (off = Reg.RING_TAIL n ∨ off = Reg.CPL_HEAD n)) ||
  commitKeys.any (fun k => decide (off = commitReg k)) ||
  decide (blockOf off = 15) || decide (off = Reg.HBM_HOLD) || (seqFrom 0 8).any (fun b => decide (off = Reg.HBM_PHY_TUNE b)) ||
  decide (off = Reg.KAT_CTRL ∨ off = Reg.PW_DEMOTE ∨ off = Reg.IRQ_COMPLETE_HOST ∨ off = Reg.IRQ_COMPLETE_MGMT ∨
    off = Reg.IRQ_GLOBAL_ENABLE ∨ off = Reg.RESET_CTRL) ||
  (seqFrom 0 64).any (fun v => decide (off = Reg.MSIX_CTRL v))

/-- The W1C bits of a register whose clearing has no row of its own. -/
def clearMask (off : Nat) : Nat :=
  let m := accMask .w1c (fieldsOf off)
  if blockOf off = 1 then m &&& (0xFFFFFFFF ^^^ 0x4A0) else m

/-- Whether a write is ignored: the configuration of a source ID that is reserved (R328), and a register whose unit is busy, the relay
(R289) or the mailbox (R390). -/
def writeIgnored (s : State) (off : Nat) : Bool :=
  (decide (Reg.IRQ_SRC_CFG 0 ≤ off ∧ off < Reg.IRQ_SRC_CFG 1024) && !srcAssigned ((off - Reg.IRQ_SRC_CFG 0) / 4)) ||
  (decide (off = Reg.RELAY_CTRL ∨ (Reg.RELAY_DATA 0 ≤ off ∧ off < Reg.RELAY_DATA 64)) && relayBusy s) ||
  (decide (off = Reg.SEC_MBOX_BUF_LO ∨ off = Reg.SEC_MBOX_BUF_HI ∨ off = Reg.SEC_MBOX_LEN) &&
    decide (s.fieldAt Reg.SEC_MBOX_STATUS 2 0 = 1))

/-- The word a shadow starts from: the pending one, else that of a set being applied (a port's under `portMark` too), else the live
one. -/
def shadowBase (s : State) (off : Nat) : Word :=
  match s.shadow.find? (fun p => decide (p.1 = off)) with
  | some p => p.2
  | none => match (s.applying.flatMap (fun c => c.set)).find? (fun p => decide (p.1 = off ∨ p.1 = off + 1)) with
    | some p => p.2
    | none => s.reg off

/-- RWS fields written into the shadow of a register (R11, R14). -/
def writeShadow (s : State) (off : Nat) (v : Word) : State :=
  let w := writeFields .rws (fieldsOf off) (shadowBase s off) v
  { s with shadow := s.shadow.filter (fun p => decide (p.1 ≠ off)) ++ [(off, w)] }

/-- A word written by the access types of its fields (R11, R14): W1C bits, RW fields and counters at once, RWS fields into the
shadow. -/
def writeWord (s : State) (off : Nat) (v : Word) : State :=
  let fs := fieldsOf off
  let s1 := if hasAcc .w1c fs then clearStatusBits s off v.toNat (clearMask off) else s
  let s2 := if hasAcc .rw fs then writeRw off v s1 else s1
  let s3 := if hasAcc .cnt fs && decide (v = 0) then s2.setReg off 0 else s2
  if hasAcc .rws fs then writeShadow s3 off v else s3

/-- The low half that applies with a write of the high half of a pair: the one last written, else its reset value (R10). -/
def heldLow (s : State) (lo : Nat) : Word :=
  ((s.holdLo.find? (fun p => decide (p.1 = lo))).map (fun p => p.2)).getD (resetWord lo)

/-- A write of a listed offset: the halves of a pair together, at the write of the high half (R10). -/
def writeListed (s : State) (row : RegRow) (off : Nat) (v : Word) : State :=
  match row.half with
  | .whole => writeWord s off v
  | .lo => { s with holdLo := s.holdLo.filter (fun p => decide (p.1 ≠ off)) ++ [(off, v)] }
  | .hi => writeWord (writeWord s (off - 4) (heldLow s (off - 4))) off v

/-- Whether BAR0 serves an offset now (R396). -/
def served (s : State) (off : Nat) : Bool := solocReady s || decide (blockOf off = 0) || decide (blockOf off = 12)

/-- A register write without a row of its own: reserved offsets and registers of RO fields alone ignore it. -/
def writeRegister (off : Nat) (v : Word) (s : State) : State :=
  if !served s off || hasOwnRow off || writeIgnored s off then s
  else if off = Reg.SEC_MBOX_CMD then mboxCmd s v
  else if off = Reg.UW_DISARM then ((seqFrom 0 16).filter (flag v)).foldl uwDisarm s
  else match findReg off with
    | some (row, _) =>
      let s1 := writeListed s row off v
      if blockOf off < 16 then s1 else releaseMsix s1
    | none => s

/-- REGISTER_WRITE (R10, R11, R13, R14, R318, R390). -/
def execRegisterWrite (off : Nat) (v : Word) (s : State) : Host.Outcome State Fault Refusal := act (writeRegister off v) s

/-! ## Register reads (R9, R318, R396) -/

/-- RING_STATUS with the bits that follow from the state of the ring's commands. -/
def ringStatus (s : State) (n : Nat) : Nat :=
  let waits := s.entries.any (fun e => decide (e.ring = n) && completed e)
  (s.reg (Reg.RING_STATUS n)).toNat + 8 * b2n (ringHeld s n) + 4 * b2n waits + 2 * b2n (tagWait s n) + b2n (ringActive s n)

/-- A commit register: APPLYING, PENDING, and COMMIT while the set is not applied. -/
def commitStatus (s : State) (key : Nat) : Nat := 5 * b2n (isApplying s key) + 2 * b2n (isPendingKey s key)

/-- The number of commands in a given wait. -/
def waitingIn (s : State) (p : Phase → Bool) : Nat := (s.entries.filter (fun e => p e.phase)).length

/-- The registers whose value follows from other state; none for one that is stored. -/
def derivedReg (s : State) (off : Nat) : Option Nat :=
  match (seqFrom 0 16).find? (fun n => decide (off = Reg.RING_STATUS n)) with
  | some n => some (ringStatus s n)
  | none =>
    match commitKeys.find? (fun k => decide (off = commitReg k)) with
    | some k => some (commitStatus s k)
    | none =>
      if off = Reg.CMD_TAGS_IN_FLIGHT then
        some (tagsHeld s + 2 ^ 16 * (s.entries.filter (fun e => urgent s e.ring)).length)
      else if off = Reg.TIMEBASE_LO then some (s.now % 2 ^ 32)
      else if off = Reg.TIMEBASE_HI then some (s.now / 2 ^ 32 % 2 ^ 32)
      else if off = Reg.HBM_HOLD then some (257 * s.fieldAt Reg.HBM_HOLD 7 0)
      else if off = Reg.COLL_STATUS then some s.coll.reductions.length
      else if off = Reg.MIGRATE_STATUS then some s.gath.migrations.length
      else if off = Reg.UW_STATUS then
        some (2 ^ 31 * b2n (uwLocked s) + maskBits 16 (fun r => (uwRule s r).isSome))
      else if off = Reg.SEC_FUSES then some (secFuses s)
      else if off = Reg.TIDE_WAITS then
        some (waitingIn s (fun p => decide (p = .running .tide)) + 2 ^ 16 * waitingIn s (fun p => decide (p = .running .slot)))
      else none

/-- The live value of a register (R318, R396). -/
def readReg (s : State) (off : Nat) : Nat :=
  if !served s off then 0
  else match derivedReg s off with
    | some v => v
    | none => (s.reg off).toNat

/-- Whether a read of an offset is a row of its own: claims and PWR_NOW. -/
def readHasOwnRow (off : Nat) : Bool := decide (off = Reg.IRQ_CLAIM_HOST ∨ off = Reg.IRQ_CLAIM_MGMT ∨ off = Reg.PWR_NOW)

/-- A register read: of a low half, which latches the high one; of a high half, which returns the latched value once; of another
register (R9). -/
def readRegister (off : Nat) (s : State) : State :=
  if readHasOwnRow off then s
  else match (findReg off).map (fun r => r.1.half) with
    | some Half.lo =>
      returned { s with latchHi := s.latchHi.filter (fun p => decide (p.1 ≠ off + 4)) ++
        [(off + 4, BitVec.ofNat 32 (readReg s (off + 4)))] } (readReg s off)
    | some Half.hi =>
      match s.latchHi.find? (fun p => decide (p.1 = off)) with
      | some p => returned { s with latchHi := s.latchHi.filter (fun q => decide (q.1 ≠ off)) } p.2.toNat
      | none => returned s (readReg s off)
    | _ => returned s (readReg s off)

/-- LO_REGISTER_READ (R9). -/
def execLoRegisterRead (off : Nat) (s : State) : Host.Outcome State Fault Refusal := act (readRegister off) s

end Sys2Proof.Machine
end

