-- ==== Sys2Proof/Machine/Dispatch.lean ====
section
/-! DEFINITION. The dispatch of the commands: one arm per constructor of Instr, each a direct call of its meaning. -/

namespace Sys2Proof.Machine

open Sys2Proof

/-- The effect of one command on everything but the queue. -/
def exec (i : Instr) (s : State) : Host.Outcome State Fault Refusal :=
  match i with
  | .doorbell ring value => Sys2Proof.Machine.execDoorbell ring value s
  | .packetFetch => Sys2Proof.Machine.execPacketFetch s
  | .commandComplete tag => Sys2Proof.Machine.execCommandComplete tag s
  | .replyDeferredPost ring => Sys2Proof.Machine.execReplyDeferredPost ring s
  | .commandTimeout tag time => Sys2Proof.Machine.execCommandTimeout tag time s
  | .cplHeadWrite ring value => Sys2Proof.Machine.execCplHeadWrite ring value s
  | .flush ring => Sys2Proof.Machine.execFlush ring s
  | .cancelWaiting ring => Sys2Proof.Machine.execCancelWaiting ring s
  | .addrErrClear ring => Sys2Proof.Machine.execAddrErrClear ring s
  | .formatErrClear ring => Sys2Proof.Machine.execFormatErrClear ring s
  | .switchRefusedClear ring => Sys2Proof.Machine.execSwitchRefusedClear ring s
  | .commitRequest block ring => Sys2Proof.Machine.execCommitRequest block ring s
  | .commitApply block ring => Sys2Proof.Machine.execCommitApply block ring s
  | .fabricCommitPartApply part => Sys2Proof.Machine.execFabricCommitPartApply part s
  | .evcValueWrite counter value => Sys2Proof.Machine.execEvcValueWrite counter value s
  | .evcAddWrite counter value => Sys2Proof.Machine.execEvcAddWrite counter value s
  | .evcWatchWrite watch threshold value => Sys2Proof.Machine.execEvcWatchWrite watch threshold value s
  | .nop tag => Sys2Proof.Machine.execNop tag s
  | .fence tag => Sys2Proof.Machine.execFence tag s
  | .signal tag => Sys2Proof.Machine.execSignal tag s
  | .wait tag => Sys2Proof.Machine.execWait tag s
  | .configCommit tag => Sys2Proof.Machine.execConfigCommit tag s
  | .slotSwitch tag => Sys2Proof.Machine.execSlotSwitch tag s
  | .query tag => Sys2Proof.Machine.execQuery tag s
  | .copy tag => Sys2Proof.Machine.execCopy tag s
  | .transposeCopy tag => Sys2Proof.Machine.execTransposeCopy tag s
  | .storeCompressed tag => Sys2Proof.Machine.execStoreCompressed tag s
  | .convert tag => Sys2Proof.Machine.execConvert tag s
  | .sample tag => Sys2Proof.Machine.execSample tag s
  | .randomWalk tag => Sys2Proof.Machine.execRandomWalk tag s
  | .gather tag => Sys2Proof.Machine.execGather tag s
  | .gatherPool tag => Sys2Proof.Machine.execGatherPool tag s
  | .scatterAdd tag => Sys2Proof.Machine.execScatterAdd tag s
  | .rowReplace tag => Sys2Proof.Machine.execRowReplace tag s
  | .rowMigrate tag => Sys2Proof.Machine.execRowMigrate tag s
  | .matmul tag => Sys2Proof.Machine.execMatmul tag s
  | .matmulDgrad tag => Sys2Proof.Machine.execMatmulDgrad tag s
  | .matmulWgrad tag => Sys2Proof.Machine.execMatmulWgrad tag s
  | .operationEnqueue tag => Sys2Proof.Machine.execOperationEnqueue tag s
  | .serialisedOperationStart tag => Sys2Proof.Machine.execSerialisedOperationStart tag s
  | .vectorRun tag => Sys2Proof.Machine.execVectorRun tag s
  | .reduce tag => Sys2Proof.Machine.execReduce tag s
  | .scaleRound tag => Sys2Proof.Machine.execScaleRound tag s
  | .allGather tag => Sys2Proof.Machine.execAllGather tag s
  | .allToAll tag => Sys2Proof.Machine.execAllToAll tag s
  | .broadcast tag => Sys2Proof.Machine.execBroadcast tag s
  | .update tag => Sys2Proof.Machine.execUpdate tag s
  | .checkpoint tag => Sys2Proof.Machine.execCheckpoint tag s
  | .restore tag => Sys2Proof.Machine.execRestore tag s
  | .tideRetire tag => Sys2Proof.Machine.execTideRetire tag s
  | .tideWaitExit tag => Sys2Proof.Machine.execTideWaitExit tag s
  | .updateSlotWaitExit tag => Sys2Proof.Machine.execUpdateSlotWaitExit tag s
  | .checkpointWaitExit tag => Sys2Proof.Machine.execCheckpointWaitExit tag s
  | .attest tag => Sys2Proof.Machine.execAttest tag s
  | .measureProgram tag => Sys2Proof.Machine.execMeasureProgram tag s
  | .undertow tag => Sys2Proof.Machine.execUndertow tag s
  | .selfTest tag failing => Sys2Proof.Machine.execSelfTest tag failing s
  | .slotRelease table slot => Sys2Proof.Machine.execSlotRelease table slot s
  | .migrateGraceExpiry table row time => Sys2Proof.Machine.execMigrateGraceExpiry table row time s
  | .hotrowSnapshot time => Sys2Proof.Machine.execHotrowSnapshot time s
  | .katGo => Sys2Proof.Machine.execKatGo s
  | .pwDemoteWrite value => Sys2Proof.Machine.execPwDemoteWrite value s
  | .pwEventService => Sys2Proof.Machine.execPwEventService s
  | .patrolScrub stack => Sys2Proof.Machine.execPatrolScrub stack s
  | .channelFence stack channel => Sys2Proof.Machine.execChannelFence stack channel s
  | .stackThermalCheck temps time => Sys2Proof.Machine.execStackThermalCheck temps time s
  | .hbmHoldWrite value => Sys2Proof.Machine.execHbmHoldWrite value s
  | .hbmPhyTuneWrite stack value => Sys2Proof.Machine.execHbmPhyTuneWrite stack value s
  | .weightRebuild tag => Sys2Proof.Machine.execWeightRebuild tag s
  | .tableRowRebuild tag => Sys2Proof.Machine.execTableRowRebuild tag s
  | .producerRerun tag => Sys2Proof.Machine.execProducerRerun tag s
  | .meshFlitResend bay attempts => Sys2Proof.Machine.execMeshFlitResend bay attempts s
  | .tileFault tile => Sys2Proof.Machine.execTileFault tile s
  | .errlogMergeInterval time => Sys2Proof.Machine.execErrlogMergeInterval time s
  | .flitReceive port fec flit => Sys2Proof.Machine.execFlitReceive port fec flit s
  | .flitTransmit port time => Sys2Proof.Machine.execFlitTransmit port time s
  | .linkReplay port time => Sys2Proof.Machine.execLinkReplay port time s
  | .replayLimitExceeded port time => Sys2Proof.Machine.execReplayLimitExceeded port time s
  | .laneLossOfLock port lane => Sys2Proof.Machine.execLaneLossOfLock port lane s
  | .retrain port => Sys2Proof.Machine.execRetrain port s
  | .portTrainingDone port result => Sys2Proof.Machine.execPortTrainingDone port result s
  | .adaptiveFallback port time => Sys2Proof.Machine.execAdaptiveFallback port time s
  | .signalMessage head counter increment sender => Sys2Proof.Machine.execSignalMessage head counter increment sender s
  | .solocMessage head packet => Sys2Proof.Machine.execSolocMessage head packet s
  | .refuseMessage head reason => Sys2Proof.Machine.execRefuseMessage head reason s
  | .e2eAck head acked answers => Sys2Proof.Machine.execE2eAck head acked answers s
  | .relayGo value => Sys2Proof.Machine.execRelayGo value s
  | .relayTimeout time => Sys2Proof.Machine.execRelayTimeout time s
  | .expandRequest head sender ask => Sys2Proof.Machine.execExpandRequest head sender ask s
  | .expandReply head sender ask answer => Sys2Proof.Machine.execExpandReply head sender ask answer s
  | .gatherRequest head requester sender asks => Sys2Proof.Machine.execGatherRequest head requester sender asks s
  | .gatherReply head sender answers => Sys2Proof.Machine.execGatherReply head sender answers s
  | .redirect head sender ask owner index tide => Sys2Proof.Machine.execRedirect head sender ask owner index tide s
  | .contributionReceive head requester sender asks => Sys2Proof.Machine.execContributionReceive head requester sender asks s
  | .migrationCopyReceive head table row tide switch image => Sys2Proof.Machine.execMigrationCopyReceive head table row tide switch image s
  | .directoryMessage head table row tide owner previous index => Sys2Proof.Machine.execDirectoryMessage head table row tide owner previous index s
  | .chunkReceive head port chunk => Sys2Proof.Machine.execChunkReceive head port chunk s
  | .collDeadlineExpiry group layer time => Sys2Proof.Machine.execCollDeadlineExpiry group layer time s
  | .scaleMessage head port values => Sys2Proof.Machine.execScaleMessage head port values s
  | .reductionDiscard group layer step => Sys2Proof.Machine.execReductionDiscard group layer step s
  | .collectivePieceReceive head port piece => Sys2Proof.Machine.execCollectivePieceReceive head port piece s
  | .telemetryFrame port head payload => Sys2Proof.Machine.execTelemetryFrame port head payload s
  | .telemetryPeriod time => Sys2Proof.Machine.execTelemetryPeriod time s
  | .irqClaim target => Sys2Proof.Machine.execIrqClaim target s
  | .irqComplete target value => Sys2Proof.Machine.execIrqComplete target value s
  | .irqGlobalEnableWrite value => Sys2Proof.Machine.execIrqGlobalEnableWrite value s
  | .coalesceTimerExpiry vector time => Sys2Proof.Machine.execCoalesceTimerExpiry vector time s
  | .msixVectorControlWrite control => Sys2Proof.Machine.execMsixVectorControlWrite control s
  | .watchdogExpiry time => Sys2Proof.Machine.execWatchdogExpiry time s
  | .mctpControlMessage command argument => Sys2Proof.Machine.execMctpControlMessage command argument s
  | .pldmGetSensor sensor => Sys2Proof.Machine.execPldmGetSensor sensor s
  | .pldmSetEffecter effecter value => Sys2Proof.Machine.execPldmSetEffecter effecter value s
  | .governorTick watts time => Sys2Proof.Machine.execGovernorTick watts time s
  | .floorMonitorWindow rates time => Sys2Proof.Machine.execFloorMonitorWindow rates time s
  | .junctionCheck temps time => Sys2Proof.Machine.execJunctionCheck temps time s
  | .fastLimiter watts time => Sys2Proof.Machine.execFastLimiter watts time s
  | .droopDetect bay millivolts => Sys2Proof.Machine.execDroopDetect bay millivolts s
  | .tilePowerGate tile time => Sys2Proof.Machine.execTilePowerGate tile time s
  | .tileWake tile => Sys2Proof.Machine.execTileWake tile s
  | .pwrNowRead => Sys2Proof.Machine.execPwrNowRead s
  | .inputOutOfRange millivolts => Sys2Proof.Machine.execInputOutOfRange millivolts s
  | .undervoltageLockout millivolts => Sys2Proof.Machine.execUndervoltageLockout millivolts s
  | .overvoltage millivolts => Sys2Proof.Machine.execOvervoltage millivolts s
  | .powerOnReset boot => Sys2Proof.Machine.execPowerOnReset boot s
  | .warmReset boot => Sys2Proof.Machine.execWarmReset boot s
  | .functionLevelReset => Sys2Proof.Machine.execFunctionLevelReset s
  | .dataPlane => Sys2Proof.Machine.execDataPlane s
  | .bayReset bay failing => Sys2Proof.Machine.execBayReset bay failing s
  | .d3hotEntry => Sys2Proof.Machine.execD3hotEntry s
  | .d3hotExit => Sys2Proof.Machine.execD3hotExit s
  | .hostLinkDown => Sys2Proof.Machine.execHostLinkDown s
  | .busMasterEnableChange enable memorySpace => Sys2Proof.Machine.execBusMasterEnableChange enable memorySpace s
  | .bar2Resize log2 => Sys2Proof.Machine.execBar2Resize log2 s
  | .bar2Read offset length => Sys2Proof.Machine.execBar2Read offset length s
  | .bar2Write offset data => Sys2Proof.Machine.execBar2Write offset data s
  | .bar0InvalidAccess write offset size => Sys2Proof.Machine.execBar0InvalidAccess write offset size s
  | .getCerts => Sys2Proof.Machine.execGetCerts s
  | .debugChallenge => Sys2Proof.Machine.execDebugChallenge s
  | .debugResponse => Sys2Proof.Machine.execDebugResponse s
  | .revoke => Sys2Proof.Machine.execRevoke s
  | .advanceSvn => Sys2Proof.Machine.execAdvanceSvn s
  | .extendHost => Sys2Proof.Machine.execExtendHost s
  | .registerWrite offset value => Sys2Proof.Machine.execRegisterWrite offset value s
  | .hostCompletionTimeout tag => Sys2Proof.Machine.execHostCompletionTimeout tag s
  | .hostLinkUp generation width => Sys2Proof.Machine.execHostLinkUp generation width s
  | .loRegisterRead offset => Sys2Proof.Machine.execLoRegisterRead offset s
  | .destinationSwitch table row => Sys2Proof.Machine.execDestinationSwitch table row s
  | .smbusAddressResolution address => Sys2Proof.Machine.execSmbusAddressResolution address s

end Sys2Proof.Machine
end

