-- ==== Sys2Proof/Machine/Step.lean ====
section
/-! DEFINITION. One step of the block: the command at the front of the queue is carried out; an empty queue lets time pass. -/

namespace Sys2Proof.Machine

open Sys2Proof

/-- An idle step: the module's crystal makes one period, and the timebase advances by 40 ns (R420; log entry 41). -/
def idle (s : State) : State := passTime s (s.now + 40)

/-- One step: the front command on the state with the queue's rest, or an idle period. -/
def step (s : State) : Host.Outcome State Fault Refusal :=
  match s.pending with
  | [] => .next (idle s)
  | i :: rest => exec i { s with pending := rest }

/-- The state with the command that a word spells put at the front of its queue; the rows of the table have no bits, so no word
spells one. -/
def State.withFetchWord (s : State) (nbits w : Nat) : State :=
  match decodeTableWord nbits w with
  | some i => { s with pending := i :: s.pending }
  | none => s

end Sys2Proof.Machine
end

