-- ==== Sys2Proof/Safety.lean ====
section
/-! DEFINITION. The vocabulary of the claims: what a state may differ from another in, what stays true at every step, and the
hypotheses and outcomes that several claims share. -/

namespace Sys2Proof.Machine

open Sys2Proof

/-! ## What a command leaves unchanged -/

/-- `t` is `s` but for registers at the offsets listed: every other register, all memory, all queues and buffers stand. -/
def RegsOnly (offs : List Nat) (s t : State) : Prop :=
  t = { s with regs := t.regs } ∧ ∀ off, off ∉ offs → t.reg off = s.reg off

/-- A register of the interrupt controller (block 2) or of the MSI-X structures (behind the last block). -/
def irqReg (off : Nat) : Bool := decide (blockOf off = 2) || decide (16 ≤ blockOf off)

/-- `t` is `s` but for registers at the offsets listed and what raising or withdrawing an interrupt changes: the interrupt controller's
registers and state, the MSI-X pending bits and the messages sent. -/
def IrqAndRegs (offs : List Nat) (s t : State) : Prop :=
  t = { s with regs := t.regs, irq := t.irq } ∧ ∀ off, off ∉ offs → irqReg off = false → t.reg off = s.reg off

/-- Field `hi:lo` of a register is `v` in `t`, and the register's other bits are those of `s`. -/
def FieldTakes (off hi lo v : Nat) (s t : State) : Prop :=
  t.fieldAt off hi lo = v ∧ ∀ i, i < 32 → ¬ (lo ≤ i ∧ i ≤ hi) → t.bitAt off i = s.bitAt off i

/-- Bit `i` of a register is `b` in `t`, and the register's other bits are those of `s`. -/
def BitTakes (off i : Nat) (b : Bool) (s t : State) : Prop :=
  t.bitAt off i = b ∧ ∀ j, j < 32 → j ≠ i → t.bitAt off j = s.bitAt off j

/-- Every byte at a physical location reads in `t` as in `s`, but for the locations in `p`. -/
def MemoryBut (p : Nat → Prop) (s t : State) : Prop := ∀ k, ¬ p k → byteAt t k = byteAt s k

/-! ## What stays true at every step -/

/-- The timebase is a whole number of 40 ns periods (R420), and the size of BAR2 lies between 64 GiB and 1 TiB (R317). -/
def ClockAndBarLegal (s : State) : Prop := s.now % 40 = 0 ∧ 36 ≤ s.pci.bar2Log2 ∧ s.pci.bar2Log2 ≤ 40

/-- The rows that may change the PCI Express configuration state: resets, the loss of power, and the rows of that configuration. -/
def changesPci : Instr → Bool
  | .busMasterEnableChange _ _ => true
  | .bar2Resize _ => true
  | .msixVectorControlWrite _ => true
  | .functionLevelReset => true
  | .d3hotEntry => true
  | .d3hotExit => true
  | .powerOnReset _ => true
  | .warmReset _ => true
  | .junctionCheck _ _ => true
  | .undervoltageLockout _ => true
  | .overvoltage _ => true
  | _ => false

/-! ## Rings -/

/-- The tail that a doorbell's value names: the bits above LOG2 are ignored (Ring registers). -/
def newTail (s : State) (n : Nat) (v : Word) : Nat := fld v 11 0 % ringSize s n

/-- The granules by which a doorbell's value advances the tail. -/
def tailAdvance (s : State) (n : Nat) (v : Word) : Nat :=
  (newTail s n v + ringSize s n - ringTail s n % ringSize s n) % ringSize s n

/-- Whether a doorbell is valid: a ring the host may write, ACTIVE, and an advance within its free granules (R31, R38). -/
def doorbellValid (s : State) (n : Nat) (v : Word) : Prop :=
  s.bitAt (Reg.RING_PRIO n) 8 = false ∧ ringActive s n = true ∧ tailAdvance s n v ≤ ringFree s n

/-! ## Commands -/

/-- The command of a tag has executed, with this outcome, and awaits COMMAND_COMPLETE. -/
def FinishedWith (t : State) (tag : Nat) (o : Done) : Prop := ∃ e, entryOf t tag = some e ∧ e.phase = .finished o

/-- No command holds the tag, or only its reply still waits. -/
def TagEnded (t : State) (tag : Nat) : Prop := ∀ e ∈ t.entries, e.tag = tag → completed e = true

/-- A control command is ready, of the opcode given, and nothing holds it back from its dispatch. -/
def ControlReady (s : State) (tag op : Nat) (e : Entry) : Prop :=
  entryOf s tag = some e ∧ pktOp e.pkt = op ∧ e.phase = .ready ∧ solocReady s = true ∧ blockedByCommit s e = false ∧
  slotLoaded s e.slot = true

/-- The state and the entry with which a ready command is dispatched: its policy, its place in the order of dispatch, and NOTES bit 0. -/
def dispatched (s : State) (e : Entry) : Entry :=
  { e with policy := s.reg Reg.RAS_POLICY, disp := s.readSeq, notes := e.notes ||| b2n (decide (belowFloor s ≠ 0)) }

/-- See `dispatched`. -/
def dispatchedState (s : State) (e : Entry) : State := setEntry { s with readSeq := s.readSeq + 1 } e.tag (fun _ => dispatched s e)

/-- The entry with which a waiting command goes on: it takes its policy anew at the end of a wait of R64. -/
def resumed (s : State) (e : Entry) : Entry := if r64Wait e then { e with policy := s.reg Reg.RAS_POLICY } else e

/-- The rows of the units' opcodes: row, opcode, and what carries the opcode out. -/
def unitRows (tag : Fin 1024) (failing : List Nat) : List (Instr × Nat × Job) :=
  [(.query tag, 0x06, .plain bodyQuery), (.copy tag, 0x10, .plain bodyCopy), (.storeCompressed tag, 0x11, .plain bodyStoreCompressed),
   (.transposeCopy tag, 0x12, .plain bodyTransposeCopy), (.convert tag, 0x13, .plain bodyConvert),
   (.sample tag, 0x20, .plain bodySample), (.randomWalk tag, 0x21, .plain bodyRandomWalk),
   (.gather tag, 0x22, .plain bodyGather), (.gatherPool tag, 0x23, .plain bodyGatherPool),
   (.scatterAdd tag, 0x24, .plain bodyScatterAdd), (.rowReplace tag, 0x25, .plain bodyRowReplace),
   (.rowMigrate tag, 0x26, .plain bodyRowMigrate)] ++
  [(.matmul tag, 0x30, ⟨prepareMatrix, bodyMatrix⟩), (.matmulDgrad tag, 0x31, ⟨prepareMatrix, bodyMatrix⟩),
   (.matmulWgrad tag, 0x32, ⟨prepareMatrix, bodyMatrix⟩), (.vectorRun tag, 0x40, .plain bodyVectorRun),
   (.reduce tag, 0x50, .plain bodyReduce), (.allGather tag, 0x51, .plain bodyExchange), (.allToAll tag, 0x52, .plain bodyExchange),
   (.broadcast tag, 0x53, .plain bodyExchange), (.scaleRound tag, 0x54, .plain bodyScaleRound),
   (.update tag, 0x60, ⟨prepareUpdate, bodyUpdate⟩), (.checkpoint tag, 0x61, ⟨prepareCheckpoint, bodyCheckpoint⟩),
   (.restore tag, 0x62, .plain bodyRestore), (.tideRetire tag, 0x70, .plain bodyTideRetire)] ++
  [(.attest tag, 0xE0, .plain bodyAttest), (.measureProgram tag, 0xE1, .plain bodyMeasureProgram),
   (.undertow tag, 0xF0, .plain bodyUndertow), (.selfTest tag failing, 0xF1, .plain (bodySelfTest failing))]

/-- The preparation of a dispatched command has run in `env`: the state its body starts from. -/
def preparedState (env : Env) (tag : Nat) : State := setEntry env.s tag (fun c => { keepRun env c with prepared := true })

/-- The job of a command, started from a state that tracks it as `e`, runs to its end with outcome `o` and leaves `env`, in which the
command is tracked as `e3`; nothing intervenes: no poison, no armed fault-injection rule, no unordered command on the same scratchpad bytes. -/
def RunsClean (base : State) (job : Job) (e e3 : Entry) (env : Env) (o : Done) : Prop :=
  (if e.prepared then runBody base job e = (env, .ok o)
   else ∃ env0 e2, (job.prep e).run.run (runEnv base e) = (.ok (), env0) ∧ entryOf (preparedState env0 e.tag) e.tag = some e2 ∧
     runBody (preparedState env0 e.tag) job e2 = (env, .ok o)) ∧
  env.poison = none ∧ env.s.undertow = [] ∧ entryOf env.s e.tag = some e3 ∧ racingBytes env.s e3 env = []

/-- No commit of the Memory block is APPLYING that a command would run into at its dispatch or at the end of a wait of R64 (R65). -/
def NoMemoryCommit (s : State) (e : Entry) : Prop := isApplying s 5 = false ∨ (e.phase ≠ .ready ∧ r64Wait e = false)

/-- The outcome that a clean run's own outcome becomes: CORRECTED where it met a corrected error or a recovery (R242, R362). -/
def settled (e : Entry) (env : Env) (o : Done) : Done :=
  { o with status := if o.status = 0 && (env.corrected || decide (0 < e.reruns)) then 1 else o.status }

/-- A command that reads again after a recovery, as `readAgain` starts it: its clock goes on, with the notes given. -/
def againState (s : State) (tag notes : Nat) : State :=
  setEntry s tag (fun c => { c with
    notes := c.notes ||| notes, reruns := c.reruns + 1, replays := c.replays + b2n (bit notes 2),
    paused := c.paused + (s.now - c.pauseFrom.getD s.now), pauseFrom := none })

/-- The words of a set are in the registers: of each, the RWS fields. -/
def SetApplied (set : List (Nat × Word)) (s t : State) : Prop :=
  (∀ p ∈ set, t.reg p.1 = writeFields .rws (fieldsOf p.1) (s.reg p.1) p.2) ∧
  ∀ off, off ∉ set.map (fun p => p.1) → t.reg off = s.reg off

/-- No CONFIG_COMMIT waits. -/
def NoConfigCommitWaits (s : State) : Prop := ∀ e ∈ s.entries, ∀ mine again r, e.phase ≠ .running (.commit mine again r)

/-! ## Commands with nothing in their way -/

/-- Every byte of an address range lies in device memory, in no held stack, in a word without errors. -/
def reach (s : State) (a n : Nat) : Bool :=
  (seqFrom a n).all (fun x => match locate s x with
    | .ok p => !heldRegion s p.region && decide (p.region ≠ .host) && decide (wordState s p = .good)
    | .error _ => false)

/-- Such a range in HBM or skerry memory, which no scratchpad or shelf overlaps. -/
def storeReach (s : State) (a n : Nat) : Bool := reach s a n && decide (a + n ≤ 0x020000000000)

/-- A range within skerry memory, where an address is its own location. -/
def skerryRange (a n : Nat) : Bool := decide (0x010000000000 ≤ a) && decide (a + n ≤ 0x020000000000)

/-- All of a body's checks hold. -/
def checksHold (l : List (Bool × Nat)) : Bool := l.all (fun c => c.1)

/-- A command ready to be dispatched, of an opcode, whose slot is loaded and whose tiles are alive, while nothing holds it back: its gate is
open, no Memory commit is APPLYING, no word has an error pattern and no fault-injection rule is armed. -/
def Launch (s : State) (tag op : Nat) (e : Entry) : Prop :=
  entryOf s tag = some e ∧ pktOp e.pkt = op ∧ e.phase = .ready ∧ e.prepared = false ∧ e.reruns = 0 ∧ e.answers = [] ∧ e.kept = [] ∧
  gateOpen s e = true ∧ slotLoaded s e.slot = true ∧ (tilesOf e).all (fun t => !s.power.deadTiles.contains t) = true ∧
  isApplying s 5 = false ∧ s.errs = [] ∧ s.undertow = []

/-- The command answers a next state in which the command of the tag has executed, with an outcome that meets a condition. -/
def Executes (s : State) (c : Instr) (tag : Nat) (p : State → Done → Prop) : Prop :=
  ∃ t o, exec c s = .next t ∧ FinishedWith t tag o ∧ p t o

/-- The outcome of a command that ended DONE in a unit. -/
def DoneIn (engine : Nat) (o : Done) : Prop := o.status = 0 ∧ o.detail = 0 ∧ o.engine = engine

/-- The state without error patterns. -/
def noErrors (s : State) : State := { s with errs := [] }

/-- The rows of a COPY can be read and written. -/
def copyRuns (s : State) (e : Entry) : Bool :=
  checksHold (copyChecks s e) && (seqFrom 0 (bodyAt e 20 4)).all (fun r =>
    (bit (bodyAt e 33 1) 0 || reach s (bodyAt e 0 8 + r * bodyAt e 24 4) (bodyAt e 16 4)) &&
    reach s (bodyAt e 8 8 + r * bodyAt e 28 4) (bodyAt e 16 4))

/-- The rows of a tensor that are as wide as its stride, and its scale records, lie in reach. -/
def tensorReach (s : State) (w : FmtWord) (base stride width rows cols : Nat) : Bool :=
  (seqFrom 0 rows).all (fun r => reach s (base + r * stride) width) &&
  (decide (w.scale = 0) || reach s w.scaleBase (rows * (ceilDiv cols 32 * scaleSize w.scale)))

/-- The row pointers of a node in memory, read as numbers. -/
def rowBounds (s : State) (g : List Byte) (node : Nat) : Nat × Nat :=
  (leNat (peekBytes s (leAt g 0 8 + 8 * localOf node) 8), leNat (peekBytes s (leAt g 0 8 + 8 * localOf node + 8) 8))

/-- The degree of a node. -/
def degreeOf (s : State) (g : List Byte) (node : Nat) : Nat := (rowBounds s g node).2 - (rowBounds s g node).1

/-- A node of this shard whose row is well formed and lies in reach (R68). -/
def nodeReady (s : State) (g : List Byte) (node : Nat) : Bool :=
  let b := rowBounds s g node
  decide (shardOf node = ownId s) && decide (localOf node < leAt g 32 8) && storeReach s (leAt g 0 8 + 8 * localOf node) 16 &&
  decide (b.1 ≤ b.2) && decide (b.2 - b.1 < 2 ^ 32) && decide (b.2 ≤ leAt g 40 8) && storeReach s (leAt g 8 8 + 6 * b.1) (6 * (b.2 - b.1))

/-- The row IDs of an index list in memory. -/
def rowIdsAt (s : State) (a n : Nat) : List Nat := (chunks 8 (n + 1) (peekBytes s a (8 * n))).map (fun b => leNat b % 2 ^ 48)

/-- The row-map entry of an index as it stands in memory. -/
def mapEntry (s : State) (d : List Byte) (i : Nat) : Nat := leNat (peekBytes s (tRowmap d + 8 * i) 8)

/-- The slot address of the row of an index. -/
def rowAddr (s : State) (d : List Byte) (i : Nat) : Nat := slotAddr d (eTier (mapEntry s d i)) (eSlot (mapEntry s d i))

/-- A row of this module's shard, of a table that does not migrate, that is VALID in a slot in reach. -/
def rowReady (s : State) (d : List Byte) (row : Nat) : Bool :=
  let i := localOf row
  !tMigratable d && decide (shardOf row = ownId s) && decide (i < tRows d) && storeReach s (tRowmap d + 8 * i) 8 &&
  decide (eState (mapEntry s d i) = 1) && slotInside d (mapEntry s d i) && storeReach s (rowAddr s d i) (tBytes d)

/-- Nothing migrates: no row is a guest here and none is under way. -/
def NoMigration (s : State) : Prop := s.gath.guests = [] ∧ s.gath.migrations = []

/-- The table of a command of the gather unit is loaded. -/
def TableOf (s : State) (e : Entry) (d : List Byte) : Prop :=
  bodyAt e 0 2 < 256 ∧ tableDesc s (bodyAt e 0 2) = some d ∧ d ≠ [] ∧ tElem d ≤ 3

/-- The gather unit that a command names is in an enabled bay. -/
def BayOf (s : State) (e : Entry) : Prop := bodyAt e 2 1 < 8 ∧ bayEnabled s (bodyAt e 2 1) = true

/-- A dispatched command in a wait that is over: its gate is open, no Memory commit is APPLYING, no word has an error pattern and no
fault-injection rule is armed; it has asked and read nothing yet. -/
def Resumes (s : State) (tag : Nat) (w : Wait) (e : Entry) : Prop :=
  entryOf s tag = some e ∧ e.phase = .running w ∧ e.reruns = 0 ∧ e.answers = [] ∧ e.asked = [] ∧ e.kept = [] ∧ gateOpen s e = true ∧
  isApplying s 5 = false ∧ s.errs = [] ∧ s.undertow = []

/-- The engine queues of a command hold no other operation, and its tiles are not gated. -/
def QueuesFree (s : State) (e : Entry) : Prop :=
  (∀ c ∈ s.entries, c.tag ≠ e.tag → inQueues c = false) ∧ (queuesOf e).all (fun a => !tileGated s (a % 512)) = true

/-- A matrix command of three plain tensors: no scales, no precision watch, no compressed form, no epilogue, no partial sums, no second
output, no prediction. -/
def plainMatrix (x : MatBody) : Bool :=
  decide (x.epi = 0 ∧ x.otBase = 0 ∧ x.pd = 0 ∧ x.mask = 0 ∧ x.a.scale = 0 ∧ x.b.scale = 0 ∧ x.o.scale = 0) && !x.accLoad && !x.compressed &&
  !pwNames x.a && !pwNames x.b && !pwNames x.o

/-- The operands of such a command, B at an offset, and its output lie in reach. -/
def matrixReach (s : State) (x : MatBody) (off : Nat) : Bool :=
  (seqFrom 0 x.m).all (fun r => reach s (x.aBase + r * x.aStride) (rowBytes x.a.elem x.k) && reach s (x.oBase + r * x.oStride) x.oStride) &&
  (seqFrom 0 (if x.layout then x.k else x.n)).all (fun r =>
    reach s (x.bBase + off + r * x.bStride) (rowBytes x.b.elem (if x.layout then x.n else x.k)))

/-- A vector instruction whose success no operand's value decides: no index, no predicate to expand by, no offsets, no scale records to
read. -/
def plainInstr (i : VInstr) : Bool := decide (i.op ≠ 0x32 ∧ i.op ≠ 0x41 ∧ i.op ≠ 0x42) && (decide (i.op < 0x50 ∨ 0x55 < i.op) || !i.has1)

/-- The streams of a program are of fixed length and lie in reach on a tile. -/
def streamsReach (s : State) (tile : Nat) (l : List VStream) : Bool :=
  l.all (fun v => !v.dyn && (v.pieces v.len).all (fun p => reach s (padBase tile + p.1) p.2))

/-- A collective group of this module alone, the root of its first tree, which no module backs. -/
def SoloGroup (s : State) (d : List Byte) : Prop :=
  d ≠ [] ∧ cMembers d = 1 ∧ cRank d = 0 ∧ 1 ≤ cTrees d ∧ cBackup d = false ∧ cKids d 0 = [] ∧ cParent d 0 = none ∧ cRoot d 0 = ownId s ∧
  groupIds d = [ownId s] ∧ backedPorts s = []

/-- The name of a reduction is free for a command: it is not open, nor discarded, and there is room for one more. -/
def NameFree (s : State) (e : Entry) (g l st : Nat) : Prop :=
  inCollective s e = false ∧ findRed s g l st = none ∧ s.coll.reductions.length < 64 ∧ s.coll.discarded.contains (g, l, st) = false

/-- The group that an UPDATE names, and its tide-table entry of a kind; no other UPDATE nor CHECKPOINT is tracked, and the tide is the
entry's next (R220, R258). -/
def UpdateOf (s : State) (e : Entry) (g : List Byte) (te : TideEntry) (kind : Nat) : Prop :=
  groupDesc s (bodyAt e 0 2 % 4096) = g ∧ g ≠ [] ∧ gSlot g = e.slot ∧ tideEntry s e.slot (groupEntry s g).2.1 = some te ∧ te.kind = kind ∧
  bodyAt e 0 2 < 4096 ∧ bodyAt e 4 1 < 2 ∧ bodyZero e 5 8 = true ∧ bodyZero e 20 32 = true ∧ -256 ≤ signed 16 (bodyAt e 2 2) ∧
  signed 16 (bodyAt e 2 2) ≤ 127 ∧ gStep g ≠ 2 ^ 32 - 1 ∧ gFrozen g = 0 ∧
  (pktTideValid e.pkt = false ∨ pktTide e.pkt = (te.current + 1) % 2 ^ 16) ∧
  ∀ c ∈ s.entries, c.tag ≠ e.tag → pktOp c.pkt ≠ 0x60 ∧ pktOp c.pkt ≠ 0x61

/-- An UPDATE of a dense group with plain formats and a FREE version slot `v`, whose state, gradient and tensors lie in reach. -/
def DenseUpdate (s : State) (e : Entry) (g : List Byte) (te : TideEntry) (v : Nat) : Prop :=
  UpdateOf s e g te 0 ∧ gEmbed g = false ∧ bodyAt e 8 8 ≠ 0 ∧ bodyAt e 8 8 % 16 = 0 ∧ bodyAt e 16 4 % 16 = 0 ∧
  6 * gRows g ≤ bodyAt e 16 4 ∧ gShadow g = 0 ∧ s.pw.layers = [] ∧ (gFwdFmt g).pwEn = false ∧ (gBwdFmt g).pwEn = false ∧
  (gFwdFmt g).scale = 0 ∧ (gBwdFmt g).scale = 0 ∧ (∀ x ∈ te.vslots, x.state ≠ 1) ∧
  findVslot { te with vslots := te.vslots.take (slotCount s te) } (fun x => x.state = 0) = some v ∧
  reach s (gStateBase g) (stateBytes g) = true ∧
  (∀ r, r < gCols g → reach s (bodyAt e 8 8 + r * bodyAt e 16 4) (6 * gRows g) = true ∧
    reach s (gBwd g + v * te.vstride + r * leAt g 76 4) (max (leAt g 76 4) (rowBytes (gBwdFmt g).elem (gRows g))) = true) ∧
  ∀ r, r < gRows g → reach s (gFwd g + v * te.vstride + r * leAt g 72 4) (max (leAt g 72 4) (rowBytes (gFwdFmt g).elem (gCols g))) = true

/-- An UPDATE of a LAZY embedding group whose table has touched no row since the last one. -/
def LazyUpdate (s : State) (e : Entry) (g d : List Byte) (te : TideEntry) : Prop :=
  UpdateOf s e g te 1 ∧ gEmbed g = true ∧ bodyAt e 8 8 = 0 ∧ bodyAt e 16 4 = 0 ∧ gFlag g 4 = true ∧ bit (bodyAt e 4 1) 0 = false ∧
  tableDesc s (gEntry g) = some d ∧ tTouched d ≠ 0 ∧ reach s (tTouched d) 8 = true ∧ leNat (peekBytes s (tTouched d) 8) = 0

/-- A CHECKPOINT to this module's memory of a model slot without embedding groups, frozen parameters and watched layers; no UPDATE is
tracked. -/
def CheckpointOf (s : State) (e : Entry) (m : ModelSlot) : Prop :=
  modelSlot s e.slot = some m ∧ bits (bodyAt e 8 2) 14 12 = 0 ∧ bodyAt e 32 2 < 4096 ∧ bodyZero e 10 16 = true ∧ bodyZero e 36 48 = true ∧
  bodyAt e 0 8 % 256 = 0 ∧ bodyAt e 32 2 + bodyAt e 34 2 ≤ 4096 ∧ imageSize s e ≤ bodyAt e 16 8 ∧ bit (bodyAt e 8 2) 15 = false ∧
  (∀ c ∈ s.entries, pktOp c.pkt ≠ 0x60) ∧ slotLayers s e.slot = [] ∧
  (∀ d ∈ slotGroups s e.slot, groupDesc s d.index = d.bytes ∧ d.bytes.length = 192 ∧ gEmbed d.bytes = false ∧ gFrozen d.bytes = 0 ∧
    reach s (gStateBase d.bytes) (stateBytes d.bytes) = true) ∧
  (∀ i, i < m.tides.length → reach s (tideBase m + 64 * i) 26 = true) ∧ reach s (bodyAt e 0 8) (imageSize s e) = true

/-! ## Messages -/

/-- A delivered message of a kind that has not been acted on before. -/
def Fresh (s : State) (h : MsgHead) (kind : Nat) : Prop := delivered s h kind = true ∧ accepts s h = true

/-- The message is recorded as accepted: it is acted on once. -/
def TakenUp (t : State) (h : MsgHead) : Prop := t.fab.accepted.contains (acceptKey h) = true

/-- The message rows with the kind each acts on, where what it needs of the message's bytes is there. -/
def messageRows (s : State) (h : MsgHead) (p : Fin 8) (a b c : Nat) (q : Ask) (ans : Answer) (m : MsgHead) (ck : Chunk) (v : RoundValues)
    (pc : Piece) (im : RowImage) : List (Instr × Nat) :=
  [(.signalMessage h a b c, 3), (.refuseMessage h a, 5), (.e2eAck h m [(q, ans)], 0xA), (.expandReply h a q ans, 6),
   (.gatherReply h a [(q, ans)], 2), (.redirect h a q b c 0, 2), (.directoryMessage h a b c 0 0 0, 7), (.chunkReceive h p ck, 1),
   (.scaleMessage h p v, 8), (.collectivePieceReceive h p pc, if pc.opcode = 0x52 then 2 else 1)] ++
  (if solocReady s then [(.expandRequest h a q, 6), (.gatherRequest h a b [q], 2), (.contributionReceive h a b [q], 2),
   (.migrationCopyReceive h a b c false im, 1)] else [])

end Sys2Proof.Machine
end

