-- ==== Sys2Proof/Certificates/Slice0/Obligations.lean ====
section
/-! DEFINITION. The statements for the provers. -/

open Sys2Proof Sys2Proof.Machine

/-! ## The step and the whole machine -/

/-- A step with a command at the front of the queue is that command on the state with the queue's rest. -/
def Obligations.StepRunsFrontCommand : Prop :=
  ∀ (c : Instr) (rest : List Instr) (s : State), step { s with pending := c :: rest } = exec c { s with pending := rest }

/-- With nothing waiting, one 40 ns period of the timebase passes (the model's choice, log entry 41). -/
def Obligations.IdleStepPassesOnePeriod : Prop :=
  ∀ s : State, s.pending = [] → s.now % 40 = 0 →
    ∃ t, step s = .next t ∧ t.now = s.now + 40 ∧ t.pending = [] ∧ t.mem = s.mem ∧ t.undef = s.undef ∧ t.entries = s.entries ∧ t.pci = s.pci ∧
      ∀ off, off ≠ Reg.CMD_STALL_COUNT → off ≠ Reg.FLOOR_TIME → t.reg off = s.reg off

/-- No command stops the block: every step answers a next state (log entry 2). The queue is taken first in, first out: a step removes its
front and no command touches the rest. -/
def Obligations.EveryStepAnswersNextStateFirstInFirstOut : Prop :=
  (∀ s : State, ∃ t, step s = .next t) ∧ ∀ s t : State, step s = .next t → t.pending = s.pending.tail

/-- Every step keeps the timebase on its 40 ns grid (R420) and the BAR2 size within what Resizable BAR allows (R317). -/
def Obligations.EveryStepKeepsClockAndBarLegal : Prop :=
  ∀ s t : State, ClockAndBarLegal s → step s = .next t → ClockAndBarLegal t

/-- The state after reset meets the invariant. -/
def Obligations.ResetMeetsClockAndBarLegal : Prop := ClockAndBarLegal State.reset

/-- The timebase never runs backwards but at POWER_ON_RESET, which starts it anew; only resets, losses of power and the rows of the PCI
Express configuration change that configuration. -/
def Obligations.TimebaseAndPciStateChangeOnlyByTheirRows : Prop :=
  ∀ (c : Instr) (s t : State), exec c s = .next t →
    ((∀ b, c ≠ .powerOnReset b) → s.now ≤ t.now) ∧ (changesPci c = false → t.pci = s.pci)

/-- After reset, before boot, every ring is disabled, no command holds a tag, memory is in its canonical form and lists nothing, no bay is
enabled and Soloc is not ready. -/
def Obligations.ResetLeavesRingsDisabledAndMemoryEmpty : Prop :=
  (∀ n, n < 16 → ringActive State.reset n = false ∧ ringHead State.reset n = 0 ∧ ringTail State.reset n = 0) ∧
  State.reset.entries = [] ∧ State.reset.pending = [] ∧ Memory.wf State.reset.mem = true ∧ State.reset.mem = [] ∧
  (∀ b, b < 8 → bayEnabled State.reset b = false) ∧ solocReady State.reset = false

/-! ## Rings -/

/-- DOORBELL: a valid one moves the tail, at any number of tags held; any other is ignored and sets TAIL_ERR (R31). -/
def Obligations.DoorbellMovesTailOrSetsTailErr : Prop :=
  ∀ (s : State) (r : Fin 16) (v : Word), solocReady s = true →
    (doorbellValid s r.val v →
      ∃ t, exec (.doorbell r v) s = .next t ∧ RegsOnly [Reg.RING_TAIL r.val] s t ∧
        FieldTakes (Reg.RING_TAIL r.val) 11 0 (newTail s r.val v) s t) ∧
    (¬ doorbellValid s r.val v →
      ∃ t, exec (.doorbell r v) s = .next t ∧ RegsOnly [Reg.RING_STATUS r.val] s t ∧ BitTakes (Reg.RING_STATUS r.val) 4 true s t)

/-- CPL_HEAD_WRITE sets CPL_HEAD to the value modulo the ring's entries; a write of 1 to ADDR_ERR, FORMAT_ERR or SWITCH_REFUSED clears
that bit and nothing else (R36, R40, R63, R426). -/
def Obligations.CplHeadAndRingErrorBitsAreWritten : Prop :=
  ∀ (s : State) (r : Fin 16) (v : Word), solocReady s = true →
    (∃ t, exec (.cplHeadWrite r v) s = .next t ∧ RegsOnly [Reg.CPL_HEAD r.val] s t ∧
      FieldTakes (Reg.CPL_HEAD r.val) 11 0 (fld v 11 0 % cplSize s r.val) s t) ∧
    (∃ t, exec (.addrErrClear r) s = .next t ∧ RegsOnly [Reg.RING_STATUS r.val] s t ∧ BitTakes (Reg.RING_STATUS r.val) 7 false s t) ∧
    (∃ t, exec (.formatErrClear r) s = .next t ∧ RegsOnly [Reg.RING_STATUS r.val] s t ∧ BitTakes (Reg.RING_STATUS r.val) 5 false s t) ∧
    (∃ t, exec (.switchRefusedClear r) s = .next t ∧ RegsOnly [Reg.RING_STATUS r.val] s t ∧ BitTakes (Reg.RING_STATUS r.val) 10 false s t)

/-- The ring granted has a packet and a tag, and no ring with a packet and a tag has a lower PRIO (R34). -/
def Obligations.GrantGoesToLowestPriority : Prop :=
  ∀ (s : State) (n : Nat), grantedRing s = some n →
    n < 16 ∧ hasPacket s n = true ∧ tagFree s n = true ∧
    ∀ m, m < 16 → hasPacket s m = true → tagFree s m = true →
      s.fieldAt (Reg.RING_PRIO n) 2 0 ≤ s.fieldAt (Reg.RING_PRIO m) 2 0

/-- PACKET_FETCH, while no ring is being flushed: the packet at the head of the granted ring, whose memory reads without error, takes the
lowest free tag (the lowest: log entry 7) and RING_HEAD moves past its granules; where its first granule faults or cannot be delivered,
ADDR_ERR is set and RING_HEAD stays (R32, R33, R242, R426). -/
def Obligations.PacketFetchTakesTagOrSetsAddrErr : Prop :=
  ∀ (s : State) (n : Nat) (bytes : List Byte), grantedRing s = some n → (∀ m, m < 16 → flushing s m = false) →
    (badGranule s (granuleAddr s n 0) = none → granuleFault s (headAddrs s n) = none → headLen s n ≤ 60 →
      loadGranules (noteGrant s n) (headAddrs s n) = (bytes, noteGrant s n) →
      ∃ t, exec .packetFetch s = .next t ∧
        FieldTakes (Reg.RING_HEAD n) 11 0 ((ringHead s n + headGranules s n) % ringSize s n % 4096) s t ∧
        (pktTideValid bytes = false → t.mem = s.mem) ∧ t.readSeq = s.readSeq + 1 ∧ t.entries.length = s.entries.length + 1 ∧
        ∃ e ∈ t.entries, e.tag = freeTag s ∧ e.ring = n ∧ e.start = s.now ∧ e.seq = s.readSeq ∧
          e.pkt = bytes.take (64 + 16 * headLen s n)) ∧
    ((badGranule s (granuleAddr s n 0)).isSome = true →
      ∃ t, exec .packetFetch s = .next t ∧ t.bitAt (Reg.RING_STATUS n) 7 = true ∧ t.entries = s.entries ∧
        t.reg (Reg.RING_HEAD n) = s.reg (Reg.RING_HEAD n))

/-- COMMAND_COMPLETE of a command that has executed and has no remote signal to wait for: its tag is free, or only its reply still waits
for its completion ring (R50). REPLY_DEFERRED_POST: of the replies held for the ring, the one that has waited longest (log entry 130) is
written at CPL_TAIL with REPLY_DELAYED, its tag is free, and CPL_TAIL moves on (R36); with none held it does nothing. -/
def Obligations.CommandCompleteAndDeferredReplyEndTheTag : Prop :=
  (∀ (s : State) (tag : Fin 1024) (e : Entry) (o : Done), entryOf s tag.val = some e → e.phase = .finished o →
    (signals o = false ∨ remoteSignals s e.pkt = []) →
      ∃ t, exec (.commandComplete tag) s = .next t ∧ TagEnded t tag.val ∧
        (pktSilent e.pkt = true ∧ o.status ≤ 1 → entryOf t tag.val = none)) ∧
  ∀ (s : State) (r : Fin 16),
    (∀ (e : Entry) (o : Done) (time : Nat), e ∈ s.entries → e.ring = r.val → e.phase = .replyHeld o time → cplReady s r.val = true →
      (∀ c ∈ s.entries, c ≠ e → c.tag ≠ e.tag ∧ (∀ p u, c.ring = r.val → c.phase = .replyHeld p u → time < u)) →
      ∃ t, exec (.replyDeferredPost r) s = .next t ∧ t.entries = s.entries.filter (fun c => decide (c.tag ≠ e.tag)) ∧
        FieldTakes (Reg.CPL_TAIL r.val) 11 0 ((s.fieldAt (Reg.CPL_TAIL r.val) 11 0 + 1) % cplSize s r.val % 4096) s t ∧
        (∀ a, a = cplBase s r.val + 32 * s.fieldAt (Reg.CPL_TAIL r.val) 11 0 → 0x010000000000 ≤ a → a + 32 ≤ 0x410008000000 →
          faultIn s true a 32 = none → peekBytes t a 32 = replyBytes e o time (phaseOf s r.val) true)) ∧
    ((∀ c ∈ s.entries, c.ring = r.val → completed c = false) → exec (.replyDeferredPost r) s = .next s)

/-- COMMAND_TIMEOUT at a time when the command's clock has run out: it has completed; one that was never dispatched completes with TIMEOUT,
detail 0x01, and its reply is posted, or waits where its completion ring cannot take it (R36, R50, R56, R58). -/
def Obligations.ExpiredCommandCompletes : Prop :=
  ∀ (s : State) (tag : Fin 1024) (time : Nat) (e : Entry),
    (∀ o : Done, entryOf (passTime s time) tag.val = some e → expired (passTime s time) e = true →
      timeoutDone (passTime s time) e = some o →
        ∃ t, exec (.commandTimeout tag time) s = .next t ∧ t.now = timeAt s time ∧ TagEnded t tag.val) ∧
    (entryOf s tag.val = some e → undispatched e = true → pktTimeout e.pkt ≠ 0 → e.pauseFrom = none → e.ring < 16 →
      e.start + e.paused + timeoutNs s e ≤ timeAt s time →
        ∃ t, exec (.commandTimeout tag time) s = .next t ∧ t.now = timeAt s time ∧ TagEnded t tag.val ∧
          (cplReady s e.ring = false → ∃ x, entryOf t tag.val = some x ∧ x.pkt = e.pkt ∧
            x.phase = .replyHeld (namedUnit e ⟨0x15, 0x01, 0, 0, 0⟩) (timeAt s time)) ∧
          (cplReady s e.ring = true → entryOf t tag.val = none ∧
            FieldTakes (Reg.CPL_TAIL e.ring) 11 0 ((s.fieldAt (Reg.CPL_TAIL e.ring) 11 0 + 1) % cplSize s e.ring % 4096) s t))

/-- FLUSH and CANCEL_WAITING leave no command of the ring that is tagged and undispatched; a FLUSH whose bit reads 0 again has emptied
the ring (R59). -/
def Obligations.FlushAndCancelEmptyTheRing : Prop :=
  ∀ (s : State) (r : Fin 16), solocReady s = true →
    (∃ t, exec (.flush r) s = .next t ∧ (∀ e ∈ t.entries, e.ring = r.val → undispatched e = false) ∧
      (t.bitAt (Reg.RING_STATUS r.val) 9 = false → ringHead t r.val % ringSize t r.val = ringTail t r.val % ringSize t r.val) ∧
      (ringHead s r.val = ringTail s r.val → t.bitAt (Reg.RING_STATUS r.val) 9 = false)) ∧
    (∃ t, exec (.cancelWaiting r) s = .next t ∧ (∀ e ∈ t.entries, e.ring = r.val → undispatched e = false) ∧
      ringHead t r.val = ringHead s r.val ∧ ringTail t r.val = ringTail s r.val)

/-! ## Commits -/

/-- COMMIT_REQUEST: the pending shadows of the block become the set that is applied at its quiet point; RAS and Undertow apply it at
once; a request while the block is APPLYING has no effect (R65, R415). -/
def Obligations.CommitRequestTakesThePendingShadows : Prop :=
  ∀ (s : State) (block ring : Fin 16) (key : Nat) (set : List (Nat × Word)), solocReady s = true → key = rowKey block ring →
    set = s.shadow.filter (fun p => decide (commitKey p.1 = key)) →
    (isApplying s key = true → exec (.commitRequest block ring) s = .next s) ∧
    (isApplying s key = false → set ≠ [] → key ≠ 6 → key ≠ 10 → key ≠ 11 →
      ∃ t, exec (.commitRequest block ring) s = .next t ∧
        t = { s with shadow := t.shadow, applying := s.applying ++ [⟨key, set⟩] } ∧
        ∀ p, p ∈ t.shadow ↔ p ∈ s.shadow ∧ p ∉ set) ∧
    (isApplying s key = false → set ≠ [] → (set.map (fun p => p.1)).Nodup → key = 10 ∨ key = 11 →
      ∃ t, exec (.commitRequest block ring) s = .next t ∧ SetApplied set s t ∧ isPendingKey t key = false ∧ t.mem = s.mem ∧
        t.entries = s.entries)

/-- COMMIT_APPLY: before the quiet point it changes nothing; at it, a Timebase and telemetry or Power set is in the registers and no
other register has changed (R12, R65); a set that enables a ring leaves its RING_HEAD and RING_TAIL 0 (R35). -/
def Obligations.CommitApplyWaitsForTheQuietPoint : Prop :=
  ∀ (s : State) (block ring : Fin 16) (key : Nat) (c : Commit), key = rowKey block ring → applyingSet s key = some c →
    (quiet s key = false → exec (.commitApply block ring) s = .next s) ∧
    (quiet s key = true → key = 3 ∨ key = 4 → (c.set.map (fun p => p.1)).Nodup → NoConfigCommitWaits s →
      ∃ t, exec (.commitApply block ring) s = .next t ∧ SetApplied c.set s t ∧ isApplying t key = false ∧
        t = { s with regs := t.regs, applying := t.applying }) ∧
    (∀ n : Fin 16, key = 16 + n.val → ringHead s n.val = ringTail s n.val → s.fieldAt (Reg.RING_SIZE n.val) 3 0 = 0 →
      (applyWords s c.set).fieldAt (Reg.RING_SIZE n.val) 3 0 ≠ 0 →
      ∃ t, exec (.commitApply block ring) s = .next t ∧ ringHead t n.val = 0 ∧ ringTail t n.val = 0 ∧
        t.fieldAt (Reg.RING_SIZE n.val) 3 0 = (applyWords s c.set).fieldAt (Reg.RING_SIZE n.val) 3 0)

/-- FABRIC_COMMIT_PART_APPLY: before its moment a part changes nothing; FAB_MODULE_ID, the last word of a set, is written when every
port is DOWN or disabled, and ends the commit; nothing else changes where no flit waits for a route (R282, R291). -/
def Obligations.FabricPartAppliesAtItsMoment : Prop :=
  (∀ (s : State) (part : FabPart), partDue s part = false → exec (.fabricCommitPartApply part) s = .next s) ∧
  ∀ (s : State) (c : Commit) (w : Word), applyingSet s 6 = some c → c.set = [(Reg.FAB_MODULE_ID, w)] →
    partDue s .moduleId = true → NoConfigCommitWaits s →
      ∃ t, exec (.fabricCommitPartApply .moduleId) s = .next t ∧ isApplying t 6 = false ∧ t.mem = s.mem ∧ t.entries = s.entries ∧
        t.fieldAt Reg.FAB_MODULE_ID 11 0 = fld w 11 0 ∧
        (s.fab.noRoute = [] → t = { s with regs := t.regs, applying := t.applying } ∧ ∀ off, off ≠ Reg.FAB_MODULE_ID → t.reg off = s.reg off)

/-! ## Event counters and waits -/

/-- GE holds when the difference from the threshold, modulo 2^32, is below 2^31; EQ when the value is the threshold (R42). -/
def Obligations.WaitConditionsCompareModulo : Prop :=
  ∀ v th : Nat, v < 2 ^ 32 → th < 2 ^ 32 →
    (condHolds 1 v th = true ↔ ((v : Int) - (th : Int)) % (2 ^ 32 : Int) < 2 ^ 31) ∧ (condHolds 2 v th = true ↔ v = th)

/-- EVC_VALUE_WRITE and EVC_ADD_WRITE change their counter alone, at once; the commands whose conditions then all hold become ready,
and every watch whose condition became true is pending; EVC_WATCH_WRITE writes its register's RW fields at once, and the watch is pending
if its condition became true (R43, R45, R46). -/
def Obligations.CounterWritesWakeWaitingCommands : Prop :=
  ∀ (s : State) (c : Fin 4096) (v : Word), solocReady s = true →
    (∀ i ∈ [(Instr.evcValueWrite c v, v.toNat), (Instr.evcAddWrite c v, (counter s c.val + v.toNat) % 2 ^ 32)],
      ∃ t, exec i.1 s = .next t ∧ counter t c.val = i.2 ∧ (∀ d, d < 4096 → d ≠ c.val → counter t d = counter s d) ∧
        t = { s with regs := t.regs, irq := t.irq, entries := t.entries } ∧
        t.entries = s.entries.map (fun e => if e.phase = .waiting && waitsHold t e.pkt then { e with phase := .ready } else e) ∧
        (∀ w, w < 64 → watchTrue t w = true → watchTrue s w = false → isPending t (64 + w) = true) ∧
        ∀ off, off ≠ Reg.EVC_VALUE c.val → irqReg off = false → t.reg off = s.reg off) ∧
    ∀ (w : Fin 64) (threshold : Bool) (off : Nat), off = (if threshold then Reg.EVC_WATCH_THRESH w.val else Reg.EVC_WATCH_CFG w.val) →
      ∃ t, exec (.evcWatchWrite w threshold v) s = .next t ∧ IrqAndRegs [off] s t ∧
        t.reg off = writeFields .rw (fieldsOf off) (s.reg off) v ∧
        (watchTrue t w.val = true → watchTrue s w.val = false → isPending t (64 + w.val) = true)

/-! ## Control opcodes -/

/-- NOP, WAIT and SIGNAL, ready with their slot loaded, have done their work when dispatched: nothing but their own tracking entry and the
order of dispatch has changed; FENCE completes once every earlier packet of its ring has completed, and waits until then (R48). -/
def Obligations.ControlCommandsExecute : Prop :=
  (∀ (s : State) (tag : Fin 1024) (e : Entry), ∀ i ∈ [(Instr.nop tag, 0x00), (Instr.wait tag, 0x03), (Instr.signal tag, 0x02)],
    ControlReady s tag.val i.2 e → (i.2 = 0x02 → signalBodyOk e = true) →
      ∃ t, exec i.1 s = .next t ∧ FinishedWith t tag.val ⟨0, 0, 0, 0, 0⟩ ∧
        t = { s with entries := t.entries, readSeq := s.readSeq + 1 } ∧ ∀ c ∈ s.entries, c.tag ≠ tag.val → c ∈ t.entries) ∧
  ∀ (s : State) (tag : Fin 1024) (e : Entry),
    (ControlReady s tag.val 0x01 e → earlierDone s e = true →
      ∃ t, exec (.fence tag) s = .next t ∧ FinishedWith t tag.val ⟨0, 0, 0, 0, 0⟩ ∧ t.regs = s.regs ∧ t.mem = s.mem) ∧
    (entryOf s tag.val = some e → e.phase = .running .fence →
      (earlierDone s e = true → ∃ t, exec (.fence tag) s = .next t ∧ FinishedWith t tag.val ⟨0, 0, 0, 0, 0⟩ ∧
        t = { s with entries := t.entries }) ∧
      (earlierDone s e = false → exec (.fence tag) s = .next s))

/-- CONFIG_COMMIT requests a commit of every named block with pending shadows, and completes at once where none has any (R48, R414).
SLOT_SWITCH to a loaded slot, with no collective of the old one in the module, sets SLOT_ACTIVE and returns the old slot; to one that is not
loaded it is refused and sets SWITCH_REFUSED (R63). -/
def Obligations.ConfigCommitAndSlotSwitchTakeEffect : Prop :=
  (∀ (s : State) (tag : Fin 1024) (e : Entry) (keys : List Nat), ControlReady s tag.val 0x04 e → bodyZero e 2 16 = true →
    keys = ((seqFrom 0 16).filter (fun b => bit (bodyAt e 0 2) b)).flatMap keysOfBlock →
      ∃ t, exec (.configCommit tag) s = .next t ∧
        (∀ k ∈ keys, k ≠ 10 → k ≠ 11 → isPendingKey s k = true → isApplying t k = true) ∧
        ((∀ k ∈ keys, isPendingKey s k = false ∧ isApplying s k = false) → FinishedWith t tag.val ⟨0, 0, 0, 0, 0⟩ ∧ t.regs = s.regs)) ∧
  ∀ (s : State) (tag : Fin 1024) (e : Entry) (old new : Nat), ControlReady s tag.val 0x05 e → bodyZero e 1 16 = true →
    new = bodyAt e 0 1 → new < 64 → old = s.fieldAt (Reg.SLOT_ACTIVE e.ring) 5 0 → new ≠ old →
    (slotLoaded s new = true → (∀ c ∈ s.entries, c.slot = old → ¬ (0x50 ≤ pktOp c.pkt ∧ pktOp c.pkt ≤ 0x54)) →
      ∃ t, exec (.slotSwitch tag) s = .next t ∧ FieldTakes (Reg.SLOT_ACTIVE e.ring) 5 0 new s t ∧
        FinishedWith t tag.val ⟨0, 0, 0, old, 0⟩ ∧ t.mem = s.mem ∧ ∀ off, off ≠ Reg.SLOT_ACTIVE e.ring → t.reg off = s.reg off) ∧
    (slotLoaded s new = false →
      ∃ t, exec (.slotSwitch tag) s = .next t ∧ BitTakes (Reg.RING_STATUS e.ring) 10 true s t ∧
        FinishedWith t tag.val ⟨0x20, 0x02, 0, 0, 0⟩ ∧ t.mem = s.mem ∧ ∀ off, off ≠ Reg.RING_STATUS e.ring → t.reg off = s.reg off)

/-! ## The units' opcodes -/

/-- A ready command of any unit whose preparation and body run to their end, with nothing in their way, has executed: its tracking entry
holds its outcome, DONE_CORRECTED where it met a corrected error, and memory and registers are what its body left (R49, R50, R242). -/
def Obligations.UnitCommandsExecute : Prop :=
  ∀ (s : State) (tag : Fin 1024) (failing : List Nat) (e e3 : Entry) (env : Env) (o : Done), ∀ r ∈ unitRows tag failing,
    entryOf s tag.val = some e → e.phase = .ready → pktOp e.pkt = r.2.1 → gateOpen s e = true → NoMemoryCommit s e →
    dispatchFault s (dispatched s e) = none → RunsClean (dispatchedState s e) r.2.2 (dispatched s e) e3 env o →
      ∃ t, exec r.1 s = .next t ∧ FinishedWith t tag.val (settled e3 env o) ∧ t.mem = env.s.mem ∧ t.undef = env.s.undef ∧
        t.regs = env.s.regs

/-- A ready command that names a slot that is not loaded, and whose body has no fault of its own, completes with REFUSED, detail 0x02, and
no effect on memory or registers (R62). -/
def Obligations.UnloadedSlotIsRefused : Prop :=
  (∀ (s : State) (tag : Fin 1024) (e : Entry), ∀ i ∈ [(Instr.nop tag, 0x00), (Instr.wait tag, 0x03), (Instr.fence tag, 0x01)],
    entryOf s tag.val = some e → pktOp e.pkt = i.2 → e.phase = .ready → solocReady s = true → blockedByCommit s e = false →
    slotLoaded s e.slot = false →
      ∃ t, exec i.1 s = .next t ∧ FinishedWith t tag.val ⟨0x20, 0x02, 0, 0, 0⟩ ∧
        t = { s with entries := t.entries, readSeq := s.readSeq + 1 }) ∧
  (∀ (s : State) (tag : Fin 1024) (failing : List Nat) (e e3 : Entry) (env : Env) (o : Done), ∀ r ∈ unitRows tag failing,
    entryOf s tag.val = some e → e.phase = .ready → pktOp e.pkt = r.2.1 → gateOpen s e = true → NoMemoryCommit s e →
    slotLoaded s e.slot = false → RunsClean (dispatchedState s e) r.2.2 (dispatched s e) e3 env o →
      ∃ t, exec r.1 s = .next t ∧ FinishedWith t tag.val ⟨0x20, 0x02, 0, 0, 0⟩ ∧ t.mem = s.mem ∧ t.regs = s.regs)

/-- TIDE_WAIT_EXIT, UPDATE_SLOT_WAIT_EXIT, CHECKPOINT_WAIT_EXIT, OPERATION_ENQUEUE and SERIALISED_OPERATION_START: a command in the wait
of the row, whose job now runs to its end, has executed (R43, R53, R64, R153, R214, R220, R223, R266). TILE_WAKE: a gated tile that one
command waits for wakes, and that command, whose job now runs to its end, has executed (R355, R356). -/
def Obligations.WaitingCommandsGoOn : Prop :=
  (∀ (s : State) (tag : Fin 1024) (e e3 : Entry) (env : Env) (o : Done),
    ∀ r ∈ [(Instr.tideWaitExit tag, Wait.tide), (Instr.updateSlotWaitExit tag, Wait.turn), (Instr.updateSlotWaitExit tag, Wait.slot),
        (Instr.checkpointWaitExit tag, Wait.checkpoint), (Instr.operationEnqueue tag, Wait.queueRoom),
        (Instr.serialisedOperationStart tag, Wait.serialised)],
    entryOf s tag.val = some e → e.phase = .running r.2 → gateOpen s e = true → NoMemoryCommit s e →
    RunsClean (setEntry s tag.val (fun _ => resumed s e)) (jobOf (pktOp e.pkt)) (resumed s e) e3 env o →
      ∃ t, exec r.1 s = .next t ∧ FinishedWith t tag.val (settled e3 env o) ∧ t.mem = env.s.mem ∧ t.undef = env.s.undef ∧
        t.regs = env.s.regs) ∧
  ∀ (s : State) (tile : Fin 512) (e e3 : Entry) (env : Env) (o : Done), s.power.off = false → tileGated s tile.val = true →
    wakesNext s tile.val = true → s.entries.filter (waitsForTile tile.val) = [e] → entryOf s e.tag = some e →
    gateOpen (setGated s tile.val false) e = true →
    RunsClean (setEntry (setGated s tile.val false) e.tag (fun _ => e)) (jobOf (pktOp e.pkt)) e e3 env o →
      ∃ t, exec (.tileWake tile) s = .next t ∧ FinishedWith t e.tag (settled e3 env o) ∧ t.mem = env.s.mem ∧ t.regs = env.s.regs

/-- WEIGHT_REBUILD, TABLE_ROW_REBUILD and PRODUCER_RERUN: the uncorrectable data is restored, and the command reads again and executes
from what was restored. Where one word of skerry memory is uncorrectable, what restores it lies in reach and the command is a COPY whose other
data does, each of the three rows completes it with DONE_CORRECTED (R362, R366, R367, R369). -/
def Obligations.RecoveredCommandsReadAgain : Prop :=
  (∀ (s s1 : State) (tag : Fin 1024) (e e1 e3 : Entry) (a : Nat) (env : Env) (o : Done) (row : Instr) (notes : Nat),
    recovering s tag.val = some (e, a) →
    ((∃ slot entry v d envR, row = .weightRebuild tag ∧ notes = 8 ∧ versionAt s a = some (slot, entry, v) ∧
        denseGroup s slot entry = some d ∧ rebuildable s slot entry v = true ∧ rebuildTide s d v = (.ok (), envR) ∧
        s1 = noteRebuilt (deliver s tag.val (a / 256 * 256) (peekBytes envR.s (a / 256 * 256) 256)) e a) ∨
      (∃ d s0, row = .tableRowRebuild tag ∧ notes = 8 ∧ rowTableAt s a = some d ∧
        updateBegun s (fun g => gEmbed g && decide (gEntry g = d.index)) = false ∧
        rebuildRows s tag.val d.index d.bytes (rowsMeeting s d.bytes a) = .ok s0 ∧
        s1 = noteRebuilt (clearGranule s0 (a / 256 * 256)) e a) ∨
      (∃ r s0, row = .producerRerun tag ∧ notes = 12 ∧ versionAt s a = none ∧ rowTableAt s a = none ∧ producerOf s a = some r ∧
        rerun (s.count Reg.RAS_REPLAYS 1) r = some s0 ∧
        s1 = logMerged (logTimed s0 (ueClass s a) (commandLog e 3 (unitAt s a) a 0)) 0x0C (commandLog e 3 0 a 0))) →
    entryOf (againState s1 tag.val notes) tag.val = some e1 → NoMemoryCommit (againState s1 tag.val notes) e1 →
    e1.phase ≠ .ready → RunsClean (setEntry (againState s1 tag.val notes) tag.val (fun _ => e1)) (jobOf (pktOp e1.pkt)) e1 e3 env o →
      ∃ t, exec row s = .next t ∧ FinishedWith t tag.val (settled e3 env o) ∧ t.mem = env.s.mem ∧ t.regs = env.s.regs) ∧
  ∀ (s : State) (tag : Fin 1024) (e : Entry) (a m : Nat) (end_ : State → Done → Prop), recovering s tag.val = some (e, a) →
    skerryRange a 1 = true → s.errs = [(a / 64 * 64, m)] → wordState s ⟨a, .skerry⟩ = .uncorrectable → s.undertow = [] →
    pktOp e.pkt = 0x10 → copyRuns (noErrors s) e = true →
    end_ = (fun t o => o = ⟨1, 0, 0x7000 + bodyAt e 32 1, bodyAt e 16 4 * bodyAt e 20 4, 0⟩ ∧ t.errs = []) →
    (∀ slot entry v d te g off, versionAt s a = some (slot, entry, v) → denseGroup s slot entry = some d → g = d.bytes →
      tideEntry s slot entry = some te → off = v * te.vstride → rebuildable s slot entry v = true → gShadow g = 0 → s.pw.layers = [] →
      (∀ k, k < gCols g → reach s (gStateBase g + 4 * k * gRows g) (4 * gRows g) = true) →
      tensorReach (noErrors s) ((gFwdFmt g).shift off) (gFwd g + off) (leAt g 72 4)
        (max (leAt g 72 4) (rowBytes (gFwdFmt g).elem (gCols g))) (gRows g) (gCols g) = true →
      tensorReach (noErrors s) ((gBwdFmt g).shift off) (gBwd g + off) (leAt g 76 4)
        (max (leAt g 76 4) (rowBytes (gBwdFmt g).elem (gRows g))) (gCols g) (gRows g) = true →
      Executes s (.weightRebuild tag) tag.val end_) ∧
    (∀ d, rowTableAt s a = some d → updateBegun s (fun g => gEmbed g && decide (gEntry g = d.index)) = false →
      (∀ i ∈ rowsMeeting s d.bytes a, reach s (rowStateAddr s d.index d.bytes i) (4 * tElems d.bytes) = true) →
      Executes s (.tableRowRebuild tag) tag.val end_) ∧
    (∀ r, versionAt s a = none → rowTableAt s a = none → producerOf s a = some r → pktOp r.pkt = 0x10 →
      (∃ x ∈ r.outs, x.1 ≤ a / 64 * 64 ∧ a / 64 * 64 + 64 ≤ x.1 + x.2) → copyRuns (noErrors s) (rerunEntry s r) = true →
      (∀ k, k < bodyAt (rerunEntry s r) 20 4 → bit (bodyAt (rerunEntry s r) 33 1) 0 = false →
        reach s (bodyAt (rerunEntry s r) 0 8 + k * bodyAt (rerunEntry s r) 24 4) (bodyAt (rerunEntry s r) 16 4) = true) →
      Executes s (.producerRerun tag) tag.val end_)

/-! ## Messages of the fabric -/

/-- A message that is not there does nothing; one sent again that was already accepted is taken from those delivered, with its receive
buffer, and has no other effect (R273, R278). -/
def Obligations.MessagesActOnce : Prop :=
  ∀ (s : State) (h : MsgHead) (p : Fin 8) (a b c : Nat) (q : Ask) (ans : Answer) (m : MsgHead) (ck : Chunk) (v : RoundValues) (pc : Piece)
    (im : RowImage), ∀ r ∈ messageRows s h p a b c q ans m ck v pc im,
    (delivered s h r.2 = false → exec r.1 s = .next s) ∧
    (delivered s h r.2 = true → accepts s h = false →
      ∃ t, exec r.1 s = .next t ∧ t = takeMessage s h ∧ t = { s with fab := t.fab } ∧ t.fab.sent = s.fab.sent ∧
        t.fab.accepted = s.fab.accepted ∧ ∀ i ∈ t.fab.inbox, acceptKey i.head ≠ acceptKey h)

/-- SIGNAL_MESSAGE: the increment is added to the counter, waits and watches follow, and the message is acknowledged (R43, R45, R273,
R274). -/
def Obligations.SignalMessageAddsToItsCounter : Prop :=
  ∀ (s : State) (h : MsgHead) (c k sender : Nat), Fresh s h 3 →
    ∃ t, exec (.signalMessage h c k sender) s = .next t ∧ TakenUp t h ∧
      counter t (c % 4096) = (counter s (c % 4096) + k) % 2 ^ 32 ∧
      (∀ d, d < 4096 → d ≠ c % 4096 → counter t d = counter s d) ∧
      t = { s with regs := t.regs, irq := t.irq, entries := t.entries, fab := t.fab } ∧
      t.entries = s.entries.map (fun e => if e.phase = .waiting && waitsHold t e.pkt then { e with phase := .ready } else e) ∧
      ∀ off, off ≠ Reg.EVC_VALUE (c % 4096) → off ≠ Reg.FAB_NOROUTE → irqReg off = false → t.reg off = s.reg off

/-- The relay: GO sends the packet and RELAY_STATUS is BUSY, or NO_ROUTE; the acknowledgement makes it ACCEPTED, a REFUSE message REFUSED
with its reason, and CMD_TIMEOUT_MIN without a reply TIMEOUT; a GO while it is BUSY does nothing (R38, R280, R289). -/
def Obligations.RelayEndsWithItsAnswer : Prop :=
  ∀ (s : State),
    (∀ v, solocReady s = true → relayBusy s = true → exec (.relayGo v) s = .next s) ∧
    (∀ v dest, solocReady s = true → relayBusy s = false → flag v 31 = true → dest = fld v 27 16 →
      (dest = ownId s ∨ (routePort s dest).isSome = true →
        ∃ t n, exec (.relayGo v) s = .next t ∧ t.fieldAt Reg.RELAY_STATUS 2 0 = 1 ∧ t.fab.relayMsg = some (dest, n) ∧
          t.fab.relayStart = s.now ∧ t = { s with regs := t.regs, fab := t.fab } ∧
          ∀ off, off ∉ [Reg.RELAY_CTRL, Reg.RELAY_STATUS, Reg.FAB_NOROUTE] → t.reg off = s.reg off) ∧
      (dest ≠ ownId s → routePort s dest = none →
        ∃ t, exec (.relayGo v) s = .next t ∧ t.fieldAt Reg.RELAY_STATUS 2 0 = 4 ∧ t.fab.sent = s.fab.sent ∧
          t = { s with regs := t.regs, fab := t.fab })) ∧
    (∀ time, relayBusy s = true → s.fab.relayStart + 1000 * s.fieldAt Reg.CMD_TIMEOUT_MIN 19 0 ≤ timeAt s time →
      ∃ t, exec (.relayTimeout time) s = .next t ∧ t.now = timeAt s time ∧ t.fieldAt Reg.RELAY_STATUS 2 0 = 5 ∧ t.fab.relayMsg = none ∧
        t.entries = s.entries ∧ t.mem = s.mem) ∧
    (∀ h reason n, Fresh s h 5 → relayBusy s = true → s.fab.relayMsg = some (h.peer, n) →
      ∃ t, exec (.refuseMessage h reason) s = .next t ∧ TakenUp t h ∧ t.fieldAt Reg.RELAY_STATUS 2 0 = 3 ∧
        t.fieldAt Reg.RELAY_STATUS 15 8 = reason % 256 ∧ t.fab.relayMsg = none ∧ t = { s with regs := t.regs, fab := t.fab }) ∧
    (∀ h acked answers m c, Fresh s h 0xA → s.fab.sent.find? (fun x => decide (acceptKey x.1 = acceptKey acked)) = some (m, c) →
      c.what = .soloc → relayBusy s = true → s.fab.relayMsg = some (acked.peer, acked.msg) →
      ∃ t, exec (.e2eAck h acked answers) s = .next t ∧ TakenUp t h ∧ t.fieldAt Reg.RELAY_STATUS 2 0 = 2 ∧ t.fab.relayMsg = none ∧
        (∀ x ∈ t.fab.sent, acceptKey x.1 ≠ acceptKey acked) ∧ t = { s with regs := t.regs, fab := t.fab })

/-- SOLOC_MESSAGE, the packets in their order of arrival: a packet that passes the checks is written at the ring's tail, which moves past it; one that fails sets
REMOTE_REFUSED, and ADDR_ERR where the ring's memory faults, and is answered (R37, R38, R274, R289, R426). -/
def Obligations.RemotePacketIsWrittenOrRefused : Prop :=
  ∀ (s : State) (h : MsgHead) (p : List Byte) (n size : Nat), Fresh s h 4 → n = leAt p 4 2 % 16 → size = pktGranules (leAt p 2 2) →
    firstPacket s h p = true →
    (refuseReason s p = none → (∀ i < size, mayAccess s (ringBase s n + 64 * ((ringTail s n + i) % ringSize s n)) = true) →
      ∃ t, exec (.solocMessage h p) s = .next t ∧ TakenUp t h ∧
        FieldTakes (Reg.RING_TAIL n) 11 0 ((ringTail s n + size) % ringSize s n % 4096) s t ∧ t.entries = s.entries ∧
        ∀ a, a = ringBase s n + 64 * (ringTail s n % ringSize s n) → 0x010000000000 ≤ a → a + 64 ≤ 0x020000000000 → p.length = 64 →
          peekBytes t a 64 = p) ∧
    (∀ r, refuseReason s p = some r →
      ∃ t, exec (.solocMessage h p) s = .next t ∧ TakenUp t h ∧ t.bitAt (Reg.RING_STATUS n) 6 = true ∧
        t.reg (Reg.RING_TAIL n) = s.reg (Reg.RING_TAIL n) ∧ t.entries = s.entries ∧
        nextMsgOf t h.peer 0 = (nextMsgOf s h.peer 0 + 1) % 2 ^ 14 ∧ (r = 5 → t.bitAt (Reg.RING_STATUS n) 7 = true) ∧
        (r ≠ 5 → BitTakes (Reg.RING_STATUS n) 6 true s t ∧ t.mem = s.mem))

/-- EXPAND_REPLY and GATHER_REPLY are recorded for the command that asked; REDIRECT makes it ask again at the new owner and sets
NOTES[23] (R82, R95, R113). -/
def Obligations.AnswersReachTheirCommand : Prop :=
  ∀ (s : State) (h : MsgHead) (tag : Nat) (q : Ask) (e : Entry), entryOf s tag = some e → inFlight e = true →
    e.asked.any (fun x => decide (x.1 = q)) = true →
    (∀ a : Answer, (∀ p ∈ e.answers, p.1 = q → p.2.last = false) →
      (Fresh s h 6 → (∀ x ∈ s.steps, stepSender x.number ≠ tag) → ∃ t, exec (.expandReply h tag q a) s = .next t ∧ TakenUp t h ∧
        entryOf t tag = some { e with answers := e.answers ++ [(q, a)] } ∧ t = { s with entries := t.entries, fab := t.fab }) ∧
      (Fresh s h 2 → ∃ t, exec (.gatherReply h tag [(q, a)]) s = .next t ∧ TakenUp t h ∧
        entryOf t tag = some { e with answers := e.answers ++ [(q, a)] } ∧ t = { s with entries := t.entries, fab := t.fab })) ∧
    (∀ table row owner index tide, askRow q = some (table, row) → Fresh s h 2 →
      ∃ t, exec (.redirect h tag q owner index tide) s = .next t ∧ TakenUp t h ∧
        entryOf t tag = some { e with
          asked := e.asked.filter (fun x => decide (x.1 ≠ q)), notes := e.notes ||| 2 ^ 23,
          answers := (.takeRow table row, { plainAnswer with nums := [owner, index] }) :: e.answers } ∧ (s.errs = [] → t.regs = s.regs))

/-- EXPAND_REQUEST, GATHER_REQUEST and CONTRIBUTION_RECEIVE: what is asked is served on this module's state and the answer sent to the
module that asked; a batch that cannot be served yet waits whole. Of a graph or table that is not loaded, of a node's row and a table's VALID
row in reach, and for a contribution to a touched row, each row completes: the message is taken up and one answer sent, the contribution
counted (R82, R95, R101, R103, R274; log entry 42). -/
def Obligations.RequestsOfOtherModulesAreServed : Prop :=
  ∀ (s : State) (h : MsgHead) (sender : Nat), solocReady s = true →
    (∀ q c a s1, Fresh s h 6 → answerExpand (takeMessage s h) q = some c → serveAnswer c (takeMessage s h) = some (a, s1) →
      exec (.expandRequest h sender q) s = .next { sendReply s1 h.peer sender a with
        pending := s.pending, now := s.now, pci := s.pci }) ∧
    (∀ requester asks b, Fresh s h 2 → serveBatch (takeMessage s h) asks = some b →
      b.onward = [] → b.redirects = [] →
      (b.answers ≠ [] → exec (.gatherRequest h requester sender asks) s = .next
        { (sendMessage b.s requester ⟨.gatherReply, sender :: b.answers.flatMap (fun a => answerArgs a.2), []⟩).2 with
          pending := s.pending, now := s.now, pci := s.pci }) ∧
      (requester = h.peer → exec (.contributionReceive h requester sender asks) s = .next
        { (sendMessage b.s h.peer ⟨.ack, [h.tc, h.msg, sender] ++ b.answers.flatMap (fun a => answerArgs a.2), []⟩).2 with
          pending := s.pending, now := s.now, pci := s.pci }) ∧
      (requester ≠ h.peer → exec (.contributionReceive h requester sender asks) s = .next
        { (sendMessage (sendAck b.s h) requester ⟨.gatherReply, sender :: b.answers.flatMap (fun a => answerArgs a.2), []⟩).2 with
          pending := s.pending, now := s.now, pci := s.pci })) ∧
    (∀ requester asks, Fresh s h 2 → serveBatch (takeMessage s h) asks = none →
      exec (.gatherRequest h requester sender asks) s = .next s ∧ exec (.contributionReceive h requester sender asks) s = .next s) ∧
    (∀ graph k0 k1 hop mode f cap node, Fresh s h 6 → s.errs = [] →
      (graphDesc s graph = none ∨ ∃ g, graphDesc s graph = some g ∧ nodeReady s g node = true ∧ mode ∈ [0, 1, 4] ∧ f ≤ 40) →
      ∃ t, exec (.expandRequest h sender (.row graph k0 k1 hop mode f cap false node)) s = .next t ∧ TakenUp t h ∧ t.mem = s.mem ∧
        t.entries = s.entries ∧ nextMsgOf t h.peer 0 = (nextMsgOf s h.peer 0 + 1) % 2 ^ 14) ∧
    (∀ requester table row tide, Fresh s h 2 → s.errs = [] →
      (tableDesc s table = none ∨ ∃ d, tableDesc s table = some d ∧ rowReady s d row = true ∧ NoMigration s) →
      ∃ t, exec (.gatherRequest h requester sender [.tableRow table row tide]) s = .next t ∧ TakenUp t h ∧ t.mem = s.mem ∧
        t.entries = s.entries ∧ nextMsgOf t requester 2 = (nextMsgOf s requester 2 + 1) % 2 ^ 14) ∧
    ∀ table row tide k codes d x, Fresh s h 2 → s.errs = [] → s.undertow = [] → tableDesc s table = some d → rowReady s d row = true →
      NoMigration s → eTouched (mapEntry s d (localOf row)) = true → x = tGrad d + localOf row * (8 + 8 * tElems d) →
      skerryRange x (8 + 8 * tElems d) = true → skerryRange (tRowmap d + 8 * localOf row) 8 = true →
      (x + 8 + 8 * tElems d ≤ tRowmap d + 8 * localOf row ∨ tRowmap d + 8 * localOf row + 8 ≤ x) →
      ∃ t, exec (.contributionReceive h h.peer sender [.contribute table row tide k codes]) s = .next t ∧ TakenUp t h ∧
        leNat (peekBytes t x 4) = satAdd32 (leNat (peekBytes s x 4)) 1 ∧
        nextMsgOf t h.peer 0 = (nextMsgOf s h.peer 0 + 1) % 2 ^ 14

/-- Migration at the destination: a copy that finds a guest entry and a slot of its tier makes its row a guest, one that finds no table is
answered with no room, and both are acknowledged; a row's switch is kept until DESTINATION_SWITCH makes it, after which the guest knows its
SWITCH_TIDE; DIRECTORY_MESSAGE updates the owner directory (R110, R111, R113, R114, R274). -/
def Obligations.MigrationMovesARow : Prop :=
  ∀ (s : State) (h : MsgHead) (table row tide : Nat) (im : RowImage),
    (∀ k s1, solocReady s = true → Fresh s h 1 → receiveCopy (takeMessage s h) table row h.peer im = (some k, s1) →
      ∃ t, exec (.migrationCopyReceive h table row tide false im) s = .next t ∧
        (⟨table, row, k, h.peer, none, none⟩ : Guest) ∈ t.gath.guests ∧ t.mem = s1.mem ∧ TakenUp t h) ∧
    (∀ d k head tail, solocReady s = true → Fresh s h 1 → s.errs = [] → s.undertow = [] → tableDesc s table = some d →
      guestPlace s d = some k → skerryRange (tRing d) (64 + 8 * tRingSize d) = true → head = leNat (peekBytes s (tRing d) 4) →
      tail = leNat (peekBytes s (tRing d + 4) 4) → head < tRingSize d → tail < tRingSize d → head ≠ tail →
      bits (leNat (peekBytes s (tRing d + 64 + 8 * head) 8)) 63 63 = eTier im.entry →
      ∃ t, exec (.migrationCopyReceive h table row tide false im) s = .next t ∧ TakenUp t h ∧
        (⟨table, row, k, h.peer, none, none⟩ : Guest) ∈ t.gath.guests ∧ nextMsgOf t h.peer 0 = (nextMsgOf s h.peer 0 + 1) % 2 ^ 14) ∧
    (solocReady s = true → Fresh s h 1 → tableDesc s table = none →
      ∃ t, exec (.migrationCopyReceive h table row tide false im) s = .next t ∧ TakenUp t h ∧ t = { s with fab := t.fab } ∧
        nextMsgOf t h.peer 0 = (nextMsgOf s h.peer 0 + 1) % 2 ^ 14) ∧
    (∀ g ∈ s.gath.guests, solocReady s = true → Fresh s h 1 → g.table = table → g.row = row →
      ∃ t, exec (.migrationCopyReceive h table row tide true im) s = .next t ∧ { g with switch := some (h, tide, im) } ∈ t.gath.guests ∧
        t = { s with gath := t.gath, fab := t.fab } ∧ TakenUp t h) ∧
    (∀ g, s.gath.guests.find? (fun g => g.table = table && g.row = row) = some g → g.switch = some (h, tide, im) →
      ∃ t, exec (.destinationSwitch table row) s = .next t ∧ t.mem = (switchGuest s g im).mem ∧ t.entries = s.entries ∧
        t.gath.guests = s.gath.guests.map (fun x => if x = g then { x with switch := none, since := some tide } else x) ∧
        nextMsgOf t h.peer 0 = (nextMsgOf s h.peer 0 + 1) % 2 ^ 14) ∧
    (∀ owner previous index, Fresh s h 7 →
      ∃ t, exec (.directoryMessage h table row tide owner previous index) s = .next t ∧ TakenUp t h ∧
        t.mem = (updateDirectory (takeMessage s h) table ⟨row, tide, owner, previous, index⟩).mem ∧
        (tableDesc s table = none → t.mem = s.mem) ∧ t.entries = s.entries ∧
        (s.errs = [] → ∀ off, off ≠ Reg.FAB_NOROUTE → t.reg off = s.reg off))

/-- SLOT_RELEASE returns an old slot to its free ring once its readers have completed and no drain still needs it, and not before;
MIGRATE_GRACE_EXPIRY ends the migration of a row whose drain and grace are over; HOTROW_SNAPSHOT, when due, marks the areas it has written
and halves every estimate (R105, R109, R111). -/
def Obligations.GatherHousekeeping : Prop :=
  ∀ (s : State),
    (∀ table slot r d, s.gath.releases.find? (fun r => decide (r.table = table) && decide (r.slot = slot)) = some r →
      tableDesc s table = some d →
      (releaseReady s r = false ∨ drainsSlot s table slot = true → exec (.slotRelease table slot) s = .next s) ∧
      (releaseReady s r = true → drainsSlot s table slot = false →
        ∃ t, exec (.slotRelease table slot) s = .next t ∧ t.gath = { s.gath with releases := s.gath.releases.erase r } ∧
          t.entries = s.entries ∧ (s.errs = [] → t = { s with gath := t.gath, mem := t.mem, undef := t.undef } ∧
          ∀ tail, tail = leNat (peekBytes s (tRing d + 4) 4) → 0x010000000000 ≤ tRing d → 0 < tRingSize d →
            tRing d + 64 + 8 * tRingSize d ≤ 0x020000000000 →
            leNat (peekBytes t (tRing d + 4) 4) = (tail + 1) % tRingSize d % 2 ^ 32 ∧
            leNat (peekBytes t (tRing d + 64 + 8 * (tail % tRingSize d)) 8) =
              (slot % 2 ^ 63 % 2 ^ 40 + 2 ^ 63 * (slot / 2 ^ 63)) % 2 ^ 64))) ∧
    (∀ table row time m d r, s.gath.migrations.find? (fun m => m.table = table && m.row = row && m.phase = 3) = some m →
      tableDesc s table = some d →
      s.gath.releases.find? (fun r => r.table = table &&
        r.slot = eSlot (storedEntry s d m.index) + 2 ^ 63 * eTier (storedEntry s d m.index)) = some r →
      releaseReady s r = true → m.time + 1000 * s.fieldAt Reg.MIGRATE_GRACE 15 0 ≤ timeAt s time →
      ∃ t, exec (.migrateGraceExpiry table row time) s = .next t ∧ t.now = timeAt s time ∧
        t.gath.migrations = s.gath.migrations.filter (fun m => !(m.table = table && m.row = row)) ∧
        t.gath.releases = s.gath.releases.erase r ∧ ∀ g ∈ t.gath.guests, ¬ (g.table = table ∧ g.row = row)) ∧
    (∀ time, solocReady s = true → mgmtRunning s = false ∨ s.bitAt Reg.MGMT_POLICY 31 = false →
      (snapshotDue s (timeAt s time) = true → ∃ t, exec (.hotrowSnapshot time) s = .next t ∧ t.gath.hotTime = timeAt s time ∧
        t.now = timeAt s time ∧ ∀ b x, b < 8 → bayEnabled s b = true → s.gath.hot[b]? = some x →
          bit t.gath.snaps b = true ∧ t.gath.hot[b]? =
            some ⟨(x.sketch.map (fun p => (p.1, p.2 / 2))).filter (fun p => p.2 ≠ 0), x.rows.map (fun p => (p.1, p.2 / 2))⟩) ∧
      (snapshotDue s (timeAt s time) = false → exec (.hotrowSnapshot time) s = .next { passTime s time with
        pending := s.pending, pci := s.pci }))

/-! ## Registers of the units -/

/-- KAT_GO evaluates the tide generator on the KAT registers; HBM_HOLD_WRITE and HBM_PHY_TUNE_WRITE write their register's RW fields at
once, and what waited for a stack that is held no more starts; PW_DEMOTE_WRITE clears PROMOTED of a promoted layer; PW_EVENT_SERVICE counts the promotion and clears PENDING (R141, R166, R169,
R341, R421, R422). -/
def Obligations.UnitRegisterRowsTakeEffect : Prop :=
  ∀ (s : State),
    (∀ g, solocReady s = true →
      g = tideGen (s.reg (Reg.KAT_KEY 0)).toNat (s.reg (Reg.KAT_KEY 1)).toNat (s.reg (Reg.KAT_CTR 0)).toNat (s.reg (Reg.KAT_CTR 1)).toNat
        (s.reg (Reg.KAT_CTR 2)).toNat (s.reg (Reg.KAT_CTR 3)).toNat →
      ∃ t, exec .katGo s = .next t ∧ RegsOnly [Reg.KAT_OUT 0, Reg.KAT_OUT 1, Reg.KAT_OUT 2, Reg.KAT_OUT 3] s t ∧
        t.reg (Reg.KAT_OUT 0) = BitVec.ofNat 32 g.c0 ∧ t.reg (Reg.KAT_OUT 1) = BitVec.ofNat 32 g.c1 ∧
        t.reg (Reg.KAT_OUT 2) = BitVec.ofNat 32 g.c2 ∧ t.reg (Reg.KAT_OUT 3) = BitVec.ofNat 32 g.c3) ∧
    (∀ v, solocReady s = true →
      exec (.hbmHoldWrite v) s = .next { resumeColl (drainPosted (writeRw Reg.HBM_HOLD v s)) with
        pending := s.pending, now := s.now, pci := s.pci } ∧
      (s.coll.runs = [] → s.coll.reductions = [] → s.errs = [] → s.undertow = [] →
        ∃ t, exec (.hbmHoldWrite v) s = .next t ∧
          t.reg Reg.HBM_HOLD = writeFields .rw (fieldsOf Reg.HBM_HOLD) (s.reg Reg.HBM_HOLD) v ∧
          (∀ off, off ≠ Reg.HBM_HOLD → t.reg off = s.reg off) ∧
          t = { s with regs := t.regs, mem := t.mem, undef := t.undef, posted := t.posted, replay := t.replay } ∧
          (∀ w ∈ t.posted, w ∈ s.posted ∧ bar2Held t w.1 = true) ∧ (s.posted = [] → RegsOnly [Reg.HBM_HOLD] s t))) ∧
    (∀ (st : Fin 8) v, solocReady s = true →
      ∃ t, exec (.hbmPhyTuneWrite st v) s = .next t ∧ RegsOnly [Reg.HBM_PHY_TUNE st.val] s t ∧
        t.reg (Reg.HBM_PHY_TUNE st.val) = writeFields .rw (fieldsOf (Reg.HBM_PHY_TUNE st.val)) (s.reg (Reg.HBM_PHY_TUNE st.val)) v) ∧
    (∀ v layer, solocReady s = true → layer = fld v 9 0 →
      (pwLoaded s layer = true → bit (pwField s layer 68 1) 0 = true →
        ∃ t, exec (.pwDemoteWrite v) s = .next t ∧ t.entries = s.entries ∧
          (s.errs = [] → t = { s with mem := t.mem, undef := t.undef, pw := t.pw } ∧
            (0x010000000000 ≤ pwAddr s layer → pwAddr s layer + 128 ≤ 0x020000000000 → pwField t layer 68 1 = 0))) ∧
      ((pwLoaded s layer && bit (pwField s layer 68 1) 0) = false → exec (.pwDemoteWrite v) s = .next s)) ∧
    (mgmtRunning s = true → s.bitAt Reg.PW_EVENT 31 = true →
      ∃ t, exec .pwEventService s = .next t ∧ t.bitAt Reg.PW_EVENT 31 = false ∧ t.mgmt.promotions = (s.mgmt.promotions + 1) % 2 ^ 16 ∧
        t.mgmt.layer = s.fieldAt Reg.PW_EVENT 9 0 ∧ t.mgmt.promoted = true ∧ t.entries = s.entries)

/-! ## Memory, stacks and faults below the commands -/

/-- PATROL_SCRUB passes a good codeword, corrects a correctable one and counts it, and counts an uncorrectable one and leaves it;
CHANNEL_FENCE fences a channel of an ACTIVE stack; STACK_THERMAL_CHECK sets every stack's temperature and action, and at action 4 shuts
the stack down (R245 to R248, R362). -/
def Obligations.StacksAreScrubbedFencedAndChecked : Prop :=
  ∀ (s : State) (st : Fin 8),
    (∀ l p, p = (⟨st.val * 2 ^ 37 + l, .hbm st.val⟩ : Located) → s.fieldAt (Reg.STACK_STATE st.val) 2 0 = 2 →
      s.fieldAt Reg.SCRUB_RATE 12 0 ≠ 0 → s.bitAt Reg.HBM_HOLD st.val = false →
      scrubPlace s st.val ((s.scrub[st.val]?).getD 0) = some l → l + 64 < stackCapacity s st.val →
      (wordState s p = .good → exec (.patrolScrub st) s = .next { s with scrub := s.scrub.set st.val (l + 64) }) ∧
      (wordState s p = .corrected → ∃ t, exec (.patrolScrub st) s = .next t ∧
        Sparse.get errDefault t.errs (p.key / 64 * 64) = 0 ∧ t.scrub = s.scrub.set st.val (l + 64) ∧
        t = { s with scrub := t.scrub, errs := t.errs, regs := t.regs, merged := t.merged } ∧
        (t.reg (Reg.STACK_CE st.val)).toNat = satAdd32 (s.reg (Reg.STACK_CE st.val)).toNat 1 ∧
        ∀ off, off ≠ Reg.STACK_CE st.val → t.reg off = s.reg off) ∧
      (wordState s p = .uncorrectable → ∃ t, exec (.patrolScrub st) s = .next t ∧ t.scrub = s.scrub.set st.val (l + 64) ∧
        (errlogSize s = 0 → t.errs = s.errs) ∧ (t.reg (Reg.STACK_UE st.val)).toNat = satAdd32 (s.reg (Reg.STACK_UE st.val)).toNat 1)) ∧
    (∀ ch : Fin 16, s.fieldAt (Reg.STACK_STATE st.val) 2 0 = 2 → s.bitAt (Reg.STACK_CHANNELS st.val) ch.val = false →
      s.bitAt (Reg.STACK_CHANNELS st.val) (16 + ch.val) = false →
      ∃ t, exec (.channelFence st ch) s = .next t ∧ BitTakes (Reg.STACK_CHANNELS st.val) (16 + ch.val) true s t ∧
        t.bitAt Reg.RAS_EVENT 3 = true ∧ (errlogSize s = 0 → t.mem = s.mem)) ∧
    (∀ temps time old new, timeAt s time % 1000000 = 0 → s.power.off = false → old = s.fieldAt (Reg.STACK_STATE st.val) 10 8 →
      new = stackAction old ((temps[st.val]?).getD 0) →
      ∃ t, exec (.stackThermalCheck temps time) s = .next t ∧ t.fieldAt (Reg.STACK_STATE st.val) 10 8 = new ∧
        t.fieldAt (Reg.STACK_STATE st.val) 23 16 = (temps[st.val]?).getD 0 % 256 ∧
        (new = 4 → old ≠ 4 → t.fieldAt (Reg.STACK_STATE st.val) 2 0 = 4 ∧ bit t.power.bayOff st.val = true) ∧
        (new ≠ 4 → t.fieldAt (Reg.STACK_STATE st.val) 2 0 = s.fieldAt (Reg.STACK_STATE st.val) 2 0) ∧
        ∀ k, k < 4 → old ≤ k → k < new → t.bitAt (Reg.STACK_THERMAL_EVENTS st.val) k = true)

/-- MESH_FLIT_RESEND shows in the merged error records only; ERRLOG_MERGE_INTERVAL leaves no merged record of an interval that has ended;
TILE_FAULT remaps the tile to the lowest-numbered good spare of its bay, or stops it where replay is off or no spare is left (R18, R243,
R362, R373, R376). -/
def Obligations.FaultsBelowTheCommandsAreHandled : Prop :=
  ∀ (s : State),
    (∀ (bay : Fin 8) n, 1 ≤ n → n ≤ 4 →
      ∃ t, exec (.meshFlitResend bay n) s = .next t ∧ t = { s with merged := t.merged } ∧
        ∃ m ∈ t.merged, m.cls = 4 ∧ m.unit = 0x7000 + bay.val ∧ m.interval = s.now / 1000000) ∧
    (∀ time, ∃ t, exec (.errlogMergeInterval time) s = .next t ∧ t.now = timeAt s time ∧
      (∀ m ∈ t.merged, timeAt s time / 1000000 ≤ m.interval) ∧
      (s.errs = [] → t.merged = s.merged.filter (fun m => decide (timeAt s time / 1000000 ≤ m.interval))) ∧
      (errlogSize s = 0 → t.mem = s.mem)) ∧
    (∀ (tile : Fin 512), bayEnabled s (tile.val / 64) = true → s.power.deadTiles.contains tile.val = false →
      (∀ k rest, s.bitAt Reg.RAS_POLICY 1 = true → goodSpares s (tile.val / 64) = k :: rest →
        ∃ t, exec (.tileFault tile) s = .next t ∧ physOf t tile.val = tile.val / 64 * 68 + 64 + k ∧
          t.bitAt (Reg.SPARE_STATE (tile.val / 64)) k = false ∧ t.bitAt (Reg.SPARE_STATE (tile.val / 64)) (4 + k) = true ∧
          t.bitAt Reg.RAS_EVENT 4 = true ∧
          (t.reg Reg.RAS_TILE_REMAPS).toNat = satAdd32 (s.reg Reg.RAS_TILE_REMAPS).toNat 1 ∧
          ∀ u, u < 512 → u ≠ tile.val → physOf t u = physOf s u) ∧
      (s.bitAt Reg.RAS_POLICY 1 = false ∨ goodSpares s (tile.val / 64) = [] →
        ∃ t, exec (.tileFault tile) s = .next t ∧ tile.val ∈ t.power.deadTiles ∧ t.bitAt Reg.RAS_EVENT 5 = true ∧
          (∀ u, u < 512 → physOf t u = physOf s u) ∧
          ∀ e ∈ t.entries, queuedOn tile.val e = false))

/-! ## Links -/

/-- FLIT_RECEIVE at an UP port: a good flit with the next sequence number is accepted, and one that is a whole message for this module
delivers it, the message holding the flit's receive buffer; a flit with a wrong CRC or an uncorrectable codeword is discarded with a NAK
due. FLIT_TRANSMIT at an UP port with room in its replay buffer: one flit of 256 bytes with a right CRC goes out with the next sequence
number and is kept for replay (R272, R273, R275, R276, R278). -/
def Obligations.FlitsAreSentKeptAndChecked : Prop :=
  ∀ (s : State) (p : Fin 8) (f : List Byte) (n time : Nat) (q : QFlit), portUp s p.val = true → p.val < s.fab.ports.length →
    s.undertow = [] → q = parseFlit f →
    (f.length = 256 → flitCrc f = leAt f 12 4 → (parseLink f).seq = (s.port p.val).rxSeq →
      ∃ t, exec (.flitReceive p (.decoded n) f) s = .next t ∧ (t.port p.val).rxSeq = ((s.port p.val).rxSeq + 1) % 4096 ∧
        (t.port p.val).discarding = false ∧ t.mem = s.mem ∧
        (q.dest = ownId s → q.last = true → q.resent = false → q.kind ≠ 0 → q.kind ≠ 0xB → kindOnClass q.kind q.tc = true →
          (s.port p.val).heldIn = [] → (∀ i ∈ s.fab.parts, acceptKey i.head ≠ acceptKey (headOf q)) →
          t.fab.inbox.length = s.fab.inbox.length + 1 ∧
          ∃ i ∈ t.fab.inbox, i.head = headOf q ∧ i.kind = q.kind ∧ i.bytes = q.payload ∧
            (q.kind ≠ 6 → i.holds = [(p.val, creditIx q.tc q.vc)]))) ∧
    (f.length ≠ 256 ∨ flitCrc f ≠ leAt f 12 4 →
      ∃ t, exec (.flitReceive p (.decoded n) f) s = .next t ∧ (t.port p.val).rxSeq = (s.port p.val).rxSeq ∧
        (t.port p.val).nakDue = true ∧ t.fab.inbox = s.fab.inbox ∧
        (t.reg (Reg.CRC_ERR p.val)).toNat = satAdd32 (s.reg (Reg.CRC_ERR p.val)).toNat 1) ∧
    (∃ t, exec (.flitReceive p .uncorrectable f) s = .next t ∧ (t.port p.val).rxSeq = (s.port p.val).rxSeq ∧
      (t.port p.val).nakDue = true ∧ t.fab.inbox = s.fab.inbox ∧
      (t.reg (Reg.FEC_UNCORR p.val)).toNat = satAdd32 (s.reg (Reg.FEC_UNCORR p.val)).toNat 1) ∧
    ((s.port p.val).replay.length < 512 → (s.port p.val).delayUntil ≤ timeAt s time →
      ∃ t f b, exec (.flitTransmit p time) s = .next t ∧ t.now = timeAt s time ∧
        (t.port p.val).replay = (s.port p.val).replay ++ [f] ∧ f.seq = (s.port p.val).txSeq ∧
        (t.port p.val).txSeq = ((s.port p.val).txSeq + 1) % 4096 ∧
        t.fab.wire = s.fab.wire ++ [(p.val, b)] ∧ b.length = 256 ∧ flitCrc b = leAt b 12 4 ∧
        (parseLink b).seq = (s.port p.val).txSeq % 4096 ∧ t.mem = s.mem ∧ t.entries = s.entries)

/-- LINK_REPLAY sends every unacknowledged flit again and counts; REPLAY_LIMIT_EXCEEDED, LANE_LOSS_OF_LOCK and RETRAIN start a training,
which keeps the unacknowledged flits; ADAPTIVE_FALLBACK moves a message to its alternate port (R275, R277, R280, R283). -/
def Obligations.LinksRecover : Prop :=
  ∀ (s : State) (p : Fin 8), p.val < s.fab.ports.length →
    (∀ time, portUp s p.val = true → (s.port p.val).nakSeen = true → (s.port p.val).replay ≠ [] →
      ∃ t, exec (.linkReplay p time) s = .next t ∧ (t.port p.val).nakSeen = false ∧ (t.port p.val).replay = (s.port p.val).replay ∧
        t.fab.wire.length = s.fab.wire.length + (s.port p.val).replay.length ∧ t.bitAt (Reg.PORT_EVENT p.val) 0 = true ∧
        (t.reg (Reg.REPLAYS p.val)).toNat = satAdd32 (s.reg (Reg.REPLAYS p.val)).toNat 1) ∧
    (∀ (time : Nat) (lane : Fin 9), ∀ i ∈ [Instr.replayLimitExceeded p time, Instr.laneLossOfLock p lane, Instr.retrain p],
      ((i = .replayLimitExceeded p time ∧ portUp s p.val = true ∧ replayExhausted (passTime s time) p.val = true) ∨
        (i = .laneLossOfLock p lane ∧ portUp s p.val = true ∧ s.bitAt (Reg.LANE_MAP p.val) (16 + lane.val) = false ∧
          s.bitAt (Reg.LANE_MAP p.val) lane.val = false) ∨
        (i = .retrain p ∧ solocReady s = true ∧ canTrain s p.val = true ∧ portState s p.val ≠ 1)) →
      ∃ t, exec i s = .next t ∧ portState t p.val = 1 ∧ (t.port p.val).replay = (s.port p.val).replay ∧
        (t.port p.val).nakSeen = false ∧ (t.reg (Reg.RETRAINS p.val)).toNat = satAdd32 (s.reg (Reg.RETRAINS p.val)).toNat 1 ∧
        t.mem = s.mem) ∧
    (solocReady s = true → canTrain s p.val = false → exec (.retrain p) s = .next s) ∧
    (∀ time q a, s.bitAt Reg.FAB_ROUTE_CFG 31 = true → (s.port p.val).queue.find? (fallsBack (passTime s time) p.val) = some q →
      alternateFor (passTime s time) q = some a → a ≠ p.val → a < s.fab.ports.length →
      ∃ t, exec (.adaptiveFallback p time) s = .next t ∧
        (t.port p.val).queue = (s.port p.val).queue.filter (fun x => decide (routeKey x ≠ routeKey q)) ∧
        (t.port a).queue = (s.port a).queue ++
          ((s.port p.val).queue.filter (fun x => decide (routeKey x = routeKey q))).map (fun x => { x with alt := true }))

/-- PORT_TRAINING_DONE of a port in training with no Fabric commit under way: without a partner it is FAILED; with one, the partner's ID and
port are shown whatever the end: with itself as partner it is DOWN, with eight good lanes UP at x8, with four and ALLOW_X4 UP at x4, else
FAILED (R269, R270, R283, R284). -/
def Obligations.TrainingEndsByLanesAndPartner : Prop :=
  ∀ (s : State) (p : Fin 8) (r : Training) (n : Nat), portState s p.val = 1 → applyingSet s 6 = none → p.val < s.fab.ports.length →
    n = popcount (goodLanes s p.val r.goodLanes (s.bitAt (Reg.PORT_CTRL p.val) 30)) 9 →
      ∃ t, exec (.portTrainingDone p r) s = .next t ∧ t.bitAt (Reg.PORT_CTRL p.val) 30 = false ∧
        (r.partner = false → portState t p.val = 4 ∧ t.bitAt (Reg.PORT_EVENT p.val) 3 = true ∧
          t.bitAt (Reg.PORT_EVENT p.val) 4 = true ∧ (t.port p.val).replay = []) ∧
        (r.partner = true → (t.port p.val).partner = r.partnerId % 4096 ∧ (t.port p.val).trained = true ∧
          t.fieldAt (Reg.PORT_STATUS p.val) 31 20 = r.partnerId % 4096 ∧ t.fieldAt (Reg.PORT_STATUS p.val) 19 16 = r.partnerPort % 16 ∧
          ((s.port p.val).trained = false → t.bitAt (Reg.PORT_EVENT p.val) 6 = true)) ∧
        (r.partner = true → r.partnerId % 4096 = ownId s → portState t p.val = 0 ∧ t.bitAt (Reg.PORT_EVENT p.val) 6 = true) ∧
        (r.partner = true → r.partnerId % 4096 ≠ ownId s →
          portState t p.val = (if 8 ≤ n then 2 else if 4 ≤ n ∧ s.bitAt (Reg.PORT_CTRL p.val) 28 = true then 3 else 4))

/-! ## Collectives -/

/-- CHUNK_RECEIVE, SCALE_MESSAGE and COLLECTIVE_PIECE_RECEIVE take their message when the adders can, acknowledge a chunk and a piece, and
leave it waiting otherwise, as at 64 open reductions: a child's first chunk or values open their reduction and are kept there, a piece of a
command's own collective is stored and counted; COLL_DEADLINE_EXPIRY under policy WAIT shows the late slot; REDUCTION_DISCARD drops
a closed reduction without a local command (R292, R300, R302, R307, R309, R313, R314). -/
def Obligations.CollectiveMessagesReachTheirReduction : Prop :=
  ∀ (s : State) (h : MsgHead) (port : Fin 8),
    (∀ c, Fresh s h 1 →
      (∀ s1, receiveChunk (takeMessage s h) port.val c = some s1 →
        exec (.chunkReceive h port c) s = .next { sendAck s1 h with pending := s.pending, now := s.now, pci := s.pci }) ∧
      (collGroup s c.group ≠ [] → findRed s c.group c.layer c.step = none → 64 ≤ s.coll.reductions.length →
        exec (.chunkReceive h port c) s = .next s) ∧
      (collGroup s c.group ≠ [] → findRed s c.group c.layer c.step = none → s.coll.reductions.length < 64 → c.down = false →
        c.fromBackup = false → (cKids (collGroup s c.group) c.tree).contains port.val = true →
        ∃ t, exec (.chunkReceive h port c) s = .next t ∧ TakenUp t h ∧ t.mem = s.mem ∧ t.entries = s.entries ∧
          nextMsgOf t h.peer 0 = (nextMsgOf s h.peer 0 + 1) % 2 ^ 14 ∧
          findRed t c.group c.layer c.step = some { newRed c.group c.layer c.step with
            chunks := [{ newChunk c.chunk c.pass2 s.now with kids := [port.val], sum := some c }] })) ∧
    (∀ v, Fresh s h 8 →
      (∀ s1, receiveValues (takeMessage s h) port.val v = some s1 →
        exec (.scaleMessage h port v) s = .next { s1 with pending := s.pending, now := s.now, pci := s.pci }) ∧
      (collGroup s v.group ≠ [] → findRed s v.group v.layer v.step = none → 64 ≤ s.coll.reductions.length →
        exec (.scaleMessage h port v) s = .next s) ∧
      (collGroup s v.group ≠ [] → findRed s v.group v.layer v.step = none → s.coll.reductions.length < 64 → v.down = false →
        (cKids (collGroup s v.group) 0).contains port.val = true →
        ∃ t, exec (.scaleMessage h port v) s = .next t ∧ TakenUp t h ∧ t.mem = s.mem ∧ t.entries = s.entries ∧
          findRed t v.group v.layer v.step = some { newRed v.group v.layer v.step with
            rounds := [⟨v.round, none, [(port.val, v)], false, none, false⟩] })) ∧
    (∀ p, Fresh s h (if p.opcode = 0x52 then 2 else 1) →
      (findRun s p.opcode p.group p.layer p.step = none → exec (.collectivePieceReceive h port p) s = .next s) ∧
      (∀ r s1, findRun s p.opcode p.group p.layer p.step = some r → takePiece (takeMessage s h) r p = some s1 →
        exec (.collectivePieceReceive h port p) s = .next { reapRun (sendAck s1 h) r.tag with
          pending := s.pending, now := s.now, pci := s.pci }) ∧
      (∀ r a, findRun s p.opcode p.group p.layer p.step = some r → s.errs = [] → s.undertow = [] →
        (p.opcode = 0x52 → r.body 32 8 = 0) →
        a = (if p.opcode = 0x53 then r.body 24 8 else r.body 24 8 + p.rank * r.body 4 4) + 65280 * p.index →
        skerryRange a p.bytes.length = true →
        ∃ t, exec (.collectivePieceReceive h port p) s = .next t ∧ TakenUp t h ∧ peekBytes t a p.bytes.length = p.bytes ∧
          MemoryBut (fun k => a ≤ k ∧ k < a + p.bytes.length) s t ∧
          findRun t p.opcode p.group p.layer p.step = some { r with
            got := (p.rank, (((r.got.find? (fun g => g.1 = p.rank)).map (fun g => g.2.1)).getD 0) + p.bytes.length, p.total) ::
              r.got.filter (fun g => g.1 ≠ p.rank) })) ∧
    (∀ group layer time r c, s.coll.reductions.filter (fun r => decide (r.group = group) && decide (r.layer = layer)) = [r] →
      cBackup (collGroup s group) = false → s.fieldAt Reg.COLL_MISSING_POLICY 0 0 = 0 → c ∈ r.chunks → c.sent = false →
      c.final = none → c.own = 0 → (∀ p ∈ treePorts (collGroup s group), recoveringPort s p = false) →
      c.first + collDeadline s ≤ timeAt s time →
      ∃ t, exec (.collDeadlineExpiry group layer time) s = .next t ∧ t.bitAt Reg.COLL_EVENT 0 = true ∧
        ({ r with late := true, notes := r.notes ||| 2 ^ 20 } : Reduction) ∈ t.coll.reductions ∧ t.mem = s.mem) ∧
    (∀ g l st r t0, findRed s g l st = some r → r.closed = some t0 → r.pkt = [] → t0 + collDeadline s ≤ s.now →
      ∃ t, exec (.reductionDiscard g l st) s = .next t ∧ findRed t g l st = none ∧ (g, l, st) ∈ t.coll.discarded ∧
        t = { s with coll := t.coll })

/-! ## Management -/

/-- TELEMETRY_FRAME fills its port's TELEM_RX registers; TELEMETRY_PERIOD takes a record of 240 bytes; the rows of board management
answer; WATCHDOG_EXPIRY halts the core and reports every bay below floor (R290, R338 to R340, R345). -/
def Obligations.ManagementRowsTakeEffect : Prop :=
  ∀ (s : State),
    (∀ (port : Fin 8) h payload, Fresh s h 9 →
      s.fab.inbox.any (fun i => decide (acceptKey i.head = acceptKey h) && decide (i.bytes = payload)) = true →
      ∃ t, exec (.telemetryFrame port h payload) s = .next t ∧ TakenUp t h ∧ t = { s with regs := t.regs, fab := t.fab } ∧
        t.reg (Reg.TELEM_RX_SEQ port.val) = BitVec.ofNat 32 ((s.reg (Reg.TELEM_RX_SEQ port.val)).toNat + 2) ∧
        t.reg (Reg.TELEM_RX_SRC port.val) = BitVec.ofNat 32 (h.peer % 4096) ∧
        t.pair (Reg.TELEM_RX_TIMESTAMP_LO port.val) = s.now % 2 ^ 64 ∧
        ∀ i, i < 60 → t.reg (Reg.TELEM_RX_PAYLOAD port.val i) = BitVec.ofNat 32 (leAt (padTo 240 payload) (4 * i) 4)) ∧
    (∀ time, mgmtRunning s = true → timeAt s time % (1000 * s.fieldAt Reg.TELEM_PERIOD 16 0) = 0 →
      s.fieldAt Reg.TELEM_RING_SIZE 4 0 = 0 →
      ∃ t, exec (.telemetryPeriod time) s = .next t ∧ t.mgmt.seq = (s.mgmt.seq + 1) % 2 ^ 32 ∧ t.mgmt.last.length = 240 ∧
        t.mgmt.last.take 8 = toLE 8 (timeAt s time) ∧ t.mem = s.mem ∧ t.entries = s.entries) ∧
    (mgmtRunning s = true →
      (∀ a, a < 128 → exec (.smbusAddressResolution a) s = .next { s with mgmt := { s.mgmt with smbus := a } }) ∧
      (∀ a, 8 ≤ a → a < 255 →
        exec (.mctpControlMessage 1 a) s = .next { s with mgmt := { s.mgmt with endpoint := a, answer := [answerOk, (a : Int)] } }) ∧
      (∀ id v, pldmSensor s id = some v → ∃ t, exec (.pldmGetSensor id) s = .next t ∧ t.mgmt.answer = [answerOk, v.1, v.2] ∧
        t = { s with mgmt := t.mgmt }) ∧
      (∀ v, v = 0 ∨ (600 ≤ v ∧ v ≤ 1650) → ∃ t, exec (.pldmSetEffecter 1 v) s = .next t ∧ t.mgmt.answer = [answerOk] ∧
        t.fieldAt Reg.MGMT_BMC_CEILING 15 0 = v ∧ t.bitAt Reg.MGMT_EVENT 2 = true ∧ t.mem = s.mem) ∧
      (∀ time, ∃ t, exec (.watchdogExpiry time) s = .next t ∧ mgmtRunning t = false ∧ t.fieldAt Reg.MGMT_STATUS 2 0 = 3 ∧
        t.bitAt Reg.MGMT_EVENT 0 = true ∧ t.power.hold = true ∧
        ∀ b, b < 8 → bit (belowFloor t) b = true ∧ t.fieldAt (Reg.BAY_VDD b) 31 28 = 6 ∧
          t.fieldAt (Reg.BAY_VDD b) 9 0 = s.fieldAt (Reg.BAY_VDD b) 9 0))

/-! ## Interrupts -/

/-- IRQ_CLAIM takes the claimable source of the lowest group, then sub-priority, then ID: it is active and no longer pending; with none
claimable it reads 1,023 and changes nothing. IRQ_COMPLETE of an ID active for its target ends its service: it is not active, and it is
pending again where its status bit is 1; alone active and enabled, it is claimable exactly where it is pending. 1,023 is ignored; any other
ID only sets BAD_COMPLETE (R330 to R332). -/
def Obligations.ClaimsAndCompletesServeTheMostUrgentSource : Prop :=
  ∀ (s : State) (g : IrqTarget), solocReady s = true →
    (∀ id, bestClaim s g = some id →
      (∃ t, exec (.irqClaim g) s = .next t ∧ t.readOut = id ∧ isPending t id = false ∧ isActive t id = true ∧
        IrqAndRegs [] s { t with readOut := s.readOut, readPoisoned := s.readPoisoned }) ∧
      claimable s g id = true ∧
      ∀ j, j < 1024 → claimable s g j = true → ∀ k : Nat → Nat,
        k = (fun x => groupOf s (fld (srcCfg s x) 7 0) * 256 + subOf s (fld (srcCfg s x) 7 0)) → k id < k j ∨ (k id = k j ∧ id ≤ j)) ∧
    (bestClaim s g = none → exec (.irqClaim g) s = .next { s with readOut := 1023, readPoisoned := false }) ∧
    ∀ (v : Word) (id : Nat), id = fld v 9 0 → (∀ a ∈ s.irq.active, srcAssigned a.id = true) →
    (s.irq.active.any (fun a => decide (a.id = id) && decide (a.target = g)) = true → id ≠ 1023 →
      ∃ t, exec (.irqComplete g v) s = .next t ∧ isActive t id = false ∧ IrqAndRegs [] s t ∧
        (∀ off b, statusOf id = some (off, b) → s.bitAt off b = true → isPending t id = true) ∧
        (statusOf id = none → isPending t id = isPending s id) ∧
        (∀ gr, s.irq.active = [⟨id, g, gr⟩] → flag (srcCfg s id) 31 = true → fld (srcCfg s id) 25 24 = targetCode g →
          s.bitAt Reg.IRQ_GLOBAL_ENABLE (enableBit g) = true → claimable t g id = isPending t id)) ∧
    (id = 1023 → exec (.irqComplete g v) s = .next s) ∧
    (id ≠ 1023 → (s.irq.active.any (fun a => decide (a.id = id) && decide (a.target = g)) = false ∨ srcAssigned id = false) →
      ∃ t, exec (.irqComplete g v) s = .next t ∧ RegsOnly [Reg.IRQ_STATUS] s t ∧ BitTakes Reg.IRQ_STATUS 0 true s t)

/-- After MSIX_VECTOR_CONTROL_WRITE and BUS_MASTER_ENABLE_CHANGE no open vector has a pending message left (R323, R324); a write of
IRQ_GLOBAL_ENABLE that sets HOST_EN, and a coalescing timer that expires, send one message of every claimable open vector concerned (R335
to R337). -/
def Obligations.OwedMessagesAreSentWhenTheyMayBe : Prop :=
  ∀ (s : State),
    (∀ (c : MsixControl) (enable memory : Bool), ∀ i ∈ [Instr.msixVectorControlWrite c, Instr.busMasterEnableChange enable memory],
      solocReady s = true → s.power.off = false →
      ∃ t, exec i s = .next t ∧ IrqAndRegs [] s { t with pci := s.pci } ∧ s.irq.sent <+: t.irq.sent ∧
        (i = .busMasterEnableChange enable memory → t.pci = { s.pci with busMaster := enable, memorySpace := memory }) ∧
        (∀ e m, c = .function e m → i = .msixVectorControlWrite c → t.pci = { s.pci with msixEnable := e, functionMask := m }) ∧
        ∀ w, w < 64 → vectorOpen t w = true → t.bitAt (Reg.MSIX_PBA (w / 32)) (w % 32) = false) ∧
    (∀ v, solocReady s = true →
      ∃ t, exec (.irqGlobalEnableWrite v) s = .next t ∧ IrqAndRegs [] s t ∧ t.fieldAt Reg.IRQ_GLOBAL_ENABLE 1 0 = fld v 1 0 ∧
        (flag v 0 = true → s.bitAt Reg.IRQ_GLOBAL_ENABLE 0 = false → ∀ w, w < 64 → vectorOpen t w = true → vectorClaimable t w = true →
          ∃ m ∈ t.irq.sent.drop s.irq.sent.length, m.vector = w) ∧
        (flag v 0 = false ∨ s.bitAt Reg.IRQ_GLOBAL_ENABLE 0 = true → t.irq = s.irq)) ∧
    (∀ (v : Fin 64) time, timerDue s v.val (timeAt s time) = true →
      ∃ t, exec (.coalesceTimerExpiry v time) s = .next t ∧ t.now = timeAt s time ∧ t.reg (Reg.VEC_COAL_STATUS v.val) = 0 ∧
        (∀ p ∈ t.irq.timers, p.1 ≠ v.val) ∧ t.entries = s.entries ∧
        (vectorClaimable s v.val = true → vectorOpen s v.val = true →
          ∃ m, m.vector = v.val ∧ t.irq.sent = s.irq.sent ++ [m]) ∧
        (vectorClaimable s v.val = false → t.irq.sent = s.irq.sent))

/-! ## Power -/

/-- GOVERNOR_TICK, with the management core running and no hold in force: a paused bay keeps its voltage, one at stack action 2, throttled
or over the power ceiling is lowered, a slow one with power to spare is raised, and LIMIT names the cause, 5 while a droop stretch
holds it below floor (R350 to R352, R357); FLOOR_MONITOR_WINDOW puts a bay below floor at a window under 19,500 steps and
takes it out after 100 good ones (R348, R349). -/
def Obligations.GovernorAndFloorMonitorAct : Prop :=
  ∀ (s : State) (time b : Nat), s.power.off = false → b < 8 →
    (∀ watts mv (limit : Nat → Nat), timeAt s time % 1000000 = 0 → s.power.hold = false → mgmtRunning s = true → mv = vddOf s b →
      limit = (fun k => if droopHolds s b then 5 else k) →
      ∃ t, exec (.governorTick watts time) s = .next t ∧ t.fieldAt Reg.PWR_NOW 15 0 = min watts 65535 ∧ t.power.watts = watts ∧
        t.mem = s.mem ∧ t.entries = s.entries ∧
        (3 ≤ actionOf s b ∨ bit s.power.paused b = true → vddOf t b = mv ∧ t.fieldAt (Reg.BAY_VDD b) 31 28 = limit 7) ∧
        (actionOf s b < 3 → bit s.power.paused b = false →
          (actionOf s b = 2 → vddOf t b = max 600 (mv - 10) ∧ t.fieldAt (Reg.BAY_VDD b) 31 28 = limit 2) ∧
          (actionOf s b < 2 → bit s.power.throttled b = true → vddOf t b = max 600 (mv - 10) ∧ t.fieldAt (Reg.BAY_VDD b) 31 28 = limit 3) ∧
          (actionOf s b < 2 → bit s.power.throttled b = false →
            (ceilingW s < watts → vddOf t b = max 600 (mv - 10) ∧ t.fieldAt (Reg.BAY_VDD b) 31 28 = limit 4 ∧
              t.bitAt Reg.POWER_EVENT 1 = true) ∧
            (watts + 50 ≤ ceilingW s → s.fieldAt (Reg.RATE_BAY b) 15 0 + 25 < s.fieldAt Reg.GOV_TARGET 11 0 → mv < 850 →
              vddOf t b = min 850 (mv + 10) ∧ t.fieldAt (Reg.BAY_VDD b) 31 28 = limit 0)))) ∧
    (∀ rates count, timeAt s time % 10000 = 0 → rates[b]? = some count → s.power.windows.length = 8 →
      ∃ t, exec (.floorMonitorWindow rates time) s = .next t ∧ t.now = timeAt s time ∧ t.mem = s.mem ∧
        (count < 19500 → bit (belowFloor t) b = true ∧ t.power.windows[b]? = some 0) ∧
        (19500 ≤ count → bit (belowFloor s) b = false → bit (belowFloor t) b = false) ∧
        (19500 ≤ count → bit (belowFloor s) b = true → s.power.hold = false →
          bit (belowFloor t) b = decide ((s.power.windows[b]?).getD 0 + 1 < 100)))

/-- Limits and gating: JUNCTION_CHECK throttles and pauses by temperature and trips at 110 °C; UNDERVOLTAGE_LOCKOUT and OVERVOLTAGE take
every supply away; FAST_LIMITER, DROOP_DETECT, INPUT_OUT_OF_RANGE, TILE_POWER_GATE and PWR_NOW_READ show in their registers (R353, R355,
R357 to R359, R409). -/
def Obligations.PowerLimitsAct : Prop :=
  ∀ (s : State), s.power.off = false →
    (∀ temps time, (∃ x ∈ temps, 110 ≤ x) →
      ∃ t, exec (.junctionCheck temps time) s = .next t ∧ t.power.off = true ∧ t.power.therm = true ∧ t.regs = [] ∧ t.entries = [] ∧
        t.sec.keys = s.sec.keys ∧ t.sec.svn = s.sec.svn) ∧
    (∀ temps time b x, (∀ y ∈ temps, y < 110) → b < 8 → x = bayTemp temps b →
      ∃ t, exec (.junctionCheck temps time) s = .next t ∧ bit t.power.throttled b = inForce (bit s.power.throttled b) 100 x ∧
        bit t.power.paused b = inForce (bit s.power.paused b) 105 x ∧ t.mem = s.mem ∧ t.entries = s.entries) ∧
    (∀ mv, ∀ i ∈ [Instr.undervoltageLockout mv, Instr.overvoltage mv],
      (i = .undervoltageLockout mv ∧ mv < 45000) ∨ (i = .overvoltage mv ∧ 58000 < mv) →
      ∃ t, exec i s = .next t ∧ t.power.off = true ∧ t.regs = [] ∧ t.entries = [] ∧ t.sec.keys = s.sec.keys ∧ t.pending = s.pending) ∧
    (∀ mv, ∃ t, exec (.inputOutOfRange mv) s = .next t ∧ t.power.inputMv = mv ∧
      (mv < 48000 ∨ 56000 < mv → t.bitAt Reg.POWER_EVENT 6 = true) ∧
      (48000 ≤ mv → mv ≤ 56000 → t = { s with power := { s.power with inputMv := mv } })) ∧
    (∀ watts time, s.power.limited = false → 1900 < watts →
      ∃ t, exec (.fastLimiter watts time) s = .next t ∧ t.power.limited = true ∧ t.bitAt Reg.POWER_EVENT 5 = true ∧
        t.fieldAt Reg.PWR_NOW 31 16 = max (s.fieldAt Reg.PWR_NOW 31 16) (min watts 65535)) ∧
    (∀ (b : Fin 8) mv, bit s.power.drooping b.val = false → s.fieldAt Reg.DROOP_CFG 6 0 < vddOf s b.val - mv →
      ∃ t, exec (.droopDetect b mv) s = .next t ∧ bit t.power.drooping b.val = true ∧ t.bitAt Reg.POWER_EVENT 2 = true ∧
        (t.reg Reg.DROOP_EVENTS).toNat = satAdd32 (s.reg Reg.DROOP_EVENTS).toNat 1 ∧ t.mem = s.mem) ∧
    (∀ (tile : Fin 512) time, s.bitAt Reg.GATE_CFG 31 = true → bayEnabled s (tile.val / 64) = true → tileGated s tile.val = false →
      (∀ e ∈ s.entries, queuedOn tile.val e = false) →
      lastUsed s tile.val + 1000 * s.fieldAt Reg.GATE_CFG 15 0 ≤ timeAt s time →
      ∃ t, exec (.tilePowerGate tile time) s = .next t ∧ tileGated t tile.val = true ∧
        (∀ u, u < 512 → u ≠ tile.val → tileGated t u = tileGated s u) ∧ t.mem = s.mem ∧ t.entries = s.entries) ∧
    (solocReady s = true → ∃ t, exec .pwrNowRead s = .next t ∧ t.readOut = (s.reg Reg.PWR_NOW).toNat ∧
      FieldTakes Reg.PWR_NOW 31 16 0 s t ∧ RegsOnly [Reg.PWR_NOW] s { t with readOut := s.readOut, readPoisoned := s.readPoisoned })

/-! ## Resets and the host -/

/-- POWER_ON_RESET and WARM_RESET: the module has booted, READY or FAILED; no command, no slot, no shadow is left, every ring is disabled;
power-on starts the timebase with the boot, a warm reset lets it run on and keeps HBM_SPEED and HBM_REPAIR_POLICY (R394 to R399, R420). -/
def Obligations.ResetsBootTheModule : Prop :=
  ∀ (s : State) (b : Boot),
    ∀ r ∈ [(Instr.powerOnReset b, 0, bootNs b), (Instr.warmReset b, 1, s.now + bootNs b)],
      (r.2.1 = 1 → s.power.off = false) →
      ∃ t, exec r.1 s = .next t ∧ t.now = r.2.2 ∧ t.pending = s.pending ∧ t.entries = [] ∧ t.slots = [] ∧ t.shadow = [] ∧
        t.applying = [] ∧ t.power.off = false ∧ t.pci = State.reset.pci ∧
        t.bitAt Reg.BOOT_STATUS 31 = !t.bitAt Reg.BOOT_STATUS 30 ∧ t.fieldAt Reg.BOOT_STATUS 18 16 = r.2.1 ∧
        t.fieldAt Reg.BOOT_STATUS 15 0 = min b.ms 65535 ∧
        (∀ n, n < 16 → ringActive t n = false ∧ ringHead t n = 0 ∧ ringTail t n = 0) ∧
        t.sec.keys = s.sec.keys ∧ t.sec.svn = s.sec.svn ∧
        (r.2.1 = 1 → t.reg Reg.HBM_SPEED = s.reg Reg.HBM_SPEED ∧ t.reg Reg.HBM_REPAIR_POLICY = s.reg Reg.HBM_REPAIR_POLICY)

/-- DATA_PLANE leaves no command and returns the blocks of the data plane to their reset values, the others standing;
FUNCTION_LEVEL_RESET, and D3HOT_EXIT out of D3hot, do so too and reset the function; D3HOT_ENTRY only enters; BAY_RESET with no command
in the bay leaves its tiles ungated, at their home places where none fails (R325, R326, R398 to R401). -/
def Obligations.DataPlaneFunctionAndBayResets : Prop :=
  ∀ (s : State),
    (solocReady s = true → errlogSize s = 0 →
      ∃ t, exec .dataPlane s = .next t ∧ t.entries = [] ∧ t.slots = [] ∧ t.undertow = [] ∧ solocReady t = true ∧
        t.fieldAt Reg.BOOT_STATUS 18 16 = 3 ∧
        (∀ off, keptInDataPlane off = true → off ≠ Reg.BOOT_STATUS → t.reg off = s.reg off) ∧
        (∀ off, keptInDataPlane off = false → off ≠ Reg.SKERRY_STATUS → t.reg off = resetWord off)) ∧
    (s.power.off = false → ∀ i ∈ [Instr.functionLevelReset, Instr.d3hotExit], i = .d3hotExit → s.pci.d3hot = true →
      ∃ t, exec i s = .next t ∧ t.pci = { State.reset.pci with bar2Log2 := s.pci.bar2Log2 } ∧
        (solocReady s = true → t.entries = [] ∧ t.slots = [] ∧ solocReady t = true ∧ t.fieldAt Reg.BOOT_STATUS 18 16 = 2) ∧
        ∀ off, 16 ≤ blockOf off → t.reg off = resetWord off) ∧
    (s.power.off = false → exec .d3hotEntry s = .next { s with pci := { s.pci with d3hot := true } } ∧
      (s.pci.d3hot = false → exec .d3hotExit s = .next s)) ∧
    (∀ (b : Fin 8) failing, solocReady s = true → (∀ e ∈ s.entries, operatesIn s b.val e = false) →
      ∃ t, exec (.bayReset b failing) s = .next t ∧ t.entries = s.entries ∧
        t.reg (Reg.TILE_GATED (2 * b.val)) = 0 ∧ t.reg (Reg.TILE_GATED (2 * b.val + 1)) = 0 ∧
        ((∀ u, u / 64 = b.val → failing.contains (homeOf u) = false) →
          bayEnabled t b.val = true ∧ ∀ u, u / 64 = b.val → physOf t u = homeOf u))

/-- The host link goes down and comes up with its generation and width; BAR2_RESIZE takes a legal size while Memory Space Enable is 0 and
no other; an invalid BAR0 access sets its event and a valid one does nothing; a command whose host request times out ends with
DEVICE_FAULT 0x02 (R315, R317 to R319, R327). -/
def Obligations.HostLinkAndConfigurationRows : Prop :=
  ∀ (s : State),
    (s.fieldAt Reg.HOST_LINK_STATUS 19 16 ≠ 0 →
      ∃ t, exec .hostLinkDown s = .next t ∧ t.reg Reg.HOST_LINK_STATUS = 0 ∧ t.bitAt Reg.HOST_EVENT 2 = true ∧ t.entries = s.entries) ∧
    (∀ g w, s.power.off = false → s.fieldAt Reg.HOST_LINK_STATUS 19 16 = 0 → linkLegal g w = true →
      exec (.hostLinkUp g w) s = .next { resumeColl (setHostLink s g w) with pending := s.pending, now := s.now, pci := s.pci } ∧
      (s.coll.runs = [] → s.coll.reductions = [] →
        ∃ t, exec (.hostLinkUp g w) s = .next t ∧ t.fieldAt Reg.HOST_LINK_STATUS 19 16 = g ∧ t.fieldAt Reg.HOST_LINK_STATUS 12 8 = w ∧
          (g < 6 ∨ w < 16 → t.bitAt Reg.HOST_EVENT 1 = true) ∧ IrqAndRegs [Reg.HOST_LINK_STATUS, Reg.HOST_EVENT] s t)) ∧
    (∀ n, s.power.off = false →
      exec (.bar2Resize n) s = .next (if s.pci.memorySpace = false ∧ 36 ≤ n ∧ n ≤ 40
        then { s with pci := { s.pci with bar2Log2 := n } } else s)) ∧
    (∀ write off size, s.power.off = false →
      ((size = 4 ∨ size = 8) ∧ off % size = 0 → exec (.bar0InvalidAccess write off size) s = .next s) ∧
      (¬ ((size = 4 ∨ size = 8) ∧ off % size = 0) →
        ∃ t, exec (.bar0InvalidAccess write off size) s = .next t ∧ t.bitAt Reg.HOST_EVENT 3 = true ∧ t.mem = s.mem ∧
          (write = false → t.readOut = 0 ∧ t.readPoisoned = false))) ∧
    (∀ (tag : Fin 1024) e, entryOf s tag.val = some e → e.phase = .running .host →
      (s.pci.cplTimeoutOff = true → exec (.hostCompletionTimeout tag) s = .next s) ∧
      (s.pci.cplTimeoutOff = false → ∃ t engine, exec (.hostCompletionTimeout tag) s = .next t ∧ FinishedWith t tag.val ⟨0x30, 0x02, engine, 0, 0⟩))

/-- BAR2: a read of good bytes returns them, least significant first, and changes nothing else; a write stores every byte where it is
mapped and leaves every other byte as it was; a write of faulty bytes alone stores nothing and shows; a part that meets a held stack waits,
in order; both keep memory in its canonical form (R319 to R321, R421). -/
def Obligations.Bar2ReadsAndWritesMemory : Prop :=
  ∀ (s : State) (offset : Nat), solocReady s = true →
    (∀ n, bar2Served s offset n = true →
      (∀ a ∈ bar2Addrs s offset n, ∃ p, bar2Byte s a = some p ∧ wordState s p = .good) →
      exec (.bar2Read offset n) s = .next { s with readPoisoned := false, readOut := leNat ((bar2Addrs s offset n).map (fun a => match bar2Byte s a with
        | some p => byteAt s p.key
        | none => 0)) }) ∧
    (∀ n, bar2Served s offset n = false → exec (.bar2Read offset n) s = .next s) ∧
    (∀ data, bar2Within s offset data.length = true → data ≠ [] → s.errs = [] → s.undertow = [] →
      (bar2Served s offset data.length = true →
        (∀ a ∈ bar2Addrs s offset data.length, (bar2Byte s a).isSome = true) →
        (∀ a b p q, a ∈ bar2Addrs s offset data.length → b ∈ bar2Addrs s offset data.length → bar2Byte s a = some p →
          bar2Byte s b = some q → p.key = q.key → a = b) →
        ∃ t, exec (.bar2Write offset data) s = .next t ∧ (Memory.wf s.mem = true → Memory.wf t.mem = true) ∧ t.entries = s.entries ∧
          t.posted = s.posted ∧
          (∀ i b p, data[i]? = some b → bar2Byte s (bar2Base s + offset + i) = some p → byteAt t p.key = b) ∧
          MemoryBut (fun k => ∃ a ∈ bar2Addrs s offset data.length, ∃ p, bar2Byte s a = some p ∧ p.key = k) s t) ∧
      ((∀ a ∈ bar2Addrs s offset data.length, bar2Byte s a = none) →
        ∃ t, exec (.bar2Write offset data) s = .next t ∧ t.mem = s.mem ∧ t.posted = s.posted ∧ t.bitAt Reg.HOST_EVENT 0 = true ∧
          (t.reg Reg.HOST_BAR2_FAULTS).toNat = satAdd32 (s.reg Reg.HOST_BAR2_FAULTS).toNat 1) ∧
      ((∀ a ∈ bar2Addrs s offset data.length, bar2Held s a = true) →
        exec (.bar2Write offset data) s = .next { s with posted := s.posted ++ wordParts (bar2Base s + offset) data }))

/-- Every mailbox request under way ends: GO reads 0, RESULT is that of an ended request and the security event is set; GET_CERTS and
DEBUG_CHALLENGE succeed, EXTEND_HOST extends accumulator 7 by its input, and a DEBUG_RESPONSE after three rejected ones is LOCKED (R385,
R387, R390, R391). -/
def Obligations.MailboxRequestsEnd : Prop :=
  ∀ (s : State),
    (∀ r ∈ [(Instr.getCerts, 1), (Instr.debugChallenge, 2), (Instr.debugResponse, 3), (Instr.revoke, 4), (Instr.advanceSvn, 5),
        (Instr.extendHost, 6)],
      mboxBusy s r.2 = true →
      ∃ t, exec r.1 s = .next t ∧ t.bitAt Reg.SEC_MBOX_CMD 31 = false ∧ 2 ≤ t.fieldAt Reg.SEC_MBOX_STATUS 2 0 ∧
        t.fieldAt Reg.SEC_MBOX_STATUS 2 0 ≤ 6 ∧ t.bitAt Reg.SEC_EVENT 0 = true ∧ t.entries = s.entries ∧
        (r.2 ≤ 2 → t.fieldAt Reg.SEC_MBOX_STATUS 2 0 = 2) ∧
        (r.2 = 2 → ∃ x, t.sec.challenge = some (x, s.now) ∧ x.length = 32) ∧
        (r.2 = 3 → 3 ≤ s.fieldAt Reg.SEC_STATE 10 8 → t.fieldAt Reg.SEC_MBOX_STATUS 2 0 = 6) ∧
        (r.2 = 6 → ∀ x, mboxInput s 32 = some x → s.sec.acc.length = 8 → t.fieldAt Reg.SEC_MBOX_STATUS 2 0 = 2 ∧
          t.sec.acc[7]? = some (shake256 (((s.sec.acc[7]?).getD []) ++ x))) ∧
        (r.2 ≠ 4 → t.sec.keys = s.sec.keys) ∧ (r.2 ≠ 5 → t.sec.svn = s.sec.svn)) ∧
    (∀ v, mboxInput s 1 = some [v] → mboxBusy s 5 = true → s.sec.svn < v.toNat → v.toNat < 64 →
      (∀ i, i < 5 → (s.sec.counts[i]?).getD 0 ≠ 0 → v.toNat ≤ (s.sec.compSvn[i]?).getD 0) →
      ∃ t, exec .advanceSvn s = .next t ∧ t.sec.svn = v.toNat ∧ t.fieldAt Reg.SEC_MBOX_STATUS 2 0 = 2)

/-! ## Register access -/

/-- REGISTER_WRITE: RW fields change at once and RWS fields in the shadow only; a write of an offset that is not listed does nothing, nor
does any before Soloc is ready outside the Identity and Security mailbox blocks (R11, R14, R318, R396). -/
def Obligations.RegisterWritesFollowTheirAccess : Prop :=
  ∀ (s : State) (off : Nat) (v : Word),
    (findReg off = none → exec (.registerWrite off v) s = .next s) ∧
    (solocReady s = false → blockOf off ≠ 0 → blockOf off ≠ 12 → exec (.registerWrite off v) s = .next s) ∧
    (∀ row i, solocReady s = true → hasOwnRow off = false → writeIgnored s off = false → off ≠ Reg.SEC_MBOX_CMD → off ≠ Reg.UW_DISARM →
      blockOf off < 16 → findReg off = some (row, i) → row.half = .whole → hasAcc .w1c row.fields = false → hasAcc .cnt row.fields = false →
      (hasAcc .rw row.fields = true → hasAcc .rws row.fields = false →
        ∃ t, exec (.registerWrite off v) s = .next t ∧ RegsOnly [off] s t ∧ t.reg off = writeFields .rw row.fields (s.reg off) v) ∧
      (hasAcc .rw row.fields = false → hasAcc .rws row.fields = true →
        ∃ t, exec (.registerWrite off v) s = .next t ∧ t = { s with shadow := t.shadow } ∧
          (off, writeFields .rws row.fields (shadowBase s off) v) ∈ t.shadow ∧ isPendingKey t (commitKey off) = true ∧
          ∀ p ∈ t.shadow, p.1 ≠ off → p ∈ s.shadow) ∧
      (hasAcc .rw row.fields = false → hasAcc .rws row.fields = false → exec (.registerWrite off v) s = .next s))

/-- LO_REGISTER_READ: a read of a _LO register returns it and latches its _HI register; the next read of that _HI register returns the
latched value, whatever has happened in between; one that does not follow a read of _LO returns the live value (R9). -/
def Obligations.HighHalfIsLatchedByLowHalf : Prop :=
  ∀ (s : State) (off : Nat) (row row2 : RegRow) (i j : Nat), findReg off = some (row, i) → row.half = .lo →
    findReg (off + 4) = some (row2, j) → row2.half = .hi →
      (∃ t, exec (.loRegisterRead off) s = .next t ∧ t.readOut = readReg s off ∧
        t = { s with readOut := t.readOut, readPoisoned := false, latchHi := t.latchHi } ∧
        ∀ u : State, u.latchHi = t.latchHi →
          ∃ w, exec (.loRegisterRead (off + 4)) u = .next w ∧ w.readOut = readReg s (off + 4) % 2 ^ 32 ∧
            ∃ x, exec (.loRegisterRead (off + 4)) w = .next x ∧ x.readOut = readReg u (off + 4)) ∧
      ((∀ p ∈ s.latchHi, p.1 ≠ off + 4) →
        ∃ t, exec (.loRegisterRead (off + 4)) s = .next t ∧ t.readOut = readReg s (off + 4) ∧
          t = { s with readOut := t.readOut, readPoisoned := false })

/-! ## What the units' commands complete with -/

/-- QUERY, COPY, TRANSPOSE_COPY, CONVERT and STORE_COMPRESSED complete where the checks of their bodies hold and what they read and write
lies in reach; a QUERY's record and a COPY of one row stand in memory as they were taken (R137, R180, R249 to R251, R344). -/
def Obligations.TensorCommandsComplete : Prop :=
  ∀ (s : State) (tag : Fin 1024) (e : Entry),
    (Launch s tag.val 0x06 e → mgmtRunning s = true → bodyZero e 1 8 = true → bodyAt e 8 8 % 64 = 0 →
      (bodyAt e 0 1 = 0 → s.mgmt.last.length ≤ 240 → reach s (bodyAt e 8 8) 240 = true →
        Executes s (.query tag) tag.val (fun t o => o = ⟨0, 0, 0xB000, 240, 0⟩ ∧
          (s.mgmt.last.length = 240 → skerryRange (bodyAt e 8 8) 240 = true → peekBytes t (bodyAt e 8 8) 240 = s.mgmt.last))) ∧
      (bodyAt e 0 1 = 1 → reach s (bodyAt e 8 8) 192 = true →
        Executes s (.query tag) tag.val (fun t o => o = ⟨0, 0, 0xB000, 192, 0⟩ ∧
          (skerryRange (bodyAt e 8 8) 192 = true → peekBytes t (bodyAt e 8 8) 8 = toLE 8 s.now)))) ∧
    (Launch s tag.val 0x10 e → copyRuns s e = true →
      Executes s (.copy tag) tag.val (fun t o => o = ⟨0, 0, 0x7000 + bodyAt e 32 1, bodyAt e 16 4 * bodyAt e 20 4, 0⟩ ∧
        (bodyAt e 20 4 = 1 → bodyAt e 33 1 = 0 → skerryRange (bodyAt e 8 8) (bodyAt e 16 4) = true →
          skerryRange (bodyAt e 0 8) (bodyAt e 16 4) = true →
          bodyAt e 0 8 + bodyAt e 16 4 ≤ bodyAt e 8 8 ∨ bodyAt e 8 8 + bodyAt e 16 4 ≤ bodyAt e 0 8 →
          peekBytes t (bodyAt e 8 8) (bodyAt e 16 4) = peekBytes s (bodyAt e 0 8) (bodyAt e 16 4)))) ∧
    (Launch s tag.val 0x12 e → checksHold (transposeChecks s e) = true →
      (∀ r, r < bodyAt e 16 4 → reach s (bodyAt e 0 8 + r * bodyAt e 24 4) (packedBytes (bodyAt e 32 1) (bodyAt e 20 4)) = true) →
      reach s (bodyAt e 8 8) (bodyAt e 20 4 * bodyAt e 28 4) = true →
      Executes s (.transposeCopy tag) tag.val (fun _ o =>
        o = ⟨0, 0, 0x7000 + bodyAt e 33 1, bodyAt e 20 4 * bodyAt e 28 4, 0⟩)) ∧
    ∀ i o rows cols, i = fmtWord (e.pkt.drop 64) → o = fmtWord (e.pkt.drop 80) → rows = bodyAt e 48 4 → cols = bodyAt e 52 4 →
      pwNames i = false → pwNames o = false → i.scale = 0 →
      tensorReach s i (bodyAt e 32 8) (bodyAt e 56 4) (rowBytes i.elem cols) rows cols = true →
      (Launch s tag.val 0x13 e → checksHold (convertChecks s e) = true →
        tensorReach s o (bodyAt e 40 8) (bodyAt e 60 4) (bodyAt e 60 4) rows cols = true →
        Executes s (.convert tag) tag.val (fun _ x => DoneIn (0x7000 + bodyAt e 64 1) x)) ∧
      (Launch s tag.val 0x11 e → checksHold (storeChecks s e) = true →
        reach s (bodyAt e 40 8) (firstRecord rows + rows * up64 (level2Bytes cols + 8 * ceilDiv cols 4096 + 8 * ceilDiv cols 64 +
          packedBytes (fmtBits o.elem) cols)) = true →
        (o.scale = 0 ∨ reach s o.scaleBase (rows * ceilDiv cols 32) = true) →
        Executes s (.storeCompressed tag) tag.val (fun _ x => DoneIn (0x7000 + bodyAt e 72 1) x))

/-- SAMPLE of one hop whose block fits the table, and RANDOM_WALK of one unbiased step, from nodes of this shard whose rows are well formed
and in reach, complete: a sample covers all its seeds, a walk has no early end (R68, R77, R79 to R81, R84, R87). -/
def Obligations.SamplingCommandsComplete : Prop :=
  ∀ (s : State) (tag : Fin 1024) (e : Entry) (g : List Byte) (n : Nat), graphDesc s (bodyAt e 0 2 % 256) = some g → n = bodyAt e 4 2 →
    reach s (bodyAt e 24 8) (8 * n) = true →
    (Launch s tag.val 0x20 e → checksHold (sampleChecks s e) = true → bodyAt e 2 1 = 1 → bodyAt e 3 1 ∈ [0, 1, 4] →
      bit (bodyAt e 6 2) 0 = false → n * (1 + bodyAt e 8 2) ≤ s.fieldAt Reg.DEDUP_CAP 16 0 →
      (∀ x ∈ trySeeds s (bodyAt e 24 8) n, nodeReady s g x = true) → reach s (bodyAt e 32 8) (bodyAt e 40 4 + 64) = true →
      Executes s (.sample tag) tag.val (fun _ o => DoneIn (0x5000 + bayOfAddr s (bodyAt e 48 8)) o ∧ o.result % 2 ^ 16 = n)) ∧
    (Launch s tag.val 0x21 e → checksHold (walkChecks s e) = true → bodyAt e 2 1 = 1 → bit (bodyAt e 6 2) 0 = false →
      (∀ x ∈ trySeeds s (bodyAt e 24 8) n, nodeReady s g x = true ∧ 0 < degreeOf s g x) →
      reach s (bodyAt e 32 8) (n * bodyAt e 3 1 * 16) = true →
      Executes s (.randomWalk tag) tag.val (fun _ o => o = ⟨0, 0, 0x5000 + bayOfAddr s (bodyAt e 32 8), 0, 0⟩))

/-- GATHER, GATHER_POOL, SCATTER_ADD of a touched row, ROW_REPLACE of one row and ROW_MIGRATE complete on rows of this shard that are VALID
and in reach: a gathered row stands at its place, the contribution is counted, the replaced row counts one, a migration to this module itself
moves nothing, and one to another module is announced (R94, R97, R101, R104, R110, R111). -/
def Obligations.GatherCommandsComplete : Prop :=
  ∀ (s : State) (tag : Fin 1024) (e : Entry) (d : List Byte), TableOf s e d → NoMigration s →
    (Launch s tag.val 0x22 e → BayOf s e → tMigratable d = false → bodyAt e 3 1 < 2 → bodyZero e 28 32 = true → bodyZero e 40 48 = true →
      1 ≤ bodyAt e 4 4 → bodyAt e 4 4 ≤ 65536 → bodyAt e 24 4 % 16 = 0 → tBytes d ≤ bodyAt e 24 4 → bodyAt e 8 8 % 8 = 0 →
      bodyAt e 16 8 % 16 = 0 → reach s (bodyAt e 8 8) (8 * bodyAt e 4 4) = true →
      (∀ r ∈ rowIdsAt s (bodyAt e 8 8) (bodyAt e 4 4), rowReady s d r = true) →
      (∀ k, k < bodyAt e 4 4 → reach s (bodyAt e 16 8 + k * bodyAt e 24 4) (tBytes d) = true) →
      (bodyAt e 32 8 = 0 ∨ reach s (bodyAt e 32 8) (2 * bodyAt e 4 4) = true) →
      Executes s (.gather tag) tag.val (fun t o => o = ⟨0, 0, 0x6000 + bodyAt e 2 1, 0, 0⟩ ∧
        (∀ r, rowIdsAt s (bodyAt e 8 8) (bodyAt e 4 4) = [r] → bodyAt e 32 8 = 0 → skerryRange (bodyAt e 16 8) (tBytes d) = true →
          peekBytes t (bodyAt e 16 8) (tBytes d) = peekBytes s (rowAddr s d (localOf r)) (tBytes d)))) ∧
    (∀ offs, Launch s tag.val 0x23 e → BayOf s e → tMigratable d = false → tElem d ≠ 0 → bodyAt e 3 1 < 2 → bodyZero e 6 8 = true →
      bodyZero e 12 16 = true → bodyZero e 52 64 = true → 1 ≤ bodyAt e 8 4 → bodyAt e 8 4 ≤ 65536 → bodyAt e 4 1 ≤ 1 →
      (bodyAt e 5 1 = 1 ∨ bodyAt e 5 1 = 2) → bodyAt e 48 4 % 16 = 0 → tElems d * (fmtBits (bodyAt e 5 1) / 8) ≤ bodyAt e 48 4 →
      bodyAt e 24 8 % 4 = 0 → bodyAt e 40 8 % 16 = 0 → reach s (bodyAt e 24 8) (4 * (bodyAt e 8 4 + 1)) = true →
      offs = (chunks 4 (bodyAt e 8 4 + 2) (peekBytes s (bodyAt e 24 8) (4 * (bodyAt e 8 4 + 1)))).map leNat → offsetsOk offs = true →
      reach s (bodyAt e 16 8) (8 * offs.getLastD 0) = true →
      (bodyAt e 32 8 = 0 ∨ reach s (bodyAt e 32 8) (4 * offs.getLastD 0) = true) →
      (∀ r ∈ rowIdsAt s (bodyAt e 16 8) (offs.getLastD 0), rowReady s d r = true) →
      (∀ k, k < bodyAt e 8 4 → reach s (bodyAt e 40 8 + k * bodyAt e 48 4) (tElems d * (fmtBits (bodyAt e 5 1) / 8)) = true) →
      Executes s (.gatherPool tag) tag.val (fun _ o => DoneIn (0x6000 + bodyAt e 2 1) o ∧ o.result < 2 ^ 32)) ∧
    (∀ r h, Launch s tag.val 0x24 e → BayOf s e → tMigratable d = false → tElem d ≠ 0 → tGrad d ≠ 0 → bodyAt e 3 1 = 0 → bodyAt e 5 1 < 2 →
      bodyZero e 48 64 = true → bodyAt e 24 8 = 0 → bodyAt e 8 4 = 1 → 1 ≤ bodyAt e 4 1 → bodyAt e 4 1 ≤ 3 →
      -256 ≤ signed 16 (bodyAt e 6 2) → signed 16 (bodyAt e 6 2) ≤ 127 → bodyAt e 12 4 % 16 = 0 →
      tElems d * (fmtBits (bodyAt e 4 1) / 8) ≤ bodyAt e 12 4 → reach s (bodyAt e 16 8) 8 = true → rowIdsAt s (bodyAt e 16 8) 1 = [r] →
      (bodyAt e 32 8 = 0 ∨ reach s (bodyAt e 32 8) 4 = true) →
      reach s (bodyAt e 40 8) (tElems d * (fmtBits (bodyAt e 4 1) / 8)) = true → rowReady s d r = true →
      eTouched (mapEntry s d (localOf r)) = true → h = tGrad d + localOf r * (8 + 8 * tElems d) →
      skerryRange h (8 + 8 * tElems d) = true → skerryRange (tRowmap d + 8 * localOf r) 8 = true →
      (h + 8 + 8 * tElems d ≤ tRowmap d + 8 * localOf r ∨ tRowmap d + 8 * localOf r + 8 ≤ h) →
      Executes s (.scatterAdd tag) tag.val (fun t o => DoneIn (0x6000 + bodyAt e 2 1) o ∧
        leNat (peekBytes t h 4) = satAdd32 (leNat (peekBytes s h 4)) 1)) ∧
    (∀ r x tier head, Launch s tag.val 0x25 e → tMigratable d = false → bodyAt e 2 1 < 2 → tier = bodyAt e 2 1 → bodyZero e 3 4 = true →
      bodyZero e 24 32 = true → bodyAt e 4 4 = 1 → bodyAt e 16 8 % 16 = 0 → reach s (bodyAt e 8 8) 8 = true →
      rowIdsAt s (bodyAt e 8 8) 1 = [r] → rowReady s d r = true → reach s (tRing d) (64 + 8 * tRingSize d) = true → 0 < tRingSize d →
      head = leNat (peekBytes s (tRing d) 4) % tRingSize d → head ≠ leNat (peekBytes s (tRing d + 4) 4) % tRingSize d →
      x = leNat (peekBytes s (tRing d + 64 + 8 * head) 8) → bits x 63 63 = tier → reach s (bodyAt e 16 8) (tBytes d) = true →
      reach s (slotAddr d tier (x % 2 ^ 40)) (tBytes d) = true →
      Executes s (.rowReplace tag) tag.val (fun _ o => o = ⟨0, 0, 0x6000, 1, 0⟩)) ∧
    (Launch s tag.val 0x26 e → bodyZero e 16 32 = true → 1 ≤ bodyAt e 4 4 → bodyAt e 4 4 ≤ 4096 → bodyAt e 2 2 < 4096 →
      (bodyAt e 2 2 = ownId s → Executes s (.rowMigrate tag) tag.val (fun _ o => o = ⟨0, 0, 0x6000, 0, 0⟩)) ∧
      (∀ r, bodyAt e 2 2 ≠ ownId s → tMigratable d = true → bodyAt e 4 4 = 1 → reach s (bodyAt e 8 8) 8 = true →
        rowIdsAt s (bodyAt e 8 8) 1 = [r] → ownedFault s (bodyAt e 0 2) d 0x30 r = none → 8 * dirUsed s d < 7 * tDirSize d →
        ∃ t c, exec (.rowMigrate tag) s = .next t ∧ entryOf t tag.val = some c ∧ c.phase = .running (.migration 0 0 0) ∧
          ∃ m ∈ t.gath.migrations, m.table = bodyAt e 0 2 ∧ m.row = r ∧ m.dest = bodyAt e 2 2 ∧ m.tag = e.tag ∧ m.phase = 0))

/-- MATMUL, MATMUL_DGRAD and MATMUL_WGRAD of plain tensors without a tide, whose queues are free, complete; so does such a command at
OPERATION_ENQUEUE, SERIALISED_OPERATION_START and TILE_WAKE, once nothing else stands in its queues; at TIDE_WAIT_EXIT a MATMUL completes
with the newest present tide at or after its own, which RESULT[31:0] gives (R53, R146, R153, R161, R213, R214, R355). -/
def Obligations.MatrixCommandsComplete : Prop :=
  ∀ (s : State) (tag : Fin 1024) (e : Entry) (x : MatBody), x = matBody e → plainMatrix x = true → checksHold (matChecks s e) = true →
    (∀ r ∈ [(Instr.matmul tag, 0x30), (.matmulDgrad tag, 0x31), (.matmulWgrad tag, 0x32)],
      Launch s tag.val r.2 e → pktTideValid e.pkt = false → (r.2 = 0x31 → weightEntryAt s e.slot x.bBase = none) → e.reads = [] →
      e.queued = [] → QueuesFree s e → matrixReach s x 0 = true → Executes s r.1 tag.val (fun _ o => DoneIn x.engineId o)) ∧
    (∀ r ∈ [(Instr.operationEnqueue tag, Wait.queueRoom), (.serialisedOperationStart tag, Wait.serialised)],
      Resumes s tag.val r.2 e → e.prepared = true → pktOp e.pkt ∈ [0x30, 0x31, 0x32] → e.reads = [] → QueuesFree s e →
      matrixReach s x 0 = true → Executes s r.1 tag.val (fun _ o => DoneIn x.engineId o)) ∧
    (∀ tile : Fin 512, tileGated s tile.val = true → s.power.off = false → wakesNext s tile.val = true →
      s.entries.filter (waitsForTile tile.val) = [e] →
      Resumes (setGated s tile.val false) tag.val .gated e → e.prepared = true → pktOp e.pkt ∈ [0x30, 0x31, 0x32] → e.reads = [] →
      QueuesFree (setGated s tile.val false) e → matrixReach (setGated s tile.val false) x 0 = true →
      Executes s (.tileWake tile) tag.val (fun _ o => DoneIn x.engineId o)) ∧
    ∀ i te v tau, Resumes s tag.val .tide e → e.prepared = false → pktOp e.pkt = 0x30 → pktTideValid e.pkt = true → e.reads = [] →
      e.queued = [] → QueuesFree s e → weightEntry s e.slot [x.bBase] = some i → tideEntry s e.slot i = some te → te.paired = false →
      newestPresent te (fun tau => atOrAfter tau (pktTide e.pkt)) = some (v, tau) → matrixReach s x (v * te.vstride) = true →
      Executes s (.tideWaitExit tag) tag.val (fun _ o => DoneIn x.engineId o ∧ o.result % 2 ^ 32 = tau % 2 ^ 32)

/-- VECTOR_RUN of a program of fixed streams in reach, on tiles whose vector engines are free, without transfers, completes (R193, R196,
R199). -/
def Obligations.VectorRunCompletes : Prop :=
  ∀ (s : State) (tag : Fin 1024) (e : Entry) (prog : List VInstr) (l : List VStream), Launch s tag.val 0x40 e →
    checksHold (vectorChecks s e) = true → bodyAt e 24 1 = 0 → bodyAt e 25 1 = 0 → bit (bodyAt e 26 1) 0 = false → e.queued = [] →
    QueuesFree s e → reach s (bodyAt e 0 8) (16 * bodyAt e 8 2) = true → reach s (bodyAt e 0 8 + 4096) (16 * bodyAt e 10 2) = true →
    imageParts (bodyAt e 8 2) (peekBytes s (bodyAt e 0 8) (16 * bodyAt e 8 2) ++ peekBytes s (bodyAt e 0 8 + 4096) (16 * bodyAt e 10 2)) =
      (prog, l) → checksHold (programChecks s e.pkt l prog) = true → prog.all plainInstr = true →
    (∀ t, bodyAt e 12 2 ≤ t → t < bodyAt e 12 2 + bodyAt e 14 2 → streamsReach s t l = true) →
    Executes s (.vectorRun tag) tag.val (fun _ o => DoneIn (if bodyAt e 14 2 = 1 then 0x4000 + bodyAt e 12 2 else 0xF000) o)

/-- The collectives of a group of one member complete at once: REDUCE writes its own contribution of one chunk, SCALE_ROUND its record,
ALL_GATHER, ALL_TO_ALL and BROADCAST their own block of one piece. What a group of several members does, chunk after chunk, the statements of
the collective messages say (R292, R296, R300, R303, R310, R312 to R314). -/
def Obligations.CollectiveCommandsComplete : Prop :=
  ∀ (s : State) (tag : Fin 1024) (e : Entry) (d : List Byte) (src dst n : Nat), d = collGroup s (bodyAt e 0 1) → SoloGroup s d →
    bodyAt e 0 1 < 64 → src % 16 = 0 → dst % 16 = 0 →
    (src = bodyAt e 24 8 → dst = bodyAt e 32 8 → n = bodyAt e 12 4 → Launch s tag.val 0x50 e →
      NameFree s e (bodyAt e 0 1) (bodyAt e 4 4) (bodyAt e 8 4) → 1 ≤ n → n ≤ 10880 → bodyAt e 1 1 ≤ 1 → bodyAt e 2 1 = 0 →
      bodyAt e 3 1 ≤ 12 → bodyAt e 16 1 = 0x0E → bodyZero e 17 18 = true → -256 ≤ signed 16 (bodyAt e 18 2) →
      signed 16 (bodyAt e 18 2) ≤ 127 → bodyZero e 20 24 = true → bodyAt e 40 8 = 0 → bodyAt e 48 8 = 0 → bodyZero e 56 64 = true →
      rangesOverlap src (6 * n) dst (6 * n) = false → reach s src (6 * n) = true → reach s dst (6 * n) = true →
      (∀ b ∈ chunks 6 (n + 1) (peekBytes s src (6 * n)), (signed 48 (leNat b)).natAbs ≤ 2 ^ (46 - bodyAt e 3 1)) →
      Executes s (.reduce tag) tag.val (fun t o => o = ⟨0, 0, collEngine s d, bodyAt e 18 2 + 2 ^ 16, 0⟩ ∧
        (skerryRange src (6 * n) = true → skerryRange dst (6 * n) = true → peekBytes t dst (6 * n) = peekBytes s src (6 * n)))) ∧
    (∀ w, src = bodyAt e 16 8 → dst = bodyAt e 24 8 → n = bodyAt e 12 4 → w = fmtBits (bodyAt e 1 1) / 8 → Launch s tag.val 0x54 e →
      NameFree s e (bodyAt e 0 1) (bodyAt e 4 4) (bodyAt e 8 4) → 1 ≤ n → n ≤ 10880 → 1 ≤ bodyAt e 1 1 → bodyAt e 1 1 ≤ 3 →
      bodyAt e 2 1 ≤ 12 → bodyZero e 3 4 = true → bodyAt e 32 8 ≠ 0 → bodyAt e 32 8 % 16 = 0 → bodyAt e 40 8 = 0 →
      bodyZero e 48 64 = true → rangesOverlap src (elemBytes (bodyAt e 1 1) n) dst (6 * n) = false → reach s src (w * n) = true →
      reach s dst (6 * n) = true → reach s (bodyAt e 32 8) 16 = true →
      (∀ b ∈ chunks w (n + 1) (peekBytes s src (w * n)), (decodeElem (bodyAt e 1 1) 0 0 (leNat b)).finite = true) →
      Executes s (.scaleRound tag) tag.val (fun _ o => o = ⟨0, 0, collEngine s d, 0, 0⟩)) ∧
    ∀ r ∈ [(Instr.allGather tag, 0x51), (.allToAll tag, 0x52), (.broadcast tag, 0x53)],
      src = bodyAt e 16 8 → dst = bodyAt e 24 8 → n = bodyAt e 4 4 → Launch s tag.val r.2 e → inCollective s e = false →
      findRun s r.2 (bodyAt e 0 1) (bodyAt e 12 4) (bodyAt e 8 4) = none → s.coll.waiting = [] →
      CollRun.unacknowledged s ⟨r.2, bodyAt e 0 1, bodyAt e 12 4, bodyAt e 8 4, e.tag, e.pkt, [], none⟩ = false →
      n % 16 = 0 → 16 ≤ n → n ≤ 65280 → bodyZero e 1 2 = true → bodyAt e 2 2 = 0 → bodyAt e 32 8 = 0 → bodyAt e 40 8 = 0 →
      reach s src n = true → reach s dst n = true →
      Executes s r.1 tag.val (fun t o => o = ⟨0, 0, collEngine s d, 0, 0⟩ ∧
        (skerryRange src n = true → skerryRange dst n = true → src + n ≤ dst ∨ dst + n ≤ src →
          peekBytes t dst n = peekBytes s src n))

/-- UPDATE of a dense group, and of a LAZY embedding group without touched rows, completes with the next tide in RESULT[15:0], from its
dispatch or at UPDATE_SLOT_WAIT_EXIT; CHECKPOINT completes with the size of its image, from its dispatch or at CHECKPOINT_WAIT_EXIT; RESTORE
of an image of tide entries and event counters with the sections restored; TIDE_RETIRE at once where nothing is named, or where what it
names has no reader (R222, R256, R258, R263, R266 to R268). -/
def Obligations.SkerryCommandsComplete : Prop :=
  ∀ (s : State) (tag : Fin 1024) (e : Entry),
    (∀ g te v d, DenseUpdate s e g te v ∨ LazyUpdate s e g d te → e.prepared = false →
      (∀ c, c = Instr.update tag ∧ Launch s tag.val 0x60 e ∧ s.fieldAt Reg.SKERRY_STATUS 1 0 ≠ 3 ∨
          c = Instr.updateSlotWaitExit tag ∧ pktOp e.pkt = 0x60 ∧ (Resumes s tag.val .turn e ∨ Resumes s tag.val .slot e) →
        Executes s c tag.val (fun _ o => DoneIn 0x9000 o ∧ o.result % 2 ^ 16 = (te.current + 1) % 2 ^ 16))) ∧
    (∀ m c, CheckpointOf s e m → e.prepared = false →
      c = Instr.checkpoint tag ∧ Launch s tag.val 0x61 e ∧ e.asked = [] ∧ s.fieldAt Reg.SKERRY_STATUS 1 0 ≠ 3 ∨
        c = Instr.checkpointWaitExit tag ∧ pktOp e.pkt = 0x61 ∧ Resumes s tag.val .checkpoint e →
      Executes s c tag.val (fun _ o => o = ⟨0, 0, 0x9000, imageSize s e, 0⟩)) ∧
    (∀ h image l, Launch s tag.val 0x62 e → s.fieldAt Reg.SKERRY_STATUS 1 0 ≠ 3 → bodyAt e 8 1 < 2 → bodyZero e 9 16 = true →
      bodyAt e 0 8 % 256 = 0 → (∀ c ∈ s.entries, c.tag ≠ e.tag → c.slot ≠ e.slot) → h = peekBytes s (bodyAt e 0 8) 128 →
      leAt h 0 4 = 0x4B434256 → leAt h 4 2 = 1 → leAt h 6 1 = e.slot → leAt h 8 8 = slotSeed s e.slot → 128 ≤ leAt h 24 8 →
      reach s (bodyAt e 0 8) (leAt h 24 8) = true → image = peekBytes s (bodyAt e 0 8) (leAt h 24 8) →
      shake256 (image.drop 128) = (h.drop 48).take 32 → parseImage image (leAt h 32 4) = some l → l.all (sectionOk s e.slot) = true →
      (∀ x ∈ l, x.kind = 4 ∨ x.kind = 7) →
      Executes s (.restore tag) tag.val (fun _ o => o =
        ⟨0, 0, 0x9000, (l.filter (fun x => x.kind ≠ 7 || !bit (bodyAt e 8 1) 0)).length, 0⟩)) ∧
    ∀ te t, Launch s tag.val 0x70 e → bodyZero e 7 16 = true → bodyAt e 6 1 < 2 → tideEntry s e.slot (bodyAt e 0 4) = some te →
      te.kind = 0 → t = bodyAt e 4 2 → t ≠ te.current → atOrAfter t te.current = false →
      ((∀ x ∈ te.vslots, x.state = 3 → if bodyAt e 6 1 = 0 then x.tide ≠ t else atOrAfter t x.tide = false) →
        Executes s (.tideRetire tag) tag.val (fun _ o => o = ⟨0, 0, 0, 0, 0⟩)) ∧
      ∀ holds, bodyAt e 6 1 = 0 → te.vslots.length ≤ 3 →
        te.vslots.filter (fun x => decide (x.state = 3 ∧ x.tide = t)) = [⟨t, 3, holds, 0⟩] →
        Executes s (.tideRetire tag) tag.val (fun _ o => o = ⟨0, 0, 0, 1 + 2 ^ 16 * holds, if holds = 0 then 0 else 2 ^ 16⟩)

/-- ATTEST writes its report, MEASURE_PROGRAM answers the first 8 bytes of the digest of the slot's program, UNDERTOW arms and disarms its
rule, and SELF_TEST of enabled, idle bays whose tiles all pass completes (R374, R380, R388, R389). -/
def Obligations.SecurityCommandsComplete : Prop :=
  ∀ (s : State) (tag : Fin 1024) (e : Entry),
    (∀ n, Launch s tag.val 0xE0 e → bodyAt e 44 1 < 2 → bodyZero e 45 48 = true → bodyAt e 32 8 % 64 = 0 →
      n = (if bit (bodyAt e 44 1) 0 then s.sec.log.length else 0) → (∀ m ∈ s.sec.log, m.digest.length = 32) →
      3840 + 48 * n ≤ bodyAt e 40 4 → reach s (bodyAt e 32 8) (3840 + 48 * n) = true →
      Executes s (.attest tag) tag.val (fun t o => o = ⟨0, 0, 0xA000, 3840 + 48 * n, 0⟩ ∧
        t.sec.reports = (s.sec.reports + 1) % 2 ^ 32 ∧
        (skerryRange (bodyAt e 32 8) 3840 = true →
          peekBytes t (bodyAt e 32 8) 512 = padTo 512 (reportBytes s ((pktBody e.pkt).take 32) (bit (bodyAt e 44 1) 0))))) ∧
    (∀ m k n, Launch s tag.val 0xE1 e → k = bodyAt e 0 1 → k < 64 → bodyZero e 1 16 = true → modelSlot s k = some m →
      bit (leAt m.desc 12 4) 1 = true → n = leAt m.desc 8 4 → reach s (leAt m.desc 0 8) n = true →
      Executes s (.measureProgram tag) tag.val (fun _ o =>
        o = ⟨0, 0, 0xA000, leAt (shake256 (toLE 1 k ++ toLE 4 n ++ peekBytes s (leAt m.desc 0 8) n)) 0 8, 0⟩)) ∧
    (Launch s tag.val 0xF0 e → uwBodyOk ((pktBody e.pkt).take 48) = true → uwLocked s = false →
      Executes s (.undertow tag) tag.val (fun t o => o = ⟨0, 0, 0, bodyAt e 0 1, 0⟩ ∧
        t.undertow.length = if bodyAt e 1 1 = 0 then 0 else 1)) ∧
    (Launch s tag.val 0xF1 e → bodyAt e 0 1 ≠ 0 → bodyAt e 1 1 ≤ 1 → bodyAt e 2 1 < 2 → bodyZero e 3 16 = true →
      (baysIn (bodyAt e 0 1)).all (bayEnabled s) = true → baysBusy s e (bodyAt e 0 1) = false →
      Executes s (.selfTest tag []) tag.val (fun _ o => DoneIn 0 o ∧ o.result % 2 ^ 24 = 0))
end

