-- ==== Sys2Proof/Laws/Sparse.lean ====
section
/-! SUPPORT. The laws of the sparse lists: a read after a write, and that every write keeps the canonical form. -/

namespace Sys2Proof.Machine

/-- A list canonical from a key on is canonical from every smaller one. -/
theorem Sparse.wfFrom_mono {β : Type} [DecidableEq β] (d : Nat → β) :
    ∀ (l : List (Nat × β)) {m n : Nat}, m ≤ n → Sparse.wfFrom d n l = true → Sparse.wfFrom d m l = true
  | [], _, _, _, _ => rfl
  | _ :: _, _, _, h, hw => by simp only [Sparse.wfFrom, Bool.and_eq_true, decide_eq_true_eq] at hw ⊢; exact ⟨h.trans hw.1, hw.2⟩

/-- A key below all those a canonical list may hold is unlisted. -/
theorem Sparse.get_of_lt {β : Type} [DecidableEq β] (d : Nat → β) :
    ∀ (l : List (Nat × β)) {n k : Nat}, Sparse.wfFrom d n l = true → k < n → Sparse.get d l k = d k
  | [], _, _, _, _ => rfl
  | p :: l, n, k, hw, hk => by
    simp only [Sparse.wfFrom, Bool.and_eq_true, decide_eq_true_eq] at hw
    rw [Sparse.get, if_neg (by omega), Sparse.get_of_lt d l hw.2.2 (by omega)]

/-- What a list reads once a key is placed in it. -/
theorem Sparse.get_place {β : Type} (d : Nat → β) (k : Nat) (v : β) (j : Nat) :
    ∀ l : List (Nat × β), Sparse.get d (Sparse.place l k v) j = if j = k then v else Sparse.get d l j
  | [] => rfl
  | p :: l => by
    have ih := Sparse.get_place d k v j l
    unfold Sparse.place at ih ⊢
    by_cases h : p.1 < k
    · have hk : j = p.1 → j ≠ k := by omega
      simp only [List.takeWhile_cons, List.dropWhile_cons, h, decide_true, if_true, List.cons_append, Sparse.get, ih]
      split <;> simp_all
    · simp [h, Sparse.get]

/-- Placing a key that is not listed, and reads otherwise than an unlisted one, keeps the canonical form. -/
theorem Sparse.wfFrom_place {β : Type} [DecidableEq β] (d : Nat → β) {k : Nat} {v : β} (hv : v ≠ d k) :
    ∀ (l : List (Nat × β)) {n : Nat}, (∀ p ∈ l, p.1 ≠ k) → Sparse.wfFrom d n l = true → n ≤ k → Sparse.wfFrom d n (Sparse.place l k v) = true
  | [], n, _, _, hk => by simp [Sparse.place, Sparse.wfFrom, hk, hv]
  | p :: l, n, hn, hw, hk => by
    simp only [Sparse.wfFrom, Bool.and_eq_true, decide_eq_true_eq] at hw
    by_cases h : p.1 < k
    · have ih := Sparse.wfFrom_place d hv l (fun q hq => hn q (List.mem_cons_of_mem _ hq)) hw.2.2 h
      unfold Sparse.place at ih ⊢
      simp only [List.takeWhile_cons, List.dropWhile_cons, h, decide_true, if_true, List.cons_append, Sparse.wfFrom, Bool.and_eq_true,
        decide_eq_true_eq]
      exact ⟨hw.1, hw.2.1, ih⟩
    · have hp : k + 1 ≤ p.1 := by have := hn p (List.mem_cons_self ..); omega
      simp [Sparse.place, h, Sparse.wfFrom, hk, hv, hp, hw.2.1, hw.2.2]

/-- Keeping some entries keeps the canonical form. -/
theorem Sparse.wfFrom_filter {β : Type} [DecidableEq β] (d : Nat → β) (q : Nat × β → Bool) :
    ∀ (l : List (Nat × β)) {n : Nat}, Sparse.wfFrom d n l = true → Sparse.wfFrom d n (l.filter q) = true
  | [], _, _ => rfl
  | p :: l, n, hw => by
    simp only [Sparse.wfFrom, Bool.and_eq_true, decide_eq_true_eq] at hw
    have ih := Sparse.wfFrom_filter d q l hw.2.2
    rw [List.filter_cons]
    split
    · simp [Sparse.wfFrom, hw.1, hw.2.1, ih]
    · exact Sparse.wfFrom_mono d _ (by omega) ih

/-- Keeping some entries of a canonical list gives a canonical list. -/
theorem Sparse.wf_filter {β : Type} [DecidableEq β] (d : Nat → β) (q : Nat × β → Bool) (l : List (Nat × β))
    (hw : Sparse.wf d l = true) : Sparse.wf d (l.filter q) = true := Sparse.wfFrom_filter d q l hw

/-- What a list reads without the entries of a key. -/
theorem Sparse.get_erase {β : Type} (d : Nat → β) (k j : Nat) :
    ∀ l : List (Nat × β), Sparse.get d (Sparse.erase l k) j = if j = k then d k else Sparse.get d l j
  | [] => by simp only [Sparse.erase, List.filter_nil, Sparse.get]; split <;> simp_all
  | p :: l => by
    have ih := Sparse.get_erase d k j l
    unfold Sparse.erase at ih ⊢
    by_cases h : p.1 = k
    · rw [List.filter_cons_of_neg (by simpa using h), ih, Sparse.get, h]
      split <;> rfl
    · rw [List.filter_cons_of_pos (by simpa using h), Sparse.get, Sparse.get, ih]
      split <;> simp_all

/-- A read after a write, in every list: the value written at its key, what was there before at every other. -/
theorem Sparse.get_set {β : Type} [DecidableEq β] (d : Nat → β) (l : List (Nat × β)) (k : Nat) (v : β) (j : Nat) :
    Sparse.get d (Sparse.set d l k v) j = if j = k then v else Sparse.get d l j := by
  by_cases h : v = d k
  · simp only [Sparse.set, h, if_true, Sparse.get_erase]
  · simp only [Sparse.set, h, if_false, Sparse.get_place, Sparse.get_erase]
    split <;> rfl

/-- A write keeps the canonical form. -/
theorem Sparse.wf_set {β : Type} [DecidableEq β] (d : Nat → β) (l : List (Nat × β)) (k : Nat) (v : β)
    (hw : Sparse.wf d l = true) : Sparse.wf d (Sparse.set d l k v) = true := by
  have he : Sparse.wf d (Sparse.erase l k) = true := Sparse.wf_filter d _ l hw
  by_cases h : v = d k
  · simpa only [Sparse.set, h, if_true] using he
  · simp only [Sparse.set, h, if_false]
    exact Sparse.wfFrom_place d h _ (fun p hp => by simpa using (List.mem_filter.mp hp).2) he (Nat.zero_le k)

end Sys2Proof.Machine
end

