-- ==== Sys2Proof/Laws/State.lean ====
section
/-! SUPPORT. What each small update of the state leaves as it is: one lemma for each field, true by unfolding. -/

namespace Sys2Proof.Machine

open Sys2Proof

@[simp] theorem State.setReg_pending (s : State) (off : Nat) (w : Word) : (s.setReg off w).pending = s.pending := rfl
@[simp] theorem State.setReg_now (s : State) (off : Nat) (w : Word) : (s.setReg off w).now = s.now := rfl
@[simp] theorem State.setReg_shadow (s : State) (off : Nat) (w : Word) : (s.setReg off w).shadow = s.shadow := rfl
@[simp] theorem State.setReg_applying (s : State) (off : Nat) (w : Word) : (s.setReg off w).applying = s.applying := rfl
@[simp] theorem State.setReg_holdLo (s : State) (off : Nat) (w : Word) : (s.setReg off w).holdLo = s.holdLo := rfl
@[simp] theorem State.setReg_latchHi (s : State) (off : Nat) (w : Word) : (s.setReg off w).latchHi = s.latchHi := rfl
@[simp] theorem State.setReg_readOut (s : State) (off : Nat) (w : Word) : (s.setReg off w).readOut = s.readOut := rfl
@[simp] theorem State.setReg_readPoisoned (s : State) (off : Nat) (w : Word) : (s.setReg off w).readPoisoned = s.readPoisoned := rfl
@[simp] theorem State.setReg_mem (s : State) (off : Nat) (w : Word) : (s.setReg off w).mem = s.mem := rfl
@[simp] theorem State.setReg_undef (s : State) (off : Nat) (w : Word) : (s.setReg off w).undef = s.undef := rfl
@[simp] theorem State.setReg_errs (s : State) (off : Nat) (w : Word) : (s.setReg off w).errs = s.errs := rfl
@[simp] theorem State.setReg_free (s : State) (off : Nat) (w : Word) : (s.setReg off w).free = s.free := rfl
@[simp] theorem State.setReg_grantNext (s : State) (off : Nat) (w : Word) : (s.setReg off w).grantNext = s.grantNext := rfl
@[simp] theorem State.setReg_cplPhase (s : State) (off : Nat) (w : Word) : (s.setReg off w).cplPhase = s.cplPhase := rfl
@[simp] theorem State.setReg_formatPosted (s : State) (off : Nat) (w : Word) : (s.setReg off w).formatPosted = s.formatPosted := rfl
@[simp] theorem State.setReg_stallRem (s : State) (off : Nat) (w : Word) : (s.setReg off w).stallRem = s.stallRem := rfl
@[simp] theorem State.setReg_readSeq (s : State) (off : Nat) (w : Word) : (s.setReg off w).readSeq = s.readSeq := rfl
@[simp] theorem State.setReg_entries (s : State) (off : Nat) (w : Word) : (s.setReg off w).entries = s.entries := rfl
@[simp] theorem State.setReg_slots (s : State) (off : Nat) (w : Word) : (s.setReg off w).slots = s.slots := rfl
@[simp] theorem State.setReg_irq (s : State) (off : Nat) (w : Word) : (s.setReg off w).irq = s.irq := rfl
@[simp] theorem State.setReg_pci (s : State) (off : Nat) (w : Word) : (s.setReg off w).pci = s.pci := rfl
@[simp] theorem State.setReg_errSeq (s : State) (off : Nat) (w : Word) : (s.setReg off w).errSeq = s.errSeq := rfl
@[simp] theorem State.setReg_merged (s : State) (off : Nat) (w : Word) : (s.setReg off w).merged = s.merged := rfl
@[simp] theorem State.setReg_replay (s : State) (off : Nat) (w : Word) : (s.setReg off w).replay = s.replay := rfl
@[simp] theorem State.setReg_fab (s : State) (off : Nat) (w : Word) : (s.setReg off w).fab = s.fab := rfl
@[simp] theorem State.setReg_pw (s : State) (off : Nat) (w : Word) : (s.setReg off w).pw = s.pw := rfl
@[simp] theorem State.setReg_graphs (s : State) (off : Nat) (w : Word) : (s.setReg off w).graphs = s.graphs := rfl
@[simp] theorem State.setReg_caches (s : State) (off : Nat) (w : Word) : (s.setReg off w).caches = s.caches := rfl
@[simp] theorem State.setReg_gath (s : State) (off : Nat) (w : Word) : (s.setReg off w).gath = s.gath := rfl
@[simp] theorem State.setReg_pgroups (s : State) (off : Nat) (w : Word) : (s.setReg off w).pgroups = s.pgroups := rfl
@[simp] theorem State.setReg_coll (s : State) (off : Nat) (w : Word) : (s.setReg off w).coll = s.coll := rfl
@[simp] theorem State.setReg_vstore (s : State) (off : Nat) (w : Word) : (s.setReg off w).vstore = s.vstore := rfl
@[simp] theorem State.setReg_replayNext (s : State) (off : Nat) (w : Word) : (s.setReg off w).replayNext = s.replayNext := rfl
@[simp] theorem State.setReg_power (s : State) (off : Nat) (w : Word) : (s.setReg off w).power = s.power := rfl
@[simp] theorem State.setReg_mgmt (s : State) (off : Nat) (w : Word) : (s.setReg off w).mgmt = s.mgmt := rfl
@[simp] theorem State.setReg_sec (s : State) (off : Nat) (w : Word) : (s.setReg off w).sec = s.sec := rfl
@[simp] theorem State.setReg_undertow (s : State) (off : Nat) (w : Word) : (s.setReg off w).undertow = s.undertow := rfl
@[simp] theorem State.setReg_stale (s : State) (off : Nat) (w : Word) : (s.setReg off w).stale = s.stale := rfl
@[simp] theorem State.setReg_scrub (s : State) (off : Nat) (w : Word) : (s.setReg off w).scrub = s.scrub := rfl
@[simp] theorem State.setReg_posted (s : State) (off : Nat) (w : Word) : (s.setReg off w).posted = s.posted := rfl
@[simp] theorem State.setReg_steps (s : State) (off : Nat) (w : Word) : (s.setReg off w).steps = s.steps := rfl
@[simp] theorem State.setReg_summary (s : State) (off : Nat) (w : Word) : (s.setReg off w).summary = s.summary := rfl
@[simp] theorem State.setReg_conts (s : State) (off : Nat) (w : Word) : (s.setReg off w).conts = s.conts := rfl

@[simp] theorem State.setField_pending (s : State) (off hi lo v : Nat) : (s.setField off hi lo v).pending = s.pending := rfl
@[simp] theorem State.setField_now (s : State) (off hi lo v : Nat) : (s.setField off hi lo v).now = s.now := rfl
@[simp] theorem State.setField_shadow (s : State) (off hi lo v : Nat) : (s.setField off hi lo v).shadow = s.shadow := rfl
@[simp] theorem State.setField_applying (s : State) (off hi lo v : Nat) : (s.setField off hi lo v).applying = s.applying := rfl
@[simp] theorem State.setField_holdLo (s : State) (off hi lo v : Nat) : (s.setField off hi lo v).holdLo = s.holdLo := rfl
@[simp] theorem State.setField_latchHi (s : State) (off hi lo v : Nat) : (s.setField off hi lo v).latchHi = s.latchHi := rfl
@[simp] theorem State.setField_readOut (s : State) (off hi lo v : Nat) : (s.setField off hi lo v).readOut = s.readOut := rfl
@[simp] theorem State.setField_readPoisoned (s : State) (off hi lo v : Nat) : (s.setField off hi lo v).readPoisoned = s.readPoisoned := rfl
@[simp] theorem State.setField_mem (s : State) (off hi lo v : Nat) : (s.setField off hi lo v).mem = s.mem := rfl
@[simp] theorem State.setField_undef (s : State) (off hi lo v : Nat) : (s.setField off hi lo v).undef = s.undef := rfl
@[simp] theorem State.setField_errs (s : State) (off hi lo v : Nat) : (s.setField off hi lo v).errs = s.errs := rfl
@[simp] theorem State.setField_free (s : State) (off hi lo v : Nat) : (s.setField off hi lo v).free = s.free := rfl
@[simp] theorem State.setField_grantNext (s : State) (off hi lo v : Nat) : (s.setField off hi lo v).grantNext = s.grantNext := rfl
@[simp] theorem State.setField_cplPhase (s : State) (off hi lo v : Nat) : (s.setField off hi lo v).cplPhase = s.cplPhase := rfl
@[simp] theorem State.setField_formatPosted (s : State) (off hi lo v : Nat) : (s.setField off hi lo v).formatPosted = s.formatPosted := rfl
@[simp] theorem State.setField_stallRem (s : State) (off hi lo v : Nat) : (s.setField off hi lo v).stallRem = s.stallRem := rfl
@[simp] theorem State.setField_readSeq (s : State) (off hi lo v : Nat) : (s.setField off hi lo v).readSeq = s.readSeq := rfl
@[simp] theorem State.setField_entries (s : State) (off hi lo v : Nat) : (s.setField off hi lo v).entries = s.entries := rfl
@[simp] theorem State.setField_slots (s : State) (off hi lo v : Nat) : (s.setField off hi lo v).slots = s.slots := rfl
@[simp] theorem State.setField_irq (s : State) (off hi lo v : Nat) : (s.setField off hi lo v).irq = s.irq := rfl
@[simp] theorem State.setField_pci (s : State) (off hi lo v : Nat) : (s.setField off hi lo v).pci = s.pci := rfl
@[simp] theorem State.setField_errSeq (s : State) (off hi lo v : Nat) : (s.setField off hi lo v).errSeq = s.errSeq := rfl
@[simp] theorem State.setField_merged (s : State) (off hi lo v : Nat) : (s.setField off hi lo v).merged = s.merged := rfl
@[simp] theorem State.setField_replay (s : State) (off hi lo v : Nat) : (s.setField off hi lo v).replay = s.replay := rfl
@[simp] theorem State.setField_fab (s : State) (off hi lo v : Nat) : (s.setField off hi lo v).fab = s.fab := rfl
@[simp] theorem State.setField_pw (s : State) (off hi lo v : Nat) : (s.setField off hi lo v).pw = s.pw := rfl
@[simp] theorem State.setField_graphs (s : State) (off hi lo v : Nat) : (s.setField off hi lo v).graphs = s.graphs := rfl
@[simp] theorem State.setField_caches (s : State) (off hi lo v : Nat) : (s.setField off hi lo v).caches = s.caches := rfl
@[simp] theorem State.setField_gath (s : State) (off hi lo v : Nat) : (s.setField off hi lo v).gath = s.gath := rfl
@[simp] theorem State.setField_pgroups (s : State) (off hi lo v : Nat) : (s.setField off hi lo v).pgroups = s.pgroups := rfl
@[simp] theorem State.setField_coll (s : State) (off hi lo v : Nat) : (s.setField off hi lo v).coll = s.coll := rfl
@[simp] theorem State.setField_vstore (s : State) (off hi lo v : Nat) : (s.setField off hi lo v).vstore = s.vstore := rfl
@[simp] theorem State.setField_replayNext (s : State) (off hi lo v : Nat) : (s.setField off hi lo v).replayNext = s.replayNext := rfl
@[simp] theorem State.setField_power (s : State) (off hi lo v : Nat) : (s.setField off hi lo v).power = s.power := rfl
@[simp] theorem State.setField_mgmt (s : State) (off hi lo v : Nat) : (s.setField off hi lo v).mgmt = s.mgmt := rfl
@[simp] theorem State.setField_sec (s : State) (off hi lo v : Nat) : (s.setField off hi lo v).sec = s.sec := rfl
@[simp] theorem State.setField_undertow (s : State) (off hi lo v : Nat) : (s.setField off hi lo v).undertow = s.undertow := rfl
@[simp] theorem State.setField_stale (s : State) (off hi lo v : Nat) : (s.setField off hi lo v).stale = s.stale := rfl
@[simp] theorem State.setField_scrub (s : State) (off hi lo v : Nat) : (s.setField off hi lo v).scrub = s.scrub := rfl
@[simp] theorem State.setField_posted (s : State) (off hi lo v : Nat) : (s.setField off hi lo v).posted = s.posted := rfl
@[simp] theorem State.setField_steps (s : State) (off hi lo v : Nat) : (s.setField off hi lo v).steps = s.steps := rfl
@[simp] theorem State.setField_summary (s : State) (off hi lo v : Nat) : (s.setField off hi lo v).summary = s.summary := rfl
@[simp] theorem State.setField_conts (s : State) (off hi lo v : Nat) : (s.setField off hi lo v).conts = s.conts := rfl

@[simp] theorem State.setBit_pending (s : State) (off i : Nat) (b : Bool) : (s.setBit off i b).pending = s.pending := rfl
@[simp] theorem State.setBit_now (s : State) (off i : Nat) (b : Bool) : (s.setBit off i b).now = s.now := rfl
@[simp] theorem State.setBit_shadow (s : State) (off i : Nat) (b : Bool) : (s.setBit off i b).shadow = s.shadow := rfl
@[simp] theorem State.setBit_applying (s : State) (off i : Nat) (b : Bool) : (s.setBit off i b).applying = s.applying := rfl
@[simp] theorem State.setBit_holdLo (s : State) (off i : Nat) (b : Bool) : (s.setBit off i b).holdLo = s.holdLo := rfl
@[simp] theorem State.setBit_latchHi (s : State) (off i : Nat) (b : Bool) : (s.setBit off i b).latchHi = s.latchHi := rfl
@[simp] theorem State.setBit_readOut (s : State) (off i : Nat) (b : Bool) : (s.setBit off i b).readOut = s.readOut := rfl
@[simp] theorem State.setBit_readPoisoned (s : State) (off i : Nat) (b : Bool) : (s.setBit off i b).readPoisoned = s.readPoisoned := rfl
@[simp] theorem State.setBit_mem (s : State) (off i : Nat) (b : Bool) : (s.setBit off i b).mem = s.mem := rfl
@[simp] theorem State.setBit_undef (s : State) (off i : Nat) (b : Bool) : (s.setBit off i b).undef = s.undef := rfl
@[simp] theorem State.setBit_errs (s : State) (off i : Nat) (b : Bool) : (s.setBit off i b).errs = s.errs := rfl
@[simp] theorem State.setBit_free (s : State) (off i : Nat) (b : Bool) : (s.setBit off i b).free = s.free := rfl
@[simp] theorem State.setBit_grantNext (s : State) (off i : Nat) (b : Bool) : (s.setBit off i b).grantNext = s.grantNext := rfl
@[simp] theorem State.setBit_cplPhase (s : State) (off i : Nat) (b : Bool) : (s.setBit off i b).cplPhase = s.cplPhase := rfl
@[simp] theorem State.setBit_formatPosted (s : State) (off i : Nat) (b : Bool) : (s.setBit off i b).formatPosted = s.formatPosted := rfl
@[simp] theorem State.setBit_stallRem (s : State) (off i : Nat) (b : Bool) : (s.setBit off i b).stallRem = s.stallRem := rfl
@[simp] theorem State.setBit_readSeq (s : State) (off i : Nat) (b : Bool) : (s.setBit off i b).readSeq = s.readSeq := rfl
@[simp] theorem State.setBit_entries (s : State) (off i : Nat) (b : Bool) : (s.setBit off i b).entries = s.entries := rfl
@[simp] theorem State.setBit_slots (s : State) (off i : Nat) (b : Bool) : (s.setBit off i b).slots = s.slots := rfl
@[simp] theorem State.setBit_irq (s : State) (off i : Nat) (b : Bool) : (s.setBit off i b).irq = s.irq := rfl
@[simp] theorem State.setBit_pci (s : State) (off i : Nat) (b : Bool) : (s.setBit off i b).pci = s.pci := rfl
@[simp] theorem State.setBit_errSeq (s : State) (off i : Nat) (b : Bool) : (s.setBit off i b).errSeq = s.errSeq := rfl
@[simp] theorem State.setBit_merged (s : State) (off i : Nat) (b : Bool) : (s.setBit off i b).merged = s.merged := rfl
@[simp] theorem State.setBit_replay (s : State) (off i : Nat) (b : Bool) : (s.setBit off i b).replay = s.replay := rfl
@[simp] theorem State.setBit_fab (s : State) (off i : Nat) (b : Bool) : (s.setBit off i b).fab = s.fab := rfl
@[simp] theorem State.setBit_pw (s : State) (off i : Nat) (b : Bool) : (s.setBit off i b).pw = s.pw := rfl
@[simp] theorem State.setBit_graphs (s : State) (off i : Nat) (b : Bool) : (s.setBit off i b).graphs = s.graphs := rfl
@[simp] theorem State.setBit_caches (s : State) (off i : Nat) (b : Bool) : (s.setBit off i b).caches = s.caches := rfl
@[simp] theorem State.setBit_gath (s : State) (off i : Nat) (b : Bool) : (s.setBit off i b).gath = s.gath := rfl
@[simp] theorem State.setBit_pgroups (s : State) (off i : Nat) (b : Bool) : (s.setBit off i b).pgroups = s.pgroups := rfl
@[simp] theorem State.setBit_coll (s : State) (off i : Nat) (b : Bool) : (s.setBit off i b).coll = s.coll := rfl
@[simp] theorem State.setBit_vstore (s : State) (off i : Nat) (b : Bool) : (s.setBit off i b).vstore = s.vstore := rfl
@[simp] theorem State.setBit_replayNext (s : State) (off i : Nat) (b : Bool) : (s.setBit off i b).replayNext = s.replayNext := rfl
@[simp] theorem State.setBit_power (s : State) (off i : Nat) (b : Bool) : (s.setBit off i b).power = s.power := rfl
@[simp] theorem State.setBit_mgmt (s : State) (off i : Nat) (b : Bool) : (s.setBit off i b).mgmt = s.mgmt := rfl
@[simp] theorem State.setBit_sec (s : State) (off i : Nat) (b : Bool) : (s.setBit off i b).sec = s.sec := rfl
@[simp] theorem State.setBit_undertow (s : State) (off i : Nat) (b : Bool) : (s.setBit off i b).undertow = s.undertow := rfl
@[simp] theorem State.setBit_stale (s : State) (off i : Nat) (b : Bool) : (s.setBit off i b).stale = s.stale := rfl
@[simp] theorem State.setBit_scrub (s : State) (off i : Nat) (b : Bool) : (s.setBit off i b).scrub = s.scrub := rfl
@[simp] theorem State.setBit_posted (s : State) (off i : Nat) (b : Bool) : (s.setBit off i b).posted = s.posted := rfl
@[simp] theorem State.setBit_steps (s : State) (off i : Nat) (b : Bool) : (s.setBit off i b).steps = s.steps := rfl
@[simp] theorem State.setBit_summary (s : State) (off i : Nat) (b : Bool) : (s.setBit off i b).summary = s.summary := rfl
@[simp] theorem State.setBit_conts (s : State) (off i : Nat) (b : Bool) : (s.setBit off i b).conts = s.conts := rfl

@[simp] theorem State.count_pending (s : State) (off k : Nat) : (s.count off k).pending = s.pending := rfl
@[simp] theorem State.count_now (s : State) (off k : Nat) : (s.count off k).now = s.now := rfl
@[simp] theorem State.count_shadow (s : State) (off k : Nat) : (s.count off k).shadow = s.shadow := rfl
@[simp] theorem State.count_applying (s : State) (off k : Nat) : (s.count off k).applying = s.applying := rfl
@[simp] theorem State.count_holdLo (s : State) (off k : Nat) : (s.count off k).holdLo = s.holdLo := rfl
@[simp] theorem State.count_latchHi (s : State) (off k : Nat) : (s.count off k).latchHi = s.latchHi := rfl
@[simp] theorem State.count_readOut (s : State) (off k : Nat) : (s.count off k).readOut = s.readOut := rfl
@[simp] theorem State.count_readPoisoned (s : State) (off k : Nat) : (s.count off k).readPoisoned = s.readPoisoned := rfl
@[simp] theorem State.count_mem (s : State) (off k : Nat) : (s.count off k).mem = s.mem := rfl
@[simp] theorem State.count_undef (s : State) (off k : Nat) : (s.count off k).undef = s.undef := rfl
@[simp] theorem State.count_errs (s : State) (off k : Nat) : (s.count off k).errs = s.errs := rfl
@[simp] theorem State.count_free (s : State) (off k : Nat) : (s.count off k).free = s.free := rfl
@[simp] theorem State.count_grantNext (s : State) (off k : Nat) : (s.count off k).grantNext = s.grantNext := rfl
@[simp] theorem State.count_cplPhase (s : State) (off k : Nat) : (s.count off k).cplPhase = s.cplPhase := rfl
@[simp] theorem State.count_formatPosted (s : State) (off k : Nat) : (s.count off k).formatPosted = s.formatPosted := rfl
@[simp] theorem State.count_stallRem (s : State) (off k : Nat) : (s.count off k).stallRem = s.stallRem := rfl
@[simp] theorem State.count_readSeq (s : State) (off k : Nat) : (s.count off k).readSeq = s.readSeq := rfl
@[simp] theorem State.count_entries (s : State) (off k : Nat) : (s.count off k).entries = s.entries := rfl
@[simp] theorem State.count_slots (s : State) (off k : Nat) : (s.count off k).slots = s.slots := rfl
@[simp] theorem State.count_irq (s : State) (off k : Nat) : (s.count off k).irq = s.irq := rfl
@[simp] theorem State.count_pci (s : State) (off k : Nat) : (s.count off k).pci = s.pci := rfl
@[simp] theorem State.count_errSeq (s : State) (off k : Nat) : (s.count off k).errSeq = s.errSeq := rfl
@[simp] theorem State.count_merged (s : State) (off k : Nat) : (s.count off k).merged = s.merged := rfl
@[simp] theorem State.count_replay (s : State) (off k : Nat) : (s.count off k).replay = s.replay := rfl
@[simp] theorem State.count_fab (s : State) (off k : Nat) : (s.count off k).fab = s.fab := rfl
@[simp] theorem State.count_pw (s : State) (off k : Nat) : (s.count off k).pw = s.pw := rfl
@[simp] theorem State.count_graphs (s : State) (off k : Nat) : (s.count off k).graphs = s.graphs := rfl
@[simp] theorem State.count_caches (s : State) (off k : Nat) : (s.count off k).caches = s.caches := rfl
@[simp] theorem State.count_gath (s : State) (off k : Nat) : (s.count off k).gath = s.gath := rfl
@[simp] theorem State.count_pgroups (s : State) (off k : Nat) : (s.count off k).pgroups = s.pgroups := rfl
@[simp] theorem State.count_coll (s : State) (off k : Nat) : (s.count off k).coll = s.coll := rfl
@[simp] theorem State.count_vstore (s : State) (off k : Nat) : (s.count off k).vstore = s.vstore := rfl
@[simp] theorem State.count_replayNext (s : State) (off k : Nat) : (s.count off k).replayNext = s.replayNext := rfl
@[simp] theorem State.count_power (s : State) (off k : Nat) : (s.count off k).power = s.power := rfl
@[simp] theorem State.count_mgmt (s : State) (off k : Nat) : (s.count off k).mgmt = s.mgmt := rfl
@[simp] theorem State.count_sec (s : State) (off k : Nat) : (s.count off k).sec = s.sec := rfl
@[simp] theorem State.count_undertow (s : State) (off k : Nat) : (s.count off k).undertow = s.undertow := rfl
@[simp] theorem State.count_stale (s : State) (off k : Nat) : (s.count off k).stale = s.stale := rfl
@[simp] theorem State.count_scrub (s : State) (off k : Nat) : (s.count off k).scrub = s.scrub := rfl
@[simp] theorem State.count_posted (s : State) (off k : Nat) : (s.count off k).posted = s.posted := rfl
@[simp] theorem State.count_steps (s : State) (off k : Nat) : (s.count off k).steps = s.steps := rfl
@[simp] theorem State.count_summary (s : State) (off k : Nat) : (s.count off k).summary = s.summary := rfl
@[simp] theorem State.count_conts (s : State) (off k : Nat) : (s.count off k).conts = s.conts := rfl

@[simp] theorem State.setPair_pending (s : State) (off v : Nat) : (s.setPair off v).pending = s.pending := rfl
@[simp] theorem State.setPair_now (s : State) (off v : Nat) : (s.setPair off v).now = s.now := rfl
@[simp] theorem State.setPair_shadow (s : State) (off v : Nat) : (s.setPair off v).shadow = s.shadow := rfl
@[simp] theorem State.setPair_applying (s : State) (off v : Nat) : (s.setPair off v).applying = s.applying := rfl
@[simp] theorem State.setPair_holdLo (s : State) (off v : Nat) : (s.setPair off v).holdLo = s.holdLo := rfl
@[simp] theorem State.setPair_latchHi (s : State) (off v : Nat) : (s.setPair off v).latchHi = s.latchHi := rfl
@[simp] theorem State.setPair_readOut (s : State) (off v : Nat) : (s.setPair off v).readOut = s.readOut := rfl
@[simp] theorem State.setPair_readPoisoned (s : State) (off v : Nat) : (s.setPair off v).readPoisoned = s.readPoisoned := rfl
@[simp] theorem State.setPair_mem (s : State) (off v : Nat) : (s.setPair off v).mem = s.mem := rfl
@[simp] theorem State.setPair_undef (s : State) (off v : Nat) : (s.setPair off v).undef = s.undef := rfl
@[simp] theorem State.setPair_errs (s : State) (off v : Nat) : (s.setPair off v).errs = s.errs := rfl
@[simp] theorem State.setPair_free (s : State) (off v : Nat) : (s.setPair off v).free = s.free := rfl
@[simp] theorem State.setPair_grantNext (s : State) (off v : Nat) : (s.setPair off v).grantNext = s.grantNext := rfl
@[simp] theorem State.setPair_cplPhase (s : State) (off v : Nat) : (s.setPair off v).cplPhase = s.cplPhase := rfl
@[simp] theorem State.setPair_formatPosted (s : State) (off v : Nat) : (s.setPair off v).formatPosted = s.formatPosted := rfl
@[simp] theorem State.setPair_stallRem (s : State) (off v : Nat) : (s.setPair off v).stallRem = s.stallRem := rfl
@[simp] theorem State.setPair_readSeq (s : State) (off v : Nat) : (s.setPair off v).readSeq = s.readSeq := rfl
@[simp] theorem State.setPair_entries (s : State) (off v : Nat) : (s.setPair off v).entries = s.entries := rfl
@[simp] theorem State.setPair_slots (s : State) (off v : Nat) : (s.setPair off v).slots = s.slots := rfl
@[simp] theorem State.setPair_irq (s : State) (off v : Nat) : (s.setPair off v).irq = s.irq := rfl
@[simp] theorem State.setPair_pci (s : State) (off v : Nat) : (s.setPair off v).pci = s.pci := rfl
@[simp] theorem State.setPair_errSeq (s : State) (off v : Nat) : (s.setPair off v).errSeq = s.errSeq := rfl
@[simp] theorem State.setPair_merged (s : State) (off v : Nat) : (s.setPair off v).merged = s.merged := rfl
@[simp] theorem State.setPair_replay (s : State) (off v : Nat) : (s.setPair off v).replay = s.replay := rfl
@[simp] theorem State.setPair_fab (s : State) (off v : Nat) : (s.setPair off v).fab = s.fab := rfl
@[simp] theorem State.setPair_pw (s : State) (off v : Nat) : (s.setPair off v).pw = s.pw := rfl
@[simp] theorem State.setPair_graphs (s : State) (off v : Nat) : (s.setPair off v).graphs = s.graphs := rfl
@[simp] theorem State.setPair_caches (s : State) (off v : Nat) : (s.setPair off v).caches = s.caches := rfl
@[simp] theorem State.setPair_gath (s : State) (off v : Nat) : (s.setPair off v).gath = s.gath := rfl
@[simp] theorem State.setPair_pgroups (s : State) (off v : Nat) : (s.setPair off v).pgroups = s.pgroups := rfl
@[simp] theorem State.setPair_coll (s : State) (off v : Nat) : (s.setPair off v).coll = s.coll := rfl
@[simp] theorem State.setPair_vstore (s : State) (off v : Nat) : (s.setPair off v).vstore = s.vstore := rfl
@[simp] theorem State.setPair_replayNext (s : State) (off v : Nat) : (s.setPair off v).replayNext = s.replayNext := rfl
@[simp] theorem State.setPair_power (s : State) (off v : Nat) : (s.setPair off v).power = s.power := rfl
@[simp] theorem State.setPair_mgmt (s : State) (off v : Nat) : (s.setPair off v).mgmt = s.mgmt := rfl
@[simp] theorem State.setPair_sec (s : State) (off v : Nat) : (s.setPair off v).sec = s.sec := rfl
@[simp] theorem State.setPair_undertow (s : State) (off v : Nat) : (s.setPair off v).undertow = s.undertow := rfl
@[simp] theorem State.setPair_stale (s : State) (off v : Nat) : (s.setPair off v).stale = s.stale := rfl
@[simp] theorem State.setPair_scrub (s : State) (off v : Nat) : (s.setPair off v).scrub = s.scrub := rfl
@[simp] theorem State.setPair_posted (s : State) (off v : Nat) : (s.setPair off v).posted = s.posted := rfl
@[simp] theorem State.setPair_steps (s : State) (off v : Nat) : (s.setPair off v).steps = s.steps := rfl
@[simp] theorem State.setPair_summary (s : State) (off v : Nat) : (s.setPair off v).summary = s.summary := rfl
@[simp] theorem State.setPair_conts (s : State) (off v : Nat) : (s.setPair off v).conts = s.conts := rfl

@[simp] theorem setEntry_pending (s : State) (t : Nat) (f : Entry → Entry) : (setEntry s t f).pending = s.pending := rfl
@[simp] theorem setEntry_now (s : State) (t : Nat) (f : Entry → Entry) : (setEntry s t f).now = s.now := rfl
@[simp] theorem setEntry_regs (s : State) (t : Nat) (f : Entry → Entry) : (setEntry s t f).regs = s.regs := rfl
@[simp] theorem setEntry_shadow (s : State) (t : Nat) (f : Entry → Entry) : (setEntry s t f).shadow = s.shadow := rfl
@[simp] theorem setEntry_applying (s : State) (t : Nat) (f : Entry → Entry) : (setEntry s t f).applying = s.applying := rfl
@[simp] theorem setEntry_holdLo (s : State) (t : Nat) (f : Entry → Entry) : (setEntry s t f).holdLo = s.holdLo := rfl
@[simp] theorem setEntry_latchHi (s : State) (t : Nat) (f : Entry → Entry) : (setEntry s t f).latchHi = s.latchHi := rfl
@[simp] theorem setEntry_readOut (s : State) (t : Nat) (f : Entry → Entry) : (setEntry s t f).readOut = s.readOut := rfl
@[simp] theorem setEntry_readPoisoned (s : State) (t : Nat) (f : Entry → Entry) : (setEntry s t f).readPoisoned = s.readPoisoned := rfl
@[simp] theorem setEntry_mem (s : State) (t : Nat) (f : Entry → Entry) : (setEntry s t f).mem = s.mem := rfl
@[simp] theorem setEntry_undef (s : State) (t : Nat) (f : Entry → Entry) : (setEntry s t f).undef = s.undef := rfl
@[simp] theorem setEntry_errs (s : State) (t : Nat) (f : Entry → Entry) : (setEntry s t f).errs = s.errs := rfl
@[simp] theorem setEntry_free (s : State) (t : Nat) (f : Entry → Entry) : (setEntry s t f).free = s.free := rfl
@[simp] theorem setEntry_grantNext (s : State) (t : Nat) (f : Entry → Entry) : (setEntry s t f).grantNext = s.grantNext := rfl
@[simp] theorem setEntry_cplPhase (s : State) (t : Nat) (f : Entry → Entry) : (setEntry s t f).cplPhase = s.cplPhase := rfl
@[simp] theorem setEntry_formatPosted (s : State) (t : Nat) (f : Entry → Entry) : (setEntry s t f).formatPosted = s.formatPosted := rfl
@[simp] theorem setEntry_stallRem (s : State) (t : Nat) (f : Entry → Entry) : (setEntry s t f).stallRem = s.stallRem := rfl
@[simp] theorem setEntry_readSeq (s : State) (t : Nat) (f : Entry → Entry) : (setEntry s t f).readSeq = s.readSeq := rfl
@[simp] theorem setEntry_slots (s : State) (t : Nat) (f : Entry → Entry) : (setEntry s t f).slots = s.slots := rfl
@[simp] theorem setEntry_irq (s : State) (t : Nat) (f : Entry → Entry) : (setEntry s t f).irq = s.irq := rfl
@[simp] theorem setEntry_pci (s : State) (t : Nat) (f : Entry → Entry) : (setEntry s t f).pci = s.pci := rfl
@[simp] theorem setEntry_errSeq (s : State) (t : Nat) (f : Entry → Entry) : (setEntry s t f).errSeq = s.errSeq := rfl
@[simp] theorem setEntry_merged (s : State) (t : Nat) (f : Entry → Entry) : (setEntry s t f).merged = s.merged := rfl
@[simp] theorem setEntry_replay (s : State) (t : Nat) (f : Entry → Entry) : (setEntry s t f).replay = s.replay := rfl
@[simp] theorem setEntry_fab (s : State) (t : Nat) (f : Entry → Entry) : (setEntry s t f).fab = s.fab := rfl
@[simp] theorem setEntry_pw (s : State) (t : Nat) (f : Entry → Entry) : (setEntry s t f).pw = s.pw := rfl
@[simp] theorem setEntry_graphs (s : State) (t : Nat) (f : Entry → Entry) : (setEntry s t f).graphs = s.graphs := rfl
@[simp] theorem setEntry_caches (s : State) (t : Nat) (f : Entry → Entry) : (setEntry s t f).caches = s.caches := rfl
@[simp] theorem setEntry_gath (s : State) (t : Nat) (f : Entry → Entry) : (setEntry s t f).gath = s.gath := rfl
@[simp] theorem setEntry_pgroups (s : State) (t : Nat) (f : Entry → Entry) : (setEntry s t f).pgroups = s.pgroups := rfl
@[simp] theorem setEntry_coll (s : State) (t : Nat) (f : Entry → Entry) : (setEntry s t f).coll = s.coll := rfl
@[simp] theorem setEntry_vstore (s : State) (t : Nat) (f : Entry → Entry) : (setEntry s t f).vstore = s.vstore := rfl
@[simp] theorem setEntry_replayNext (s : State) (t : Nat) (f : Entry → Entry) : (setEntry s t f).replayNext = s.replayNext := rfl
@[simp] theorem setEntry_power (s : State) (t : Nat) (f : Entry → Entry) : (setEntry s t f).power = s.power := rfl
@[simp] theorem setEntry_mgmt (s : State) (t : Nat) (f : Entry → Entry) : (setEntry s t f).mgmt = s.mgmt := rfl
@[simp] theorem setEntry_sec (s : State) (t : Nat) (f : Entry → Entry) : (setEntry s t f).sec = s.sec := rfl
@[simp] theorem setEntry_undertow (s : State) (t : Nat) (f : Entry → Entry) : (setEntry s t f).undertow = s.undertow := rfl
@[simp] theorem setEntry_stale (s : State) (t : Nat) (f : Entry → Entry) : (setEntry s t f).stale = s.stale := rfl
@[simp] theorem setEntry_scrub (s : State) (t : Nat) (f : Entry → Entry) : (setEntry s t f).scrub = s.scrub := rfl
@[simp] theorem setEntry_posted (s : State) (t : Nat) (f : Entry → Entry) : (setEntry s t f).posted = s.posted := rfl
@[simp] theorem setEntry_steps (s : State) (t : Nat) (f : Entry → Entry) : (setEntry s t f).steps = s.steps := rfl
@[simp] theorem setEntry_summary (s : State) (t : Nat) (f : Entry → Entry) : (setEntry s t f).summary = s.summary := rfl
@[simp] theorem setEntry_conts (s : State) (t : Nat) (f : Entry → Entry) : (setEntry s t f).conts = s.conts := rfl

@[simp] theorem freeEntry_pending (s : State) (t : Nat) : (freeEntry s t).pending = s.pending := rfl
@[simp] theorem freeEntry_now (s : State) (t : Nat) : (freeEntry s t).now = s.now := rfl
@[simp] theorem freeEntry_regs (s : State) (t : Nat) : (freeEntry s t).regs = s.regs := rfl
@[simp] theorem freeEntry_shadow (s : State) (t : Nat) : (freeEntry s t).shadow = s.shadow := rfl
@[simp] theorem freeEntry_applying (s : State) (t : Nat) : (freeEntry s t).applying = s.applying := rfl
@[simp] theorem freeEntry_holdLo (s : State) (t : Nat) : (freeEntry s t).holdLo = s.holdLo := rfl
@[simp] theorem freeEntry_latchHi (s : State) (t : Nat) : (freeEntry s t).latchHi = s.latchHi := rfl
@[simp] theorem freeEntry_readOut (s : State) (t : Nat) : (freeEntry s t).readOut = s.readOut := rfl
@[simp] theorem freeEntry_readPoisoned (s : State) (t : Nat) : (freeEntry s t).readPoisoned = s.readPoisoned := rfl
@[simp] theorem freeEntry_mem (s : State) (t : Nat) : (freeEntry s t).mem = s.mem := rfl
@[simp] theorem freeEntry_undef (s : State) (t : Nat) : (freeEntry s t).undef = s.undef := rfl
@[simp] theorem freeEntry_errs (s : State) (t : Nat) : (freeEntry s t).errs = s.errs := rfl
@[simp] theorem freeEntry_free (s : State) (t : Nat) : (freeEntry s t).free = s.free := rfl
@[simp] theorem freeEntry_grantNext (s : State) (t : Nat) : (freeEntry s t).grantNext = s.grantNext := rfl
@[simp] theorem freeEntry_cplPhase (s : State) (t : Nat) : (freeEntry s t).cplPhase = s.cplPhase := rfl
@[simp] theorem freeEntry_formatPosted (s : State) (t : Nat) : (freeEntry s t).formatPosted = s.formatPosted := rfl
@[simp] theorem freeEntry_stallRem (s : State) (t : Nat) : (freeEntry s t).stallRem = s.stallRem := rfl
@[simp] theorem freeEntry_readSeq (s : State) (t : Nat) : (freeEntry s t).readSeq = s.readSeq := rfl
@[simp] theorem freeEntry_slots (s : State) (t : Nat) : (freeEntry s t).slots = s.slots := rfl
@[simp] theorem freeEntry_irq (s : State) (t : Nat) : (freeEntry s t).irq = s.irq := rfl
@[simp] theorem freeEntry_pci (s : State) (t : Nat) : (freeEntry s t).pci = s.pci := rfl
@[simp] theorem freeEntry_errSeq (s : State) (t : Nat) : (freeEntry s t).errSeq = s.errSeq := rfl
@[simp] theorem freeEntry_merged (s : State) (t : Nat) : (freeEntry s t).merged = s.merged := rfl
@[simp] theorem freeEntry_replay (s : State) (t : Nat) : (freeEntry s t).replay = s.replay := rfl
@[simp] theorem freeEntry_fab (s : State) (t : Nat) : (freeEntry s t).fab = s.fab := rfl
@[simp] theorem freeEntry_pw (s : State) (t : Nat) : (freeEntry s t).pw = s.pw := rfl
@[simp] theorem freeEntry_graphs (s : State) (t : Nat) : (freeEntry s t).graphs = s.graphs := rfl
@[simp] theorem freeEntry_caches (s : State) (t : Nat) : (freeEntry s t).caches = s.caches := rfl
@[simp] theorem freeEntry_gath (s : State) (t : Nat) : (freeEntry s t).gath = s.gath := rfl
@[simp] theorem freeEntry_pgroups (s : State) (t : Nat) : (freeEntry s t).pgroups = s.pgroups := rfl
@[simp] theorem freeEntry_coll (s : State) (t : Nat) : (freeEntry s t).coll = s.coll := rfl
@[simp] theorem freeEntry_vstore (s : State) (t : Nat) : (freeEntry s t).vstore = s.vstore := rfl
@[simp] theorem freeEntry_replayNext (s : State) (t : Nat) : (freeEntry s t).replayNext = s.replayNext := rfl
@[simp] theorem freeEntry_power (s : State) (t : Nat) : (freeEntry s t).power = s.power := rfl
@[simp] theorem freeEntry_mgmt (s : State) (t : Nat) : (freeEntry s t).mgmt = s.mgmt := rfl
@[simp] theorem freeEntry_sec (s : State) (t : Nat) : (freeEntry s t).sec = s.sec := rfl
@[simp] theorem freeEntry_undertow (s : State) (t : Nat) : (freeEntry s t).undertow = s.undertow := rfl
@[simp] theorem freeEntry_stale (s : State) (t : Nat) : (freeEntry s t).stale = s.stale := rfl
@[simp] theorem freeEntry_scrub (s : State) (t : Nat) : (freeEntry s t).scrub = s.scrub := rfl
@[simp] theorem freeEntry_posted (s : State) (t : Nat) : (freeEntry s t).posted = s.posted := rfl
@[simp] theorem freeEntry_steps (s : State) (t : Nat) : (freeEntry s t).steps = s.steps := rfl
@[simp] theorem freeEntry_summary (s : State) (t : Nat) : (freeEntry s t).summary = s.summary := rfl
@[simp] theorem freeEntry_conts (s : State) (t : Nat) : (freeEntry s t).conts = s.conts := rfl

@[simp] theorem State.setPort_pending (s : State) (p : Nat) (f : PortState → PortState) : (s.setPort p f).pending = s.pending := rfl
@[simp] theorem State.setPort_now (s : State) (p : Nat) (f : PortState → PortState) : (s.setPort p f).now = s.now := rfl
@[simp] theorem State.setPort_regs (s : State) (p : Nat) (f : PortState → PortState) : (s.setPort p f).regs = s.regs := rfl
@[simp] theorem State.setPort_shadow (s : State) (p : Nat) (f : PortState → PortState) : (s.setPort p f).shadow = s.shadow := rfl
@[simp] theorem State.setPort_applying (s : State) (p : Nat) (f : PortState → PortState) : (s.setPort p f).applying = s.applying := rfl
@[simp] theorem State.setPort_holdLo (s : State) (p : Nat) (f : PortState → PortState) : (s.setPort p f).holdLo = s.holdLo := rfl
@[simp] theorem State.setPort_latchHi (s : State) (p : Nat) (f : PortState → PortState) : (s.setPort p f).latchHi = s.latchHi := rfl
@[simp] theorem State.setPort_readOut (s : State) (p : Nat) (f : PortState → PortState) : (s.setPort p f).readOut = s.readOut := rfl
@[simp] theorem State.setPort_readPoisoned (s : State) (p : Nat) (f : PortState → PortState) : (s.setPort p f).readPoisoned = s.readPoisoned := rfl
@[simp] theorem State.setPort_mem (s : State) (p : Nat) (f : PortState → PortState) : (s.setPort p f).mem = s.mem := rfl
@[simp] theorem State.setPort_undef (s : State) (p : Nat) (f : PortState → PortState) : (s.setPort p f).undef = s.undef := rfl
@[simp] theorem State.setPort_errs (s : State) (p : Nat) (f : PortState → PortState) : (s.setPort p f).errs = s.errs := rfl
@[simp] theorem State.setPort_free (s : State) (p : Nat) (f : PortState → PortState) : (s.setPort p f).free = s.free := rfl
@[simp] theorem State.setPort_grantNext (s : State) (p : Nat) (f : PortState → PortState) : (s.setPort p f).grantNext = s.grantNext := rfl
@[simp] theorem State.setPort_cplPhase (s : State) (p : Nat) (f : PortState → PortState) : (s.setPort p f).cplPhase = s.cplPhase := rfl
@[simp] theorem State.setPort_formatPosted (s : State) (p : Nat) (f : PortState → PortState) : (s.setPort p f).formatPosted = s.formatPosted := rfl
@[simp] theorem State.setPort_stallRem (s : State) (p : Nat) (f : PortState → PortState) : (s.setPort p f).stallRem = s.stallRem := rfl
@[simp] theorem State.setPort_readSeq (s : State) (p : Nat) (f : PortState → PortState) : (s.setPort p f).readSeq = s.readSeq := rfl
@[simp] theorem State.setPort_entries (s : State) (p : Nat) (f : PortState → PortState) : (s.setPort p f).entries = s.entries := rfl
@[simp] theorem State.setPort_slots (s : State) (p : Nat) (f : PortState → PortState) : (s.setPort p f).slots = s.slots := rfl
@[simp] theorem State.setPort_irq (s : State) (p : Nat) (f : PortState → PortState) : (s.setPort p f).irq = s.irq := rfl
@[simp] theorem State.setPort_pci (s : State) (p : Nat) (f : PortState → PortState) : (s.setPort p f).pci = s.pci := rfl
@[simp] theorem State.setPort_errSeq (s : State) (p : Nat) (f : PortState → PortState) : (s.setPort p f).errSeq = s.errSeq := rfl
@[simp] theorem State.setPort_merged (s : State) (p : Nat) (f : PortState → PortState) : (s.setPort p f).merged = s.merged := rfl
@[simp] theorem State.setPort_replay (s : State) (p : Nat) (f : PortState → PortState) : (s.setPort p f).replay = s.replay := rfl
@[simp] theorem State.setPort_pw (s : State) (p : Nat) (f : PortState → PortState) : (s.setPort p f).pw = s.pw := rfl
@[simp] theorem State.setPort_graphs (s : State) (p : Nat) (f : PortState → PortState) : (s.setPort p f).graphs = s.graphs := rfl
@[simp] theorem State.setPort_caches (s : State) (p : Nat) (f : PortState → PortState) : (s.setPort p f).caches = s.caches := rfl
@[simp] theorem State.setPort_gath (s : State) (p : Nat) (f : PortState → PortState) : (s.setPort p f).gath = s.gath := rfl
@[simp] theorem State.setPort_pgroups (s : State) (p : Nat) (f : PortState → PortState) : (s.setPort p f).pgroups = s.pgroups := rfl
@[simp] theorem State.setPort_coll (s : State) (p : Nat) (f : PortState → PortState) : (s.setPort p f).coll = s.coll := rfl
@[simp] theorem State.setPort_vstore (s : State) (p : Nat) (f : PortState → PortState) : (s.setPort p f).vstore = s.vstore := rfl
@[simp] theorem State.setPort_replayNext (s : State) (p : Nat) (f : PortState → PortState) : (s.setPort p f).replayNext = s.replayNext := rfl
@[simp] theorem State.setPort_power (s : State) (p : Nat) (f : PortState → PortState) : (s.setPort p f).power = s.power := rfl
@[simp] theorem State.setPort_mgmt (s : State) (p : Nat) (f : PortState → PortState) : (s.setPort p f).mgmt = s.mgmt := rfl
@[simp] theorem State.setPort_sec (s : State) (p : Nat) (f : PortState → PortState) : (s.setPort p f).sec = s.sec := rfl
@[simp] theorem State.setPort_undertow (s : State) (p : Nat) (f : PortState → PortState) : (s.setPort p f).undertow = s.undertow := rfl
@[simp] theorem State.setPort_stale (s : State) (p : Nat) (f : PortState → PortState) : (s.setPort p f).stale = s.stale := rfl
@[simp] theorem State.setPort_scrub (s : State) (p : Nat) (f : PortState → PortState) : (s.setPort p f).scrub = s.scrub := rfl
@[simp] theorem State.setPort_posted (s : State) (p : Nat) (f : PortState → PortState) : (s.setPort p f).posted = s.posted := rfl
@[simp] theorem State.setPort_steps (s : State) (p : Nat) (f : PortState → PortState) : (s.setPort p f).steps = s.steps := rfl
@[simp] theorem State.setPort_summary (s : State) (p : Nat) (f : PortState → PortState) : (s.setPort p f).summary = s.summary := rfl
@[simp] theorem State.setPort_conts (s : State) (p : Nat) (f : PortState → PortState) : (s.setPort p f).conts = s.conts := rfl

@[simp] theorem putByte_pending (s : State) (k : Nat) (b : Byte) : (putByte s k b).pending = s.pending := rfl
@[simp] theorem putByte_now (s : State) (k : Nat) (b : Byte) : (putByte s k b).now = s.now := rfl
@[simp] theorem putByte_regs (s : State) (k : Nat) (b : Byte) : (putByte s k b).regs = s.regs := rfl
@[simp] theorem putByte_shadow (s : State) (k : Nat) (b : Byte) : (putByte s k b).shadow = s.shadow := rfl
@[simp] theorem putByte_applying (s : State) (k : Nat) (b : Byte) : (putByte s k b).applying = s.applying := rfl
@[simp] theorem putByte_holdLo (s : State) (k : Nat) (b : Byte) : (putByte s k b).holdLo = s.holdLo := rfl
@[simp] theorem putByte_latchHi (s : State) (k : Nat) (b : Byte) : (putByte s k b).latchHi = s.latchHi := rfl
@[simp] theorem putByte_readOut (s : State) (k : Nat) (b : Byte) : (putByte s k b).readOut = s.readOut := rfl
@[simp] theorem putByte_readPoisoned (s : State) (k : Nat) (b : Byte) : (putByte s k b).readPoisoned = s.readPoisoned := rfl
@[simp] theorem putByte_errs (s : State) (k : Nat) (b : Byte) : (putByte s k b).errs = s.errs := rfl
@[simp] theorem putByte_free (s : State) (k : Nat) (b : Byte) : (putByte s k b).free = s.free := rfl
@[simp] theorem putByte_grantNext (s : State) (k : Nat) (b : Byte) : (putByte s k b).grantNext = s.grantNext := rfl
@[simp] theorem putByte_cplPhase (s : State) (k : Nat) (b : Byte) : (putByte s k b).cplPhase = s.cplPhase := rfl
@[simp] theorem putByte_formatPosted (s : State) (k : Nat) (b : Byte) : (putByte s k b).formatPosted = s.formatPosted := rfl
@[simp] theorem putByte_stallRem (s : State) (k : Nat) (b : Byte) : (putByte s k b).stallRem = s.stallRem := rfl
@[simp] theorem putByte_readSeq (s : State) (k : Nat) (b : Byte) : (putByte s k b).readSeq = s.readSeq := rfl
@[simp] theorem putByte_entries (s : State) (k : Nat) (b : Byte) : (putByte s k b).entries = s.entries := rfl
@[simp] theorem putByte_slots (s : State) (k : Nat) (b : Byte) : (putByte s k b).slots = s.slots := rfl
@[simp] theorem putByte_irq (s : State) (k : Nat) (b : Byte) : (putByte s k b).irq = s.irq := rfl
@[simp] theorem putByte_pci (s : State) (k : Nat) (b : Byte) : (putByte s k b).pci = s.pci := rfl
@[simp] theorem putByte_errSeq (s : State) (k : Nat) (b : Byte) : (putByte s k b).errSeq = s.errSeq := rfl
@[simp] theorem putByte_merged (s : State) (k : Nat) (b : Byte) : (putByte s k b).merged = s.merged := rfl
@[simp] theorem putByte_replay (s : State) (k : Nat) (b : Byte) : (putByte s k b).replay = s.replay := rfl
@[simp] theorem putByte_fab (s : State) (k : Nat) (b : Byte) : (putByte s k b).fab = s.fab := rfl
@[simp] theorem putByte_pw (s : State) (k : Nat) (b : Byte) : (putByte s k b).pw = s.pw := rfl
@[simp] theorem putByte_graphs (s : State) (k : Nat) (b : Byte) : (putByte s k b).graphs = s.graphs := rfl
@[simp] theorem putByte_caches (s : State) (k : Nat) (b : Byte) : (putByte s k b).caches = s.caches := rfl
@[simp] theorem putByte_gath (s : State) (k : Nat) (b : Byte) : (putByte s k b).gath = s.gath := rfl
@[simp] theorem putByte_pgroups (s : State) (k : Nat) (b : Byte) : (putByte s k b).pgroups = s.pgroups := rfl
@[simp] theorem putByte_coll (s : State) (k : Nat) (b : Byte) : (putByte s k b).coll = s.coll := rfl
@[simp] theorem putByte_vstore (s : State) (k : Nat) (b : Byte) : (putByte s k b).vstore = s.vstore := rfl
@[simp] theorem putByte_replayNext (s : State) (k : Nat) (b : Byte) : (putByte s k b).replayNext = s.replayNext := rfl
@[simp] theorem putByte_power (s : State) (k : Nat) (b : Byte) : (putByte s k b).power = s.power := rfl
@[simp] theorem putByte_mgmt (s : State) (k : Nat) (b : Byte) : (putByte s k b).mgmt = s.mgmt := rfl
@[simp] theorem putByte_sec (s : State) (k : Nat) (b : Byte) : (putByte s k b).sec = s.sec := rfl
@[simp] theorem putByte_undertow (s : State) (k : Nat) (b : Byte) : (putByte s k b).undertow = s.undertow := rfl
@[simp] theorem putByte_stale (s : State) (k : Nat) (b : Byte) : (putByte s k b).stale = s.stale := rfl
@[simp] theorem putByte_scrub (s : State) (k : Nat) (b : Byte) : (putByte s k b).scrub = s.scrub := rfl
@[simp] theorem putByte_posted (s : State) (k : Nat) (b : Byte) : (putByte s k b).posted = s.posted := rfl
@[simp] theorem putByte_steps (s : State) (k : Nat) (b : Byte) : (putByte s k b).steps = s.steps := rfl
@[simp] theorem putByte_summary (s : State) (k : Nat) (b : Byte) : (putByte s k b).summary = s.summary := rfl
@[simp] theorem putByte_conts (s : State) (k : Nat) (b : Byte) : (putByte s k b).conts = s.conts := rfl

end Sys2Proof.Machine
end

