-- ==== Sys2Proof/Laws/Regs.lean ====
section
/-! SUPPORT. Registers: a read after a write, of the whole word, of a field and of a bit. -/

namespace Sys2Proof.Machine

open Sys2Proof

/-! ## Fields of words -/

theorem testBit_maskOf (hi lo i : Nat) : (maskOf hi lo).testBit i = decide (lo ≤ i ∧ i < hi + 1) := by
  unfold maskOf
  rw [Nat.testBit_shiftLeft, Nat.testBit_two_pow_sub_one]
  by_cases h : lo ≤ i <;> simp [h]; omega

theorem testBit_lt_of_32 {n i : Nat} (h : n < 2 ^ 32) (hi : n.testBit i = true) : i < 32 := by
  by_contra hc
  have h2 := Nat.testBit_lt_two_pow (Nat.lt_of_lt_of_le h (Nat.pow_le_pow_right (by decide) (Nat.not_lt.mp hc)))
  simp [h2] at hi

/-- A bit of a word with a field replaced: the field's new bit inside it, the old bit outside. -/
theorem flag_setFld (w : Word) (hi lo v i : Nat) (h : i < 32) :
    flag (setFld w hi lo v) i = if lo ≤ i ∧ i ≤ hi then v.testBit (i - lo) else flag w i := by
  unfold flag setFld
  rw [BitVec.toNat_ofNat, Nat.testBit_mod_two_pow]
  have h1 : (0xFFFFFFFF : Nat) = 2 ^ 32 - 1 := rfl
  rw [Nat.testBit_or, Nat.testBit_and, Nat.testBit_xor, testBit_maskOf, h1, Nat.testBit_two_pow_sub_one, Nat.testBit_shiftLeft,
    Nat.testBit_mod_two_pow]
  by_cases ha : lo ≤ i
  · by_cases hb : i ≤ hi
    · have hc : i < hi + 1 := by omega
      have hd : i - lo < hi + 1 - lo := by omega
      simp [h, ha, hb, hc, hd]
    · have hc : ¬ i < hi + 1 := by omega
      have hd : ¬ i - lo < hi + 1 - lo := by omega
      simp [h, ha, hb, hc, hd]
  · simp [h, ha]

theorem fld_testBit (w : Word) (hi lo i : Nat) : (fld w hi lo).testBit i = (decide (i < hi + 1 - lo) && w.toNat.testBit (lo + i)) := by
  unfold fld bits
  rw [Nat.testBit_mod_two_pow, Nat.testBit_shiftRight]

/-- The field just written. -/
theorem fld_setFld (w : Word) (hi lo v : Nat) (h : hi < 32) : fld (setFld w hi lo v) hi lo = v % 2 ^ (hi + 1 - lo) := by
  apply Nat.eq_of_testBit_eq
  intro i
  rw [fld_testBit, Nat.testBit_mod_two_pow]
  by_cases hb : i < hi + 1 - lo
  · have := flag_setFld w hi lo v (lo + i) (by omega)
    unfold flag at this
    rw [this]
    have h3 : lo + i ≤ hi := by omega
    simp [hb, h3]
  · simp [hb]

/-- A field that shares no bit with the one written. -/
theorem fld_setFld_ne (w : Word) (hi lo v hi2 lo2 : Nat) (h : hi2 < 32) (hd : hi < lo2 ∨ hi2 < lo) :
    fld (setFld w hi lo v) hi2 lo2 = fld w hi2 lo2 := by
  apply Nat.eq_of_testBit_eq
  intro i
  rw [fld_testBit, fld_testBit]
  by_cases hb : i < hi2 + 1 - lo2
  · have := flag_setFld w hi lo v (lo2 + i) (by omega)
    unfold flag at this
    rw [this]
    have h3 : ¬ (lo ≤ lo2 + i ∧ lo2 + i ≤ hi) := by omega
    rw [if_neg h3]
  · simp [hb]

/-- A bit of a word with a bit set or cleared. -/
theorem flag_setFlag (w : Word) (i : Nat) (b : Bool) (j : Nat) (h : j < 32) :
    flag (setFlag w i b) j = if j = i then b else flag w j := by
  unfold setFlag
  rw [flag_setFld w i i _ j h]
  by_cases hj : j = i
  · subst hj; cases b <;> simp
  · have : ¬ (i ≤ j ∧ j ≤ i) := by omega
    rw [if_neg this, if_neg hj]

theorem fld_lt (w : Word) (hi lo : Nat) : fld w hi lo < 2 ^ (hi + 1 - lo) := Nat.mod_lt _ (Nat.two_pow_pos _)

/-! ## Registers -/

/-- A read of a register after a write of one. -/
theorem reg_setReg (s : State) (off : Nat) (w : Word) (j : Nat) : (s.setReg off w).reg j = if j = off then w else s.reg j :=
  Sparse.get_set resetWord s.regs off w j

@[simp] theorem reg_setReg_same (s : State) (off : Nat) (w : Word) : (s.setReg off w).reg off = w := by simp [reg_setReg]

theorem reg_setReg_ne (s : State) {off j : Nat} (w : Word) (h : j ≠ off) : (s.setReg off w).reg j = s.reg j := by simp [reg_setReg, h]

theorem reg_setField (s : State) (off hi lo v j : Nat) :
    (s.setField off hi lo v).reg j = if j = off then setFld (s.reg off) hi lo v else s.reg j := reg_setReg _ _ _ _

theorem reg_setBit (s : State) (off i : Nat) (b : Bool) (j : Nat) :
    (s.setBit off i b).reg j = if j = off then setFlag (s.reg off) i b else s.reg j := reg_setReg _ _ _ _

theorem reg_count (s : State) (off k j : Nat) :
    (s.count off k).reg j = if j = off then BitVec.ofNat 32 (satAdd32 (s.reg off).toNat k) else s.reg j := reg_setReg _ _ _ _

/-- A register counter after it has counted. -/
theorem toNat_count (s : State) (off k : Nat) : ((s.count off k).reg off).toNat = satAdd32 (s.reg off).toNat k := by
  have h : satAdd32 (s.reg off).toNat k < 2 ^ 32 := by unfold satAdd32; split <;> omega
  simpa [reg_count] using h

/-- States with the same registers read them alike. -/
theorem reg_congr {s t : State} (h : s.regs = t.regs) (j : Nat) : s.reg j = t.reg j := by simp [State.reg, h]

/-- A field just written. -/
theorem fieldAt_setField (s : State) (off hi lo v : Nat) (h : hi < 32) :
    (s.setField off hi lo v).fieldAt off hi lo = v % 2 ^ (hi + 1 - lo) := by
  simp [State.fieldAt, reg_setField, fld_setFld _ _ _ _ h]

/-- A field of another register, or that shares no bit with the one written. -/
theorem fieldAt_setField_ne (s : State) (off hi lo v off2 hi2 lo2 : Nat) (h : hi2 < 32) (hd : off2 ≠ off ∨ hi < lo2 ∨ hi2 < lo) :
    (s.setField off hi lo v).fieldAt off2 hi2 lo2 = s.fieldAt off2 hi2 lo2 := by
  unfold State.fieldAt
  rw [reg_setField]
  split
  · rename_i he; subst he; exact fld_setFld_ne _ _ _ _ _ _ h (by tauto)
  · rfl

theorem bitAt_setBit (s : State) (off i : Nat) (b : Bool) (off2 j : Nat) (h : j < 32) :
    (s.setBit off i b).bitAt off2 j = if off2 = off ∧ j = i then b else s.bitAt off2 j := by
  unfold State.bitAt
  rw [reg_setBit]
  by_cases he : off2 = off
  · subst he; simp [flag_setFlag _ _ _ _ h]
  · simp [he]

theorem bitAt_setField (s : State) (off hi lo v off2 j : Nat) (h : j < 32) :
    (s.setField off hi lo v).bitAt off2 j = if off2 = off ∧ lo ≤ j ∧ j ≤ hi then v.testBit (j - lo) else s.bitAt off2 j := by
  unfold State.bitAt
  rw [reg_setField]
  by_cases he : off2 = off
  · subst he; simp [flag_setFld _ _ _ _ _ h]
  · simp [he]

end Sys2Proof.Machine
end

