-- ==== Sys2Proof/Laws/Irq.lean ====
section
/-! SUPPORT. Everything that the interrupt controller's operations can do: they change its registers (block 2), the MSI-X structures and
its own state, and nothing else. -/

namespace Sys2Proof.Machine

open Sys2Proof

/-- What an operation of the interrupt controller may do to a state: its registers and its state change, the rest stands. -/
def IrqOnly (s t : State) : Prop :=
  t = { s with regs := t.regs, irq := t.irq } ∧ ∀ off, (decide (blockOf off = 2) || decide (16 ≤ blockOf off)) = false → t.reg off = s.reg off

theorem IrqOnly.refl (s : State) : IrqOnly s s := ⟨rfl, fun _ _ => rfl⟩

theorem IrqOnly.trans {s t u : State} (first : IrqOnly s t) (second : IrqOnly t u) : IrqOnly s u :=
  ⟨by rw [second.1, first.1], fun off h => by rw [second.2 off h, first.2 off h]⟩

/-- The register blocks in which a write is the interrupt controller's own. -/
theorem IrqOnly.setReg {s : State} {off : Nat} (w : Word) (h : (decide (blockOf off = 2) || decide (16 ≤ blockOf off)) = true) :
    IrqOnly s (s.setReg off w) := by
  refine ⟨rfl, fun j hj => reg_setReg_ne _ _ ?_⟩
  rintro rfl
  simp [h] at hj

theorem IrqOnly.setIrq (s : State) (x : IrqState) : IrqOnly s { s with irq := x } := ⟨rfl, fun _ _ => rfl⟩

/-- One operation after another. -/
theorem IrqOnly.foldl {α : Type} (f : State → α → State) (h : ∀ s a, IrqOnly s (f s a)) (l : List α) (s : State) : IrqOnly s (l.foldl f s) :=
  List.foldlRecOn l f (motive := IrqOnly s) (.refl s) (fun t ht a _ => ht.trans (h t a))

theorem irqBlock_pending {id : Nat} (h : id < 1024) :
    (decide (blockOf (Reg.IRQ_PENDING (id / 32)) = 2) || decide (16 ≤ blockOf (Reg.IRQ_PENDING (id / 32)))) = true := by
  have : blockOf (Reg.IRQ_PENDING (id / 32)) = 2 := by unfold blockOf Reg.IRQ_PENDING; omega
  simp [this]

theorem srcAssigned_lt {id : Nat} (h : srcAssigned id = true) : id < 1024 := by
  simp [srcAssigned] at h; omega

theorem setPending_only (s : State) {id : Nat} (b : Bool) (h : id < 1024) : IrqOnly s (setPending s id b) := .setReg _ (irqBlock_pending h)

theorem block_coalStatus {v : Nat} (h : v < 64) : blockOf (Reg.VEC_COAL_STATUS v) = 2 := by unfold blockOf Reg.VEC_COAL_STATUS; omega

theorem block_pba (v : Nat) : 16 ≤ blockOf (Reg.MSIX_PBA v) := by unfold blockOf Reg.MSIX_PBA; omega

theorem sendMsix_only (s : State) (v : Nat) : IrqOnly s (sendMsix s v) := by
  have h (b : Bool) : IrqOnly s (s.setBit (Reg.MSIX_PBA (v / 32)) (v % 32) b) := .setReg _ (by simp [block_pba])
  unfold sendMsix
  split
  · exact (h false).trans (.setIrq _ _)
  · exact h true

theorem resetVector_only (s : State) {v : Nat} (h : v < 64) : IrqOnly s (resetVector s v) :=
  IrqOnly.trans (.setReg _ (by simp [block_coalStatus h])) (.setIrq _ _)

theorem fireVector_only (s : State) {v : Nat} (h : v < 64) : IrqOnly s (fireVector s v) := by
  unfold fireVector
  split
  · exact (resetVector_only s h).trans (sendMsix_only _ _)
  · exact resetVector_only s h

theorem IrqOnly.withIrq {s t : State} (h : IrqOnly s t) (x : IrqState) : IrqOnly s { t with irq := x } := h.trans (.setIrq t x)

theorem owe_only (s : State) (id : Nat) : IrqOnly s (owe s id) := by
  have hv : fld (srcCfg s id) 21 16 < 64 := fld_lt _ _ _
  have hr (u : State) (w : Word) : IrqOnly u (u.setReg (Reg.VEC_COAL_STATUS (fld (srcCfg s id) 21 16)) w) :=
    .setReg _ (by rw [block_coalStatus hv]; rfl)
  unfold owe
  simp only
  split
  · exact fireVector_only s hv
  · split
    · exact (hr s _).trans (hr _ _)
    · exact ((hr s _).trans (hr _ _)).withIrq _

/-- A request of a source changes the interrupt controller only. -/
theorem request_only (s : State) (id : Nat) : IrqOnly s (request s id) := by
  unfold request
  split
  · rename_i h
    have h1 := setPending_only s true (srcAssigned_lt h)
    simp only
    split
    · exact h1.trans (owe_only _ _)
    · exact h1
  · exact .refl s

theorem releaseMsix_only (s : State) : IrqOnly s (releaseMsix s) := by
  refine IrqOnly.foldl _ (fun s v => ?_) _ s
  split
  · exact sendMsix_only s v
  · exact .refl s

theorem oweNew_only (s t : State) : IrqOnly t (oweNew s t) := IrqOnly.foldl _ owe_only _ t

/-- A status bit that becomes 1: its register and the interrupt controller. -/
theorem setStatus_eq (s : State) (off b : Nat) : setStatus s off b = { s with regs := (setStatus s off b).regs, irq := (setStatus s off b).irq } := by
  unfold setStatus
  split
  · rfl
  · simp only
    split
    · rw [(request_only _ _).1]; rfl
    · rfl

/-- What every other register reads after a status bit becomes 1. -/
theorem setStatus_reg (s : State) (off b j : Nat) (h1 : j ≠ off) (h2 : (decide (blockOf j = 2) || decide (16 ≤ blockOf j)) = false) :
    (setStatus s off b).reg j = s.reg j := by
  unfold setStatus
  split
  · rfl
  · simp only
    split
    · rw [(request_only _ _).2 j h2]; exact reg_setReg_ne _ _ h1
    · exact reg_setReg_ne _ _ h1

/-- The register of a status bit that becomes 1. -/
theorem setStatus_bitAt (s : State) (off b j : Nat) (hj : j < 32) (h : (decide (blockOf off = 2) || decide (16 ≤ blockOf off)) = false) :
    (setStatus s off b).bitAt off j = (decide (j = b) || s.bitAt off j) := by
  unfold setStatus
  by_cases hb : s.bitAt off b = true
  · rw [if_pos hb]; by_cases e : j = b <;> simp [e, hb]
  · rw [if_neg hb]
    have h1 : (s.setBit off b true).bitAt off j = (decide (j = b) || s.bitAt off j) := by
      rw [bitAt_setBit _ _ _ _ _ _ hj]; by_cases e : j = b <;> simp [e]
    simp only
    split
    · rw [← h1]; unfold State.bitAt; rw [(request_only _ _).2 off h]
    · exact h1

end Sys2Proof.Machine
end

