-- ==== Sys2Proof/Laws/Mem.lean ====
section
/-! SUPPORT. Everything that the reads and writes of memory and the error log can do: a read after a write, what else stands, and that
every write keeps memory in its canonical form. -/

namespace Sys2Proof.Machine

open Sys2Proof

/-! ## Bytes -/

/-- The seed of the undefined range that holds a location. -/
def undefSeed (us : List Undef) (k : Nat) : Option Nat := (us.find? (fun u => decide (u.lo ≤ k) && decide (k < u.hi))).map (fun u => u.seed)

theorem undefSeed_cons (u : Undef) (us : List Undef) (k : Nat) :
    undefSeed (u :: us) k = if u.lo ≤ k ∧ k < u.hi then some u.seed else undefSeed us k := by
  unfold undefSeed
  rw [List.find?_cons]
  by_cases h : u.lo ≤ k ∧ k < u.hi
  · simp [h.1, h.2]
  · rw [if_neg h]
    have : (decide (u.lo ≤ k) && decide (k < u.hi)) = false := by simpa using fun h1 => Nat.le_of_not_lt fun h2 => h ⟨h1, h2⟩
    rw [this]

/-- Ranges cut out of the undefined ones are defined; elsewhere nothing has changed. -/
theorem undefSeed_cut (lo hi k : Nat) (us : List Undef) :
    undefSeed (cutUndef lo hi us) k = if lo ≤ k ∧ k < hi then none else undefSeed us k := by
  induction us with
  | nil => simp [cutUndef, undefSeed]
  | cons u us ih =>
    unfold cutUndef
    split
    · rename_i h
      rw [undefSeed_cons, undefSeed_cons, ih]
      simp at h
      by_cases h2 : lo ≤ k ∧ k < hi
      · have : ¬ (u.lo ≤ k ∧ k < u.hi) := by omega
        simp [h2, this]
      · simp [h2]
    · rename_i h
      simp at h
      have key (a b : Bool) (ha : a = decide (u.lo < lo)) (hb : b = decide (hi < u.hi)) :
          undefSeed ((if a then [(⟨u.lo, lo, u.seed⟩ : Undef)] else []) ++ (if b then [(⟨hi, u.hi, u.seed⟩ : Undef)] else []) ++
            cutUndef lo hi us) k =
          if u.lo ≤ k ∧ k < lo then some u.seed else if hi ≤ k ∧ k < u.hi then some u.seed else undefSeed (cutUndef lo hi us) k := by
        cases a <;> cases b <;> simp only [Bool.false_eq_true, if_false, if_true, List.nil_append, List.cons_append, undefSeed_cons]
        · have h1 : ¬ u.lo < lo := by simpa using ha.symm
          have h2 : ¬ hi < u.hi := by simpa using hb.symm
          rw [if_neg (by omega), if_neg (by omega)]
        · have h1 : ¬ u.lo < lo := by simpa using ha.symm
          rw [if_neg (show ¬ (u.lo ≤ k ∧ k < lo) by omega)]
        · have h2 : ¬ hi < u.hi := by simpa using hb.symm
          rw [if_neg (show ¬ (hi ≤ k ∧ k < u.hi) by omega)]
      have := key _ _ rfl rfl
      simp only [decide_eq_true_eq] at this
      rw [this, ih, undefSeed_cons]
      by_cases h2 : lo ≤ k ∧ k < hi
      · rw [if_neg (by omega), if_neg (by omega), if_pos h2, if_pos h2]
      · by_cases h3 : u.lo ≤ k ∧ k < u.hi
        · rw [if_neg h2, if_neg h2, if_pos h3]
          by_cases h4 : u.lo ≤ k ∧ k < lo
          · rw [if_pos h4]
          · rw [if_neg h4, if_pos (by omega)]
        · rw [if_neg h2, if_neg h2, if_neg h3, if_neg (by omega), if_neg (by omega)]

/-- A byte by the seed of its location. -/
theorem byteAt_seed (s : State) (k : Nat) :
    byteAt s k = match undefSeed s.undef k with
      | some x => Config.freeByte x k
      | none => Sparse.get memDefault s.mem k := by
  unfold byteAt undefAt undefSeed
  cases s.undef.find? (fun u => decide (u.lo ≤ k) && decide (k < u.hi)) <;> rfl

/-- A byte read after one was stored. -/
theorem byteAt_putByte (s : State) (k : Nat) (b : Byte) (j : Nat) : byteAt (putByte s k b) j = if j = k then b else byteAt s j := by
  rw [byteAt_seed, byteAt_seed]
  simp only [putByte, undefSeed_cut, Sparse.get_set]
  by_cases h : j = k
  · subst h; simp
  · rw [if_neg (by omega), if_neg h, if_neg h]

/-- A stored byte keeps memory in its canonical form. -/
theorem putByte_wf (s : State) (k : Nat) (b : Byte) (h : Memory.wf s.mem = true) : Memory.wf (putByte s k b).mem = true :=
  Sparse.wf_set memDefault s.mem k b h

theorem putUndef_wf (s : State) (lo hi : Nat) (h : Memory.wf s.mem = true) : Memory.wf (putUndef s lo hi).mem = true := by
  unfold putUndef
  split
  · exact Sparse.wf_filter memDefault _ s.mem h
  · exact h

theorem putZeros_wf (s : State) (lo hi : Nat) (h : Memory.wf s.mem = true) : Memory.wf (putZeros s lo hi).mem = true :=
  Sparse.wf_filter memDefault _ s.mem h

/-! ## The address map -/

/-- Where an address lies depends on the registers and the PCI Express configuration alone. -/
theorem locate_congr {s t : State} (h : s.regs = t.regs) (hp : s.pci = t.pci) (a : Nat) : locate s a = locate t a := by
  cases s; cases t
  simp only at h hp
  subst h hp
  rfl

/-- Skerry memory is always there. -/
theorem locate_skerry (s : State) {a : Nat} (h1 : 0x010000000000 ≤ a) (h2 : a < 0x020000000000) : locate s a = .ok ⟨a, .skerry⟩ := by
  unfold locate
  rw [if_neg (by omega), if_neg (by omega), if_pos h2]

theorem place_le (o mode stack pbase : Nat) (h : stack < 8) : (place o mode stack pbase).1 ≤ 8 := by
  unfold place
  split
  · simp only; omega
  · split
    · simp only; omega
    · have : ((o >>> 15) % 8) ^^^ ((o >>> 18) % 8) < 2 ^ 3 := Nat.xor_lt_two_pow (Nat.mod_lt _ (by decide)) (Nat.mod_lt _ (by decide))
      simp only; omega

/-- The stack that an address is located in is one of nine numbers. -/
theorem locate_stack {s : State} {a : Nat} {p : Located} {st : Nat} (h : locate s a = .ok p) (hr : p.region = .hbm st) : st ≤ 8 := by
  unfold locate at h
  split at h
  · split at h
    · exact absurd h (by simp)
    · simp only at h
      split at h
      · rw [← Except.ok.inj h] at hr
        rw [← Region.hbm.inj hr]
        exact place_le _ _ _ _ (fld_lt _ _ _)
      · exact absurd h (by simp)
  · have key (q : Located) (hq : ∀ n, q.region ≠ .hbm n) (e : p = q) : st ≤ 8 := absurd (e ▸ hr) (hq st)
    have bad {n : Nat} (h : (Except.error n : Except Nat Located) = .ok p) : st ≤ 8 := nomatch h
    simp only at h
    repeat' split at h
    all_goals first
      | exact bad h
      | exact key _ (fun n => Region.noConfusion) (Except.ok.inj h).symm

/-! ## Bytes at device addresses -/

/-- Bytes stored change memory and what is undefined, and nothing else. -/
theorem pokeBytes_eq (l : List Byte) : ∀ (s : State) (a : Nat),
    pokeBytes s a l = { s with mem := (pokeBytes s a l).mem, undef := (pokeBytes s a l).undef } := by
  induction l with
  | nil => intros; rfl
  | cons b l ih =>
    intro s a
    unfold pokeBytes
    split
    · conv => lhs; rw [ih]
      rfl
    · exact ih s (a + 1)

theorem pokeBytes_wf (l : List Byte) : ∀ (s : State) (a : Nat), Memory.wf s.mem = true → Memory.wf (pokeBytes s a l).mem = true := by
  induction l with
  | nil => intro s a h; exact h
  | cons b l ih =>
    intro s a h
    unfold pokeBytes
    split
    · exact ih _ _ (putByte_wf _ _ _ h)
    · exact ih _ _ h

/-- A location that no stored byte reaches. -/
theorem byteAt_pokeBytes_ne (l : List Byte) : ∀ (s : State) (a k : Nat),
    (∀ i p, i < l.length → locate s (a + i) = .ok p → p.key ≠ k) → byteAt (pokeBytes s a l) k = byteAt s k := by
  induction l with
  | nil => intros; rfl
  | cons b l ih =>
    intro s a k h
    unfold pokeBytes
    split
    · rename_i p hp
      rw [ih, byteAt_putByte, if_neg]
      · have := h 0 p (by simp) (by simpa using hp)
        exact fun e => this e.symm
      · intro i q hi hq
        exact h (i + 1) q (by simpa using hi) (by rw [← hq]; rw [locate_congr (s := putByte s p.key b) (t := s) rfl rfl]; congr 1; omega)
    · apply ih
      intro i q hi hq
      exact h (i + 1) q (by simpa using hi) (by rw [← hq]; congr 1; omega)

/-- Bytes stored in skerry memory are there. -/
theorem byteAt_pokeBytes_skerry (l : List Byte) : ∀ (s : State) (a i : Nat), 0x010000000000 ≤ a → a + l.length ≤ 0x020000000000 →
    i < l.length → byteAt (pokeBytes s a l) (a + i) = (l[i]?).getD 0 := by
  induction l with
  | nil => intro s a i _ _ h; simp at h
  | cons b l ih =>
    intro s a i h1 h2 h3
    simp at h2 h3
    unfold pokeBytes
    rw [locate_skerry s h1 (by omega)]
    simp only
    cases i with
    | zero =>
      rw [byteAt_pokeBytes_ne, byteAt_putByte]
      · simp
      · intro j q hj hq
        rw [locate_skerry _ (by omega) (by omega)] at hq
        cases hq; simp only; omega
    | succ i =>
      have := ih (putByte s a b) (a + 1) i (by omega) (by omega) (by omega)
      rw [show a + (i + 1) = a + 1 + i by omega, this]
      simp

theorem length_peekBytes (s : State) (n : Nat) : ∀ a, (peekBytes s a n).length = n := by
  induction n with
  | zero => intros; rfl
  | succ n ih => intro a; simp [peekBytes, ih]

/-- Bytes stored in skerry memory are read back. -/
theorem peekBytes_pokeBytes_skerry (s : State) (a : Nat) (l : List Byte) (h1 : 0x010000000000 ≤ a) (h2 : a + l.length ≤ 0x020000000000) :
    peekBytes (pokeBytes s a l) a l.length = l := by
  have key : ∀ (n i : Nat), i + n = l.length → peekBytes (pokeBytes s a l) (a + i) n = l.drop i := by
    intro n
    induction n with
    | zero => intro i h; simp [peekBytes, List.drop_of_length_le (by omega : l.length ≤ i)]
    | succ n ih =>
      intro i h
      have hi : i < l.length := by omega
      rw [peekBytes, List.drop_eq_getElem_cons hi, show a + i + 1 = a + (i + 1) by omega, ih (i + 1) (by omega)]
      congr 1
      unfold State.readByte
      rw [locate_skerry _ (by omega) (by omega)]
      simp only
      rw [byteAt_pokeBytes_skerry l s a i h1 h2 hi]
      simp [hi]
  have := key l.length 0 (by omega)
  simpa using this

/-! ## Words read, merged and written -/

/-- A record of a corrected event is kept among the merged ones, and nothing else happens. -/
theorem logMerged_eq (s : State) (cls : Nat) (f : LogFields) : logMerged s cls f = { s with merged := (logMerged s cls f).merged } := by
  unfold logMerged
  simp only
  split <;> rfl

/-- The counters of corrected words. -/
def ceReg (off : Nat) : Prop := off = Reg.SKERRY_CE ∨ ∃ st, st ≤ 8 ∧ off = Reg.STACK_CE st

/-- What a correction may do: memory, error patterns, the merged records and the counters of corrected words change. -/
def MergeOnly (s t : State) : Prop :=
  t = { s with mem := t.mem, undef := t.undef, errs := t.errs, merged := t.merged, regs := t.regs } ∧
  (∀ off, ¬ ceReg off → t.reg off = s.reg off) ∧ (Memory.wf s.mem = true → Memory.wf t.mem = true)

theorem MergeOnly.refl (s : State) : MergeOnly s s := ⟨rfl, fun _ _ => rfl, id⟩

theorem MergeOnly.trans {s t u : State} (h1 : MergeOnly s t) (h2 : MergeOnly t u) : MergeOnly s u :=
  ⟨by rw [h2.1, h1.1], fun off h => Eq.trans (h2.2.1 off h) (h1.2.1 off h), fun w => h2.2.2 (h1.2.2 w)⟩

theorem clearErr_merge (s : State) (k : Nat) : MergeOnly s (clearErr s k) := ⟨rfl, fun _ _ => rfl, id⟩

theorem logMerged_merge (s : State) (cls : Nat) (f : LogFields) : MergeOnly s (logMerged s cls f) := by
  rw [logMerged_eq]; exact ⟨rfl, fun _ _ => rfl, id⟩

theorem count_merge (s : State) {off : Nat} (k : Nat) (h : ceReg off) : MergeOnly s (s.count off k) :=
  ⟨rfl, fun _ hj => reg_setReg_ne _ _ (fun e => hj (e ▸ h)), id⟩

theorem putByte_merge (s : State) (k : Nat) (b : Byte) : MergeOnly s (putByte s k b) := ⟨rfl, fun _ _ => rfl, putByte_wf s k b⟩

theorem noteCorrected_merge (s : State) (p : Located) (a : Nat) (hp : ∀ st, p.region = .hbm st → st ≤ 8) :
    MergeOnly s (noteCorrected s p a) := by
  unfold noteCorrected
  simp only
  split
  · rename_i st h
    exact (clearErr_merge s _).trans ((count_merge _ _ (.inr ⟨_, hp st h, rfl⟩)).trans (logMerged_merge _ _ _))
  · exact (clearErr_merge s _).trans ((count_merge _ _ (.inl rfl)).trans (logMerged_merge _ _ _))
  · exact (clearErr_merge s _).trans (logMerged_merge _ _ _)

theorem miscorrect_merge (s : State) (k : Nat) : MergeOnly s (miscorrect s k) := by
  have key (f : State → Nat → Byte) (l : List Nat) (s : State) : MergeOnly s (l.foldl (fun s j => putByte s j (f s j)) s) :=
    List.foldlRecOn l _ (motive := MergeOnly s) (.refl s) (fun t ht a _ => ht.trans (putByte_merge t a _))
  unfold miscorrect
  exact (key (fun s j => Config.garbledByte (errorsAt s k) j) _ s).trans (clearErr_merge _ _)

theorem settleWord_merge (s : State) (p : Located) (a : Nat) (hp : ∀ st, p.region = .hbm st → st ≤ 8) :
    MergeOnly s (settleWord s p a) := by
  unfold settleWord
  split
  · exact noteCorrected_merge s p a hp
  · exact (miscorrect_merge s _).trans (noteCorrected_merge _ p a hp)
  · exact .refl s

theorem settleWords_merge (a n : Nat) (fuel : Nat) : ∀ s w, MergeOnly s (settleWords s a n fuel w) := by
  induction fuel with
  | zero => exact fun s w => .refl s
  | succ fuel ih =>
    intro s w
    unfold settleWords
    split
    · exact .refl s
    · simp only
      refine MergeOnly.trans ?_ (ih _ _)
      split
      · rename_i p hp
        split
        · exact clearErr_merge s _
        · exact settleWord_merge s _ _ (fun _ => locate_stack hp)
      · exact .refl s

/-- Everything that settling the words of a write can do. -/
theorem settleWrite_merge (s : State) (a n : Nat) : MergeOnly s (settleWrite s a n) := by
  unfold settleWrite
  split
  · exact .refl s
  · exact settleWords_merge a n _ s _

theorem pokeBytes_merge (s : State) (a : Nat) (l : List Byte) : MergeOnly s (pokeBytes s a l) :=
  ⟨by rw [pokeBytes_eq], fun _ _ => by rw [pokeBytes_eq]; rfl, pokeBytes_wf l s a⟩

/-- Everything that a write by a unit of the module can do. -/
theorem storeBytes_merge (s : State) (a : Nat) (l : List Byte) : MergeOnly s (storeBytes s a l) :=
  (settleWrite_merge s a _).trans (pokeBytes_merge _ _ _)

/-- Where no word has an error, a write only stores its bytes. -/
theorem storeBytes_clean {s : State} (a : Nat) (l : List Byte) (h : s.errs = []) : storeBytes s a l = pokeBytes s a l := by
  unfold storeBytes settleWrite
  rw [h]; rfl

/-! ## Words without errors -/

/-- Where no word has an error pattern, none is found. -/
theorem errorsAt_clean {s : State} (h : s.errs = []) (k : Nat) : errorsAt s k = 0 := by
  unfold errorsAt
  simp [h, Sparse.get, errDefault]

/-- A codeword without wrong symbols is good to the decoder of HBM and skerry memory. -/
theorem rsDecode_clean (w u : Bool) : rsDecode w u 0 = .good := by
  unfold rsDecode
  rw [show wrongSymbols 0 = 0 by decide +kernel, if_pos rfl]

/-- A word without wrong bits is good to the decoder of an SRAM. -/
theorem sramDecode_clean (u : Bool) : sramDecode u 0 = .good := by
  unfold sramDecode
  rw [if_pos (by decide +kernel)]

/-- Where no word has an error, a word of skerry memory is good. -/
theorem wordState_skerry {s : State} (h : s.errs = []) (k : Nat) : wordState s ⟨k, .skerry⟩ = .good := by
  have e := errorsAt_clean h k
  cases hf : erasedPackage s (skerryGroup k)
  · simp only [wordState, e, rsDecode_clean, hf]
  · simp only [wordState, e, hf, erasureDecode]; rfl

/-- Where no word has an error, every word is good, or lost with its channel. -/
theorem wordState_clean {s : State} (h : s.errs = []) (p : Located) : wordState s p = .good ∨ wordState s p = .lost := by
  obtain ⟨k, r⟩ := p
  have e := errorsAt_clean h k
  cases r with
  | hbm st =>
    cases hf : fenced s st (k % 2 ^ 37)
    · exact .inl (by simp only [wordState, e, rsDecode_clean, hf]; rfl)
    · exact .inr (by simp only [wordState, hf]; rfl)
  | skerry => exact .inl (wordState_skerry h k)
  | scratchpad t => exact .inl (by simp only [wordState, e, sramDecode_clean])
  | shelf b => exact .inl (by simp only [wordState, e, sramDecode_clean])
  | host => exact .inl (by simp only [wordState, e]; rfl)

/-- Where no word has an error, none is written back. -/
theorem settleWord_clean {s : State} (h : s.errs = []) (p : Located) (a : Nat) : settleWord s p a = s := by
  unfold settleWord
  rcases wordState_clean h p with e | e <;> rw [e]

/-! ## The error log -/

/-- What a record in the error log may do: memory, the log's registers and number, RAS_EVENT and the interrupt controller change, and the
words that the record covers in part may be corrected. -/
def LogOnly (s t : State) : Prop :=
  t = { s with mem := t.mem, undef := t.undef, regs := t.regs, irq := t.irq, errSeq := t.errSeq, errs := t.errs, merged := t.merged } ∧
  (∀ off, (decide (blockOf off = 2) || decide (16 ≤ blockOf off)) = false → off ≠ Reg.ERRLOG_TAIL → off ≠ Reg.ERRLOG_DROPPED →
    off ≠ Reg.RAS_EVENT → ¬ ceReg off → t.reg off = s.reg off) ∧
  (∀ i, i < 32 → i ≠ 8 → t.bitAt Reg.RAS_EVENT i = s.bitAt Reg.RAS_EVENT i) ∧
  (Memory.wf s.mem = true → Memory.wf t.mem = true) ∧
  (errlogSize s = 0 → t = s)

theorem writeRecord_only (s : State) (rest : List Byte) : LogOnly s (writeRecord s rest) := by
  unfold writeRecord
  by_cases h0 : errlogSize s = 0
  · rw [if_pos h0]; exact ⟨rfl, fun _ _ _ _ _ _ => rfl, fun _ _ _ => rfl, id, fun _ => rfl⟩
  · rw [if_neg h0]
    simp only
    have hb : (decide (blockOf Reg.RAS_EVENT = 2) || decide (16 ≤ blockOf Reg.RAS_EVENT)) = false := by decide
    split
    · refine ⟨?_, ?_, ?_, ?_, fun h => absurd h h0⟩
      · rw [setStatus_eq]; rfl
      · intro off h1 h2 h3 h4 _
        rw [setStatus_reg _ _ _ _ h4 h1, reg_count, if_neg h3]; rfl
      · intro i hi h8
        rw [setStatus_bitAt _ _ _ _ hi hb]
        rw [decide_eq_false h8, Bool.false_or]
        unfold State.bitAt
        rw [reg_count, if_neg (by decide)]; rfl
      · intro h; rw [setStatus_eq]; exact h
    · have hs := storeBytes_merge { s with errSeq := (s.errSeq + 1) % 2 ^ 32 }
        (s.pair Reg.ERRLOG_BASE_LO / 2 ^ 12 * 2 ^ 12 + 64 * s.fieldAt Reg.ERRLOG_TAIL 15 0) (toLE 4 s.errSeq ++ rest)
      refine ⟨?_, ?_, ?_, ?_, fun h => absurd h h0⟩
      · unfold State.setField State.setReg; rw [hs.1]
      · intro off h1 h2 h3 h4 h5
        rw [reg_setField, if_neg h2]; exact hs.2.1 off h5
      · intro i hi h8
        unfold State.bitAt
        rw [reg_setField, if_neg (by decide)]
        rw [hs.2.1 Reg.RAS_EVENT]; · rfl
        · rintro (h | ⟨st, hst, h⟩)
          · exact absurd h (by decide)
          · unfold Reg.RAS_EVENT Reg.STACK_CE at h; omega
      · intro h; exact hs.2.2 h

theorem logEvent_only (s : State) (cls : Nat) (f : LogFields) : LogOnly s (logEvent s cls f) := writeRecord_only s _

end Sys2Proof.Machine
end

