-- ==== Sys2Proof/Laws/Fab.lean ====
section
/-! SUPPORT. Everything that routing and sending can do: they change what the fabric holds, and FAB_NOROUTE counts. -/

namespace Sys2Proof.Machine

open Sys2Proof

/-- What routing may do to a state: the flits, messages and routes that the fabric holds change, and FAB_NOROUTE counts; what is accepted,
delivered in part, sent on the wires and relayed stands. -/
def FabOnly (s t : State) : Prop :=
  t = { s with regs := t.regs, fab := { s.fab with
    ports := t.fab.ports, nextMsg := t.fab.nextMsg, routes := t.fab.routes, inbox := t.fab.inbox, noRoute := t.fab.noRoute, sent := t.fab.sent } } ∧
  ∀ off, off ≠ Reg.FAB_NOROUTE → t.reg off = s.reg off

theorem FabOnly.refl (s : State) : FabOnly s s := ⟨rfl, fun _ _ => rfl⟩

theorem FabOnly.trans {s t u : State} (first : FabOnly s t) (second : FabOnly t u) : FabOnly s u :=
  ⟨by rw [second.1, first.1], fun off h => by rw [second.2 off h, first.2 off h]⟩

/-- One operation after another. -/
theorem FabOnly.foldl {α : Type} (f : State → α → State) (h : ∀ s a, FabOnly s (f s a)) (l : List α) (s : State) : FabOnly s (l.foldl f s) :=
  List.foldlRecOn l f (motive := FabOnly s) (.refl s) (fun t ht a _ => ht.trans (h t a))

theorem setPort_only (s : State) (p : Nat) (f : PortState → PortState) : FabOnly s (s.setPort p f) :=
  ⟨rfl, fun _ _ => rfl⟩

theorem routeFlit_only (s : State) (q : QFlit) : FabOnly s (routeFlit s q) := by
  unfold routeFlit
  simp only
  split
  · refine ⟨rfl, fun off h => ?_⟩
    exact reg_setReg_ne _ _ h
  · exact ⟨rfl, fun _ _ => rfl⟩

theorem sendMessage_only (s : State) (dest : Nat) (c : Content) : FabOnly s (sendMessage s dest c).2 := by
  have h1 : FabOnly s (numberMessage s dest c).2 := ⟨rfl, fun _ _ => rfl⟩
  unfold sendMessage
  simp only
  split
  · exact h1.trans ⟨rfl, fun _ _ => rfl⟩
  · exact h1.trans (FabOnly.foldl _ routeFlit_only _ _)

theorem sendAck_only (s : State) (h : MsgHead) : FabOnly s (sendAck s h) := sendMessage_only _ _ _

theorem sendOnPort_only (s : State) (p : Nat) (c : Content) : FabOnly s (sendOnPort s p c) := by
  have h1 : FabOnly s (numberMessage s (s.port p).partner c).2 := ⟨rfl, fun _ _ => rfl⟩
  unfold sendOnPort
  exact h1.trans (FabOnly.foldl _ (fun s q => setPort_only s p _) _ _)

/-- A port read after one was changed. -/
theorem port_setPort (s : State) (p : Nat) (f : PortState → PortState) (q : Nat) (h : p < s.fab.ports.length) :
    (s.setPort p f).port q = if q = p then f (s.port p) else s.port q := by
  unfold State.port State.setPort
  simp only [List.getElem?_set]
  by_cases e : p = q
  · subst e; simp [h, State.port]
  · simp [e, Ne.symm e]

@[simp] theorem length_setPort (s : State) (p : Nat) (f : PortState → PortState) : (s.setPort p f).fab.ports.length = s.fab.ports.length := by
  simp [State.setPort]

/-! ## Receive buffers -/

theorem oweCredit_only (s : State) (b : Option (Nat × Nat)) : FabOnly s (oweCredit s b) := by
  unfold oweCredit
  split
  · exact setPort_only _ _ _
  · exact .refl s

theorem returnHolds_only (s : State) (l : List Inbound) : FabOnly s (returnHolds s l) := FabOnly.foldl _ (fun s _ => oweCredit_only s _) _ s

theorem admitExpansions_only (s : State) : FabOnly s (admitExpansions s) :=
  (returnHolds_only s _).trans ⟨rfl, fun _ _ => rfl⟩

/-- A message taken up: beside what is accepted and delivered, the fabric returns the buffers it held. -/
theorem takeMessage_eq (s : State) (h : MsgHead) :
    takeMessage s h = { s with regs := (takeMessage s h).regs, fab := (takeMessage s h).fab } := by
  unfold takeMessage
  simp only
  rw [(admitExpansions_only _).1, (returnHolds_only s _).1]

/-- A message taken up is recorded as accepted. -/
theorem takeMessage_accepted (s : State) (h : MsgHead) : (takeMessage s h).fab.accepted.contains (acceptKey h) = true := by
  unfold takeMessage
  simp only
  rw [(admitExpansions_only _).1]
  simp only
  split
  · assumption
  · simp

end Sys2Proof.Machine
end

