-- ==== Sys2Proof/Laws/Counters.lean ====
section
/-! SUPPORT. Everything that a change of an event counter can do: the counter, the commands that it wakes, the watches it fires. -/

namespace Sys2Proof.Machine

open Sys2Proof

theorem block_evc {c : Nat} (h : c < 4096) : (decide (blockOf (Reg.EVC_VALUE c) = 2) || decide (16 ≤ blockOf (Reg.EVC_VALUE c))) = false := by
  have h1 : blockOf (Reg.EVC_VALUE c) ≠ 2 := by unfold blockOf Reg.EVC_VALUE; omega
  have h2 : ¬ 16 ≤ blockOf (Reg.EVC_VALUE c) := by unfold blockOf Reg.EVC_VALUE; omega
  simp [h1, h2]

theorem fireWatches_only (s t : State) : IrqOnly t (fireWatches s t) := IrqOnly.foldl _ (fun s _ => request_only s _) _ t

/-- A change of a counter: its register, the interrupt controller, and the commands it wakes. -/
theorem setCounter_eq (s : State) (c v : Nat) :
    setCounter s c v = { s with regs := (setCounter s c v).regs, irq := (setCounter s c v).irq, entries := (setCounter s c v).entries } := by
  unfold setCounter wakeWaiting
  simp only
  rw [(fireWatches_only s _).1]
  rfl

theorem setCounter_reg (s : State) (c v off : Nat) (h1 : off ≠ Reg.EVC_VALUE c)
    (h2 : (decide (blockOf off = 2) || decide (16 ≤ blockOf off)) = false) : (setCounter s c v).reg off = s.reg off := by
  show (fireWatches s _).reg off = _
  rw [(fireWatches_only s _).2 off h2, reg_setReg_ne _ _ h1]

/-- The counter changed, and every other. -/
theorem counter_setCounter (s : State) {c : Nat} (v d : Nat) (hc : c < 4096) (hd : d < 4096) :
    counter (setCounter s c v) d = if d = c then v % 2 ^ 32 else counter s d := by
  unfold counter
  show ((fireWatches s _).reg _).toNat = _
  rw [(fireWatches_only s _).2 _ (block_evc hd), reg_setReg]
  have h : Reg.EVC_VALUE d = Reg.EVC_VALUE c ↔ d = c := by unfold Reg.EVC_VALUE; omega
  by_cases e : d = c
  · subst e; simp
  · rw [if_neg (fun x => e (h.mp x)), if_neg e]

end Sys2Proof.Machine
end

