-- ==== Sys2Proof/Laws/Rows.lean ====
section
/-! SUPPORT. Everything that the wrappers of the rows can do: they answer a next state, and keep the queue, the timebase or its growth,
and, but for the host's rows, the PCI Express configuration. -/

namespace Sys2Proof.Machine

open Sys2Proof

theorem act_next (f : State → State) (s : State) :
    ∃ t, act f s = .next t ∧ t.pending = s.pending ∧ t.now = s.now ∧ t.pci = s.pci := ⟨_, rfl, rfl, rfl, rfl⟩

theorem actPci_next (f : State → State) (s : State) : ∃ t, actPci f s = .next t ∧ t.pending = s.pending ∧ t.now = s.now :=
  ⟨_, rfl, rfl, rfl⟩

theorem actAt_next (t : Nat) (f : State → State) (s : State) :
    ∃ u, actAt t f s = .next u ∧ u.pending = s.pending ∧ u.now = timeAt s t ∧ u.pci = s.pci := ⟨_, rfl, rfl, rfl, rfl⟩

theorem actAtPci_next (t : Nat) (f : State → State) (s : State) :
    ∃ u, actAtPci t f s = .next u ∧ u.pending = s.pending ∧ u.now = timeAt s t := ⟨_, rfl, rfl, rfl⟩

/-- Where no word has an error, reading the granules of a packet only reads. -/
theorem loadGranules_clean {s : State} (h : s.errs = []) : ∀ l, (loadGranules s l).2 = s
  | [] => rfl
  | a :: l => by
    have ha : (loadGranule s a).2 = s := by
      unfold loadGranule
      split
      · rfl
      · exact settleWord_clean h _ _
    show (loadGranules (loadGranule s a).2 l).2 = s
    rw [ha]
    exact loadGranules_clean h l

theorem seqFrom_bounds {x : Nat} : ∀ {n a : Nat}, x ∈ seqFrom a n → a ≤ x ∧ x < a + n
  | 0, _, h => by cases h
  | n + 1, a, h => by
    rcases List.mem_cons.mp h with rfl | h
    · omega
    · have := seqFrom_bounds h
      omega

/-- Where no word has an error, a range of skerry memory lies in reach. -/
theorem reach_skerry {s : State} (h : s.errs = []) {a n : Nat} (hr : skerryRange a n = true) : reach s a n = true := by
  simp only [skerryRange, Bool.and_eq_true, decide_eq_true_eq] at hr
  refine List.all_eq_true.mpr fun x hx => ?_
  have hb := seqFrom_bounds hx
  rw [locate_skerry s (by omega) (by omega)]
  simp [heldRegion, wordState_skerry h]

/-- A row whose effect keeps the queue, the timebase and the configuration is that effect. -/
theorem act_eq {f : State → State} {s : State} (h1 : (f s).pending = s.pending) (h2 : (f s).now = s.now) (h3 : (f s).pci = s.pci) :
    act f s = .next (f s) := by unfold act; rw [← h1, ← h2, ← h3]

theorem actPci_eq {f : State → State} {s : State} (h1 : (f s).pending = s.pending) (h2 : (f s).now = s.now) :
    actPci f s = .next (f s) := by unfold actPci; rw [← h1, ← h2]

theorem whenReady_true {f : State → State} {s : State} (h : solocReady s = true) : whenReady f s = f s := if_pos h

theorem whenReady_false {f : State → State} {s : State} (h : solocReady s = false) : whenReady f s = s := by
  unfold whenReady; simp [h]

/-! ## Time (R420) -/

theorem timeAt_ge (s : State) (t : Nat) : s.now ≤ timeAt s t := Nat.le_max_left _ _

theorem timeAt_mod {s : State} (t : Nat) (h : s.now % 40 = 0) : timeAt s t % 40 = 0 := by
  have e : tickAt t % 40 = 0 := by unfold tickAt; omega
  unfold timeAt
  rcases Nat.le_total s.now (tickAt t) with x | x
  · rw [Nat.max_eq_right x]; exact e
  · rw [Nat.max_eq_left x]; exact h

/-- What passing time changes: two counters and the fields that count time. -/
theorem passTime_eq (s : State) (t : Nat) :
    passTime s t = { s with
      regs := (passTime s t).regs, now := timeAt s t, stallRem := (passTime s t).stallRem,
      power := { s.power with floorRem := (passTime s t).power.floorRem }, mgmt := { s.mgmt with belowUs := (passTime s t).mgmt.belowUs } } := rfl

theorem passTime_reg (s : State) (t off : Nat) (h1 : off ≠ Reg.CMD_STALL_COUNT) (h2 : off ≠ Reg.FLOOR_TIME) :
    (passTime s t).reg off = s.reg off := by
  show ((s.count Reg.CMD_STALL_COUNT _).count Reg.FLOOR_TIME _).reg off = _
  unfold State.count
  rw [reg_setReg_ne _ _ h2, reg_setReg_ne _ _ h1]

/-- Where no time passes and less than a microsecond is owed, passing time changes nothing. -/
theorem timeAt_now (s : State) (t : Nat) (h : t ≤ s.now) : timeAt s t = s.now := by
  unfold timeAt tickAt; omega

end Sys2Proof.Machine
end

