-- ==== Sys2Proof/WellFormed.lean ====
section
/-! DEFINITION. Which commands are well formed: operands within the widths and ranges that the spec gives what they stand for. The
meanings are total and take ill-formed ones too; well-formedness says which commands a sender that follows the spec sends. -/

namespace Sys2Proof

/-- A value of the timebase: a multiple of 40 (R420). -/
def timeWf (t : Nat) : Bool := decide (t % 40 = 0)

/-- A row ID of a table: 48 bits (04_gather_scatter_embeddings). -/
def rowWf (row : Nat) : Bool := decide (row < 2 ^ 48)

/-- What identifies a message: a module, a class and a 14-bit number (R270, R272). -/
def headWf (h : MsgHead) : Bool := decide (h.peer < 4096 ∧ h.tc < 4 ∧ h.msg < 2 ^ 14)

/-- Physical tiles: 68 in each of 8 bays (R419). -/
def tilesWf (l : List Nat) : Bool := l.all (fun t => decide (t < 544))

/-- A naturally aligned 32-bit offset of BAR0 (R317, R318). -/
def offsetWf (off : Nat) : Bool := decide (off % 4 = 0 ∧ off < 2 ^ 24)

/-- The commit rows: a block that commits, and a ring only for the Command rings block (R413, R414). -/
def rowHasCommit (block ring : Fin 16) : Bool :=
  [1, 2, 3, 4, 5, 6, 7, 8, 9, 10, 11, 13, 14].contains block.val && (decide (block.val = 1) || decide (ring.val = 0))

/-- What a boot finds: eight stacks with the lanes of 16 channels of 2 pseudo-channels, eight ports of nine lanes, a link that is down
or trained. -/
def bootWf (b : Boot) : Bool :=
  decide (b.training.length = 8 ∧ b.lanes.length = 8 ∧ b.cables < 4 ∧ b.clocks < 4) && tilesWf b.failing &&
  b.lanes.all (fun l => decide (l < 512)) &&
  b.training.all (fun t => (t.getD []).all (fun f => decide (f.1 < 16 ∧ f.2.1 < 2))) &&
  (decide (b.generation = 0) || (decide (b.generation ≤ 6) && [1, 2, 4, 8, 16].contains b.width))

/-- Whether a command is well formed. -/
def Instr.wf : Instr → Bool
  | .doorbell _ _ => true
  | .packetFetch => true
  | .commandComplete _ => true
  | .replyDeferredPost _ => true
  | .commandTimeout _ time => timeWf time
  | .cplHeadWrite _ _ => true
  | .flush _ => true
  | .cancelWaiting _ => true
  | .addrErrClear _ => true
  | .formatErrClear _ => true
  | .switchRefusedClear _ => true
  | .commitRequest block ring => rowHasCommit block ring
  | .commitApply block ring => rowHasCommit block ring
  | .fabricCommitPartApply _ => true
  | .evcValueWrite _ _ => true
  | .evcAddWrite _ _ => true
  | .evcWatchWrite _ _ _ => true
  | .nop _ => true
  | .fence _ => true
  | .signal _ => true
  | .wait _ => true
  | .configCommit _ => true
  | .slotSwitch _ => true
  | .query _ => true
  | .copy _ => true
  | .transposeCopy _ => true
  | .storeCompressed _ => true
  | .convert _ => true
  | .sample _ => true
  | .randomWalk _ => true
  | .gather _ => true
  | .gatherPool _ => true
  | .scatterAdd _ => true
  | .rowReplace _ => true
  | .rowMigrate _ => true
  | .matmul _ => true
  | .matmulDgrad _ => true
  | .matmulWgrad _ => true
  | .operationEnqueue _ => true
  | .serialisedOperationStart _ => true
  | .vectorRun _ => true
  | .reduce _ => true
  | .scaleRound _ => true
  | .allGather _ => true
  | .allToAll _ => true
  | .broadcast _ => true
  | .update _ => true
  | .checkpoint _ => true
  | .restore _ => true
  | .tideRetire _ => true
  | .tideWaitExit _ => true
  | .updateSlotWaitExit _ => true
  | .checkpointWaitExit _ => true
  | .attest _ => true
  | .measureProgram _ => true
  | .undertow _ => true
  | .selfTest _ failing => tilesWf failing
  | .slotRelease table _ => decide (table < 256)
  | .migrateGraceExpiry table row time => decide (table < 256) && rowWf row && timeWf time
  | .hotrowSnapshot time => timeWf time
  | .katGo => true
  | .pwDemoteWrite _ => true
  | .pwEventService => true
  | .patrolScrub _ => true
  | .channelFence _ _ => true
  | .stackThermalCheck temps time => decide (temps.length = 8) && timeWf time
  | .hbmHoldWrite _ => true
  | .hbmPhyTuneWrite _ _ => true
  | .weightRebuild _ => true
  | .tableRowRebuild _ => true
  | .producerRerun _ => true
  | .meshFlitResend _ attempts => decide (1 ≤ attempts ∧ attempts ≤ 4)
  | .tileFault _ => true
  | .errlogMergeInterval time => timeWf time
  | .flitReceive _ _ flit => decide (flit.length = 256)
  | .flitTransmit _ time => timeWf time
  | .linkReplay _ time => timeWf time
  | .replayLimitExceeded _ time => timeWf time
  | .laneLossOfLock _ _ => true
  | .retrain _ => true
  | .portTrainingDone _ result => decide (result.partnerId < 4096 ∧ result.partnerPort < 8 ∧ result.goodLanes < 512)
  | .adaptiveFallback _ time => timeWf time
  | .signalMessage head counter increment sender => headWf head && decide (counter < 4096 ∧ increment < 2 ^ 32 ∧ sender < 4096)
  | .solocMessage head packet => headWf head && decide (packet.length ≤ 256)
  | .refuseMessage head reason => headWf head && decide (1 ≤ reason ∧ reason ≤ 5)
  | .e2eAck head acked _ => headWf head && headWf acked
  | .relayGo _ => true
  | .relayTimeout time => timeWf time
  | .expandRequest head sender _ => headWf head && decide (sender < 4096)
  | .expandReply head sender _ _ => headWf head && decide (sender < 4096)
  | .gatherRequest head requester sender _ => headWf head && decide (requester < 4096 ∧ sender < 4096)
  | .gatherReply head sender _ => headWf head && decide (sender < 4096)
  | .redirect head sender _ owner _ tide => headWf head && decide (sender < 4096 ∧ owner < 4096 ∧ tide < 65536)
  | .contributionReceive head requester sender _ => headWf head && decide (requester < 4096 ∧ sender < 4096)
  | .migrationCopyReceive head table row tide _ _ => headWf head && decide (table < 256 ∧ tide < 65536) && rowWf row
  | .directoryMessage head table row tide owner previous _ => headWf head && decide (table < 256 ∧ tide < 65536 ∧ owner < 4096 ∧ previous < 4096) && rowWf row
  | .chunkReceive head _ _ => headWf head
  | .collDeadlineExpiry group layer time => decide (group < 64 ∧ layer < 65536) && timeWf time
  | .scaleMessage head _ _ => headWf head
  | .reductionDiscard group layer _ => decide (group < 64 ∧ layer < 65536)
  | .collectivePieceReceive head _ _ => headWf head
  | .telemetryFrame _ head payload => headWf head && decide (payload.length ≤ 240)
  | .telemetryPeriod time => timeWf time
  | .irqClaim _ => true
  | .irqComplete _ _ => true
  | .irqGlobalEnableWrite _ => true
  | .coalesceTimerExpiry _ time => timeWf time
  | .msixVectorControlWrite _ => true
  | .watchdogExpiry time => timeWf time
  | .mctpControlMessage command argument => decide (command < 256 ∧ argument < 256)
  | .pldmGetSensor sensor => decide (sensor < 65536)
  | .pldmSetEffecter effecter _ => decide (effecter < 65536)
  | .governorTick _ time => timeWf time
  | .floorMonitorWindow rates time => decide (rates.length = 8) && timeWf time
  | .junctionCheck temps time => decide (temps.length = 64) && temps.all (fun t => decide (-128 ≤ t ∧ t < 128)) && timeWf time
  | .fastLimiter _ time => timeWf time
  | .droopDetect _ _ => true
  | .tilePowerGate _ time => timeWf time
  | .tileWake _ => true
  | .pwrNowRead => true
  | .inputOutOfRange _ => true
  | .undervoltageLockout _ => true
  | .overvoltage _ => true
  | .powerOnReset boot => bootWf boot
  | .warmReset boot => bootWf boot
  | .functionLevelReset => true
  | .dataPlane => true
  | .bayReset _ failing => tilesWf failing
  | .d3hotEntry => true
  | .d3hotExit => true
  | .hostLinkDown => true
  | .busMasterEnableChange _ _ => true
  | .bar2Resize log2 => decide (36 ≤ log2 ∧ log2 ≤ 40)
  | .bar2Read _ length => decide (0 < length ∧ length ≤ 4096)
  | .bar2Write _ data => decide (0 < data.length ∧ data.length ≤ 4096)
  | .bar0InvalidAccess _ offset size => decide (offset + size ≤ 2 ^ 24)
  | .getCerts => true
  | .debugChallenge => true
  | .debugResponse => true
  | .revoke => true
  | .advanceSvn => true
  | .extendHost => true
  | .registerWrite offset _ => offsetWf offset
  | .hostCompletionTimeout _ => true
  | .hostLinkUp generation width => decide (1 ≤ generation ∧ generation ≤ 6) && [1, 2, 4, 8, 16].contains width
  | .loRegisterRead offset => offsetWf offset
  | .destinationSwitch table row => decide (table < 256) && rowWf row
  | .smbusAddressResolution address => decide (address < 128)

end Sys2Proof
end

