-- ==== Sys2Proof/Tests/Slice0.lean ====
section
/-! SUPPORT. Tests: an ill-formed command for each check of WellFormed, a state and operands for every statement's hypotheses, and the
spec's worked numbers. -/

set_option Elab.async false

namespace Sys2Proof.Tests

open Sys2Proof Sys2Proof.Machine

/-! ## States -/

/-- A state with registers set, the first of the list last. -/
def withRegs (l : List (Nat × Word)) : State := l.foldr (fun p s => s.setReg p.1 p.2) State.reset

/-- A module that is READY with every bay enabled, and with more registers set. -/
def up (l : List (Nat × Word)) : State := withRegs (l ++ [(Reg.BOOT_STATUS, 0x85000000), (Reg.BAY_ENABLE_MASK, 0xFF)])

/-- A tagged command of tag 0 on ring 0. -/
def cmd (pkt : List Byte) (phase : Phase) : Entry :=
  { tag := 0, ring := 0, pkt := pkt, slot := 0, remote := false, start := 0, paused := 0, pauseFrom := none, seq := 0, phase := phase,
    touched := false, notes := 0, overlay := [], outs := [], ins := [], tide := 0, reads := [], readsLater := [], reruns := 0,
    answers := [], asked := [], disp := 0, prepared := false, replays := 0, policy := 0, kept := [], queued := [] }

/-- A packet of an opcode whose other header bytes are 0, with a body. -/
def pkt (op : Nat) (body : List Byte) : List Byte :=
  toLE 1 op ++ toLE 1 0 ++ toLE 2 (body.length / 16) ++ toLE 60 0 ++ body

/-- A ring enabled at the start of skerry memory, of 64 granules, with `tail` of them in use. -/
def ring (tail : Nat) : List (Nat × Word) :=
  [(Reg.RING_BASE_HI 0, 0x100), (Reg.RING_SIZE 0, 6), (Reg.CPL_BASE_LO 0, 0x10000), (Reg.CPL_BASE_HI 0, 0x100), (Reg.CPL_SIZE 0, 6),
   (Reg.RING_TAIL 0, BitVec.ofNat 32 tail)]

/-- Slot 0 is loaded. -/
def slot0 : List (Nat × Word) := [(Reg.SLOT_LOADED_LO, 1)]

/-! ## The step and the rings -/

theorem test_wit_idle : State.reset.pending = [] ∧ State.reset.now % 40 = 0 := by decide +kernel

theorem test_wit_keeps : ClockAndBarLegal State.reset ∧ ∃ t, step State.reset = .next t :=
  ⟨by unfold ClockAndBarLegal; decide +kernel, _, rfl⟩

theorem test_wit_queue : ∃ t, step { State.reset with pending := [.katGo, .packetFetch] } = .next t := ⟨_, rfl⟩

theorem test_wit_timebase : (∃ t, exec .katGo State.reset = .next t) ∧ ∀ b, Instr.katGo ≠ .powerOnReset b := ⟨⟨_, rfl⟩, by simp⟩

theorem test_wit_pci : changesPci .katGo = false ∧ ∃ t, exec .katGo State.reset = .next t := ⟨rfl, _, rfl⟩

theorem test_wit_doorbell_valid : solocReady (up (ring 0)) = true ∧ doorbellValid (up (ring 0)) 0 15 := by
  unfold doorbellValid; decide +kernel

theorem test_wit_doorbell_invalid : solocReady (up (ring 1)) = true ∧ ¬ doorbellValid (up (ring 1)) 0 0 := by
  unfold doorbellValid; decide +kernel

theorem test_wit_cpl_head : solocReady (up (ring 0)) = true := by decide +kernel

theorem test_wit_grant : grantedRing (up (ring 1)) = some 0 ∧ hasPacket (up (ring 1)) 0 = true ∧ tagFree (up (ring 1)) 0 = true := by
  decide +kernel

theorem test_wit_fetch : grantedRing (up (ring 1)) = some 0 ∧ (∀ m, m < 16 → flushing (up (ring 1)) m = false) ∧
    badGranule (up (ring 1)) (granuleAddr (up (ring 1)) 0 0) = none ∧
    granuleFault (up (ring 1)) (headAddrs (up (ring 1)) 0) = none ∧ headLen (up (ring 1)) 0 ≤ 60 ∧
    loadGranules (noteGrant (up (ring 1)) 0) (headAddrs (up (ring 1)) 0) = (List.replicate 64 0, noteGrant (up (ring 1)) 0) :=
  ⟨by decide +kernel, by decide +kernel, by decide +kernel, by decide +kernel, by decide +kernel, Prod.ext (by decide +kernel) (loadGranules_clean (by decide +kernel) _)⟩

/-- A ring in no region of the address map. -/
def lostRing : State := up [(Reg.RING_BASE_HI 0, 0x300), (Reg.RING_SIZE 0, 6), (Reg.CPL_SIZE 0, 6), (Reg.RING_TAIL 0, 1)]

theorem test_wit_fetch_fault : grantedRing lostRing = some 0 ∧ (∀ m, m < 16 → flushing lostRing m = false) ∧
    (badGranule lostRing (granuleAddr lostRing 0 0)).isSome = true := by decide +kernel

/-- A NOP that has executed. -/
def doneNop : State := { up (ring 0) with entries := [cmd (pkt 0 []) (.finished ⟨0, 0, 0, 0, 0⟩)] }

theorem test_wit_complete : entryOf doneNop 0 = some (cmd (pkt 0 []) (.finished ⟨0, 0, 0, 0, 0⟩)) ∧
    remoteSignals doneNop (pkt 0 []) = [] := by decide +kernel

/-- A reply that waits. -/
def heldReply : State := { up (ring 0) with entries := [cmd (pkt 0 []) (.replyHeld ⟨0, 0, 0, 0, 0⟩ 0)] }

theorem test_wit_deferred : heldReply.entries = [cmd (pkt 0 []) (.replyHeld ⟨0, 0, 0, 0, 0⟩ 0)] ∧ cplReady heldReply 0 = true ∧
    mgmtRunning heldReply = false ∧ 0x010000000000 ≤ cplBase heldReply 0 ∧
    faultIn heldReply true (cplBase heldReply 0 + 32 * heldReply.fieldAt (Reg.CPL_TAIL 0) 11 0) 32 = none := by decide +kernel

/-- A WAIT whose condition never holds, with a TIMEOUT of 1 µs; its clock began at 0. -/
def lateWait : State :=
  { up (ring 0) with entries := [cmd (toLE 1 3 ++ toLE 11 0 ++ toLE 4 1000 ++ toLE 2 0 ++ toLE 1 2 ++ toLE 1 0 ++ toLE 4 7 ++ toLE 40 0) .waiting] }

theorem test_wit_timeout : (match entryOf (passTime lateWait 1000000000000) 0 with
    | some e => expired (passTime lateWait 1000000000000) e && (timeoutDone (passTime lateWait 1000000000000) e).isSome
    | none => false) = true := by decide +kernel

/-! ## Commits -/

/-- A pending shadow of the Power block, and one of RAS. -/
def shadows : State := { up [] with shadow := [(Reg.GOV_TARGET, 2450), (Reg.RAS_POLICY, 3)] }

theorem test_wit_request : rowKey 4 0 = 4 ∧ isApplying shadows 4 = false ∧
    shadows.shadow.filter (fun p => decide (commitKey p.1 = 4)) = [(Reg.GOV_TARGET, 2450)] := by decide +kernel

theorem test_wit_request_ras : rowKey 10 0 = 10 ∧ isApplying shadows 10 = false ∧
    shadows.shadow.filter (fun p => decide (commitKey p.1 = 10)) = [(Reg.RAS_POLICY, 3)] := by decide +kernel

/-- A Power commit, and one that enables ring 0, that are APPLYING. -/
def applyingTwo (now : Nat) : State :=
  { up [] with now := now, applying := [⟨4, [(Reg.GOV_TARGET, 2450)]⟩, ⟨16, [(Reg.RING_SIZE 0, 6)]⟩] }

theorem test_wit_request_applying : isApplying (applyingTwo 0) 4 = true := by decide +kernel

theorem test_wit_apply_early : applyingSet (applyingTwo 40) 4 = some ⟨4, [(Reg.GOV_TARGET, 2450)]⟩ ∧ quiet (applyingTwo 40) 4 = false := by
  decide +kernel

theorem test_wit_apply : applyingSet (applyingTwo 0) 4 = some ⟨4, [(Reg.GOV_TARGET, 2450)]⟩ ∧ quiet (applyingTwo 0) 4 = true ∧
    NoConfigCommitWaits (applyingTwo 0) := ⟨by decide +kernel, by decide +kernel, by intro e he; simp [applyingTwo, up, withRegs, State.reset, State.setReg] at he⟩

theorem test_wit_apply_ring : rowKey 1 0 = 16 ∧ applyingSet (applyingTwo 0) 16 = some ⟨16, [(Reg.RING_SIZE 0, 6)]⟩ ∧
    ringHead (applyingTwo 0) 0 = ringTail (applyingTwo 0) 0 ∧ (applyingTwo 0).fieldAt (Reg.RING_SIZE 0) 3 0 = 0 ∧
    (applyWords (applyingTwo 0) [(Reg.RING_SIZE 0, 6)]).fieldAt (Reg.RING_SIZE 0) 3 0 ≠ 0 := by decide +kernel

/-- A Fabric commit of FAB_MODULE_ID alone. -/
def fabricId : State := { up [] with applying := [⟨6, [(Reg.FAB_MODULE_ID, 7)]⟩] }

theorem test_wit_part : applyingSet fabricId 6 = some ⟨6, [(Reg.FAB_MODULE_ID, 7)]⟩ ∧ partDue fabricId .moduleId = true := by decide +kernel

/-- A module with port 0 UP and enabled, in a group with another. -/
def port0 : List (Nat × Word) := [(Reg.PORT_STATUS 0, 0x00300200), (Reg.PORT_CTRL 0, 0x90000000), (Reg.FAB_MODULE_ID, 1)]

theorem test_wit_part_early : partDue (up port0) .moduleId = false := by decide +kernel

/-! ## Event counters and control opcodes -/

theorem test_wit_waits : (3 : Nat) < 2 ^ 32 ∧ condHolds 1 3 3 = true ∧ condHolds 1 2 3 = false ∧ condHolds 1 (2 ^ 31 + 2) 3 = true ∧
    condHolds 1 (2 ^ 31 + 3) 3 = false := by decide +kernel

theorem test_wit_watch : watchTrue (up [(Reg.EVC_WATCH_THRESH 0, 1), (Reg.EVC_WATCH_CFG 0, 0x80010000)]) 0 = false := by decide +kernel

/-- A ready control command of an opcode, with a body. -/
def ctl (op : Nat) (body : List Byte) (l : List (Nat × Word)) : State := { up (ring 0 ++ l) with entries := [cmd (pkt op body) .ready] }

theorem test_wit_control : ∀ op ∈ [0x00, 0x01, 0x02, 0x03],
    ControlReady (ctl op [] slot0) 0 op (cmd (pkt op []) .ready) ∧ signalBodyOk (cmd (pkt op []) .ready) = true ∧
    earlierDone (ctl op [] slot0) (cmd (pkt op []) .ready) = true := by unfold ControlReady; decide +kernel

theorem test_wit_unloaded : ∀ op ∈ [0x00, 0x01, 0x03], blockedByCommit (ctl op [] []) (cmd (pkt op []) .ready) = false ∧
    slotLoaded (ctl op [] []) 0 = false := by decide +kernel

/-- A FENCE that waits behind an earlier packet of its ring, and one that does not. -/
def fenced (behind : Bool) : State :=
  { up (ring 0) with entries := { cmd (pkt 1 []) (.running .fence) with seq := 1 } ::
      (if behind then [{ cmd (pkt 0 []) .waiting with tag := 1 }] else []) }

theorem test_wit_fence : (entryOf (fenced true) 0).map (earlierDone (fenced true)) = some false ∧
    (entryOf (fenced false) 0).map (earlierDone (fenced false)) = some true := by decide +kernel

theorem test_wit_config_commit : ControlReady { ctl 4 (toLE 16 0x10) slot0 with shadow := [(Reg.GOV_TARGET, 2450)] } 0 4 (cmd (pkt 4 (toLE 16 0x10)) .ready) ∧
    bodyZero (cmd (pkt 4 (toLE 16 0x10)) .ready) 2 16 = true ∧
    isPendingKey { ctl 4 (toLE 16 0x10) slot0 with shadow := [(Reg.GOV_TARGET, 2450)] } 4 = true ∧ isPendingKey (ctl 4 (toLE 16 0x10) slot0) 4 = false := by
  unfold ControlReady; decide +kernel

theorem test_wit_slot_switch : ∀ l ∈ [[(Reg.SLOT_LOADED_LO, (3 : Word))], slot0],
    ControlReady (ctl 5 (toLE 16 1) l) 0 5 (cmd (pkt 5 (toLE 16 1)) .ready) ∧ bodyZero (cmd (pkt 5 (toLE 16 1)) .ready) 1 16 = true ∧
    bodyAt (cmd (pkt 5 (toLE 16 1)) .ready) 0 1 = 1 ∧ (ctl 5 (toLE 16 1) l).fieldAt (Reg.SLOT_ACTIVE 0) 5 0 = 0 ∧
    slotLoaded (ctl 5 (toLE 16 1) l) 1 = (ctl 5 (toLE 16 1) l).bitAt Reg.SLOT_LOADED_LO 1 := by unfold ControlReady; decide +kernel

/-! ## The units' opcodes -/

/-- An UNDERTOW that disarms rule 0, in lab mode. -/
def disarm (phase : Phase) : Entry := cmd (pkt 0xF0 (toLE 48 0)) phase

/-- The state in which it runs, with slot 0 loaded or not. -/
def lab (phase : Phase) (l : List (Nat × Word)) : State := { up ((Reg.SEC_STATE, 1) :: l) with entries := [disarm phase] }

/-- The state and result of a job's body that runs to its end, as a witness for `RunsClean`. -/
theorem clean_of {base : State} {job : Job} {e e2 e3 : Entry} {env0 : Env} (o : Done) (h1 : e.prepared = false)
    (h2 : (job.prep e).run.run (runEnv base e) = (.ok (), env0)) (h3 : entryOf (preparedState env0 e.tag) e.tag = some e2)
    (h4 : (runBody (preparedState env0 e.tag) job e2).2 = .ok o) (h5 : (runBody (preparedState env0 e.tag) job e2).1.poison = none)
    (h6 : (runBody (preparedState env0 e.tag) job e2).1.s.undertow = [])
    (h7 : entryOf (runBody (preparedState env0 e.tag) job e2).1.s e.tag = some e3)
    (h8 : racingBytes (runBody (preparedState env0 e.tag) job e2).1.s e3 (runBody (preparedState env0 e.tag) job e2).1 = []) :
    RunsClean base job e e3 (runBody (preparedState env0 e.tag) job e2).1 o := by
  refine ⟨?_, h5, h6, h7, h8⟩
  rw [if_neg (by simp [h1])]
  exact ⟨env0, e2, h2, h3, Prod.ext rfl h4⟩

/-- The command as it stands when its preparation has run. -/
def prepared (e : Entry) : Entry := { e with prepared := true }

theorem test_wit_unit : ∀ l ∈ [slot0, []],
    entryOf (lab .ready l) 0 = some (disarm .ready) ∧ gateOpen (lab .ready l) (disarm .ready) = true ∧ NoMemoryCommit (lab .ready l) (disarm .ready) ∧
    (dispatchFault (lab .ready l) (dispatched (lab .ready l) (disarm .ready)) = none ∨ slotLoaded (lab .ready l) 0 = false) := by
  unfold NoMemoryCommit; decide +kernel

theorem test_wit_unit_runs : ∃ env, RunsClean (dispatchedState (lab .ready slot0) (disarm .ready)) (.plain bodyUndertow)
    (dispatched (lab .ready slot0) (disarm .ready)) (prepared (dispatched (lab .ready slot0) (disarm .ready))) env ⟨0, 0, 0, 0, 0⟩ :=
  ⟨_, clean_of _ rfl rfl (e2 := prepared (dispatched (lab .ready slot0) (disarm .ready))) (by decide +kernel) (by decide +kernel)
    (by decide +kernel) (by decide +kernel) (by decide +kernel) (by decide +kernel)⟩

theorem test_wit_unit_unloaded : ∃ env, RunsClean (dispatchedState (lab .ready []) (disarm .ready)) (.plain bodyUndertow)
    (dispatched (lab .ready []) (disarm .ready)) (prepared (dispatched (lab .ready []) (disarm .ready))) env ⟨0, 0, 0, 0, 0⟩ :=
  ⟨_, clean_of _ rfl rfl (e2 := prepared (dispatched (lab .ready []) (disarm .ready))) (by decide +kernel) (by decide +kernel)
    (by decide +kernel) (by decide +kernel) (by decide +kernel) (by decide +kernel)⟩

theorem test_wit_goes_on : ∀ w ∈ [Wait.tide, .turn, .slot, .checkpoint, .queueRoom, .serialised],
    entryOf (lab (.running w) slot0) 0 = some (disarm (.running w)) ∧ gateOpen (lab (.running w) slot0) (disarm (.running w)) = true ∧
    NoMemoryCommit (lab (.running w) slot0) (disarm (.running w)) := by unfold NoMemoryCommit; decide +kernel

theorem test_wit_goes_on_runs : ∃ env, RunsClean (setEntry (lab (.running .tide) slot0) 0 (fun _ => disarm (.running .tide)))
    (jobOf (pktOp (disarm (.running .tide)).pkt)) (disarm (.running .tide)) (prepared (disarm (.running .tide))) env ⟨0, 0, 0, 0, 0⟩ :=
  ⟨_, clean_of _ rfl rfl (e2 := prepared (disarm (.running .tide))) (by decide +kernel) (by decide +kernel)
    (by decide +kernel) (by decide +kernel) (by decide +kernel) (by decide +kernel)⟩

/-- A command whose recovery of the first word of skerry memory runs; its producer is recorded. -/
def recovers : State :=
  { lab (.running (.recovery 0x010000000000 none)) slot0 with
    replay := [⟨pkt 0xF0 (toLE 48 0), 0, 0, [], [(0x010000000000, 64)], []⟩] }

theorem test_wit_recovers : recovering recovers 0 = some (disarm (.running (.recovery 0x010000000000 none)), 0x010000000000) ∧
    versionAt recovers 0x010000000000 = none ∧ rowTableAt recovers 0x010000000000 = none ∧
    (match producerOf recovers 0x010000000000 with
     | some r => (rerun (recovers.count Reg.RAS_REPLAYS 1) r).isSome
     | none => false) = true ∧ isApplying recovers 5 = false := by decide +kernel

/-! ## Messages of the fabric -/

/-- The head of a message from module 2. -/
def fromTwo (tc : Nat) : MsgHead := ⟨2, tc, 5, false⟩

/-- A message of a kind delivered here. -/
def got (tc kind : Nat) (bytes : List Byte) (s : State) : State := { s with fab := { s.fab with inbox := [⟨fromTwo tc, kind, bytes, []⟩] } }

/-- This module is module 1, and module 2 is at port 0. -/
def routed (l : List (Nat × Word)) : State := up (port0 ++ (Reg.ROUTE_TABLE 2, 0) :: l)

theorem test_wit_once : delivered (routed []) (fromTwo 0) 3 = false ∧
    (let s := { got 0 3 [] (routed []) with fab := { (got 0 3 [] (routed [])).fab with accepted := [acceptKey (fromTwo 0)] } }
     delivered s { fromTwo 0 with resent := true } 3 = true ∧ accepts s { fromTwo 0 with resent := true } = false) := by decide +kernel

theorem test_wit_fresh : ∀ k ∈ [(0, 3), (0, 5), (0, 0xA), (0, 6), (2, 2), (1, 1), (3, 1), (0, 7), (0, 8), (0, 9)],
    delivered (got k.1 k.2 [] (routed [])) (fromTwo k.1) k.2 = true ∧ accepts (got k.1 k.2 [] (routed [])) (fromTwo k.1) = true := by
  decide +kernel

/-- The relay waits for module 2's answer to its message 9. -/
def relayed (kind : Nat) : State :=
  let s := got 0 kind [] (routed [(Reg.RELAY_STATUS, 1)])
  { s with fab := { s.fab with relayMsg := some (2, 9), sent := [(⟨2, 0, 9, false⟩, ⟨.soloc, [], []⟩)] } }

theorem test_wit_relay : solocReady (relayed 5) = true ∧ relayBusy (relayed 5) = true ∧ (relayed 5).fab.relayMsg = some ((fromTwo 0).peer, 9) ∧
    (relayed 5).fab.relayStart + 1000 * (relayed 5).fieldAt Reg.CMD_TIMEOUT_MIN 19 0 ≤ timeAt (relayed 5) 10000000000 ∧
    (relayed 0xA).fab.sent.find? (fun x => decide (acceptKey x.1 = acceptKey ⟨2, 0, 9, false⟩)) =
      some (⟨2, 0, 9, false⟩, ⟨.soloc, [], []⟩) := by decide +kernel

theorem test_wit_relay_go : relayBusy (routed []) = false ∧ flag (0x80020000 : Word) 31 = true ∧ fld (0x80020000 : Word) 27 16 = 2 ∧
    (routePort (routed []) 2).isSome = true ∧ fld (0x80030000 : Word) 27 16 ≠ ownId (routed []) ∧
    routePort (routed [(Reg.PORT_STATUS 0, 0)]) 3 = none := by decide +kernel

/-- A remote NOP for ring 0, whose remote path is open or not. -/
def remote (open_ : Bool) : State :=
  got 0 4 (pkt 0 []) (routed (ring 0 ++ if open_ then [(Reg.RING_PRIO 0, 0x100)] else []))

theorem test_wit_soloc : refuseReason (remote true) (pkt 0 []) = none ∧ refuseReason (remote false) (pkt 0 []) = some 1 ∧
    mayAccess (remote true) (ringBase (remote true) 0 + 64 * (ringTail (remote true) 0 % ringSize (remote true) 0)) = true ∧
    (remote true).fab.inbox.any (fun i => decide (acceptKey i.head = acceptKey (fromTwo 0)) && decide (i.bytes = pkt 0 [])) = true ∧
    (pkt 0 []).length = 64 ∧ 0x010000000000 ≤ ringBase (remote true) 0 ∧ ringBase (remote true) 0 + 64 ≤ 0x020000000000 := by decide +kernel

/-- A remote packet for a ring whose memory is nowhere. -/
def remoteLost : State :=
  got 0 4 (pkt 0 []) (routed [(Reg.RING_BASE_HI 0, 0x300), (Reg.RING_SIZE 0, 6), (Reg.CPL_SIZE 0, 6), (Reg.RING_PRIO 0, 0x100)])

theorem test_wit_soloc_lost : refuseReason remoteLost (pkt 0 []) = some 5 := by decide +kernel

/-- A command that has asked module 2 for a row of a table. -/
def asks (q : Ask) : Entry := { cmd (pkt 0x22 (toLE 48 0)) (.running .remote) with asked := [(q, 2)] }

theorem test_wit_answers : ∀ q ∈ [Ask.member 0 1 2, .tableRow 3 4 0],
    entryOf { got 0 6 [] (routed []) with entries := [asks q] } 0 = some (asks q) ∧ inFlight (asks q) = true ∧
    (asks q).asked.any (fun x => decide (x.1 = q)) = true ∧ (asks q).answers = [] := by decide +kernel

theorem test_wit_redirect : askRow (.tableRow 3 4 0) = some (3, 4) := rfl

/-- A request that faults: no graph is loaded. -/
theorem test_wit_expand : solocReady (got 0 6 [] (routed [])) = true ∧
    (match answerExpand (takeMessage (got 0 6 [] (routed [])) (fromTwo 0)) (.member 0 1 2) with
     | some c => (serveAnswer c (takeMessage (got 0 6 [] (routed [])) (fromTwo 0))).isSome
     | none => false) = true := by decide +kernel

theorem test_wit_batch : (match serveBatch (takeMessage (got 2 2 [] (routed [])) (fromTwo 2)) [.tableRow 3 4 0] with
    | some b => b.onward.isEmpty && b.redirects.isEmpty && !b.answers.isEmpty
    | none => false) = true := by decide +kernel

/-- A table in skerry memory of eight rows of 16 bytes, its row 0 VALID in slot 0, with a free ring of 16 entries; its row map and ring
are at the start of skerry memory. -/
def table3 : Desc :=
  ⟨3, toLE 8 0x010000001000 ++ toLE 8 8 ++ toLE 4 4 ++ toLE 4 16 ++ toLE 16 0 ++ toLE 8 0x010000000000 ++ toLE 4 16 ++ toLE 76 0⟩

/-- The state with the table, where module 1 holds shard 1. -/
def tables : State := { routed [] with gath := { (routed []).gath with tables := [table3] } }

/-- A row that is on its way here, for which a batch must wait. -/
def ebbing : State := got 2 2 [] (pokeBytes tables 0x010000001000 (toLE 8 (mkEntry 1 false 4 0 0)))

theorem test_wit_batch_waits : (serveBatch (takeMessage ebbing (fromTwo 2)) [.tableRow 3 (2 ^ 36) 0]).isNone = true := by decide +kernel

/-- The free ring of the table holds one slot of the far tier. -/
def oneFree : State := pokeBytes (pokeBytes (got 3 1 [] tables) 0x010000000000 (toLE 8 (2 ^ 32))) 0x010000000040 (toLE 8 (2 ^ 63 + 7))

theorem test_wit_copy : (receiveCopy (takeMessage oneFree (fromTwo 3)) 3 (2 ^ 37) 2 ⟨mkEntry 1 false 1 0 0, toLE 16 5, [], []⟩).1 = some 8 := by
  decide +kernel

/-- A guest whose switch has been received. -/
def guest (h : MsgHead) : Guest := ⟨3, 2 ^ 37, 8, 2, some (h, 4, ⟨0, [], [], []⟩), none⟩

/-- The state that holds it. -/
def hosted : State := { tables with gath := { tables.gath with guests := [guest (fromTwo 3)] } }

theorem test_wit_switch : hosted.gath.guests.find? (fun g => g.table = 3 && g.row = 2 ^ 37) = some (guest (fromTwo 3)) := by decide +kernel

/-! ## Gather housekeeping -/

/-- An old slot of the far tier whose readers have completed, or not. -/
def oldSlot (reader : Bool) : State :=
  { tables with
    gath := { tables.gath with releases := [⟨3, 2 ^ 63 + 2, [0]⟩] }
    entries := if reader then [cmd (pkt 0x22 (toLE 48 3)) (.running .remote)] else [] }

theorem test_wit_release : tableDesc (oldSlot false) 3 = some table3.bytes ∧ releaseReady (oldSlot false) ⟨3, 2 ^ 63 + 2, [0]⟩ = true ∧
    releaseReady (oldSlot true) ⟨3, 2 ^ 63 + 2, [0]⟩ = false ∧ drainsSlot (oldSlot false) 3 (2 ^ 63 + 2) = false ∧
    tRing table3.bytes = 0x010000000000 ∧ tRingSize table3.bytes = 16 := by decide +kernel

/-- A migrated row at the end of its drain. -/
def drained : State :=
  let s := pokeBytes tables 0x010000001000 (toLE 8 (mkEntry 1 false 3 0 2))
  { s with gath := { s.gath with
      releases := [⟨3, 2 ^ 63 + 2, []⟩], migrations := [⟨3, 2 ^ 36, 0, 2, 0, 3, 0, 0, 0, ⟨0, [], [], []⟩⟩] } }

theorem test_wit_grace : drained.gath.migrations.find? (fun m => m.table = 3 && m.row = 2 ^ 36 && m.phase = 3) =
      some ⟨3, 2 ^ 36, 0, 2, 0, 3, 0, 0, 0, ⟨0, [], [], []⟩⟩ ∧
    eSlot (storedEntry drained table3.bytes 0) + 2 ^ 63 * eTier (storedEntry drained table3.bytes 0) = 2 ^ 63 + 2 ∧
    1000 * drained.fieldAt Reg.MIGRATE_GRACE 15 0 ≤ timeAt drained 100000000000 := by decide +kernel

/-- Hot-row measurement on, with snapshots in skerry memory every 1 ms. -/
def hot : State := up [(Reg.HOTROW_CFG, 0x80000001), (Reg.HOTROW_SNAP_HI, 0x100)]

theorem test_wit_snapshot : mgmtRunning hot = false ∧ snapshotDue hot (timeAt hot 1000000) = true ∧ snapshotDue hot (timeAt hot 999960) = false ∧
    bayEnabled hot 0 = true ∧ hot.gath.hot[0]? = some ⟨[], []⟩ := by decide +kernel


/-! ## Registers of the units -/

/-- Layer 2 loaded and promoted, its record in skerry memory. -/
def promotedLayer : State :=
  pokeBytes { up [(Reg.PW_CTRL, 4)] with pw := ⟨0x010000000000, [2], []⟩ } (0x010000000000 + 128 * 2 + 68) [1]

theorem test_wit_demote : solocReady promotedLayer = true ∧ fld (2 : Word) 9 0 = 2 ∧ pwLoaded promotedLayer 2 = true ∧
    bit (pwField promotedLayer 2 68 1) 0 = true ∧ pwAddr promotedLayer 2 + 128 ≤ 0x020000000000 ∧
    (pwLoaded promotedLayer 3 && bit (pwField promotedLayer 3 68 1) 0) = false := by decide +kernel

/-- A promotion that the management core has not yet served. -/
def promotion : State := up [(Reg.PW_EVENT, 0x80000002), (Reg.MGMT_STATUS, 2)]

theorem test_wit_service : mgmtRunning promotion = true ∧ promotion.bitAt Reg.PW_EVENT 31 = true := by decide +kernel

/-! ## Memory, stacks and faults below the commands -/

/-- Stack 0 ACTIVE with capacity, scrubbed, with an error pattern in its first codeword. -/
def stack0 (m : Nat) : State :=
  let s := up [(Reg.STACK_STATE 0, 2), (Reg.STACK_CAPACITY 0, 16), (Reg.SCRUB_RATE, 1)]
  { s with errs := if m = 0 then [] else [(0, m)] }

theorem test_wit_scrub : ∀ k ∈ [(0, WordState.good), (3, .corrected), (0x1F, .uncorrectable)],
    (stack0 k.1).fieldAt (Reg.STACK_STATE 0) 2 0 = 2 ∧ (stack0 k.1).fieldAt Reg.SCRUB_RATE 12 0 ≠ 0 ∧
    (stack0 k.1).bitAt Reg.HBM_HOLD 0 = false ∧ scrubPlace (stack0 k.1) 0 (((stack0 k.1).scrub[0]?).getD 0) = some 0 ∧
    0 + 64 < stackCapacity (stack0 k.1) 0 ∧ wordState (stack0 k.1) ⟨0 * 2 ^ 37 + 0, .hbm 0⟩ = k.2 := by decide +kernel

theorem test_wit_channel : (stack0 0).bitAt (Reg.STACK_CHANNELS 0) 15 = false ∧ (stack0 0).bitAt (Reg.STACK_CHANNELS 0) 31 = false ∧
    errlogSize (stack0 0) = 0 := by decide +kernel

theorem test_wit_thermal : timeAt (stack0 0) 0 % 1000000 = 0 ∧ (stack0 0).power.off = false ∧ (stack0 0).fieldAt (Reg.STACK_STATE 0) 10 8 = 0 ∧
    stackAction 0 105 = 4 ∧ stackAction 0 60 = 0 := by decide +kernel

/-- Bay 0 with all four spares good, and replay on tile faults on or off. -/
def spares (replay : Bool) : State := up [(Reg.SPARE_STATE 0, 0xF), (Reg.RAS_POLICY, if replay then 2 else 0)]

theorem test_wit_tile : bayEnabled (spares true) 0 = true ∧ (spares true).power.deadTiles.contains 5 = false ∧
    (spares true).bitAt Reg.RAS_POLICY 1 = true ∧ goodSpares (spares true) 0 = 0 :: [1, 2, 3] ∧
    (spares false).bitAt Reg.RAS_POLICY 1 = false ∧ goodSpares (up [(Reg.RAS_POLICY, 2)]) 0 = [] := by decide +kernel

/-! ## Links -/

/-- A one-flit SIGNAL from module 2. -/
def signalFlit (dest : Nat) : QFlit :=
  { dest := dest, origin := 2, tc := 0, kind := 3, msg := 5, vc := 0, alt := false, last := true, resent := false, own := false, head := false,
    waited := false, judged := false, buf := none, payload := toLE 2 7 ++ toLE 2 0 ++ toLE 4 1 }

/-- Its bytes on the wire. -/
def signalBytes : List Byte := flitBytes (signalFlit 1) ⟨0, 0, false, false, 0⟩

theorem test_wit_flit : portUp (routed []) 0 = true ∧ 0 < (routed []).fab.ports.length ∧ (routed []).undertow = [] ∧
    signalBytes.length = 256 ∧ flitCrc signalBytes = leAt signalBytes 12 4 ∧ (parseLink signalBytes).seq = ((routed []).port 0).rxSeq ∧
    (parseFlit signalBytes).dest = ownId (routed []) ∧ (parseFlit signalBytes).last = true ∧ (parseFlit signalBytes).resent = false ∧
    (parseFlit signalBytes).kind = 3 ∧ kindOnClass 3 0 = true ∧ ((routed []).port 0).heldIn = [] ∧ (routed []).fab.parts = [] := by
  decide +kernel

/-- The same flit with its last payload byte spoilt. -/
def spoilt : List Byte := signalBytes.set 255 1

theorem test_wit_flit_bad : flitCrc spoilt ≠ leAt spoilt 12 4 := by decide +kernel

/-- Port 0 with a flit to send. -/
def sends : State := (routed []).setPort 0 (fun ps => { ps with queue := [signalFlit 2], credits := List.replicate 8 10 })

theorem test_wit_transmit : portUp sends 0 = true ∧ (sends.port 0).replay.length < 512 ∧ (sends.port 0).delayUntil ≤ timeAt sends 1000 ∧
    sends.undertow = [] := by decide +kernel

/-- Port 0 with a flit not yet acknowledged. -/
def unacked (nak : Bool) : State :=
  (routed []).setPort 0 (fun ps => { ps with cable := true, nakSeen := nak, txSeq := 1, replay := [⟨0, signalFlit 2, 0, 0⟩] })

/-- The same with the reference clocks. -/
def clocked (s : State) : State := { s with fab := { s.fab with clocks := 3 } }

theorem test_wit_replay : portUp (unacked true) 0 = true ∧ ((unacked true).port 0).nakSeen = true ∧
    ((unacked true).port 0).replay = [⟨0, signalFlit 2, 0, 0⟩] := by decide +kernel

theorem test_wit_retrain : replayExhausted (passTime (unacked true) 1000000000) 0 = true ∧
    (unacked true).bitAt (Reg.LANE_MAP 0) (16 + 8) = false ∧ (unacked true).bitAt (Reg.LANE_MAP 0) 8 = false ∧
    canTrain (clocked (unacked true)) 0 = true ∧ portState (clocked (unacked true)) 0 = 2 ∧ solocReady (unacked true) = true ∧
    canTrain (unacked false) 7 = false := by decide +kernel

/-- Ports 0 and 1 UP; a gather message for module 2 has waited at port 0, and port 1 is an alternate. -/
def stuck : State :=
  let s := routed [(Reg.PORT_STATUS 1, 0x00300200), (Reg.PORT_CTRL 1, 0x90000000), (Reg.FAB_ROUTE_CFG, 0x80000001)]
  ((s.setReg (Reg.ROUTE_TABLE 2) 0x0100).setPort 0 (fun ps => { ps with queue := [{ signalFlit 2 with tc := 2, kind := 2, head := true }], starved := [(4, 0)] })).setPort 1
    (fun ps => { ps with credits := List.replicate 8 10 })

theorem test_wit_fallback : stuck.bitAt Reg.FAB_ROUTE_CFG 31 = true ∧
    (stuck.port 0).queue.find? (fallsBack (passTime stuck 1000) 0) = some { signalFlit 2 with tc := 2, kind := 2, head := true } ∧
    alternateFor (passTime stuck 1000) { signalFlit 2 with tc := 2, kind := 2, head := true } = some 1 := by decide +kernel

/-- Port 0 in training, x4 allowed or not. -/
def trains (x4 : Bool) : State :=
  up [(Reg.PORT_STATUS 0, 0x100), (Reg.PORT_CTRL 0, if x4 then 0x90000000 else 0x80000000), (Reg.FAB_MODULE_ID, 1)]

theorem test_wit_training : ∀ b, portState (trains b) 0 = 1 ∧ applyingSet (trains b) 6 = none ∧
    popcount (goodLanes (trains b) 0 0xFF ((trains b).port 0).requested) 9 = 8 ∧
    popcount (goodLanes (trains b) 0 0xF ((trains b).port 0).requested) 9 = 4 := by decide +kernel

/-! ## Collectives -/

/-- Group 0: this module, number 1, and modules 2 and 3, its children at ports 0 and 1 in the one tree. -/
def group0 : Desc :=
  ⟨0, toLE 8 0x010000000000 ++ toLE 2 3 ++ toLE 2 0 ++ toLE 1 1 ++ toLE 1 1 ++ toLE 2 1 ++
    toLE 8 (1 + 0xF * 2 ^ 12 + 3 * 2 ^ 16 + 1 * 2 ^ 24 + 3 * 2 ^ 32) ++ toLE 104 0⟩

/-- The group loaded, with reductions open, and a message of a kind delivered. -/
def grouped (reds : List Reduction) (tc kind : Nat) (l : List (Nat × Word)) : State :=
  { got tc kind [] (routed l) with coll := { State.reset.coll with groups := [group0], reductions := reds } }

/-- A chunk of layer 3, step 4. -/
def chunk34 : Chunk :=
  { group := 0, tree := 0, overRange := false, saturated := false, down := false, fromBackup := false, pass2 := false, layer := 3, step := 4,
    chunk := 0, e := 0, emax := none, count := 1, rank := 1, nonfinite := 0, lanes := [5] }

/-- Its module's exponent. -/
def values34 : RoundValues := ⟨0, 3, 4, 0, false, false, false, 0, some 7, 1⟩

theorem test_wit_chunk : collGroup (grouped [] 1 1 []) 0 ≠ [] ∧
    (receiveChunk (takeMessage (grouped [] 1 1 []) (fromTwo 1)) 0 chunk34).isSome = true ∧
    (receiveValues (takeMessage (grouped [] 0 8 []) (fromTwo 0)) 0 values34).isSome = true ∧
    findRed (grouped ((List.range 64).map (newRed 0 9)) 1 1 []) 0 3 4 = none ∧
    64 ≤ (grouped ((List.range 64).map (newRed 0 9)) 1 1 []).coll.reductions.length := by decide +kernel

/-- A piece of a BROADCAST of layer 3, step 4. -/
def piece34 : Piece := ⟨0x53, 0, 3, 4, 1, 0, 16, true, toLE 16 5⟩

/-- The BROADCAST under way here, its destination in skerry memory. -/
def broadcasts : State :=
  let s := grouped [] 1 1 []
  { s with
    coll := { s.coll with runs := [⟨0x53, 0, 3, 4, 0, pkt 0x53 (toLE 4 0 ++ toLE 4 3 ++ toLE 4 4 ++ toLE 4 0 ++ toLE 8 0x010000010000 ++
      toLE 8 0x010000010000 ++ toLE 8 16 ++ toLE 8 0), [], none⟩] }
    entries := [cmd (pkt 0x53 (toLE 48 0)) (.running .collective)] }

theorem test_wit_piece : findRun (grouped [] 1 1 []) 0x53 0 3 4 = none ∧ (findRun broadcasts 0x53 0 3 4).isSome = true ∧
    (match findRun broadcasts 0x53 0 3 4 with
     | some r => (takePiece (takeMessage broadcasts (fromTwo 1)) r piece34).isSome
     | none => false) = true := by decide +kernel

/-- A reduction whose first chunk came at 0 from port 0 alone. -/
def late : Reduction := { newRed 0 3 4 with chunks := [⟨0, false, 0, 0, [0], [], none, false, none, false⟩] }

theorem test_wit_late : (grouped [late] 0 8 []).coll.reductions.filter (fun r => decide (r.group = 0) && decide (r.layer = 3)) = [late] ∧
    cBackup (collGroup (grouped [late] 0 8 []) 0) = false ∧ (grouped [late] 0 8 []).fieldAt Reg.COLL_MISSING_POLICY 0 0 = 0 ∧
    (lateSlots (passTime (grouped [late] 0 8 []) 10000000000) (collGroup (grouped [late] 0 8 []) 0) ⟨0, false, 0, 0, [0], [], none, false, none, false⟩
      (timeAt (grouped [late] 0 8 []) 10000000000)).1 = true := by decide +kernel

/-- A closed reduction without a local command. -/
def closed : Reduction := { newRed 0 3 4 with closed := some 0 }

theorem test_wit_discard : findRed { grouped [closed] 0 8 [] with now := 10000000000 } 0 3 4 = some closed ∧
    0 + collDeadline { grouped [closed] 0 8 [] with now := 10000000000 } ≤ 10000000000 := by decide +kernel

/-! ## Management -/

/-- The management core runs; records every 1 ms. -/
def managed : State := up [(Reg.MGMT_STATUS, 2), (Reg.TELEM_PERIOD, 1000)]

theorem test_wit_frame : delivered (got 0 9 (toLE 240 7) (routed [])) (fromTwo 0) 9 = true ∧
    (got 0 9 (toLE 240 7) (routed [])).fab.inbox.any (fun i => decide (acceptKey i.head = acceptKey (fromTwo 0)) && decide (i.bytes = toLE 240 7)) = true :=
  by decide +kernel

theorem test_wit_period : mgmtRunning managed = true ∧ timeAt managed 1000000 % (1000 * managed.fieldAt Reg.TELEM_PERIOD 16 0) = 0 ∧
    managed.fieldAt Reg.TELEM_RING_SIZE 4 0 = 0 ∧ pldmSensor managed 83 = some (0, 0) := by decide +kernel

/-! ## Interrupts -/

/-- Sources 0 and 1 pending and enabled for the host, source 1 the more urgent. -/
def asserts : State :=
  up [(Reg.IRQ_GLOBAL_ENABLE, 1), (Reg.IRQ_SRC_CFG 0, 0x80000080), (Reg.IRQ_SRC_CFG 1, 0x80000040), (Reg.IRQ_PENDING 0, 3)]

theorem test_wit_claim : bestClaim asserts .host = some 1 ∧ claimable asserts .host 0 = true ∧ bestClaim asserts .mgmt = none := by
  decide +kernel

/-- Source 1 in service. -/
def serving : State := { asserts with irq := { asserts.irq with active := [⟨1, .host, 0⟩] } }

theorem test_wit_irq_complete : serving.irq.active.any (fun a => decide (a.id = fld (1 : Word) 9 0) && decide (a.target = .host)) = true ∧
    (∀ a ∈ serving.irq.active, srcAssigned a.id = true) ∧ flag (srcCfg serving 1) 31 = true ∧ fld (srcCfg serving 1) 25 24 = targetCode .host ∧
    serving.bitAt Reg.IRQ_GLOBAL_ENABLE (enableBit .host) = true ∧
    serving.irq.active.any (fun a => decide (a.id = fld (2 : Word) 9 0) && decide (a.target = .host)) = false ∧
    fld (0x3FF : Word) 9 0 = 1023 := by decide +kernel

/-- Vector 3 open, a source of its own pending, its timer at 0. -/
def open3 (enabled : Bool) : State :=
  let s := up [(Reg.IRQ_GLOBAL_ENABLE, if enabled then 1 else 0), (Reg.IRQ_SRC_CFG 0, 0x80030080), (Reg.IRQ_PENDING 0, 1), (Reg.MSIX_ADDR_LO 3, 0x1000), (Reg.MSIX_CTRL 3, 0),
    (Reg.VEC_COAL 3, 0x00010004)]
  { s with pci := { s.pci with msixEnable := true, busMaster := true }, irq := { s.irq with timers := [(3, 0)] } }

theorem test_wit_owed : solocReady (open3 true) = true ∧ (open3 true).power.off = false ∧ vectorOpen (open3 true) 3 = true ∧
    vectorClaimable (open3 true) 3 = true ∧ timerDue (open3 true) 3 (timeAt (open3 true) 1000) = true ∧
    (open3 false).bitAt Reg.IRQ_GLOBAL_ENABLE 0 = false ∧
    vectorOpen ((open3 false).setReg Reg.IRQ_GLOBAL_ENABLE 1) 3 = true := by decide +kernel

theorem test_wit_timer_off : timerDue (open3 false) 3 (timeAt (open3 false) 1000) = true ∧ vectorClaimable (open3 false) 3 = false := by
  decide +kernel

/-! ## Power -/

/-- Bay 0 at 700 mV, a target of 2,450, the management core running. -/
def governed (l : List (Nat × Word)) : State :=
  up ([(Reg.BAY_VDD 0, 700), (Reg.GOV_TARGET, 2450), (Reg.MGMT_STATUS, 2), (Reg.PWR_CEILING, 1000)] ++ l)

theorem test_wit_governor : (governed []).power.off = false ∧ (governed []).power.hold = false ∧ mgmtRunning (governed []) = true ∧
    vddOf (governed []) 0 = 700 ∧ actionOf (governed [(Reg.STACK_STATE 0, 0x300)]) 0 = 3 ∧ actionOf (governed [(Reg.STACK_STATE 0, 0x200)]) 0 = 2 ∧
    ceilingW (governed []) = 1000 ∧ (governed []).fieldAt (Reg.RATE_BAY 0) 15 0 + 25 < 2450 := by decide +kernel

theorem test_wit_floor : (governed []).power.windows.length = 8 ∧ bit (belowFloor (governed [])) 0 = false := by decide +kernel

/-- Bay 0 below floor for 99 good windows. -/
def below : State :=
  let s := governed [(Reg.FLOOR_STATUS, 1)]
  { s with power := { s.power with windows := 99 :: List.replicate 7 100 } }

theorem test_wit_below : bit (belowFloor below) 0 = true ∧ below.power.hold = false ∧ below.power.windows.length = 8 := by decide +kernel

theorem test_wit_limits : (governed []).power.limited = false ∧ bit (governed []).power.drooping 0 = false ∧
    (governed [(Reg.DROOP_CFG, 20)]).fieldAt Reg.DROOP_CFG 6 0 < vddOf (governed [(Reg.DROOP_CFG, 20)]) 0 - 600 ∧
    (∃ x ∈ [(20 : Nat), 110], 110 ≤ x) := by decide +kernel

/-- Idle tiles are gated after 1 µs. -/
def gates : State := governed [(Reg.GATE_CFG, 0x80000001)]

theorem test_wit_gate : gates.bitAt Reg.GATE_CFG 31 = true ∧ bayEnabled gates 0 = true ∧ tileGated gates 5 = false ∧ gates.entries = [] ∧
    lastUsed gates 5 + 1000 * gates.fieldAt Reg.GATE_CFG 15 0 ≤ timeAt gates 1000 := by decide +kernel

/-! ## Resets and the host -/

/-- A boot in which everything is found good. -/
def goodBoot : Boot := ⟨List.replicate 8 (some []), true, [], 3, 3, List.replicate 8 0, 6, 16, 2000⟩

theorem test_wit_data_plane : solocReady (up (ring 0)) = true ∧ errlogSize (up (ring 0)) = 0 ∧ keptInDataPlane Reg.HBM_SPEED = true ∧
    keptInDataPlane (Reg.RING_SIZE 0) = false := by decide +kernel

theorem test_wit_bay : (∀ e ∈ (up (ring 0)).entries, operatesIn (up (ring 0)) 0 e = false) := by decide +kernel

/-- The host link at generation 5. -/
def linked : State := up [(Reg.HOST_LINK_STATUS, 0x00051000)]

theorem test_wit_link : linked.fieldAt Reg.HOST_LINK_STATUS 19 16 = 5 ∧ (up []).fieldAt Reg.HOST_LINK_STATUS 19 16 = 0 ∧ linkLegal 5 8 = true := by
  decide +kernel

/-- A command waiting for the host. -/
def atHost : State := { up (ring 0) with entries := [cmd (pkt 0x10 (toLE 48 0)) (.running .host)] }

theorem test_wit_host_timeout : (entryOf atHost 0).map (fun e => e.phase) = some (.running .host) := by decide +kernel

/-- BAR2 shows skerry memory. -/
def mapped : State := pokeBytes (up [(Reg.HOST_BAR2_MAP_HI, 0x100)]) 0x010000000000 (toLE 16 0x0123456789ABCDEF)

theorem test_wit_bar2 : bar2Served mapped 0 8 = true ∧
    (bar2Addrs mapped 0 8).all (fun a => match bar2Byte mapped a with
      | some p => decide (wordState mapped p = .good)
      | none => false) = true ∧
    bar2Served mapped 16 (toLE 4 7).length = true ∧ mapped.errs = [] ∧ mapped.undertow = [] ∧
    (bar2Addrs mapped 16 4).map (bar2Byte mapped) = (bar2Addrs mapped 16 4).map (fun a => some ⟨2 ^ 40 + (a - 2 ^ 40), Region.skerry⟩) := by decide +kernel

/-- A mailbox request under way, of an opcode and input length; its buffer is in skerry memory. -/
def requests (op len : Nat) : State :=
  up [(Reg.SEC_MBOX_STATUS, 1), (Reg.SEC_MBOX_CMD, BitVec.ofNat 32 (0x80000000 + op)), (Reg.SEC_MBOX_LEN, BitVec.ofNat 32 len),
    (Reg.SEC_MBOX_BUF_HI, 0x100), (Reg.SEC_STATE, 0x300)]

theorem test_wit_mailbox : (∀ op ∈ [1, 2, 3, 4, 5, 6], mboxBusy (requests op 0) op = true) ∧
    (mboxInput (requests 6 32) 32).isSome = true ∧ (requests 6 32).sec.acc.length = 8 ∧ 3 ≤ (requests 3 0).fieldAt Reg.SEC_STATE 10 8 := by
  decide +kernel

/-- ADVANCE_SVN to 9, over fuses at 3 with nothing measured. -/
def advances : State :=
  let s := pokeBytes (requests 5 1) 0x010000000000 [9]
  { s with sec := { s.sec with svn := 3 } }

theorem test_wit_advance : mboxInput advances 1 = some [9] ∧ mboxBusy advances 5 = true ∧ advances.sec.svn < (9 : Byte).toNat ∧
    (∀ i, i < 5 → (advances.sec.counts[i]?).getD 0 = 0) := by decide +kernel

/-! ## Register access -/

theorem test_wit_write : findReg 0x123457 = none ∧ solocReady State.reset = false ∧ blockOf Reg.GOV_TARGET = 4 := by decide +kernel

theorem test_wit_write_fields : (match findReg (Reg.KAT_KEY 0) with
    | some (r, _) => hasAcc .rw r.fields && !hasAcc .rws r.fields && !hasOwnRow (Reg.KAT_KEY 0) && !writeIgnored (up []) (Reg.KAT_KEY 0)
    | none => false) = true ∧
    (match findReg Reg.GOV_TARGET with
    | some (r, _) => hasAcc .rws r.fields && !hasAcc .rw r.fields && !hasOwnRow Reg.GOV_TARGET && !writeIgnored (up []) Reg.GOV_TARGET
    | none => false) = true := by decide +kernel

theorem test_wit_lo : (match findReg (Reg.RING_BASE_LO 0), findReg (Reg.RING_BASE_LO 0 + 4) with
    | some (a, _), some (b, _) => decide (a.half = .lo) && decide (b.half = .hi)
    | _, _ => false) = true ∧ (up []).latchHi = [] := by decide +kernel

/-! ## Recoveries -/

/-- The command of `recovers` once its word is restored, with the notes and replays of its recovery. -/
def again (notes replays : Nat) (a : Nat) : Entry :=
  { disarm (.running (.recovery a none)) with notes := notes, reruns := 1, replays := replays }

/-- The state of `recovers` with its producer run again. -/
def rerunDone : State :=
  match producerOf recovers 0x010000000000 with
  | some r => (rerun (recovers.count Reg.RAS_REPLAYS 1) r).getD recovers
  | none => recovers

/-- The state in which it reads again. -/
def rerunAgain : State :=
  againState (logMerged (logTimed rerunDone (ueClass recovers 0x010000000000)
    (commandLog (disarm (.running (.recovery 0x010000000000 none))) 3 (unitAt recovers 0x010000000000) 0x010000000000 0)) 0x0C
    (commandLog (disarm (.running (.recovery 0x010000000000 none))) 3 0 0x010000000000 0)) 0 12

theorem test_wit_rerun : entryOf rerunAgain 0 = some (again 12 1 0x010000000000) ∧ isApplying rerunAgain 5 = false := by decide +kernel

theorem test_wit_rerun_runs : ∃ env, RunsClean (setEntry rerunAgain 0 (fun _ => again 12 1 0x010000000000)) (jobOf 0xF0) (again 12 1 0x010000000000)
    (prepared (again 12 1 0x010000000000)) env ⟨0, 0, 0, 0, 0⟩ :=
  ⟨_, clean_of _ rfl rfl (e2 := prepared (again 12 1 0x010000000000)) (by decide +kernel) (by decide +kernel) (by decide +kernel)
    (by decide +kernel) (by decide +kernel) (by decide +kernel)⟩

/-- A dense group of one FP32 parameter, its weights at the start of a region of skerry memory. -/
def group1 : Desc :=
  ⟨0, toLE 8 0x010000004000 ++ toLE 8 0 ++ toLE 8 0x010000002000 ++ toLE 8 0x010000002040 ++ toLE 32 0 ++ toLE 4 1 ++ toLE 4 1 ++ toLE 4 16 ++
    toLE 4 16 ++ toLE 16 1 ++ toLE 16 1 ++ toLE 80 0⟩

/-- A command whose recovery of the weight runs; the weight's tide is LIVE and current. -/
def rebuilds : State :=
  { lab (.running (.recovery 0x010000002000 none)) slot0 with
    pgroups := [group1]
    slots := [⟨0, toLE 64 0, [⟨0x010000002000, 256, 256, 0, 0, 1, [⟨1, 2, 0, 0⟩, ⟨0, 0, 0, 0⟩, ⟨0, 0, 0, 0⟩]⟩]⟩] }

theorem test_wit_rebuild : recovering rebuilds 0 = some (disarm (.running (.recovery 0x010000002000 none)), 0x010000002000) ∧
    versionAt rebuilds 0x010000002000 = some (0, 0, 0) ∧ denseGroup rebuilds 0 0 = some group1 ∧ rebuildable rebuilds 0 0 0 = true ∧
    (match (rebuildTide rebuilds group1 0).1 with
     | .ok _ => true
     | .error _ => false) = true := by decide +kernel

/-- The state in which it reads again. -/
def rebuildAgain : State :=
  againState (noteRebuilt (deliver rebuilds 0 0x010000002000 (peekBytes (rebuildTide rebuilds group1 0).2.s 0x010000002000 256))
    (disarm (.running (.recovery 0x010000002000 none))) 0x010000002000) 0 8

theorem test_wit_rebuild_again : entryOf rebuildAgain 0 = some (again 8 0 0x010000002000) ∧ isApplying rebuildAgain 5 = false := by decide +kernel

theorem test_wit_rebuild_runs : ∃ env, RunsClean (setEntry rebuildAgain 0 (fun _ => again 8 0 0x010000002000)) (jobOf 0xF0) (again 8 0 0x010000002000)
    (prepared (again 8 0 0x010000002000)) env ⟨0, 0, 0, 0, 0⟩ :=
  ⟨_, clean_of _ rfl rfl (e2 := prepared (again 8 0 0x010000002000)) (by decide +kernel) (by decide +kernel) (by decide +kernel)
    (by decide +kernel) (by decide +kernel) (by decide +kernel)⟩

/-- A table of one row of four FP32 elements, its slots and its master state in skerry memory. -/
def rowTable : Desc :=
  ⟨3, toLE 8 0x010000001000 ++ toLE 8 1 ++ toLE 4 0 ++ toLE 4 16 ++ toLE 8 0x010000006000 ++ toLE 8 0 ++ toLE 8 0x010000000000 ++ toLE 4 16 ++
    toLE 1 1 ++ toLE 1 1 ++ toLE 2 1 ++ toLE 48 0 ++ toLE 8 0x010000007000 ++ toLE 16 0⟩

/-- The state with the table, its row 0 VALID in slot 0, and a command whose recovery of that slot runs. -/
def rowLost : State :=
  pokeBytes { lab (.running (.recovery 0x010000006000 none)) slot0 with gath := { State.reset.gath with tables := [rowTable] } } 0x010000001000
    (toLE 8 (mkEntry 0 false 1 0 0))

/-- The state with the row's slot rewritten. -/
def rowDone : State :=
  match rebuildRows rowLost 0 3 rowTable.bytes (rowsMeeting rowLost rowTable.bytes 0x010000006000) with
  | .ok t => t
  | .error _ => State.reset

theorem test_wit_row : recovering rowLost 0 = some (disarm (.running (.recovery 0x010000006000 none)), 0x010000006000) ∧
    rowTableAt rowLost 0x010000006000 = some rowTable ∧
    updateBegun rowLost (fun g => gEmbed g && decide (gEntry g = rowTable.index)) = false ∧ rowDone.pgroups = rowLost.pgroups ∧
    rowDone.entries = rowLost.entries := by decide +kernel

/-- The state in which it reads again. -/
def rowAgain : State :=
  againState (noteRebuilt (clearGranule rowDone 0x010000006000) (disarm (.running (.recovery 0x010000006000 none))) 0x010000006000) 0 8

theorem test_wit_row_again : entryOf rowAgain 0 = some (again 8 0 0x010000006000) ∧ isApplying rowAgain 5 = false := by decide +kernel

theorem test_wit_row_runs : ∃ env, RunsClean (setEntry rowAgain 0 (fun _ => again 8 0 0x010000006000)) (jobOf 0xF0) (again 8 0 0x010000006000)
    (prepared (again 8 0 0x010000006000)) env ⟨0, 0, 0, 0, 0⟩ :=
  ⟨_, clean_of _ rfl rfl (e2 := prepared (again 8 0 0x010000006000)) (by decide +kernel) (by decide +kernel) (by decide +kernel)
    (by decide +kernel) (by decide +kernel) (by decide +kernel)⟩

/-! ## Commands with nothing in their way -/

/-- Fields one after another, each of a number of bytes. -/
def bytesOf (l : List (Nat × Nat)) : List Byte := l.flatMap (fun p => toLE p.1 p.2)

/-- The base of skerry memory, where the operands of these commands lie. -/
abbrev sk : Nat := 0x010000000000

/-- A module with ring 0 and slot 0, with more registers set and with bytes in memory. -/
def idle (l : List (Nat × Word)) (mem : List (Nat × List Byte)) : State :=
  mem.foldl (fun s p => pokeBytes s p.1 p.2) (up (ring 0 ++ slot0 ++ l))

/-- A state that tracks one command of tag 0. -/
def tracks (s : State) (e : Entry) : State := { s with entries := [e] }

/-- A command of an opcode and body that is ready. -/
def ready (op : Nat) (b : List (Nat × Nat)) : Entry := cmd (pkt op (bytesOf b)) .ready

/-- The registers with which the management core runs. -/
def mgmtOn : List (Nat × Word) := [(Reg.MGMT_STATUS, 2)]

def queryOf (what : Nat) : Entry := ready 0x06 [(8, what), (8, sk + 0x40000)]
def queries (what : Nat) : State := { tracks (idle mgmtOn []) (queryOf what) with mgmt := { State.reset.mgmt with last := toLE 240 7 } }

theorem test_wit_query : (∀ w ∈ [0, 1], Launch (queries w) 0 0x06 (queryOf w) ∧ mgmtRunning (queries w) = true ∧ bodyZero (queryOf w) 1 8 = true ∧
    bodyAt (queryOf w) 8 8 % 64 = 0) ∧ (queries 0).mgmt.last.length = 240 := by unfold Launch; decide +kernel

theorem test_wit_query_reach : reach (queries 0) (bodyAt (queryOf 0) 8 8) 240 = true ∧ reach (queries 1) (bodyAt (queryOf 1) 8 8) 192 = true :=
  ⟨reach_skerry (by decide +kernel) (by decide +kernel), reach_skerry (by decide +kernel) (by decide +kernel)⟩

def copyOf : Entry := ready 0x10 [(8, sk + 0x40000), (8, sk + 0x50000), (4, 8), (4, 1), (24, 0)]
def copies : State := tracks (idle [] [(sk + 0x40000, toLE 8 0x0102030405060708)]) copyOf

theorem test_wit_copy_run : Launch copies 0 0x10 copyOf ∧ copyRuns copies copyOf = true ∧ skerryRange (bodyAt copyOf 8 8) 8 = true := by
  unfold Launch; decide +kernel

def transposeOf : Entry := ready 0x12 [(8, sk + 0x40000), (8, sk + 0x50000), (4, 2), (4, 3), (4, 16), (4, 16), (1, 8), (15, 0)]
def transposes : State := tracks (idle [] []) transposeOf

theorem test_wit_transpose : Launch transposes 0 0x12 transposeOf ∧ checksHold (transposeChecks transposes transposeOf) = true ∧
    (∀ r, r < 2 → reach transposes (bodyAt transposeOf 0 8 + r * bodyAt transposeOf 24 4) 3 = true) ∧
    reach transposes (bodyAt transposeOf 8 8) 48 = true := by unfold Launch; decide +kernel

/-- A CONVERT of four FP32 elements to BF16, or a STORE_COMPRESSED of them to E2M1. -/
def tensorOf (op : Nat) : Entry :=
  ready op ([(1, 1), (15, 0), (1, if op = 0x13 then 2 else 8), (15, 0), (8, sk + 0x40000), (8, sk + 0x50000), (4, 1), (4, 4), (4, 16)] ++
    if op = 0x13 then [(4, 16), (16, 0)] else [(4, 0), (8, 4096), (8, 0)])
def tensors (op : Nat) : State := tracks (idle [] []) (tensorOf op)

theorem test_wit_convert : Launch (tensors 0x13) 0 0x13 (tensorOf 0x13) ∧ checksHold (convertChecks (tensors 0x13) (tensorOf 0x13)) = true ∧
    (fmtWord ((tensorOf 0x13).pkt.drop 64)).scale = 0 ∧ pwNames (fmtWord ((tensorOf 0x13).pkt.drop 80)) = false ∧
    tensorReach (tensors 0x13) (fmtWord ((tensorOf 0x13).pkt.drop 64)) (sk + 0x40000) 16 16 1 4 = true ∧
    tensorReach (tensors 0x13) (fmtWord ((tensorOf 0x13).pkt.drop 80)) (sk + 0x50000) 16 16 1 4 = true := by unfold Launch; decide +kernel

theorem test_wit_store : Launch (tensors 0x11) 0 0x11 (tensorOf 0x11) ∧ checksHold (storeChecks (tensors 0x11) (tensorOf 0x11)) = true ∧
    skerryRange (sk + 0x50000) 192 = true ∧ (fmtWord ((tensorOf 0x11).pkt.drop 80)).scale = 0 := by unfold Launch; decide +kernel

/-! ### Sampling -/

/-- A graph of two nodes and the edge from node 0 to node 1. -/
def graph0 : Desc :=
  ⟨0, toLE 8 (sk + 0x1000) ++ toLE 8 (sk + 0x2000) ++ toLE 16 0 ++ toLE 8 2 ++ toLE 8 1 ++ toLE 2 0x100 ++ toLE 14 0⟩

/-- The graph loaded, with node 0 as the one seed. -/
def graphed : State :=
  { idle [(Reg.DEDUP_CAP, 16)] [(sk + 0x1000, toLE 8 0 ++ toLE 8 1 ++ toLE 8 1), (sk + 0x2000, toLE 6 1), (sk + 0x3000, toLE 8 0)] with
    graphs := [graph0] }

def sampleOf : Entry :=
  ready 0x20 [(2, 0), (1, 1), (1, 0), (2, 1), (2, 0), (2, 1), (6, 0), (8, 5), (8, sk + 0x3000), (8, sk + 0x4000), (8, 256), (8, 0x400000000000), (8, 0)]
def walkOf : Entry := ready 0x21 [(2, 0), (1, 1), (1, 1), (2, 1), (10, 0), (8, 5), (8, sk + 0x3000), (8, sk + 0x4000), (8, 16), (16, 0)]

theorem test_wit_sample : Launch (tracks graphed sampleOf) 0 0x20 sampleOf ∧ graphDesc graphed 0 = some graph0.bytes ∧
    checksHold (sampleChecks (tracks graphed sampleOf) sampleOf) = true ∧ 1 * (1 + bodyAt sampleOf 8 2) ≤ graphed.fieldAt Reg.DEDUP_CAP 16 0 ∧
    trySeeds graphed (sk + 0x3000) 1 = [0] ∧ nodeReady graphed graph0.bytes 0 = true := by unfold Launch; decide +kernel

theorem test_wit_sample_reach : reach graphed (sk + 0x4000) 320 = true ∧ reach graphed (sk + 0x3000) 8 = true :=
  ⟨reach_skerry (by decide +kernel) (by decide +kernel), reach_skerry (by decide +kernel) (by decide +kernel)⟩

theorem test_wit_walk : Launch (tracks graphed walkOf) 0 0x21 walkOf ∧ checksHold (walkChecks (tracks graphed walkOf) walkOf) = true ∧
    bit (bodyAt walkOf 6 2) 0 = false ∧ 0 < degreeOf graphed graph0.bytes 0 := by unfold Launch; decide +kernel

/-! ### Tables -/

/-- A table of eight rows of four FP32 elements, its slots of the far tier, its row map, directory and gradients in skerry memory. -/
def table4 (migratable : Nat) : Desc :=
  ⟨3, toLE 8 (sk + 0x1000) ++ toLE 8 8 ++ toLE 4 0 ++ toLE 4 16 ++ toLE 8 0x1000 ++ toLE 8 (sk + 0x6000) ++ toLE 8 sk ++ toLE 4 16 ++
    toLE 1 1 ++ toLE 1 (1 + 2 * migratable) ++ toLE 2 1 ++ toLE 8 (sk + 0x9000) ++ toLE 4 16 ++ toLE 4 0 ++ toLE 8 (sk + 0x7000) ++
    toLE 8 (sk + 0x8000) ++ toLE 4 8 ++ toLE 36 0⟩

/-- The table loaded: row 0 VALID and touched in slot 2, slot 3 free; row 0 is listed, a bag of it, and a gradient. -/
def tabled (migratable : Nat) : State :=
  let s := idle [] [(sk + 0x1000, toLE 8 (mkEntry 1 true 1 5 2)), (sk, toLE 4 0 ++ toLE 4 1), (sk + 64, toLE 8 (2 ^ 63 + 3)),
    (sk + 0x3100, toLE 8 (2 ^ 32)), (sk + 0x3200, toLE 16 0x3F800000)]
  { s with gath := { s.gath with tables := [table4 migratable] } }

def gatherOf : Entry := ready 0x22 [(2, 3), (2, 0), (4, 1), (8, sk + 0x3000), (8, sk + 0x4000), (8, 16), (16, 0)]
def poolOf : Entry :=
  ready 0x23 [(2, 3), (3, 0), (1, 1), (2, 0), (8, 1), (8, sk + 0x3000), (8, sk + 0x3100), (8, 0), (8, sk + 0x4000), (16, 16)]
def scatterOf : Entry :=
  ready 0x24 [(2, 3), (2, 0), (1, 1), (3, 0), (4, 1), (4, 16), (8, sk + 0x3000), (16, 0), (8, sk + 0x3200), (16, 0)]
def replaceOf : Entry := ready 0x25 [(2, 3), (2, 1), (4, 1), (8, sk + 0x3000), (16, sk + 0x3200)]
def migrateOf (dest : Nat) : Entry := ready 0x26 [(2, 3), (2, dest), (4, 1), (8, sk + 0x3000)]

theorem test_wit_table : ∀ e ∈ [gatherOf, poolOf, scatterOf, replaceOf], Launch (tracks (tabled 0) e) 0 (pktOp e.pkt) e ∧
    TableOf (tracks (tabled 0) e) e (table4 0).bytes ∧ NoMigration (tracks (tabled 0) e) ∧
    (pktOp e.pkt < 0x25 → BayOf (tracks (tabled 0) e) e) := by unfold Launch TableOf NoMigration BayOf; decide +kernel

theorem test_wit_gather : rowIdsAt (tabled 0) (sk + 0x3000) 1 = [0] ∧ rowReady (tabled 0) (table4 0).bytes 0 = true ∧
    tBytes (table4 0).bytes ≤ bodyAt gatherOf 24 4 ∧ bodyZero gatherOf 28 32 = true ∧ bodyZero gatherOf 40 48 = true ∧ bodyAt gatherOf 4 4 = 1 ∧
    bodyAt gatherOf 32 8 = 0 ∧ reach (tabled 0) (sk + 0x3000) 8 = true ∧ reach (tabled 0) (bodyAt gatherOf 16 8) 16 = true := by decide +kernel

theorem test_wit_pool : tElem (table4 0).bytes = 1 ∧ bodyAt poolOf 8 4 = 1 ∧ bodyAt poolOf 5 1 = 1 ∧ bodyAt poolOf 48 4 = 16 ∧
    bodyZero poolOf 6 8 = true ∧ bodyZero poolOf 12 16 = true ∧ bodyZero poolOf 52 64 = true ∧
    (chunks 4 3 (peekBytes (tabled 0) (bodyAt poolOf 24 8) 8)).map leNat = [0, 1] ∧ offsetsOk [0, 1] = true ∧
    reach (tabled 0) (bodyAt poolOf 24 8) 8 = true ∧ reach (tabled 0) (bodyAt poolOf 40 8) 16 = true := by decide +kernel

theorem test_wit_scatter : tGrad (table4 0).bytes = sk + 0x7000 ∧ eTouched (mapEntry (tabled 0) (table4 0).bytes 0) = true ∧
    bodyAt scatterOf 4 1 = 1 ∧ bodyAt scatterOf 8 4 = 1 ∧ bodyAt scatterOf 12 4 = 16 ∧ bodyAt scatterOf 24 8 = 0 ∧ bodyAt scatterOf 32 8 = 0 ∧
    bodyZero scatterOf 48 64 = true ∧ skerryRange (sk + 0x7000) 40 = true ∧ skerryRange (sk + 0x1000) 8 = true ∧
    reach (tabled 0) (bodyAt scatterOf 40 8) 16 = true := by decide +kernel

theorem test_wit_replace : bodyAt replaceOf 2 1 = 1 ∧ bodyZero replaceOf 3 4 = true ∧ bodyZero replaceOf 24 32 = true ∧
    skerryRange (tRing (table4 0).bytes) 192 = true ∧ leNat (peekBytes (tabled 0) sk 4) = 0 ∧ leNat (peekBytes (tabled 0) (sk + 4) 4) = 1 ∧
    bits (leNat (peekBytes (tabled 0) (sk + 64) 8)) 63 63 = 1 ∧ reach (tabled 0) (slotAddr (table4 0).bytes 1 3) 16 = true := by decide +kernel

theorem test_wit_migrate : ∀ dest ∈ [0, 2], Launch (tracks (tabled 1) (migrateOf dest)) 0 0x26 (migrateOf dest) ∧
    TableOf (tracks (tabled 1) (migrateOf dest)) (migrateOf dest) (table4 1).bytes ∧ NoMigration (tabled 1) ∧ ownId (tabled 1) = 0 ∧
    tMigratable (table4 1).bytes = true ∧ bodyAt (migrateOf dest) 2 2 = dest ∧
    ownedFault (tracks (tabled 1) (migrateOf dest)) 3 (table4 1).bytes 0x30 0 = none ∧
    8 * dirUsed (tracks (tabled 1) (migrateOf dest)) (table4 1).bytes < 7 * tDirSize (table4 1).bytes := by
  unfold Launch TableOf NoMigration; decide +kernel

/-! ### Matrix and vector engines -/

/-- A product of two FP32 tensors of one element, for a mask of engines. -/
def matrixOf (op engines : Nat) : List (Nat × Nat) :=
  [(1, 1), (15, 0), (1, 1), (15, 0), (1, 1), (47, 0), (8, sk + 0x4000), (8, sk + 0x4100), (8, sk + 0x4200), (24, 0), (4, 1), (4, 1), (4, 1),
    (4, 16), (4, 16), (4, 16), (14, 0), (2, 1), (1, engines), (5, 0), (2, 1), (32, op - op)]
def matrixCmd (op engines : Nat) (phase : Phase) : Entry :=
  { cmd (pkt op (bytesOf (matrixOf op engines))) phase with prepared := decide (phase ≠ .ready) }

/-- The body is that of the tensors above, and its checks hold. -/
theorem test_wit_matrix : ∀ r ∈ [(0x30, 1), (0x31, 2), (0x32, 4)], ∀ e ∈ [matrixCmd r.1 r.2 .ready],
    Launch (tracks (idle [] []) e) 0 r.1 e ∧ plainMatrix (matBody e) = true ∧ checksHold (matChecks (tracks (idle [] []) e) e) = true ∧
    pktTideValid e.pkt = false ∧ weightEntryAt (tracks (idle [] []) e) e.slot (matBody e).bBase = none ∧ e.reads = [] ∧ e.queued = [] ∧
    QueuesFree (tracks (idle [] []) e) e ∧ matrixReach (tracks (idle [] []) e) (matBody e) 0 = true := by
  unfold Launch QueuesFree; decide +kernel

theorem test_wit_matrix_waits : ∀ w ∈ [Wait.queueRoom, .serialised], ∀ e ∈ [matrixCmd 0x30 1 (.running w)],
    Resumes (tracks (idle [] []) e) 0 w e ∧ e.prepared = true ∧ checksHold (matChecks (tracks (idle [] []) e) e) = true ∧
    QueuesFree (tracks (idle [] []) e) e ∧ matrixReach (tracks (idle [] []) e) (matBody e) 0 = true := by
  unfold Resumes QueuesFree; decide +kernel

/-- A product that waits for its gated tile. -/
def gatedCmd : Entry := matrixCmd 0x30 1 (.running .gated)
def gatedTile : State := setGated (tracks (idle [] []) gatedCmd) 0 true

theorem test_wit_tile_wake : tileGated gatedTile 0 = true ∧ gatedTile.power.off = false ∧ wakesNext gatedTile 0 = true ∧
    gatedTile.entries.filter (waitsForTile 0) = [gatedCmd] ∧ Resumes (setGated gatedTile 0 false) 0 .gated gatedCmd ∧
    QueuesFree (setGated gatedTile 0 false) gatedCmd ∧ matrixReach (setGated gatedTile 0 false) (matBody gatedCmd) 0 = true := by
  unfold Resumes QueuesFree; decide +kernel

/-- A MATMUL of tide 7 whose weights are at tide 9. -/
def tideCmd : Entry :=
  { matrixCmd 0x30 1 (.running .tide) with
    prepared := false, pkt := toLE 1 0x30 ++ toLE 1 8 ++ toLE 2 13 ++ toLE 4 0 ++ toLE 2 7 ++ toLE 54 0 ++ bytesOf (matrixOf 0x30 1) }
def tideEntry9 : TideEntry := ⟨sk + 0x4100, 256, 256, 0, 1, 9, [⟨9, 2, 0, 0⟩, ⟨0, 0, 0, 0⟩, ⟨0, 0, 0, 0⟩]⟩
def tideWaits : State := { tracks (idle [] []) tideCmd with slots := [⟨0, toLE 64 0, [tideEntry9]⟩] }

theorem test_wit_tide_wait : Resumes tideWaits 0 .tide tideCmd ∧ pktTideValid tideCmd.pkt = true ∧ pktTide tideCmd.pkt = 7 ∧
    weightEntry tideWaits 0 [(matBody tideCmd).bBase] = some 0 ∧ tideEntry tideWaits 0 0 = some tideEntry9 ∧ tideEntry9.paired = false ∧
    newestPresent tideEntry9 (fun tau => atOrAfter tau 7) = some (0, 9) ∧ QueuesFree tideWaits tideCmd ∧
    checksHold (matChecks tideWaits tideCmd) = true ∧ matrixReach tideWaits (matBody tideCmd) 0 = true := by
  unfold Resumes QueuesFree; decide +kernel

/-- ADD of two streams of two FP32 elements, then END. -/
def addProgram : List Byte := [1, 0, 0, 0, 0, 1, 0xFF, 2] ++ toLE 8 0 ++ [0, 0, 0, 0, 0xFF, 0xFF, 0xFF, 0xFF] ++ toLE 8 0
def addStreams : List Byte := [0x100, 0x200, 0x300].flatMap (fun a => toLE 4 a ++ toLE 4 4 ++ toLE 4 2 ++ toLE 4 1)
def vectorOf : Entry := ready 0x40 [(8, sk + 0x4000), (2, 2), (2, 3), (2, 5), (2, 1), (48, 0)]
def vectors : State := tracks (idle [] [(sk + 0x4000, addProgram), (sk + 0x5000, addStreams)]) vectorOf

theorem test_wit_vector : Launch vectors 0 0x40 vectorOf ∧ checksHold (vectorChecks vectors vectorOf) = true ∧ QueuesFree vectors vectorOf ∧
    reach vectors (sk + 0x4000) 32 = true ∧ reach vectors (sk + 0x5000) 48 = true ∧
    (match imageParts 2 (peekBytes vectors (sk + 0x4000) 32 ++ peekBytes vectors (sk + 0x5000) 48) with
     | (prog, l) => checksHold (programChecks vectors vectorOf.pkt l prog) && prog.all plainInstr && streamsReach vectors 5 l &&
        decide (prog.length = 2)) = true := by unfold Launch QueuesFree; decide +kernel

/-! ### Collectives -/

/-- A group of this module alone, number 1. -/
def group1only : Desc :=
  ⟨0, toLE 8 sk ++ toLE 2 1 ++ toLE 2 0 ++ toLE 1 1 ++ toLE 1 0 ++ toLE 2 1 ++ toLE 8 (1 + 0xF * 2 ^ 12 + 2 ^ 24) ++ toLE 104 0 ++ toLE 512 2⟩
def solo (e : Entry) (source : Nat) : State :=
  let s := tracks (idle [(Reg.FAB_MODULE_ID, 1)] [(sk, toLE 2 1), (sk + 0x4000, toLE 16 source)]) e
  { s with coll := { s.coll with groups := [group1only] } }

def reduceOf : Entry :=
  ready 0x50 [(3, 0), (1, 12), (4, 3), (4, 4), (4, 1), (2, 0x0E), (6, 3), (8, sk + 0x4000), (8, sk + 0x5000), (24, 0)]
def scaleOf : Entry :=
  ready 0x54 [(1, 0), (1, 1), (2, 12), (4, 3), (4, 4), (4, 1), (8, sk + 0x4000), (8, sk + 0x5000), (8, sk + 0x6000), (24, 0)]
def exchangeOf (op : Nat) : Entry := ready op [(4, 0), (4, 16), (4, 4), (4, 3), (8, sk + 0x4000), (8, sk + 0x5000), (16, 0)]

theorem test_wit_solo : ∀ e ∈ [reduceOf, scaleOf, exchangeOf 0x51, exchangeOf 0x52, exchangeOf 0x53],
    Launch (solo e 5) 0 (pktOp e.pkt) e ∧ SoloGroup (solo e 5) (collGroup (solo e 5) 0) ∧ inCollective (solo e 5) e = false ∧
    reach (solo e 5) (sk + 0x4000) 16 = true ∧ reach (solo e 5) (sk + 0x5000) 16 = true := by unfold Launch SoloGroup; decide +kernel

theorem test_wit_reduce : NameFree (solo reduceOf 5) reduceOf 0 3 4 ∧ bodyAt reduceOf 12 4 = 1 ∧ bodyAt reduceOf 3 1 = 12 ∧
    bodyAt reduceOf 16 1 = 0x0E ∧ bodyAt reduceOf 18 2 = 3 ∧ bodyZero reduceOf 17 18 = true ∧ bodyZero reduceOf 20 24 = true ∧
    bodyZero reduceOf 56 64 = true ∧ (∀ b ∈ chunks 6 2 (peekBytes (solo reduceOf 5) (sk + 0x4000) 6), (signed 48 (leNat b)).natAbs ≤ 2 ^ 34) := by
  unfold NameFree; decide +kernel

theorem test_wit_scale : NameFree (solo scaleOf 0x3F800000) scaleOf 0 3 4 ∧ bodyAt scaleOf 1 1 = 1 ∧ bodyAt scaleOf 2 1 = 12 ∧
    bodyZero scaleOf 3 4 = true ∧ bodyZero scaleOf 48 64 = true ∧ bodyAt scaleOf 40 8 = 0 ∧ reach (solo scaleOf 0x3F800000) (sk + 0x6000) 16 = true ∧
    (∀ b ∈ chunks 4 2 (peekBytes (solo scaleOf 0x3F800000) (sk + 0x4000) 4), (decodeElem 1 0 0 (leNat b)).finite = true) := by
  unfold NameFree; decide +kernel

theorem test_wit_exchange : ∀ op ∈ [0x51, 0x52, 0x53], findRun (solo (exchangeOf op) 5) op 0 4 3 = none ∧
    (solo (exchangeOf op) 5).coll.waiting = [] ∧
    CollRun.unacknowledged (solo (exchangeOf op) 5) ⟨op, 0, 3, 4, 0, (exchangeOf op).pkt, [], none⟩ = false ∧ bodyAt (exchangeOf op) 4 4 = 16 ∧
    bodyAt (exchangeOf op) 32 8 = 0 ∧ bodyAt (exchangeOf op) 40 8 = 0 := by decide +kernel

/-! ### Training state -/

/-- A dense group of one FP32 parameter, and its entry: tide 0 LIVE, two slots FREE. -/
def dense : Desc :=
  ⟨0, toLE 8 (sk + 0x4000) ++ toLE 8 0 ++ toLE 8 (sk + 0x2000) ++ toLE 8 (sk + 0x2040) ++ toLE 32 0 ++ toLE 4 1 ++ toLE 4 1 ++ toLE 4 16 ++
    toLE 4 16 ++ toLE 16 1 ++ toLE 16 1 ++ toLE 80 0⟩
def denseEntry : TideEntry := ⟨sk + 0x2000, 256, 256, 0, 25, 0, [⟨0, 2, 0, 0⟩, ⟨0, 0, 0, 0⟩, ⟨0, 0, 0, 0⟩]⟩

/-- Slot 0 with that entry, whose tide table is in skerry memory. -/
def denseSlot : ModelSlot := ⟨0, toLE 40 0 ++ toLE 8 (sk + 0xA000) ++ toLE 16 0, [denseEntry]⟩
def trained (e : Entry) : State := { tracks (idle [] []) e with pgroups := [dense], slots := [denseSlot] }

def updateOf (phase : Phase) : Entry := cmd (pkt 0x60 (bytesOf [(8, 0), (8, sk + 0x5000), (16, 16)])) phase

theorem test_wit_update : UpdateOf (trained (updateOf .ready)) (updateOf .ready) dense.bytes denseEntry 0 ∧
    Launch (trained (updateOf .ready)) 0 0x60 (updateOf .ready) ∧ (trained (updateOf .ready)).fieldAt Reg.SKERRY_STATUS 1 0 ≠ 3 ∧
    Resumes (trained (updateOf (.running .turn))) 0 .turn (updateOf (.running .turn)) ∧
    Resumes (trained (updateOf (.running .slot))) 0 .slot (updateOf (.running .slot)) := by
  unfold UpdateOf Launch Resumes; decide +kernel

theorem test_wit_update_dense : ∀ e ∈ [updateOf .ready, updateOf (.running .turn), updateOf (.running .slot)],
    DenseUpdate (trained e) e dense.bytes denseEntry 1 := by
  have u : ∀ e ∈ [updateOf .ready, updateOf (.running .turn), updateOf (.running .slot)],
      UpdateOf (trained e) e dense.bytes denseEntry 0 ∧ (trained e).errs = [] := by unfold UpdateOf; decide +kernel
  have b : ∀ e ∈ [updateOf .ready, updateOf (.running .turn), updateOf (.running .slot)],
      (bodyAt e 8 8 = sk + 0x5000 ∧ bodyAt e 16 4 = 16 ∧ (trained e).pw.layers = []) ∧
      findVslot { denseEntry with vslots := denseEntry.vslots.take (slotCount (trained e) denseEntry) } (fun x => x.state = 0) = some 1 := by
    decide +kernel
  intro e he
  obtain ⟨u1, u2⟩ := u e he
  obtain ⟨⟨b1, b2, b3⟩, b4⟩ := b e he
  have k : gRows dense.bytes = 1 ∧ gCols dense.bytes = 1 ∧ skerryRange (gStateBase dense.bytes) (stateBytes dense.bytes) = true ∧
      (∀ r, r < 1 → skerryRange (sk + 0x5000 + r * 16) (6 * 1) = true ∧
        skerryRange (gBwd dense.bytes + 1 * denseEntry.vstride + r * leAt dense.bytes 76 4)
          (max (leAt dense.bytes 76 4) (rowBytes (gBwdFmt dense.bytes).elem 1)) = true ∧
        skerryRange (gFwd dense.bytes + 1 * denseEntry.vstride + r * leAt dense.bytes 72 4)
          (max (leAt dense.bytes 72 4) (rowBytes (gFwdFmt dense.bytes).elem 1)) = true) := by decide +kernel
  obtain ⟨k1, k2, k3, k4⟩ := k
  refine ⟨u1, by decide +kernel, by rw [b1]; decide +kernel, by rw [b1]; decide +kernel, by rw [b2], ?_, by decide +kernel, b3,
    by decide +kernel, by decide +kernel, by decide +kernel, by decide +kernel, by decide +kernel, b4, reach_skerry u2 k3, ?_, ?_⟩
  · rw [k1, b2]; decide +kernel
  · rw [k1, k2, b1, b2]; exact fun r hr => ⟨reach_skerry u2 (k4 r hr).1, reach_skerry u2 (k4 r hr).2.1⟩
  · rw [k1, k2]; exact fun r hr => reach_skerry u2 (k4 r hr).2.2

/-- A LAZY embedding group of a table whose list of touched rows is empty. -/
def lazyGroup : Desc := ⟨0, toLE 60 0 ++ toLE 2 3 ++ toLE 1 0 ++ toLE 1 24 ++ toLE 128 0⟩
def lazyOf : Entry := cmd (pkt 0x60 (toLE 32 0)) .ready
def lazyUpdates : State :=
  { trained lazyOf with
    pgroups := [lazyGroup], slots := [⟨0, denseSlot.desc, [{ denseEntry with kind := 1 }]⟩]
    gath := { State.reset.gath with tables := [table4 0] } }

theorem test_wit_update_lazy : Launch lazyUpdates 0 0x60 lazyOf ∧ LazyUpdate lazyUpdates lazyOf lazyGroup.bytes (table4 0).bytes { denseEntry with kind := 1 } := by
  unfold Launch LazyUpdate UpdateOf; decide +kernel

def checkpointOf (phase : Phase) : Entry := cmd (pkt 0x61 (bytesOf [(8, sk + 0x10000), (8, 0), (8, 8192), (10, 0), (2, 2), (12, 0)])) phase

theorem test_wit_checkpoint : Launch (trained (checkpointOf .ready)) 0 0x61 (checkpointOf .ready) ∧
    Resumes (trained (checkpointOf (.running .checkpoint))) 0 .checkpoint (checkpointOf (.running .checkpoint)) ∧
    (checkpointOf .ready).asked = [] := by unfold Launch Resumes; decide +kernel

theorem test_wit_checkpoint_of : ∀ p ∈ [Phase.ready, .running .checkpoint],
    CheckpointOf (trained (checkpointOf p)) (checkpointOf p) denseSlot := by
  have h : ∀ p ∈ [Phase.ready, .running .checkpoint], ((trained (checkpointOf p)).errs = [] ∧
      imageSize (trained (checkpointOf p)) (checkpointOf p) = 1288) ∧ (modelSlot (trained (checkpointOf p)) 0 = some denseSlot ∧
      (∀ c ∈ (trained (checkpointOf p)).entries, pktOp c.pkt ≠ 0x60) ∧ slotLayers (trained (checkpointOf p)) 0 = []) ∧
      ∀ d ∈ slotGroups (trained (checkpointOf p)) 0, groupDesc (trained (checkpointOf p)) d.index = d.bytes ∧ d.bytes.length = 192 ∧
        gEmbed d.bytes = false ∧ gFrozen d.bytes = 0 ∧ skerryRange (gStateBase d.bytes) (stateBytes d.bytes) = true := by decide +kernel
  have b : ∀ p ∈ [Phase.ready, .running .checkpoint], bits (bodyAt (checkpointOf p) 8 2) 14 12 = 0 ∧ bodyAt (checkpointOf p) 32 2 < 4096 ∧
      bodyZero (checkpointOf p) 10 16 = true ∧ bodyZero (checkpointOf p) 36 48 = true ∧ bodyAt (checkpointOf p) 0 8 % 256 = 0 ∧
      bodyAt (checkpointOf p) 32 2 + bodyAt (checkpointOf p) 34 2 ≤ 4096 ∧ 1288 ≤ bodyAt (checkpointOf p) 16 8 ∧
      bit (bodyAt (checkpointOf p) 8 2) 15 = false ∧ skerryRange (bodyAt (checkpointOf p) 0 8) 1288 = true := by decide +kernel
  intro p hp
  obtain ⟨⟨h1, h2⟩, ⟨h3, h4, h5⟩, h6⟩ := h p hp
  obtain ⟨b1, b2, b3, b4, b5, b6, b7, b8, b9⟩ := b p hp
  exact ⟨h3, b1, b2, b3, b4, b5, b6, h2 ▸ b7, b8, h4, h5,
    fun d hd => ⟨(h6 d hd).1, (h6 d hd).2.1, (h6 d hd).2.2.1, (h6 d hd).2.2.2.1, reach_skerry h1 (h6 d hd).2.2.2.2⟩,
    fun i hi => reach_skerry h1 ((by decide +kernel : ∀ i, i < 1 → skerryRange (tideBase denseSlot + 64 * i) 26 = true) i hi),
    h2 ▸ reach_skerry h1 b9⟩

/-- An image of one tide entry. -/
def image : List Byte :=
  let body := toLE 8 4 ++ toLE 8 160 ++ toLE 16 64 ++ toLE 64 1
  toLE 4 0x4B434256 ++ toLE 20 1 ++ toLE 8 224 ++ toLE 16 1 ++ shake256 body ++ toLE 48 0 ++ body
def restoreOf : Entry := ready 0x62 [(16, sk + 0x10000)]
def restores : State := pokeBytes (trained restoreOf) (sk + 0x10000) image

theorem test_wit_restore_reach : reach restores (sk + 0x10000) 224 = true := reach_skerry (by decide +kernel) (by decide +kernel)

theorem test_wit_restore_image : peekBytes restores (sk + 0x10000) image.length = image :=
  peekBytes_pokeBytes_skerry _ _ _ (by decide) (by decide +kernel)

theorem test_wit_restore : Launch restores 0 0x62 restoreOf ∧ leAt image 0 4 = 0x4B434256 ∧
    leAt image 4 2 = 1 ∧ leAt image 6 1 = 0 ∧ leAt image 8 8 = slotSeed restores 0 ∧ leAt image 24 8 = 224 ∧
    shake256 (image.drop 128) = (image.drop 48).take 32 ∧
    (match parseImage image 1 with
     | some l => l.all (sectionOk restores 0) && l.all (fun x => decide (x.kind = 4)) && decide (l.length = 1)
     | none => false) = true := by unfold Launch; decide +kernel

/-- Tide 4 RETIRING without readers beside CURRENT 5. -/
def retiring : TideEntry := { denseEntry with current := 5, vslots := [⟨5, 2, 0, 0⟩, ⟨4, 3, 2, 0⟩, ⟨0, 0, 0, 0⟩] }
def retireOf (t : Nat) : Entry := ready 0x70 [(4, 0), (2, t), (10, 0)]
def retires (t : Nat) : State := { trained (retireOf t) with slots := [⟨0, denseSlot.desc, [retiring]⟩] }

theorem test_wit_retire : ∀ t ∈ [3, 4], Launch (retires t) 0 0x70 (retireOf t) ∧ tideEntry (retires t) 0 0 = some retiring ∧
    bodyZero (retireOf t) 7 16 = true ∧ atOrAfter t 5 = false ∧
    retiring.vslots.filter (fun x => decide (x.state = 3 ∧ x.tide = t)) = (if t = 3 then [] else [⟨t, 3, 2, 0⟩]) := by unfold Launch; decide +kernel

/-! ### Security -/

def attestOf : Entry := ready 0xE0 [(32, 7), (8, sk + 0x10000), (8, 4096)]
def measureOf : Entry := ready 0xE1 [(16, 0)]
def programmed : State :=
  { tracks (idle [] [(sk + 0x3000, toLE 16 9)]) measureOf with slots := [⟨0, toLE 8 (sk + 0x3000) ++ toLE 4 16 ++ toLE 4 2 ++ toLE 48 0, []⟩] }
def testOf : Entry := ready 0xF1 [(16, 1)]

theorem test_wit_attest : Launch (tracks (idle [] []) attestOf) 0 0xE0 attestOf ∧ bodyZero attestOf 45 48 = true ∧
    bodyAt attestOf 44 1 = 0 ∧ bodyAt attestOf 40 4 = 4096 := by unfold Launch; decide +kernel

theorem test_wit_attest_reach : reach (tracks (idle [] []) attestOf) (bodyAt attestOf 32 8) 3840 = true :=
  reach_skerry (by decide +kernel) (by decide +kernel)

theorem test_wit_measure : Launch programmed 0 0xE1 measureOf ∧ (modelSlot programmed 0).isSome = true ∧
    reach programmed (sk + 0x3000) 16 = true ∧ bodyZero measureOf 1 16 = true := by unfold Launch; decide +kernel

theorem test_wit_undertow : Launch (lab .ready slot0) 0 0xF0 (disarm .ready) ∧ uwBodyOk ((pktBody (disarm .ready).pkt).take 48) = true ∧
    uwLocked (lab .ready slot0) = false := by unfold Launch; decide +kernel

theorem test_wit_self_test : Launch (tracks (idle [] []) testOf) 0 0xF1 testOf ∧ bodyAt testOf 0 1 = 1 ∧
    (baysIn 1).all (bayEnabled (tracks (idle [] []) testOf)) = true ∧ baysBusy (tracks (idle [] []) testOf) testOf 1 = false := by
  unfold Launch; decide +kernel

/-! ## Clauses beside those above -/

/-- A command that waits keeps no reply; its clock runs from 0, and its completion ring is there or is not. -/
def undispatchedCmd : Entry := cmd (toLE 1 3 ++ toLE 11 0 ++ toLE 4 1000 ++ toLE 2 0 ++ toLE 1 2 ++ toLE 1 0 ++ toLE 4 7 ++ toLE 40 0) .waiting

theorem test_wit_deferred_none : ∀ c ∈ lateWait.entries, c.ring = 0 → completed c = false := by decide +kernel

theorem test_wit_timeout_undispatched : ∀ s ∈ [lateWait, tracks (up []) undispatchedCmd], entryOf s 0 = some undispatchedCmd ∧
    undispatched undispatchedCmd = true ∧ pktTimeout undispatchedCmd.pkt = 1000 ∧ timeoutNs s undispatchedCmd ≤ timeAt s 1000000000000 ∧
    cplReady s 0 = decide (0 < s.fieldAt (Reg.CPL_SIZE 0) 3 0) := by decide +kernel

/-- A MATMUL that waits for a gated tile, not yet prepared. -/
def gatedLab : Entry := { matrixCmd 0x30 1 (.running .gated) with prepared := false }
def gatedLabState : State := setGated (tracks (idle [] []) gatedLab) 0 true

theorem test_wit_gated : gatedLabState.power.off = false ∧ tileGated gatedLabState 0 = true ∧ wakesNext gatedLabState 0 = true ∧
    gatedLabState.entries.filter (waitsForTile 0) = [gatedLab] ∧ gateOpen (setGated gatedLabState 0 false) gatedLab = true := by decide +kernel

theorem test_wit_gated_runs : ∃ e3 env o, RunsClean (setEntry (setGated gatedLabState 0 false) 0 (fun _ => gatedLab)) (jobOf 0x30) gatedLab e3 env o :=
  ⟨_, _, _, clean_of ⟨0, 0, 0x1000, 0, 0⟩ rfl rfl (e2 := prepared gatedLab) (e3 := { prepared gatedLab with queued := [(0, 0)] })
    (by decide +kernel) (by decide +kernel) (by decide +kernel) (by decide +kernel) (by decide +kernel) (by decide +kernel)⟩

/-! ### A COPY that met an uncorrectable word of skerry memory -/

/-- The COPY of 8 bytes from an address, whose recovery of the word there runs. -/
def copyFrom (a : Nat) : Entry :=
  { ready 0x10 [(8, a), (8, sk + 0x50000), (4, 8), (4, 1), (24, 0)] with phase := .running (.recovery a none), prepared := true }
def lost (a : Nat) (s : State) : State := { tracks s (copyFrom a) with errs := [(a / 64 * 64, 0x1F)] }

def lostWeight : State := { lost (sk + 0x2000) (trained (copyFrom 0)) with slots := [⟨0, toLE 64 0, [denseEntry]⟩] }
def lostRow : State := lost (sk + 0x6000) rowLost
def producer : ReplayRecord := ⟨(ready 0x10 [(8, sk + 0x30000), (8, sk + 0x40000), (4, 64), (4, 1), (24, 0)]).pkt, 0, 0, [(sk + 0x30000, 64)], [(sk + 0x40000, 64)], []⟩
def lostCopy : State := { lost (sk + 0x40000) (idle [] []) with replay := [producer] }

theorem test_wit_lost : ∀ x ∈ [(lostWeight, sk + 0x2000), (lostRow, sk + 0x6000), (lostCopy, sk + 0x40000)],
    recovering x.1 0 = some (copyFrom x.2, x.2) ∧ skerryRange x.2 1 = true ∧ x.1.errs = [(x.2 / 64 * 64, 0x1F)] ∧
    wordState x.1 ⟨x.2, .skerry⟩ = .uncorrectable ∧ x.1.undertow = [] ∧ copyRuns (noErrors x.1) (copyFrom x.2) = true := by decide +kernel

theorem test_wit_lost_weight : versionAt lostWeight (sk + 0x2000) = some (0, 0, 0) ∧ denseGroup lostWeight 0 0 = some dense ∧
    tideEntry lostWeight 0 0 = some denseEntry ∧ rebuildable lostWeight 0 0 0 = true ∧ lostWeight.pw.layers = [] := by decide +kernel

theorem test_wit_lost_weight_reach : reach lostWeight (gStateBase dense.bytes) 4 = true ∧
    tensorReach (noErrors lostWeight) ((gFwdFmt dense.bytes).shift 0) (gFwd dense.bytes) 16 16 1 1 = true ∧
    tensorReach (noErrors lostWeight) ((gBwdFmt dense.bytes).shift 0) (gBwd dense.bytes) 16 16 1 1 = true := by decide +kernel

theorem test_wit_lost_row : rowTableAt lostRow (sk + 0x6000) = some rowTable ∧
    updateBegun lostRow (fun g => gEmbed g && decide (gEntry g = rowTable.index)) = false ∧
    rowsMeeting lostRow rowTable.bytes (sk + 0x6000) = [0] ∧ reach lostRow (rowStateAddr lostRow 3 rowTable.bytes 0) 16 = true := by decide +kernel

theorem test_wit_lost_copy : versionAt lostCopy (sk + 0x40000) = none ∧ rowTableAt lostCopy (sk + 0x40000) = none ∧
    producerOf lostCopy (sk + 0x40000) = some producer ∧ pktOp producer.pkt = 0x10 ∧ copyRuns (noErrors lostCopy) (rerunEntry lostCopy producer) = true ∧
    reach lostCopy (sk + 0x30000) 64 = true := by decide +kernel

/-! ### Messages -/

theorem test_wit_soloc_first : firstPacket (remote true) (fromTwo 0) (pkt 0 []) = true ∧ firstPacket (remote false) (fromTwo 0) (pkt 0 []) = true ∧
    firstPacket remoteLost (fromTwo 0) (pkt 0 []) = true := by decide +kernel

theorem test_wit_answers_steps : (got 0 6 [] (routed [])).steps = [] ∧ (got 0 6 [] (routed [])).errs = [] := by decide +kernel

/-- A graph request with the graph loaded, where module 1 holds shard 1, and its node. -/
def graphRequest : State :=
  { pokeBytes (pokeBytes (got 0 6 [] (routed [])) (sk + 0x1000) (toLE 8 0 ++ toLE 8 1 ++ toLE 8 1)) (sk + 0x2000) (toLE 6 (2 ^ 36)) with
    graphs := [graph0] }

theorem test_wit_expand_row : solocReady graphRequest = true ∧ graphRequest.errs = [] ∧ graphDesc graphRequest 0 = some graph0.bytes ∧
    nodeReady graphRequest graph0.bytes (2 ^ 36) = true ∧ graphDesc graphRequest 1 = none := by decide +kernel

/-- A row request with the table loaded, its row 0 VALID and touched. -/
def tableRequest : State :=
  let s := pokeBytes (got 2 2 [] (routed [])) (sk + 0x1000) (toLE 8 (mkEntry 1 true 1 5 2))
  { s with gath := { s.gath with tables := [table4 0] } }

theorem test_wit_row_request : solocReady tableRequest = true ∧ tableRequest.errs = [] ∧ tableRequest.undertow = [] ∧
    tableDesc tableRequest 3 = some (table4 0).bytes ∧ rowReady tableRequest (table4 0).bytes (2 ^ 36) = true ∧ NoMigration tableRequest ∧
    tableDesc tableRequest 4 = none ∧ eTouched (mapEntry tableRequest (table4 0).bytes 0) = true ∧ skerryRange (sk + 0x7000) 40 = true ∧
    skerryRange (sk + 0x1000) 8 = true := by unfold NoMigration; decide +kernel

theorem test_wit_copy_room : oneFree.errs = [] ∧ oneFree.undertow = [] ∧ tableDesc oneFree 3 = some table3.bytes ∧
    guestPlace oneFree table3.bytes = some 8 ∧ skerryRange (tRing table3.bytes) (64 + 8 * tRingSize table3.bytes) = true ∧
    leNat (peekBytes oneFree (tRing table3.bytes) 4) = 0 ∧ leNat (peekBytes oneFree (tRing table3.bytes + 4) 4) = 1 ∧
    bits (leNat (peekBytes oneFree (tRing table3.bytes + 64) 8)) 63 63 = eTier (mkEntry 1 false 1 0 0) ∧ tableDesc oneFree 4 = none := by
  decide +kernel

theorem test_wit_switch_kept : (got 3 1 [] hosted).gath.guests = [guest (fromTwo 3)] ∧ (guest (fromTwo 3)).table = 3 ∧
    delivered (got 3 1 [] hosted) (fromTwo 3) 1 = true := by decide +kernel

theorem test_wit_release_found :
    (oldSlot false).gath.releases.find? (fun r => decide (r.table = 3) && decide (r.slot = 2 ^ 63 + 2)) = some ⟨3, 2 ^ 63 + 2, [0]⟩ ∧
    tableDesc drained 3 = some table3.bytes ∧
    drained.gath.releases.find? (fun r => r.table = 3 && r.slot = eSlot (storedEntry drained table3.bytes 0) +
      2 ^ 63 * eTier (storedEntry drained table3.bytes 0)) = some ⟨3, 2 ^ 63 + 2, []⟩ ∧
    releaseReady drained ⟨3, 2 ^ 63 + 2, []⟩ = true := by decide +kernel

/-! ### Holds, trainings, collectives -/

/-- A BAR2 write of 4 bytes waits for stack 0. -/
def heldWrite : State := { up [(Reg.HBM_HOLD, 1), (Reg.STACK_STATE 0, 2), (Reg.STACK_CAPACITY 0, 16)] with posted := [(0x1000, toLE 4 7)] }

theorem test_wit_hold : solocReady heldWrite = true ∧ heldWrite.coll.runs = [] ∧ heldWrite.coll.reductions = [] ∧ heldWrite.errs = [] ∧
    heldWrite.undertow = [] ∧ bar2Held heldWrite 0x1000 = true ∧ (drainPosted (writeRw Reg.HBM_HOLD 0 heldWrite)).posted = [] := by decide +kernel

theorem test_wit_training_lanes : ∀ b, (trains b).bitAt (Reg.PORT_CTRL 0) 30 = false ∧
    popcount (goodLanes (trains b) 0 0xFF ((trains b).bitAt (Reg.PORT_CTRL 0) 30)) 9 = 8 ∧ 0 < (trains b).fab.ports.length := by decide +kernel

theorem test_wit_first_chunk : (cKids (collGroup (grouped [] 1 1 []) 0) 0).contains 0 = true ∧ findRed (grouped [] 1 1 []) 0 3 4 = none ∧
    chunk34.down = false ∧ chunk34.fromBackup = false ∧ values34.down = false ∧ delivered (grouped [] 0 8 []) (fromTwo 0) 8 = true := by
  decide +kernel

theorem test_wit_first_piece : (match findRun broadcasts 0x53 0 3 4 with
    | some r => decide (r.body 24 8 = 0x010000010000)
    | none => false) = true ∧ broadcasts.errs = [] ∧ broadcasts.undertow = [] ∧ skerryRange 0x010000010000 piece34.bytes.length = true := by
  decide +kernel

theorem test_wit_late_alone : (∀ p ∈ treePorts (collGroup (grouped [late] 0 8 []) 0), recoveringPort (grouped [late] 0 8 []) p = false) ∧
    collDeadline (grouped [late] 0 8 []) ≤ timeAt (grouped [late] 0 8 []) 10000000000 ∧ closed.pkt = [] := by decide +kernel

/-! ### Power and the host -/

/-- Bay 0 below floor in a droop stretch. -/
def drooping : State := let s := governed [(Reg.FLOOR_STATUS, 1)]; { s with power := { s.power with drooping := 1 } }

theorem test_wit_droop : droopHolds drooping 0 = true ∧ droopHolds (governed []) 0 = false ∧ timeAt drooping 1000000 % 1000000 = 0 := by decide +kernel

theorem test_wit_host_timeout_off : atHost.pci.cplTimeoutOff = false ∧
    entryOf { atHost with pci := { atHost.pci with cplTimeoutOff := true } } 0 = entryOf atHost 0 := by decide +kernel

theorem test_wit_link_up : (up []).power.off = false ∧ (up []).coll.runs = [] ∧ (up []).coll.reductions = [] := by decide +kernel

/-- BAR2 shows no memory, or a held stack. -/
def unmapped : State := up [(Reg.HOST_BAR2_MAP_HI, 0x300)]
def mappedHeld : State := up [(Reg.HBM_HOLD, 1), (Reg.STACK_STATE 0, 2), (Reg.STACK_CAPACITY 0, 16)]

theorem test_wit_bar2_ends : bar2Within unmapped 0 4 = true ∧ (∀ a ∈ bar2Addrs unmapped 0 4, bar2Byte unmapped a = none) ∧
    (∀ a ∈ bar2Addrs mappedHeld 0 4, bar2Held mappedHeld a = true) ∧ bar2Served mappedHeld 0 4 = false ∧ mappedHeld.errs = [] := by decide +kernel

theorem test_wit_write_rows : (match findReg (Reg.KAT_KEY 0), findReg Reg.GOV_TARGET with
    | some (r, _), some (q, _) => decide (r.half = .whole) && decide (q.half = .whole) && !hasAcc .w1c r.fields && !hasAcc .cnt r.fields &&
        !hasAcc .w1c q.fields && !hasAcc .cnt q.fields
    | _, _ => false) = true ∧ blockOf (Reg.KAT_KEY 0) < 16 ∧ blockOf Reg.GOV_TARGET < 16 := by decide +kernel

/-! ## The spec's worked numbers -/

/-- 07, the stochastic-rounding example: the first round of the generator. -/
theorem test_generator_round : genRound ⟨0, 3, 1, 0x02000005, 0x9A073B12, 0x5E1D0C44⟩ =
    ⟨0x5E1D0C46, 0x9BC09FC8, 0x9A87AD6A, 0xC2C7E8E0, 0x61779481, 0x71F60D57⟩ := by decide +kernel

/-- 07, two slices of one element: the two draws round to 1 and to 1 + 3 × 2^−23. -/
theorem test_stochastic_rounding :
    toF32 (roundStochastic 0x3A11 ((Val.fin 1 0).add ((Val.fin 1 (-24)).add (.fin 1 (-26))))) = 0x3F800000 ∧
    toF32 (roundStochastic 0xC802 ((Val.fin 1 0).add ((Val.fin 1 (-22)).add (.fin 1 (-25))))) = 0x3F800003 ∧
    toF32 (fp32.rne ((Val.fin 1 0).add ((Val.fin 1 (-24)).add (.fin 1 (-26))))) = 0x3F800001 := by decide +kernel

/-- 05, one E2M1 block with escapes: the record and the codes at positions 2, 7, 11, 19 and 30. -/
theorem test_escapes :
    let xs := (seqFrom 0 32).map (fun i => if i = 2 then f32 0x3F333333 else if i = 7 then f32 0x40833333 else if i = 11 then f32 0x3D23D70A
      else if i = 19 then f32 0xC039999A else if i = 30 then f32 0x3CA3D70A else .zero false)
    let q := quantiseBlock 0x08 3 true 0 xs
    scaleBits 3 q.record = 0x000C18A9A0EB1E7C ∧ [2, 7, 11, 19, 30].map (fun i => (q.codes[i]?).getD 0) = [0x7, 0x7, 0x1, 0xF, 0x0] ∧
    q.events = ⟨0, 1, 0, 0, 0, 32⟩ := by decide +kernel

/-- R177 by hand, after the example of 08: 130 columns, the first two stored elements of group 1 and one of group 2. -/
theorem test_compressed_row :
    rowRecord 8 130 ((seqFrom 0 130).map (fun c => c = 70 || c = 71 || c = 129)) [0x38, 0xB0, 0x40] =
      toLE 8 1 ++ toLE 8 6 ++ toLE 8 0xC0 ++ toLE 8 2 ++ [0x38, 0xB0, 0x40] ++ toLE 29 0 := by decide +kernel

/-- 11, decoding a striped address: stack 7, stack-local 0x2_0024_CA80, channel 9, and C12 once C4 is mapped out. -/
theorem test_striped : place 0x01274A80 2 0 0x200000000 = (7, 0x20024CA80) ∧ channelOf State.reset 7 0x20024CA80 = 9 ∧
    channelOf (withRegs [(Reg.STACK_CHANNELS 7, 0x10)]) 7 0x20024CA80 = 12 := by decide +kernel

/-- 12, one adaptive step: w, m and v of parameter 5,000. -/
theorem test_adaptive_step :
    let h : Hyper := { adaptive := true, nesterov := false, moment := 4, lr := .fin 1 (-10), beta1 := .fin 7 (-3), beta2 := .fin 127 (-7),
                       eps := .fin 1 (-20), omb1 := fsub (.fin 1 0) (.fin 7 (-3)), omb2 := fsub (.fin 1 0) (.fin 127 (-7)),
                       lrwd := fmul (.fin 1 (-10)) (.fin 1 (-4)), bc1 := oneMinusPow (.fin 7 (-3)) 1, bc2 := oneMinusPow (.fin 127 (-7)) 1,
                       gscale := .fin 1 0, exp := -20 }
    toF32 h.bc1 = 0x3E000000 ∧ toF32 h.bc2 = 0x3C000000 ∧
    (let r := adaptiveRule h (.fin 1 (-1)) (.zero false) (.zero false) (gradValue h 1048576)
     (toF32 r.1, toF32 r.2.1, toF32 r.2.2)) = (0x3EFF7C00, 0x3E000000, 0x3C000000) := by decide +kernel

/-- 02, a packet across the ring end: ring 3 of 64 granules, head 10, tail 62: 52 used, 11 free; RING_TAIL = 1 advances by 3. -/
theorem test_ring_end :
    let s := withRegs [(Reg.RING_SIZE 3, 6), (Reg.RING_HEAD 3, 10), (Reg.RING_TAIL 3, 62)]
    ringFree s 3 = 11 ∧ tailAdvance s 3 1 = 3 := by decide +kernel

/-- 23, a remapped tile: T300 on spare 2 of bay 4 reads 0x8000_0152. -/
theorem test_tile_map : homeOf 300 = 4 * 68 + 44 ∧
    (match exec (.tileFault 300) (up [(Reg.SPARE_STATE 4, 4), (Reg.RAS_POLICY, 2)]) with
     | .next t => decide (t.reg (Reg.TILE_MAP 300) = 0x80000152)
     | _ => false) = true := by decide +kernel

/-! ## Ill-formed commands: one for each check of WellFormed -/

theorem test_ill_time : Instr.wf (.commandTimeout 0 41) = false ∧ Instr.wf (.commandTimeout 0 80) = true := by decide
theorem test_ill_commit : Instr.wf (.commitRequest 12 0) = false ∧ Instr.wf (.commitRequest 4 1) = false ∧ Instr.wf (.commitRequest 1 5) = true := by
  decide
theorem test_ill_tiles : Instr.wf (.selfTest 0 [544]) = false ∧ Instr.wf (.bayReset 0 [543]) = true := by decide
theorem test_ill_table : Instr.wf (.slotRelease 256 0) = false ∧ Instr.wf (.slotRelease 255 0) = true := by decide
theorem test_ill_row : Instr.wf (.destinationSwitch 3 (2 ^ 48)) = false ∧ Instr.wf (.destinationSwitch 3 (2 ^ 48 - 1)) = true := by decide
theorem test_ill_temps : Instr.wf (.stackThermalCheck [20] 0) = false ∧ Instr.wf (.junctionCheck [20] 0) = false := by decide
theorem test_ill_rates : Instr.wf (.floorMonitorWindow [] 0) = false := by decide
theorem test_ill_attempts : Instr.wf (.meshFlitResend 0 0) = false ∧ Instr.wf (.meshFlitResend 0 5) = false ∧ Instr.wf (.meshFlitResend 0 4) = true := by
  decide
theorem test_ill_flit : Instr.wf (.flitReceive 0 .uncorrectable []) = false := by decide
theorem test_ill_training : Instr.wf (.portTrainingDone 0 ⟨true, 4096, 0, 0, 0xFF⟩) = false ∧
    Instr.wf (.portTrainingDone 0 ⟨true, 2, 8, 0, 0xFF⟩) = false ∧ Instr.wf (.portTrainingDone 0 ⟨true, 2, 0, 0, 512⟩) = false := by decide
theorem test_ill_head : Instr.wf (.chunkReceive ⟨4096, 1, 0, false⟩ 0 chunk34) = false ∧ Instr.wf (.chunkReceive ⟨2, 4, 0, false⟩ 0 chunk34) = false ∧
    Instr.wf (.chunkReceive ⟨2, 1, 2 ^ 14, false⟩ 0 chunk34) = false := by decide
theorem test_ill_signal : Instr.wf (.signalMessage (fromTwo 0) 4096 0 2) = false ∧ Instr.wf (.signalMessage (fromTwo 0) 0 (2 ^ 32) 2) = false := by decide
theorem test_ill_packet : Instr.wf (.solocMessage (fromTwo 0) (List.replicate 257 0)) = false := by decide +kernel
theorem test_ill_reason : Instr.wf (.refuseMessage (fromTwo 0) 0) = false ∧ Instr.wf (.refuseMessage (fromTwo 0) 6) = false := by decide
theorem test_ill_sender : Instr.wf (.expandRequest (fromTwo 0) 4096 (.tableRow 0 0 0)) = false ∧
    Instr.wf (.gatherRequest (fromTwo 2) 4096 2 []) = false := by decide
theorem test_ill_owner : Instr.wf (.redirect (fromTwo 2) 0 (.tableRow 0 0 0) 4096 0 0) = false ∧
    Instr.wf (.redirect (fromTwo 2) 0 (.tableRow 0 0 0) 2 0 65536) = false := by decide
theorem test_ill_directory : Instr.wf (.directoryMessage (fromTwo 0) 0 0 0 2 4096 0) = false := by decide
theorem test_ill_layer : Instr.wf (.reductionDiscard 64 0 0) = false ∧ Instr.wf (.collDeadlineExpiry 0 65536 0) = false := by decide
theorem test_ill_payload : Instr.wf (.telemetryFrame 0 (fromTwo 0) (List.replicate 241 0)) = false := by decide +kernel
theorem test_ill_mctp : Instr.wf (.mctpControlMessage 256 0) = false ∧ Instr.wf (.pldmGetSensor 65536) = false ∧
    Instr.wf (.pldmSetEffecter 65536 0) = false ∧ Instr.wf (.smbusAddressResolution 128) = false := by decide
theorem test_ill_boot : Instr.wf (.powerOnReset { goodBoot with training := [] }) = false ∧ Instr.wf (.warmReset { goodBoot with failing := [544] }) = false ∧
    Instr.wf (.powerOnReset { goodBoot with lanes := [512, 0, 0, 0, 0, 0, 0, 0] }) = false ∧ Instr.wf (.powerOnReset { goodBoot with width := 3 }) = false ∧
    Instr.wf (.powerOnReset { goodBoot with training := some [(16, 0, 0)] :: List.replicate 7 none }) = false ∧
    Instr.wf (.powerOnReset goodBoot) = true := by decide +kernel
theorem test_ill_bar2 : Instr.wf (.bar2Resize 35) = false ∧ Instr.wf (.bar2Read 0 0) = false ∧ Instr.wf (.bar2Write 0 []) = false := by decide
theorem test_ill_bar0 : Instr.wf (.bar0InvalidAccess false (2 ^ 24) 4) = false ∧ Instr.wf (.registerWrite 2 0) = false ∧
    Instr.wf (.loRegisterRead (2 ^ 24)) = false := by decide
theorem test_ill_link : Instr.wf (.hostLinkUp 0 16) = false ∧ Instr.wf (.hostLinkUp 6 3) = false := by decide
end Sys2Proof.Tests
end

section
/-! PROOFS. Registers as the host reads and writes them, and commits at their quiet points (R9, R11, R12, R14, R35, R65, R318, R396). -/

namespace Sys2Proof.Machine

open Sys2Proof

/-! ## Rows -/

/-- A row whose effect is a known state that keeps the queue, the timebase and the configuration answers that state. -/
theorem act_eq_of_eq {f : State → State} {s t : State} (h : f s = t) (hpending : t.pending = s.pending) (hnow : t.now = s.now)
    (hpci : t.pci = s.pci) : act f s = .next t := by
  subst h
  exact act_eq hpending hnow hpci

theorem exec_loRegisterRead (off : Nat) (s : State) : exec (.loRegisterRead off) s = act (readRegister off) s := rfl

theorem exec_registerWrite (off : Nat) (v : Word) (s : State) : exec (.registerWrite off v) s = act (writeRegister off v) s := rfl

theorem exec_commitApply (block ring : Fin 16) (s : State) :
    exec (.commitApply block ring) s = act (commitApply (rowKey block ring)) s := rfl

/-! ## Register reads (R9) -/

/-- The high half of a pair latched at its offset, in place of one latched before. -/
def latchHigh (s : State) (off : Nat) : State :=
  { s with latchHi := s.latchHi.filter (fun p => decide (p.1 ≠ off)) ++ [(off, BitVec.ofNat 32 (readReg s off))] }

/-- The latched high half of an offset used up. -/
def unlatch (s : State) (off : Nat) : State := { s with latchHi := s.latchHi.filter (fun p => decide (p.1 ≠ off)) }

/-- No half of a pair is read by a row of its own: the claims and PWR_NOW are whole registers. -/
theorem readHasOwnRow_of_half {off i : Nat} {row : RegRow} (h : findReg off = some (row, i)) (hhalf : row.half ≠ .whole) :
    readHasOwnRow off = false := by
  have hwhole : ∀ o ∈ [Reg.IRQ_CLAIM_HOST, Reg.IRQ_CLAIM_MGMT, Reg.PWR_NOW], (findReg o).map (fun r => r.1.half) = some .whole := by decide
  by_contra hown
  have hmem : off ∈ [Reg.IRQ_CLAIM_HOST, Reg.IRQ_CLAIM_MGMT, Reg.PWR_NOW] := by
    simpa using of_decide_eq_true (Bool.of_not_eq_false hown)
  have hrow := hwhole off hmem
  rw [h] at hrow
  exact hhalf (Option.some.inj hrow)

/-- A read of a low half returns it and latches the high half. -/
theorem readRegister_lo {off i : Nat} {row : RegRow} (s : State) (h : findReg off = some (row, i)) (hlo : row.half = .lo) :
    readRegister off s = returned (latchHigh s (off + 4)) (readReg s off) := by
  simp [readRegister, readHasOwnRow_of_half h (by simp [hlo]), h, hlo, latchHigh]

/-- A read of a latched high half returns what is latched and uses it up. -/
theorem readRegister_hi_latched {off i : Nat} {row : RegRow} {s : State} {p : Nat × Word} (h : findReg off = some (row, i))
    (hhi : row.half = .hi) (hp : s.latchHi.find? (fun q => decide (q.1 = off)) = some p) :
    readRegister off s = returned (unlatch s off) p.2.toNat := by
  simp [readRegister, readHasOwnRow_of_half h (by simp [hhi]), h, hhi, hp, unlatch]

/-- A read of a high half that is not latched returns the live value. -/
theorem readRegister_hi_live {off i : Nat} {row : RegRow} {s : State} (h : findReg off = some (row, i)) (hhi : row.half = .hi)
    (hnone : s.latchHi.find? (fun q => decide (q.1 = off)) = none) : readRegister off s = returned s (readReg s off) := by
  simp [readRegister, readHasOwnRow_of_half h (by simp [hhi]), h, hhi, hnone]

/-- A half just latched is found, whatever was latched at its offset before. -/
theorem find_latchHigh (s : State) (off : Nat) :
    (latchHigh s off).latchHi.find? (fun p => decide (p.1 = off)) = some (off, BitVec.ofNat 32 (readReg s off)) := by
  have hold : (s.latchHi.filter (fun p => decide (p.1 ≠ off))).find? (fun p => decide (p.1 = off)) = none :=
    List.find?_eq_none.mpr fun p hp => by simpa using (List.mem_filter.mp hp).2
  rw [latchHigh, List.find?_append, hold]
  simp

theorem find_unlatch (s : State) (off : Nat) : (unlatch s off).latchHi.find? (fun p => decide (p.1 = off)) = none :=
  List.find?_eq_none.mpr fun p hp => by simpa using (List.mem_filter.mp hp).2

/-! ## The live value of a register does not depend on what reads leave behind

RING_STATUS.TAG_WAIT looks at the packet at the ring's head, which is read as the decoder delivers it: the state in which its word has
been settled is another one for another latch, and only what is read from it agrees. -/

/-- The state with other high halves latched and another outcome of the last read. -/
def readLeft (s : State) (latches : List (Nat × Word)) (v : Nat) (poisoned : Bool) : State :=
  { s with latchHi := latches, readOut := v, readPoisoned := poisoned }

section

variable (s : State) (l : List (Nat × Word)) (v : Nat) (b : Bool)

theorem locate_readLeft (a : Nat) : locate (readLeft s l v b) a = locate s a := locate_congr rfl rfl a

theorem wordState_readLeft (p : Located) : wordState (readLeft s l v b) p = wordState s p := rfl

theorem putByte_readLeft (k : Nat) (x : Byte) : putByte (readLeft s l v b) k x = readLeft (putByte s k x) l v b := rfl

theorem clearErr_readLeft (k : Nat) : clearErr (readLeft s l v b) k = readLeft (clearErr s k) l v b := rfl

theorem logMerged_readLeft (cls : Nat) (f : LogFields) : logMerged (readLeft s l v b) cls f = readLeft (logMerged s cls f) l v b := by
  rw [logMerged, logMerged, apply_ite (fun t => readLeft t l v b)]
  rfl

theorem miscorrect_readLeft (k : Nat) : miscorrect (readLeft s l v b) k = readLeft (miscorrect s k) l v b := by
  rw [miscorrect, miscorrect, ← clearErr_readLeft]
  exact congrArg (fun t => clearErr t k) (List.foldl_hom (fun t => readLeft t l v b) fun s _ => putByte_readLeft s l v b _ _)

theorem noteCorrected_readLeft (p : Located) (a : Nat) : noteCorrected (readLeft s l v b) p a = readLeft (noteCorrected s p a) l v b := by
  unfold noteCorrected
  cases p.region <;> simp only [← logMerged_readLeft] <;> rfl

theorem settleWord_readLeft (p : Located) (a : Nat) : settleWord (readLeft s l v b) p a = readLeft (settleWord s p a) l v b := by
  unfold settleWord
  rw [wordState_readLeft]
  split
  · exact noteCorrected_readLeft ..
  · rw [miscorrect_readLeft, noteCorrected_readLeft]
  · rfl

theorem peekBytes_readLeft (n a : Nat) : peekBytes (readLeft s l v b) a n = peekBytes s a n := by
  induction n generalizing a with
  | zero => rfl
  | succ n ih => exact congrArg _ (ih (a + 1))

theorem unitBytes_readLeft (a n : Nat) : unitBytes (readLeft s l v b) a n = unitBytes s a n := by
  rw [unitBytes, peekBytes_readLeft]
  rfl

theorem loadGranule_readLeft (a : Nat) : (loadGranule (readLeft s l v b) a).1 = (loadGranule s a).1 := by
  unfold loadGranule
  rw [locate_readLeft]
  split
  · rfl
  · simp only [settleWord_readLeft, unitBytes_readLeft]

theorem headLen_readLeft (n : Nat) : headLen (readLeft s l v b) n = headLen s n := congrArg (leAt · 2 2) (loadGranule_readLeft s l v b _)

theorem headGranules_readLeft (n : Nat) : headGranules (readLeft s l v b) n = headGranules s n := by
  rw [headGranules, headGranules, headLen_readLeft]

theorem headAddrs_readLeft (n : Nat) : headAddrs (readLeft s l v b) n = headAddrs s n := by
  rw [headAddrs, headGranules_readLeft]
  rfl

theorem faultIn_readLeft (write : Bool) (a n : Nat) : faultIn (readLeft s l v b) write a n = faultIn s write a n := by
  induction n generalizing a with
  | zero => rfl
  | succ n ih =>
    rw [faultIn, faultIn, locate_readLeft, ih]
    rfl

theorem badGranule_readLeft (a : Nat) : badGranule (readLeft s l v b) a = badGranule s a := by
  rw [badGranule, faultIn_readLeft]
  rfl

theorem granuleFault_readLeft (addrs : List Nat) : granuleFault (readLeft s l v b) addrs = granuleFault s addrs :=
  congrArg (List.findSome? · addrs) (funext (badGranule_readLeft s l v b))

theorem hasPacket_readLeft (n : Nat) : hasPacket (readLeft s l v b) n = hasPacket s n := by
  simp only [hasPacket, headGranules_readLeft, headAddrs_readLeft, granuleFault_readLeft, badGranule_readLeft]
  rfl

theorem ringStatus_readLeft (n : Nat) : ringStatus (readLeft s l v b) n = ringStatus s n := by
  rw [ringStatus, tagWait, hasPacket_readLeft]
  rfl

theorem derivedReg_readLeft (off : Nat) : derivedReg (readLeft s l v b) off = derivedReg s off := by
  simp only [derivedReg, ringStatus_readLeft]
  rfl

/-- The live value of a register depends neither on what is latched nor on what the last read returned. -/
theorem readReg_readLeft (off : Nat) : readReg (readLeft s l v b) off = readReg s off := by
  rw [readReg, derivedReg_readLeft]
  rfl

end

/-- The live value of a register stands when a latched half is read. -/
theorem readReg_returned_unlatch (s : State) (latched v off : Nat) : readReg (returned (unlatch s latched) v) off = readReg s off :=
  readReg_readLeft s _ v false off

/-! ## Reads of pairs (R9) -/

/-- Settles O52: the latched half is found by its offset, the read uses it up, and the live value does not depend on the latches. -/
theorem highHalfIsLatchedByLowHalf : Obligations.HighHalfIsLatchedByLowHalf := by
  unfold Obligations.HighHalfIsLatchedByLowHalf
  simp only [exec_loRegisterRead]
  intro s off row row2 i j hoff hlo hoff4 hhi
  refine ⟨⟨returned (latchHigh s (off + 4)) (readReg s off), ?_, rfl, rfl, fun u hu => ?_⟩, fun hnone => ?_⟩
  · exact act_eq_of_eq (readRegister_lo s hoff hlo) rfl rfl rfl
  · have hfound : u.latchHi.find? (fun q => decide (q.1 = off + 4)) = some (off + 4, BitVec.ofNat 32 (readReg s (off + 4))) := by
      rw [hu]
      exact find_latchHigh s (off + 4)
    refine ⟨_, act_eq_of_eq (readRegister_hi_latched hoff4 hhi hfound) rfl rfl rfl, BitVec.toNat_ofNat .., ?_⟩
    exact ⟨_, act_eq_of_eq (readRegister_hi_live hoff4 hhi (find_unlatch u (off + 4))) rfl rfl rfl, readReg_returned_unlatch ..⟩
  · have hlive : s.latchHi.find? (fun q => decide (q.1 = off + 4)) = none :=
      List.find?_eq_none.mpr fun p hp => by simpa using hnone p hp
    exact ⟨_, act_eq_of_eq (readRegister_hi_live hoff4 hhi hlive) rfl rfl rfl, rfl, rfl⟩

/-! ## Register writes (R11, R14, R318, R396) -/

theorem fieldsOf_eq {off i : Nat} {row : RegRow} (h : findReg off = some (row, i)) : fieldsOf off = row.fields := by
  simp [fieldsOf, h]

/-- A write that BAR0 does not serve yet does nothing (R396). -/
theorem writeRegister_of_not_served {s : State} {off : Nat} (v : Word) (h : served s off = false) : writeRegister off v s = s := by
  simp [writeRegister, h]

/-- A write of an offset that is not listed does nothing (R318). -/
theorem writeRegister_of_unlisted (s : State) {off : Nat} (v : Word) (h : findReg off = none) : writeRegister off v s = s := by
  have hcmd : off ≠ Reg.SEC_MBOX_CMD := by
    rintro rfl
    exact absurd h (by decide)
  have hdisarm : off ≠ Reg.UW_DISARM := by
    rintro rfl
    exact absurd h (by decide)
  simp only [writeRegister, h, if_neg hcmd, if_neg hdisarm, ite_self]

/-- A write of a whole register outside the MSI-X structures whose write is no row of its own and is not ignored. -/
theorem writeRegister_of_whole {s : State} {off i : Nat} {row : RegRow} (v : Word) (hready : solocReady s = true)
    (hown : hasOwnRow off = false) (hignored : writeIgnored s off = false) (hcmd : off ≠ Reg.SEC_MBOX_CMD) (hdisarm : off ≠ Reg.UW_DISARM)
    (hblock : blockOf off < 16) (h : findReg off = some (row, i)) (hwhole : row.half = .whole) :
    writeRegister off v s = writeWord s off v := by
  simp [writeRegister, served, hready, hown, hignored, hcmd, hdisarm, hblock, h, writeListed, hwhole]

section

variable {off : Nat} (s : State) (v : Word) (hw1c : hasAcc .w1c (fieldsOf off) = false) (hcnt : hasAcc .cnt (fieldsOf off) = false)
include hw1c hcnt

/-- RW fields are written at once. -/
theorem writeWord_rw (hrw : hasAcc .rw (fieldsOf off) = true) (hrws : hasAcc .rws (fieldsOf off) = false) :
    writeWord s off v = writeRw off v s := by
  simp [writeWord, hw1c, hcnt, hrw, hrws]

/-- RWS fields are written in the shadow only. -/
theorem writeWord_rws (hrw : hasAcc .rw (fieldsOf off) = false) (hrws : hasAcc .rws (fieldsOf off) = true) :
    writeWord s off v = writeShadow s off v := by
  simp [writeWord, hw1c, hcnt, hrw, hrws]

/-- A register without fields that a write can change ignores it. -/
theorem writeWord_ro (hrw : hasAcc .rw (fieldsOf off) = false) (hrws : hasAcc .rws (fieldsOf off) = false) : writeWord s off v = s := by
  simp [writeWord, hw1c, hcnt, hrw, hrws]

end

theorem writeRw_regsOnly (s : State) (off : Nat) (v : Word) : RegsOnly [off] s (writeRw off v s) :=
  ⟨rfl, fun _ hj => reg_setReg_ne s _ (List.ne_of_not_mem_cons hj)⟩

theorem reg_writeRw (s : State) (off : Nat) (v : Word) :
    (writeRw off v s).reg off = writeFields .rw (fieldsOf off) (s.reg off) v := reg_setReg_same ..

/-- The word written is the shadow of its register. -/
theorem mem_shadow_writeShadow (s : State) (off : Nat) (v : Word) :
    (off, writeFields .rws (fieldsOf off) (shadowBase s off) v) ∈ (writeShadow s off v).shadow := by
  simp [writeShadow]

/-- The other registers' shadows stand. -/
theorem mem_shadow_of_writeShadow {s : State} {off : Nat} {v : Word} {p : Nat × Word} (hp : p ∈ (writeShadow s off v).shadow)
    (hne : p.1 ≠ off) : p ∈ s.shadow := by
  rcases List.mem_append.mp hp with h | h
  · exact List.mem_of_mem_filter h
  · exact absurd (congrArg Prod.fst (List.mem_singleton.mp h)) hne

/-- A shadow makes its register's commit PENDING. -/
theorem isPendingKey_of_mem_shadow {s : State} {p : Nat × Word} (h : p ∈ s.shadow) : isPendingKey s (commitKey p.1) = true := by
  have : s.shadow.any (fun q => decide (commitKey q.1 = commitKey p.1)) = true := List.any_eq_true.mpr ⟨p, h, by simp⟩
  simp [isPendingKey, this]

/-- Settles O51: a write reaches `writeWord` only for a listed offset that BAR0 serves, and there each access type has its own equation. -/
theorem registerWritesFollowTheirAccess : Obligations.RegisterWritesFollowTheirAccess := by
  unfold Obligations.RegisterWritesFollowTheirAccess
  simp only [exec_registerWrite]
  intro s off v
  refine ⟨fun hnone => ?_, fun hready hid hsec => ?_, fun row i hready hown hignored hcmd hdisarm hblock hrow hwhole hw1c hcnt => ?_⟩
  · exact act_eq_of_eq (writeRegister_of_unlisted s v hnone) rfl rfl rfl
  · exact act_eq_of_eq (writeRegister_of_not_served v (by simp [served, hready, hid, hsec])) rfl rfl rfl
  · have hword := writeRegister_of_whole v hready hown hignored hcmd hdisarm hblock hrow hwhole
    rw [← fieldsOf_eq hrow] at hw1c hcnt ⊢
    refine ⟨fun hrw hrws => ?_, fun hrw hrws => ?_, fun hrw hrws => ?_⟩
    · have heq := hword.trans (writeWord_rw s v hw1c hcnt hrw hrws)
      exact ⟨_, act_eq_of_eq heq rfl rfl rfl, writeRw_regsOnly s off v, reg_writeRw s off v⟩
    · have heq := hword.trans (writeWord_rws s v hw1c hcnt hrw hrws)
      have hmem := mem_shadow_writeShadow s off v
      exact ⟨_, act_eq_of_eq heq rfl rfl rfl, rfl, hmem, isPendingKey_of_mem_shadow hmem, fun _ hp hne => mem_shadow_of_writeShadow hp hne⟩
    · exact act_eq_of_eq (hword.trans (writeWord_ro s v hw1c hcnt hrw hrws)) rfl rfl rfl

/-! ## Words of a set applied (R11, R12) -/

/-- States with the same registers read their fields alike. -/
theorem fieldAt_congr {s t : State} (h : s.regs = t.regs) (off hi lo : Nat) : s.fieldAt off hi lo = t.fieldAt off hi lo :=
  congrArg (fld · hi lo) (reg_congr h off)

theorem applyWords_cons (s : State) (p : Nat × Word) (set : List (Nat × Word)) :
    applyWords s (p :: set) = applyWords (applyWord s p) set := rfl

/-- Applying words changes registers only. -/
theorem applyWords_eq : ∀ (set : List (Nat × Word)) (s : State), applyWords s set = { s with regs := (applyWords s set).regs }
  | [], _ => rfl
  | p :: set, s => by rw [applyWords_cons, applyWords_eq set (applyWord s p)]; rfl

/-- A set that names each register once is in the registers when its words have been applied. -/
theorem setApplied_applyWords : ∀ (set : List (Nat × Word)) (s : State), (set.map (fun p => p.1)).Nodup → SetApplied set s (applyWords s set)
  | [], _, _ => ⟨fun _ h => absurd h List.not_mem_nil, fun _ _ => rfl⟩
  | p :: set, s, hnodup => by
    obtain ⟨hp, hset⟩ := List.nodup_cons.mp hnodup
    obtain ⟨hin, hout⟩ := setApplied_applyWords set (applyWord s p) hset
    refine ⟨fun q hq => ?_, fun off hoff => ?_⟩
    · rcases List.mem_cons.mp hq with rfl | hq
      · exact (hout q.1 hp).trans (reg_setReg_same ..)
      · have hne : q.1 ≠ p.1 := fun h => hp (List.mem_map.mpr ⟨q, hq, h⟩)
        rw [applyWords_cons, hin q hq, applyWord, reg_setReg_ne s _ hne]
    · exact (hout off (List.not_mem_of_not_mem_cons hoff)).trans (reg_setReg_ne s _ (List.ne_of_not_mem_cons hoff))

/-- The registers after a set is applied follow from those before. -/
theorem regs_applyWords_congr : ∀ (set : List (Nat × Word)) {s t : State}, s.regs = t.regs → (applyWords s set).regs = (applyWords t set).regs
  | [], _, _, h => h
  | p :: set, s, t, h => by
    refine regs_applyWords_congr set ?_
    show Sparse.set _ s.regs _ _ = Sparse.set _ t.regs _ _
    rw [h, reg_congr h]

/-! ## Commits (R12, R35, R65) -/

theorem applyingSet_key {s : State} {key : Nat} {c : Commit} (h : applyingSet s key = some c) : c.key = key := by
  simpa using List.find?_some h

theorem isApplying_endApplying (s : State) (key : Nat) : isApplying (endApplying s key) key = false := by
  simp [isApplying, endApplying]

/-- Before its quiet point a commit waits. -/
theorem commitApply_of_not_quiet {s : State} {key : Nat} (h : quiet s key = false) : commitApply key s = s := by
  unfold commitApply
  split
  · simp [h]
  · rfl

/-- At its quiet point a commit's set is applied. -/
theorem commitApply_of_quiet {s : State} {key : Nat} {c : Commit} (h : applyingSet s key = some c) (hquiet : quiet s key = true) :
    commitApply key s = commitApplied (applyBlock (endApplying s key) c) key := by
  simp [commitApply, h, hquiet]

/-- Only a waiting CONFIG_COMMIT goes on after an application. -/
theorem commitSeen_of_not_commit {e : Entry} (pending : Bool) (key : Nat) (h : ∀ mine again r, e.phase ≠ .running (.commit mine again r)) :
    commitSeen pending key e = e := by
  unfold commitSeen
  split
  · next heq => exact absurd heq (h _ _ _)
  · rfl

theorem commitAgain_of_noConfigCommitWaits {s : State} (key : Nat) (h : NoConfigCommitWaits s) : commitAgain s key = false := by
  refine List.any_eq_false.mpr fun e he => ?_
  split
  · next heq => exact absurd heq (h e he _ _ _)
  · simp

/-- Where no CONFIG_COMMIT waits, nothing follows an application. -/
theorem commitApplied_of_noConfigCommitWaits {s : State} (key : Nat) (h : NoConfigCommitWaits s) : commitApplied s key = s := by
  have hentries : s.entries.map (commitSeen (isPendingKey s key) key) = s.entries :=
    (List.map_congr_left fun e he => commitSeen_of_not_commit _ key (h e he)).trans (List.map_id _)
  simp [commitApplied, commitAgain_of_noConfigCommitWaits key h, hentries]

/-- A request of a commit that waits for a quiet point leaves the registers. -/
theorem requestCommit_regs (s : State) {key : Nat} (h : key ≠ 10 ∧ key ≠ 11) : (requestCommit s key).regs = s.regs := by
  unfold requestCommit
  simp only
  split
  · rfl
  · rw [if_neg (by omega)]

theorem commitApplied_regs (s : State) {key : Nat} (h : key ≠ 10 ∧ key ≠ 11) : (commitApplied s key).regs = s.regs := by
  unfold commitApplied
  simp only
  split
  · exact requestCommit_regs _ h
  · rfl

/-- A Timebase and telemetry or Power commit applies its words and nothing else. -/
theorem applyBlock_of_words {c : Commit} (s : State) (h : c.key = 3 ∨ c.key = 4) : applyBlock s c = applyWords s c.set := by
  rcases h with h | h <;> simp [applyBlock, h]

theorem applyBlock_of_ring {c : Commit} (s : State) {n : Nat} (h : c.key = 16 + n) :
    applyBlock s c = enableRing s (applyWords s c.set) n := by
  simp [applyBlock, h]

/-- What an enabling commit of a submission ring leaves in its registers, but for its completion half's (R35). -/
theorem reg_enableRing (old s : State) {n off : Nat} (hhead : off ≠ Reg.CPL_HEAD n) (htail : off ≠ Reg.CPL_TAIL n)
    (h : enabling (old.fieldAt (Reg.RING_SIZE n) 3 0) (s.fieldAt (Reg.RING_SIZE n) 3 0) (ringBase old n) (ringBase s n) = true) :
    (enableRing old s n).reg off = ((s.setReg (Reg.RING_HEAD n) 0).setReg (Reg.RING_TAIL n) 0).reg off := by
  unfold enableRing
  simp only [h, if_true]
  split
  · show ((((s.setReg (Reg.RING_HEAD n) 0).setReg (Reg.RING_TAIL n) 0).setReg (Reg.CPL_HEAD n) 0).setReg (Reg.CPL_TAIL n) 0).reg off = _
    rw [reg_setReg_ne _ _ htail, reg_setReg_ne _ _ hhead]
  · split <;> rfl

/-- A commit that enables a ring leaves its RING_HEAD and RING_TAIL 0 and its size as the set gave it (R35). -/
theorem enableRing_of_newSize {old s : State} {n : Nat} (hold : old.fieldAt (Reg.RING_SIZE n) 3 0 = 0)
    (hnew : s.fieldAt (Reg.RING_SIZE n) 3 0 ≠ 0) :
    ringHead (enableRing old s n) n = 0 ∧ ringTail (enableRing old s n) n = 0 ∧
      (enableRing old s n).fieldAt (Reg.RING_SIZE n) 3 0 = s.fieldAt (Reg.RING_SIZE n) 3 0 := by
  have h : enabling (old.fieldAt (Reg.RING_SIZE n) 3 0) (s.fieldAt (Reg.RING_SIZE n) 3 0) (ringBase old n) (ringBase s n) = true := by
    simp [enabling, hold, hnew, Ne.symm hnew]
  refine ⟨?_, ?_, ?_⟩
  · rw [ringHead, State.fieldAt, reg_enableRing old s (by simp) (by simp) h, reg_setReg_ne _ _ (by simp), reg_setReg_same]
    rfl
  · rw [ringTail, State.fieldAt, reg_enableRing old s (by simp) (by simp) h, reg_setReg_same]
    rfl
  · rw [State.fieldAt, reg_enableRing old s (by simp) (by simp) h, reg_setReg_ne _ _ (by simp), reg_setReg_ne _ _ (by simp)]
    rfl

/-- A Timebase and telemetry or Power set applied where no CONFIG_COMMIT waits. -/
theorem commitApply_words {s : State} {key : Nat} {c : Commit} (hc : applyingSet s key = some c) (hquiet : quiet s key = true)
    (hkey : key = 3 ∨ key = 4) (hwaits : NoConfigCommitWaits s) : commitApply key s = applyWords (endApplying s key) c.set := by
  rw [commitApply_of_quiet hc hquiet, applyBlock_of_words _ (applyingSet_key hc ▸ hkey)]
  refine commitApplied_of_noConfigCommitWaits key ?_
  rw [applyWords_eq]
  exact hwaits

/-- A commit of a ring that enables it, at its quiet point (R35). -/
theorem commitApply_enables {s : State} {n : Nat} {c : Commit} (hc : applyingSet s (16 + n) = some c) (hempty : ringHead s n = ringTail s n)
    (hold : s.fieldAt (Reg.RING_SIZE n) 3 0 = 0) (hnew : (applyWords s c.set).fieldAt (Reg.RING_SIZE n) 3 0 ≠ 0) :
    ringHead (commitApply (16 + n) s) n = 0 ∧ ringTail (commitApply (16 + n) s) n = 0 ∧
      (commitApply (16 + n) s).fieldAt (Reg.RING_SIZE n) 3 0 = (applyWords s c.set).fieldAt (Reg.RING_SIZE n) 3 0 := by
  have hquiet : quiet s (16 + n) = true := by simp [quiet, hempty]
  have hset : (applyWords (endApplying s (16 + n)) c.set).fieldAt (Reg.RING_SIZE n) 3 0 = (applyWords s c.set).fieldAt (Reg.RING_SIZE n) 3 0 :=
    fieldAt_congr (regs_applyWords_congr c.set (s := endApplying s (16 + n)) (t := s) rfl) ..
  have hregs := commitApplied_regs (enableRing (endApplying s (16 + n)) (applyWords (endApplying s (16 + n)) c.set) n)
    (key := 16 + n) (by omega)
  obtain ⟨hhead, htail, hsize⟩ := enableRing_of_newSize (old := endApplying s (16 + n)) hold (hset ▸ hnew)
  rw [commitApply_of_quiet hc hquiet, applyBlock_of_ring _ (applyingSet_key hc)]
  exact ⟨(fieldAt_congr hregs ..).trans hhead, (fieldAt_congr hregs ..).trans htail, (fieldAt_congr hregs ..).trans (hsize.trans hset)⟩

/-- Settles O16: the set is in the registers when its words have been applied, and an enabling commit starts a ring's indices anew. -/
theorem commitApplyWaitsForTheQuietPoint : Obligations.CommitApplyWaitsForTheQuietPoint := by
  unfold Obligations.CommitApplyWaitsForTheQuietPoint
  simp only [exec_commitApply]
  rintro s block ring _ c rfl hc
  refine ⟨fun hquiet => ?_, fun hquiet hkey hnodup hwaits => ?_, fun n hkey hempty hold hnew => ?_⟩
  · exact act_eq_of_eq (commitApply_of_not_quiet hquiet) rfl rfl rfl
  · have hstate := (commitApply_words hc hquiet hkey hwaits).trans (applyWords_eq c.set (endApplying s _))
    exact ⟨_, act_eq_of_eq hstate rfl rfl rfl, setApplied_applyWords c.set (endApplying s _) hnodup, isApplying_endApplying s _, rfl⟩
  · have happly := commitApply_enables (n := n.val) (hkey ▸ hc) hempty hold hnew
    rw [hkey]
    exact ⟨_, rfl, happly⟩

end Sys2Proof.Machine
end

section
/-! PROOFS. Faults below the commands: merged records and their interval's end, the tile spare map and tile faults (R18, R243, R362,
R373, R376). -/

namespace Sys2Proof.Machine

open Sys2Proof

/-! ## Rows -/

theorem exec_meshFlitResend (bay : Fin 8) (attempts : Nat) (s : State) :
    exec (.meshFlitResend bay attempts) s = act (resendMesh bay.val attempts) s := rfl

theorem exec_errlogMergeInterval (time : Nat) (s : State) : exec (.errlogMergeInterval time) s = actAt time flushMerged s := rfl

/-- What an untimed row's effect leaves in the registers, the power unit and the commands stands. -/
theorem act_fields (f : State → State) (s : State) :
    ∃ t, act f s = .next t ∧ t.regs = (f s).regs ∧ t.power = (f s).power ∧ t.entries = (f s).entries := ⟨_, rfl, rfl, rfl, rfl⟩

/-- What a timed row's effect leaves merged and in memory stands. -/
theorem actAt_fields (time : Nat) (f : State → State) (s : State) :
    ∃ t, actAt time f s = .next t ∧ t.now = timeAt s time ∧ t.merged = (f (passTime s time)).merged ∧
      t.mem = (f (passTime s time)).mem := ⟨_, rfl, rfl, rfl, rfl⟩

/-- A tile fault of an enabled bay's tile that is not stopped is handled. -/
theorem exec_tileFault_of_live {s : State} {tile : Fin 512} (hbay : bayEnabled s (tile.val / 64) = true)
    (hlive : s.power.deadTiles.contains tile.val = false) : exec (.tileFault tile) s = act (fun s => faultTile s tile.val) s := by
  have hguard : (bayEnabled s (tile.val / 64) && !s.power.deadTiles.contains tile.val) = true := by rw [hbay, hlive]; rfl
  show act _ s = act _ s
  simp only [act, if_pos hguard]

/-! ## Merged records (R376) -/

/-- An event is among the merged records once it is logged, alone or with those merged before it. -/
theorem exists_mem_logMerged (s : State) (cls : Nat) (f : LogFields) :
    ∃ m ∈ (logMerged s cls f).merged, m.cls = cls ∧ m.unit = f.unit ∧ m.interval = s.now / 1000000 := by
  by_cases hany : s.merged.any (fun m => m.cls = cls && m.unit = f.unit && m.interval = s.now / 1000000) = true
  · obtain ⟨m, hm, hsame⟩ := List.any_eq_true.mp hany
    have hkeys : (m.cls = cls ∧ m.unit = f.unit) ∧ m.interval = s.now / 1000000 := by simpa using hsame
    refine ⟨{ m with count := m.count + 1 }, ?_, hkeys.1.1, hkeys.1.2, hkeys.2⟩
    simp only [logMerged, if_pos hany]
    exact List.mem_map.mpr ⟨m, hm, if_pos hsame⟩
  · refine ⟨⟨cls, f.unit, s.now / 1000000, recordBytes s cls f 0 1, 1⟩, ?_, rfl, rfl, rfl⟩
    simp only [logMerged, if_neg hany]
    exact List.mem_append_right _ (List.mem_singleton_self _)

/-- The timebase stands in interval `i`, and no merged record is of an earlier one. -/
def MergedSince (i : Nat) (s : State) : Prop := s.now / 1000000 = i ∧ ∀ m ∈ s.merged, i ≤ m.interval

theorem MergedSince.congr {i : Nat} {s t : State} (h : MergedSince i s) (hnow : t.now = s.now) (hmerged : t.merged = s.merged) :
    MergedSince i t := by
  unfold MergedSince
  rwa [hnow, hmerged]

theorem MergedSince.setReg {i : Nat} {s : State} (h : MergedSince i s) (off : Nat) (w : Word) : MergedSince i (s.setReg off w) := h

theorem MergedSince.clearErr {i : Nat} {s : State} (h : MergedSince i s) (k : Nat) : MergedSince i (clearErr s k) := h

/-- A record merged now is of the present interval. -/
theorem MergedSince.logMerged {i : Nat} {s : State} (h : MergedSince i s) (cls : Nat) (f : LogFields) :
    MergedSince i (logMerged s cls f) := by
  obtain ⟨hnow, hmerged⟩ := h
  unfold Machine.logMerged
  simp only
  split
  · refine ⟨hnow, fun m hm => ?_⟩
    obtain ⟨m0, hm0, rfl⟩ := List.mem_map.mp hm
    have hkept : (if (m0.cls = cls && m0.unit = f.unit && m0.interval = s.now / 1000000) = true then { m0 with count := m0.count + 1 }
        else m0).interval = m0.interval := by split <;> rfl
    exact (hmerged m0 hm0).trans hkept.ge
  · refine ⟨hnow, fun m hm => ?_⟩
    rcases List.mem_append.mp hm with hm | hm
    · exact hmerged m hm
    · rw [List.mem_singleton.mp hm]
      exact hnow.ge

theorem MergedSince.noteCorrected {i : Nat} {s : State} (h : MergedSince i s) (p : Located) (a : Nat) :
    MergedSince i (noteCorrected s p a) := by
  unfold Machine.noteCorrected
  simp only
  split
  · exact ((h.clearErr _).setReg _ _).logMerged _ _
  · exact ((h.clearErr _).setReg _ _).logMerged _ _
  · exact (h.clearErr _).logMerged _ _

theorem MergedSince.putBytes {i : Nat} (f : State → Nat → Byte) (l : List Nat) {s : State} (h : MergedSince i s) :
    MergedSince i (l.foldl (fun s j => putByte s j (f s j)) s) :=
  List.foldlRecOn l _ (motive := MergedSince i) h fun _ ht _ _ => ht

theorem MergedSince.miscorrect {i : Nat} {s : State} (h : MergedSince i s) (k : Nat) : MergedSince i (miscorrect s k) := by
  unfold Machine.miscorrect
  exact (h.putBytes (fun s j => Config.garbledByte (errorsAt s k) j) _).clearErr k

theorem MergedSince.settleWord {i : Nat} {s : State} (h : MergedSince i s) (p : Located) (a : Nat) : MergedSince i (settleWord s p a) := by
  unfold Machine.settleWord
  split
  · exact h.noteCorrected p a
  · exact (h.miscorrect _).noteCorrected p a
  · exact h

theorem MergedSince.settleWords {i : Nat} (a n : Nat) : ∀ (fuel : Nat) {s : State} (w : Nat), MergedSince i s →
    MergedSince i (settleWords s a n fuel w)
  | 0, _, _, h => h
  | fuel + 1, s, w, h => by
    unfold Machine.settleWords
    split
    · exact h
    · refine MergedSince.settleWords a n fuel _ ?_
      split
      · split
        · exact h
        · exact h.settleWord _ _
      · exact h

theorem MergedSince.storeBytes {i : Nat} {s : State} (h : MergedSince i s) (a : Nat) (l : List Byte) :
    MergedSince i (storeBytes s a l) := by
  have hsettled : MergedSince i (settleWrite s a l.length) := by
    unfold settleWrite
    split
    · exact h
    · exact MergedSince.settleWords _ _ _ _ h
  exact hsettled.congr (by rw [Machine.storeBytes, pokeBytes_eq]) (by rw [Machine.storeBytes, pokeBytes_eq])

theorem setStatus_now (s : State) (off b : Nat) : (setStatus s off b).now = s.now := by rw [setStatus_eq]

theorem setStatus_merged (s : State) (off b : Nat) : (setStatus s off b).merged = s.merged := by rw [setStatus_eq]

theorem setStatus_errs (s : State) (off b : Nat) : (setStatus s off b).errs = s.errs := by rw [setStatus_eq]

/-- A record in the log keeps whatever a new record number, a register's write, a status bit and a write of bytes keep. -/
theorem writeRecord_keeps {P : State → Prop} (hseq : ∀ t n, P t → P { t with errSeq := n }) (hreg : ∀ t off w, P t → P (t.setReg off w))
    (hstatus : ∀ t off b, P t → P (setStatus t off b)) (hstore : ∀ t a l, P t → P (storeBytes t a l)) (s : State) (rest : List Byte)
    (h : P s) : P (writeRecord s rest) := by
  unfold writeRecord
  simp only
  split
  · exact h
  · split
    · exact hstatus _ _ _ (hreg _ _ _ (hseq _ _ h))
    · exact hreg _ _ _ (hstore _ _ _ (hseq _ _ h))

theorem MergedSince.writeRecord {i : Nat} {s : State} (h : MergedSince i s) (rest : List Byte) : MergedSince i (writeRecord s rest) :=
  writeRecord_keeps (P := MergedSince i) (fun _ _ ht => ht) (fun _ _ _ ht => ht)
    (fun t off b ht => ht.congr (setStatus_now t off b) (setStatus_merged t off b)) (fun _ a l ht => ht.storeBytes a l) s rest h

/-- Where no word has an error, a record merges no other. -/
theorem writeRecord_merged_clean {s : State} (rest : List Byte) (h : s.errs = []) :
    (writeRecord s rest).errs = [] ∧ (writeRecord s rest).merged = s.merged := by
  refine writeRecord_keeps (P := fun t => t.errs = [] ∧ t.merged = s.merged) (fun _ _ ht => ht) (fun _ _ _ ht => ht)
    (fun t off b ht => ?_) (fun t a l ht => ?_) s rest ⟨h, rfl⟩
  · rwa [setStatus_errs, setStatus_merged]
  · rwa [storeBytes_clean a l ht.1, pokeBytes_eq]

/-- The state without the merged records of the intervals that have ended, where the writing of those records begins. -/
def withoutDue (s : State) : State := { s with merged := s.merged.filter (fun m => decide (s.now / 1000000 ≤ m.interval)) }

/-- What holds without the due records and is kept by every record holds once they have been written. -/
theorem flushMerged_keeps {P : State → Prop} {s : State} (hrecord : ∀ t rest, P t → P (writeRecord t rest)) (h : P (withoutDue s)) :
    P (flushMerged s) :=
  List.foldlRecOn (motive := P) _ _ h fun t ht _ _ => hrecord t _ ht

theorem mergedSince_flushMerged (s : State) : MergedSince (s.now / 1000000) (flushMerged s) :=
  flushMerged_keeps (fun _ rest ht => ht.writeRecord rest) ⟨rfl, fun _ hm => of_decide_eq_true (List.mem_filter.mp hm).2⟩

theorem flushMerged_merged_clean {s : State} (h : s.errs = []) : (flushMerged s).merged = (withoutDue s).merged :=
  (flushMerged_keeps (P := fun t => t.errs = [] ∧ t.merged = (withoutDue s).merged) (s := s)
    (fun _ rest ht => (writeRecord_merged_clean rest ht.1).imp_right (·.trans ht.2)) ⟨h, rfl⟩).2

/-- A record where there is no log does nothing. -/
theorem writeRecord_of_noLog {s : State} (rest : List Byte) (h : errlogSize s = 0) : writeRecord s rest = s := if_pos h

theorem flushMerged_of_noLog {s : State} (h : errlogSize s = 0) : flushMerged s = withoutDue s :=
  flushMerged_keeps (P := fun t => t = withoutDue s) (fun t rest ht => by rw [ht]; exact writeRecord_of_noLog rest h) rfl

theorem errlogSize_passTime (s : State) (time : Nat) : errlogSize (passTime s time) = errlogSize s := by
  unfold errlogSize State.fieldAt
  rw [passTime_reg s time _ (by decide) (by decide)]

/-! ## Registers that the error log leaves -/

/-- A register that neither a record in the error log nor RAS_EVENT's interrupt changes. -/
def OutsideLog (off : Nat) : Prop :=
  irqReg off = false ∧ off ≠ Reg.ERRLOG_TAIL ∧ off ≠ Reg.ERRLOG_DROPPED ∧ off ≠ Reg.RAS_EVENT ∧ ¬ ceReg off

theorem outsideLog_of_lt {off : Nat} (h : off < 0x10000) : OutsideLog off := by
  have hblock : blockOf off = 0 := by unfold blockOf; omega
  refine ⟨by simp [irqReg, hblock], by unfold Reg.ERRLOG_TAIL; omega, by unfold Reg.ERRLOG_DROPPED; omega,
    by unfold Reg.RAS_EVENT; omega, ?_⟩
  rintro (hce | ⟨st, -, hce⟩)
  · unfold Reg.SKERRY_CE at hce; omega
  · unfold Reg.STACK_CE at hce; omega

theorem tileMap_lt {t : Nat} (h : t < 512) : Reg.TILE_MAP t < 0x10000 := by unfold Reg.TILE_MAP; omega

theorem spareState_lt {b : Nat} (h : b < 8) : Reg.SPARE_STATE b < 0x10000 := by unfold Reg.SPARE_STATE; omega

theorem tileMap_ne_spareState {t : Nat} (b : Nat) (h : t < 512) : Reg.TILE_MAP t ≠ Reg.SPARE_STATE b := by
  unfold Reg.TILE_MAP Reg.SPARE_STATE; omega

theorem tileMap_ne {t u : Nat} (h : u ≠ t) : Reg.TILE_MAP u ≠ Reg.TILE_MAP t := by unfold Reg.TILE_MAP; omega

theorem rasTileRemaps_ne_of_lt {off : Nat} (h : off < 0x10000) : Reg.RAS_TILE_REMAPS ≠ off := by unfold Reg.RAS_TILE_REMAPS; omega

theorem outsideLog_tileMap {t : Nat} (h : t < 512) : OutsideLog (Reg.TILE_MAP t) := outsideLog_of_lt (tileMap_lt h)

theorem outsideLog_spareState {b : Nat} (h : b < 8) : OutsideLog (Reg.SPARE_STATE b) := outsideLog_of_lt (spareState_lt h)

theorem outsideLog_rasTileRemaps : OutsideLog Reg.RAS_TILE_REMAPS := by
  refine ⟨by decide, by decide, by decide, by decide, ?_⟩
  rintro (hce | ⟨st, hst, hce⟩)
  · exact absurd hce (by decide)
  · unfold Reg.RAS_TILE_REMAPS Reg.STACK_CE at hce; omega

theorem logTimed_only (s : State) (cls : Nat) (f : LogFields) : LogOnly { s with free := s.free + 1 } (logTimed s cls f) :=
  writeRecord_only _ _

theorem logTimed_power (s : State) (cls : Nat) (f : LogFields) : (logTimed s cls f).power = s.power :=
  by rw [(logTimed_only s cls f).1]

theorem logTimed_entries (s : State) (cls : Nat) (f : LogFields) : (logTimed s cls f).entries = s.entries :=
  by rw [(logTimed_only s cls f).1]

theorem logTimed_reg (s : State) (cls : Nat) (f : LogFields) {off : Nat} (h : OutsideLog off) :
    (logTimed s cls f).reg off = s.reg off := by
  obtain ⟨hirq, htail, hdropped, hevent, hce⟩ := h
  obtain ⟨-, hregs, -⟩ := logTimed_only s cls f
  exact hregs off hirq htail hdropped hevent hce

theorem logTimed_rasEvent (s : State) (cls : Nat) (f : LogFields) {i : Nat} (hi : i < 32) (h8 : i ≠ 8) :
    (logTimed s cls f).bitAt Reg.RAS_EVENT i = s.bitAt Reg.RAS_EVENT i := by
  obtain ⟨-, -, hevent, -⟩ := logTimed_only s cls f
  exact hevent i hi h8

theorem rasEvent_reg (s : State) (b : Nat) {off : Nat} (h : OutsideLog off) : (setStatus s Reg.RAS_EVENT b).reg off = s.reg off := by
  obtain ⟨hirq, -, -, hevent, -⟩ := h
  exact setStatus_reg s _ b off hevent hirq

theorem rasEvent_bitAt (s : State) {b : Nat} (hb : b < 32) : (setStatus s Reg.RAS_EVENT b).bitAt Reg.RAS_EVENT b = true := by
  rw [setStatus_bitAt s _ b b hb (by decide)]
  simp

/-! ## The spare map (R18, R419) -/

theorem physOf_congr {s u : State} {t : Nat} (h : u.reg (Reg.TILE_MAP t) = s.reg (Reg.TILE_MAP t)) : physOf u t = physOf s t := by
  unfold physOf State.fieldAt
  rw [h]

theorem bitAt_congr {s u : State} {off : Nat} (h : u.reg off = s.reg off) (i : Nat) : u.bitAt off i = s.bitAt off i := by
  unfold State.bitAt
  rw [h]

theorem goodSpares_lt {s : State} {b k : Nat} (h : k ∈ goodSpares s b) : k < 4 := by
  have := seqFrom_bounds (List.mem_filter.mp h).1
  omega

theorem setSpare_reg_ne (s : State) {b off : Nat} (k : Nat) (good inUse bad : Bool) (h : off ≠ Reg.SPARE_STATE b) :
    (setSpare s b k good inUse bad).reg off = s.reg off := by
  simp only [setSpare, reg_setBit, if_neg h]

theorem setSpare_good (s : State) (b : Nat) {k : Nat} (good inUse bad : Bool) (hk : k < 4) :
    (setSpare s b k good inUse bad).bitAt (Reg.SPARE_STATE b) k = good := by
  unfold setSpare
  rw [bitAt_setBit _ _ _ _ _ _ (by omega), if_neg (by omega), bitAt_setBit _ _ _ _ _ _ (by omega), if_neg (by omega),
    bitAt_setBit _ _ _ _ _ _ (by omega), if_pos ⟨rfl, rfl⟩]

theorem setSpare_inUse (s : State) (b : Nat) {k : Nat} (good inUse bad : Bool) (hk : k < 4) :
    (setSpare s b k good inUse bad).bitAt (Reg.SPARE_STATE b) (4 + k) = inUse := by
  unfold setSpare
  rw [bitAt_setBit _ _ _ _ _ _ (by omega), if_neg (by omega), bitAt_setBit _ _ _ _ _ _ (by omega), if_pos ⟨rfl, rfl⟩]

/-- A logical tile mapped to a spare runs on that spare of its bay. -/
theorem physOf_mapTile_spare (s : State) {t k : Nat} (ht : t < 512) (hk : k < 4) :
    physOf (mapTile s t (some k)) t = t / 64 * 68 + 64 + k := by
  simp only [physOf, State.fieldAt, mapTile, reg_setReg_same, fld, bits, BitVec.toNat_ofNat, Nat.shiftRight_zero]
  omega

theorem mapTile_reg_ne (s : State) {t off : Nat} (k : Nat) (h : off ≠ Reg.TILE_MAP t) : (mapTile s t (some k)).reg off = s.reg off :=
  reg_setReg_ne _ _ h

/-- The spare that served a tile until now marked FAILED. -/
def failServing (s : State) (t : Nat) : State :=
  match spareOf s t with
  | some j => setSpare s (t / 64) j false false true
  | none => s

theorem failServing_reg_ne (s : State) {t off : Nat} (h : off ≠ Reg.SPARE_STATE (t / 64)) : (failServing s t).reg off = s.reg off := by
  unfold failServing
  split
  · exact setSpare_reg_ne s _ _ _ _ h
  · rfl

/-- Good spare `k` taken by a tile: IN_USE, and on the tile's place in the map. -/
def takeSpare (s : State) (t k : Nat) : State := mapTile (setSpare (failServing s t) (t / 64) k false true false) t (some k)

theorem replaceTile_of_spare {s : State} {t k : Nat} {rest : List Nat} (h : goodSpares s (t / 64) = k :: rest) :
    replaceTile s t = some (takeSpare s t k) := by
  simp only [replaceTile, h]
  rfl

theorem replaceTile_of_noSpare {s : State} {t : Nat} (h : goodSpares s (t / 64) = []) : replaceTile s t = none := by
  simp only [replaceTile, h]

theorem takeSpare_reg_ne (s : State) {t off : Nat} (k : Nat) (hmap : off ≠ Reg.TILE_MAP t) (hspare : off ≠ Reg.SPARE_STATE (t / 64)) :
    (takeSpare s t k).reg off = s.reg off :=
  (mapTile_reg_ne _ k hmap).trans ((setSpare_reg_ne _ k _ _ _ hspare).trans (failServing_reg_ne s hspare))

/-- The spare taken is no more GOOD but IN_USE. -/
theorem takeSpare_spareState (s : State) {t k : Nat} (ht : t < 512) (hk : k < 4) :
    (takeSpare s t k).bitAt (Reg.SPARE_STATE (t / 64)) k = false ∧ (takeSpare s t k).bitAt (Reg.SPARE_STATE (t / 64)) (4 + k) = true := by
  have hreg := mapTile_reg_ne (setSpare (failServing s t) (t / 64) k false true false) k (tileMap_ne_spareState (t / 64) ht).symm
  exact ⟨(bitAt_congr hreg _).trans (setSpare_good _ _ _ _ _ hk), (bitAt_congr hreg _).trans (setSpare_inUse _ _ _ _ _ hk)⟩

theorem physOf_takeSpare_ne (s : State) {t u : Nat} (k : Nat) (hu : u < 512) (hne : u ≠ t) : physOf (takeSpare s t k) u = physOf s u :=
  physOf_congr (takeSpare_reg_ne s k (tileMap_ne hne) (tileMap_ne_spareState _ hu))

/-! ## Tile faults (R373) -/

/-- A tile's remap shown: RAS_EVENT, the counter, the log. -/
def noteRemapped (s : State) (t : Nat) : State :=
  logTimed ((setStatus s Reg.RAS_EVENT 4).count Reg.RAS_TILE_REMAPS 1) 0x0B (plainLog 4 (0x4000 + t) 0)

theorem noteRemapped_reg (s : State) (t : Nat) {off : Nat} (h : OutsideLog off) (hne : off ≠ Reg.RAS_TILE_REMAPS) :
    (noteRemapped s t).reg off = s.reg off := by
  rw [noteRemapped, logTimed_reg _ _ _ h, reg_count, if_neg hne, rasEvent_reg s 4 h]

theorem noteRemapped_count (s : State) (t : Nat) :
    ((noteRemapped s t).reg Reg.RAS_TILE_REMAPS).toNat = satAdd32 (s.reg Reg.RAS_TILE_REMAPS).toNat 1 := by
  rw [noteRemapped, logTimed_reg _ _ _ outsideLog_rasTileRemaps, toNat_count, rasEvent_reg s 4 outsideLog_rasTileRemaps]

theorem noteRemapped_rasEvent (s : State) (t : Nat) : (noteRemapped s t).bitAt Reg.RAS_EVENT 4 = true := by
  have hcount : ((setStatus s Reg.RAS_EVENT 4).count Reg.RAS_TILE_REMAPS 1).reg Reg.RAS_EVENT = (setStatus s Reg.RAS_EVENT 4).reg Reg.RAS_EVENT :=
    reg_setReg_ne _ _ (by decide)
  rw [noteRemapped, logTimed_rasEvent _ _ _ (by decide) (by decide), bitAt_congr hcount, rasEvent_bitAt s (by decide)]

theorem onTile_regs (s : State) (t : Nat) (f : Entry → Entry) : (onTile s t f).regs = s.regs := rfl

/-- Where replay is on and a good spare is left, a fault remaps the tile and changes only the commands beside. -/
theorem faultTile_of_spare {s : State} {t k : Nat} {rest : List Nat} (hpolicy : s.bitAt Reg.RAS_POLICY 1 = true)
    (h : goodSpares s (t / 64) = k :: rest) :
    faultTile s t = onTile (noteRemapped (takeSpare s t k) t) t (fun e => { e with notes := e.notes ||| 12, replays := e.replays + 1 }) := by
  have hremap : remapTile s t = some (noteRemapped (takeSpare s t k) t) := by rw [remapTile, replaceTile_of_spare h]; rfl
  simp only [faultTile, if_pos hpolicy, hremap]

/-- Where replay is off or no spare is left, a fault stops the tile. -/
theorem faultTile_of_noSpare {s : State} {t : Nat} (h : s.bitAt Reg.RAS_POLICY 1 = false ∨ goodSpares s (t / 64) = []) :
    faultTile s t = loseTile s t := by
  unfold faultTile
  split
  · next hpolicy =>
    have hremap : remapTile s t = none := by
      rw [remapTile, replaceTile_of_noSpare (h.resolve_left (by simp [hpolicy]))]
      rfl
    rw [hremap]
  · rfl

/-- What the registers show of a tile remapped. -/
theorem remapped_of_regs {s u : State} {t k : Nat} {rest : List Nat} (hregs : u.regs = (faultTile s t).regs) (ht : t < 512)
    (hpolicy : s.bitAt Reg.RAS_POLICY 1 = true) (h : goodSpares s (t / 64) = k :: rest) :
    physOf u t = t / 64 * 68 + 64 + k ∧ u.bitAt (Reg.SPARE_STATE (t / 64)) k = false ∧
      u.bitAt (Reg.SPARE_STATE (t / 64)) (4 + k) = true ∧ u.bitAt Reg.RAS_EVENT 4 = true ∧
      (u.reg Reg.RAS_TILE_REMAPS).toNat = satAdd32 (s.reg Reg.RAS_TILE_REMAPS).toNat 1 ∧
      ∀ v, v < 512 → v ≠ t → physOf u v = physOf s v := by
  have hk : k < 4 := goodSpares_lt (h ▸ List.mem_cons_self ..)
  have hbay : t / 64 < 8 := by omega
  have hreg (off : Nat) : u.reg off = (noteRemapped (takeSpare s t k) t).reg off := by
    rw [faultTile_of_spare hpolicy h, onTile_regs] at hregs
    exact reg_congr hregs off
  have hmap {v : Nat} (hv : v < 512) : physOf u v = physOf (takeSpare s t k) v :=
    physOf_congr ((hreg _).trans (noteRemapped_reg _ _ (outsideLog_tileMap hv) (rasTileRemaps_ne_of_lt (tileMap_lt hv)).symm))
  have hspare (i : Nat) : u.bitAt (Reg.SPARE_STATE (t / 64)) i = (takeSpare s t k).bitAt (Reg.SPARE_STATE (t / 64)) i :=
    bitAt_congr ((hreg _).trans (noteRemapped_reg _ _ (outsideLog_spareState hbay) (rasTileRemaps_ne_of_lt (spareState_lt hbay)).symm)) i
  have hcount := takeSpare_reg_ne s k (rasTileRemaps_ne_of_lt (tileMap_lt ht)) (rasTileRemaps_ne_of_lt (spareState_lt hbay))
  obtain ⟨hgood, hinUse⟩ := takeSpare_spareState s ht hk
  refine ⟨(hmap ht).trans (physOf_mapTile_spare _ ht hk), (hspare _).trans hgood, (hspare _).trans hinUse, ?_, ?_, ?_⟩
  · exact (bitAt_congr (hreg _) _).trans (noteRemapped_rasEvent ..)
  · rw [hreg, noteRemapped_count, hcount]
  · exact fun v hv hne => (hmap hv).trans (physOf_takeSpare_ne s k hv hne)

theorem loseTile_deadTiles (s : State) (t : Nat) : t ∈ (loseTile s t).power.deadTiles := by
  simp only [loseTile, logTimed_power]
  split
  · next hdead => exact List.contains_iff_mem.mp hdead
  · exact List.mem_append_right _ (List.mem_singleton_self t)

theorem loseTile_rasEvent (s : State) (t : Nat) : (loseTile s t).bitAt Reg.RAS_EVENT 5 = true :=
  (logTimed_rasEvent _ _ _ (by decide) (by decide)).trans (rasEvent_bitAt s (by decide))

theorem loseTile_reg (s : State) (t : Nat) {off : Nat} (h : OutsideLog off) : (loseTile s t).reg off = s.reg off :=
  (logTimed_reg _ _ _ h).trans (rasEvent_reg s 5 h)

/-- A command that has finished stands in no queue. -/
theorem queuedOn_of_finished {t : Nat} {e : Entry} {o : Done} (h : e.phase = .finished o) : queuedOn t e = false := by
  simp [queuedOn, inQueues, h]

/-- No command is left with an operation in a queue of a tile that is lost. -/
theorem loseTile_entries {s : State} {t : Nat} {e : Entry} (h : e ∈ (loseTile s t).entries) : queuedOn t e = false := by
  rw [loseTile, logTimed_entries] at h
  obtain ⟨e0, -, rfl⟩ := List.mem_map.mp h
  split
  · exact queuedOn_of_finished rfl
  · next hfree => exact Bool.eq_false_iff.mpr hfree

/-- Settles O36: the records merged while the due ones are written are of the present interval, and the spare map is outside what the
error log and RAS_EVENT change. -/
theorem faultsBelowTheCommandsAreHandled : Obligations.FaultsBelowTheCommandsAreHandled := by
  unfold Obligations.FaultsBelowTheCommandsAreHandled
  intro s
  refine ⟨fun bay n hlow hhigh => ?_, fun time => ?_, fun tile hbay hlive => ⟨fun k rest hpolicy hspares => ?_, fun hlost => ?_⟩⟩
  · have hresend : resendMesh bay.val n s = logMerged s 4 (plainLog 3 (0x7000 + bay.val) 0) := if_pos ⟨hlow, hhigh⟩
    rw [exec_meshFlitResend]
    exact ⟨_, act_eq_of_eq (hresend.trans (logMerged_eq ..)) rfl rfl rfl, rfl, exists_mem_logMerged ..⟩
  · obtain ⟨t, hnext, hnow, hmerged, hmem⟩ := actAt_fields time flushMerged s
    obtain ⟨-, hsince⟩ := mergedSince_flushMerged (passTime s time)
    refine ⟨t, hnext, hnow, hmerged ▸ hsince, fun hclean => ?_, fun hnolog => ?_⟩
    · exact hmerged.trans (flushMerged_merged_clean (s := passTime s time) hclean)
    · rw [hmem, flushMerged_of_noLog ((errlogSize_passTime s time).trans hnolog)]
      rfl
  · obtain ⟨t, hnext, hregs, -, -⟩ := act_fields (fun s => faultTile s tile.val) s
    rw [exec_tileFault_of_live hbay hlive]
    exact ⟨t, hnext, remapped_of_regs hregs tile.isLt hpolicy hspares⟩
  · obtain ⟨t, hnext, hregs, hpower, hentries⟩ := act_fields (fun s => faultTile s tile.val) s
    simp only [faultTile_of_noSpare hlost] at hregs hpower hentries
    rw [exec_tileFault_of_live hbay hlive]
    refine ⟨t, hnext, hpower ▸ loseTile_deadTiles .., ?_, fun u hu => ?_, fun e he => loseTile_entries (hentries ▸ he)⟩
    · exact (bitAt_congr (reg_congr hregs _) _).trans (loseTile_rasEvent ..)
    · exact physOf_congr ((reg_congr hregs _).trans (loseTile_reg s _ (outsideLog_tileMap hu)))

end Sys2Proof.Machine
end

section
/-! PROOFS. The rings' registers, the grant of a ring, and the comparison of wait conditions (R31, R34, R36, R40, R42, R63, R426). -/

namespace Sys2Proof.Machine

open Sys2Proof

/-! ## Rows -/

theorem exec_doorbell (r : Fin 16) (v : Word) (s : State) : exec (.doorbell r v) s = act (whenReady (ringDoorbell r.val v)) s := rfl

theorem exec_cplHeadWrite (r : Fin 16) (v : Word) (s : State) :
    exec (.cplHeadWrite r v) s = act (whenReady (writeCplHead r.val v)) s := rfl

theorem exec_addrErrClear (r : Fin 16) (s : State) :
    exec (.addrErrClear r) s = act (whenReady (fun s => clearStatus s (Reg.RING_STATUS r.val) 7)) s := rfl

theorem exec_formatErrClear (r : Fin 16) (s : State) :
    exec (.formatErrClear r) s = act (whenReady (fun s => clearStatus s (Reg.RING_STATUS r.val) 5)) s := rfl

theorem exec_switchRefusedClear (r : Fin 16) (s : State) :
    exec (.switchRefusedClear r) s = act (whenReady (fun s => clearStatus s (Reg.RING_STATUS r.val) 10)) s := rfl

/-- A row whose effect changes registers only answers that effect. -/
theorem act_of_regsOnly {f : State → State} {s : State} {offs : List Nat} (h : RegsOnly offs s (f s)) : act f s = .next (f s) := by
  obtain ⟨heq, -⟩ := h
  exact act_eq (by rw [heq]) (by rw [heq]) (by rw [heq])

/-- The same of a row that is served once Soloc is ready. -/
theorem act_whenReady_of_regsOnly {f : State → State} {s : State} {offs : List Nat} (hready : solocReady s = true)
    (h : RegsOnly offs s (f s)) : act (whenReady f) s = .next (f s) := by
  rw [← whenReady_true (f := f) hready] at h ⊢
  exact act_of_regsOnly h

/-! ## One field or one bit of a register -/

theorem regsOnly_refl (offs : List Nat) (s : State) : RegsOnly offs s s := ⟨rfl, fun _ _ => rfl⟩

theorem regsOnly_setReg (s : State) (off : Nat) (w : Word) : RegsOnly [off] s (s.setReg off w) :=
  ⟨rfl, fun _ hj => reg_setReg_ne s w (List.ne_of_not_mem_cons hj)⟩

theorem regsOnly_setField (s : State) (off hi lo v : Nat) : RegsOnly [off] s (s.setField off hi lo v) := regsOnly_setReg ..

theorem regsOnly_setBit (s : State) (off i : Nat) (b : Bool) : RegsOnly [off] s (s.setBit off i b) := regsOnly_setReg ..

/-- A field takes what fits it of the value written. -/
theorem fieldTakes_setField_mod (s : State) (off : Nat) {hi : Nat} (lo v : Nat) (hhi : hi < 32) :
    FieldTakes off hi lo (v % 2 ^ (hi + 1 - lo)) s (s.setField off hi lo v) := by
  refine ⟨fieldAt_setField s off hi lo v hhi, fun i hi32 hout => ?_⟩
  rw [bitAt_setField _ _ _ _ _ _ _ hi32, if_neg fun h => hout h.2]

/-- A value that fits its field is the field once it is written. -/
theorem fieldTakes_setField (s : State) (off : Nat) {hi lo v : Nat} (hhi : hi < 32) (hv : v < 2 ^ (hi + 1 - lo)) :
    FieldTakes off hi lo v s (s.setField off hi lo v) := by
  have h := fieldTakes_setField_mod s off lo v hhi
  rwa [Nat.mod_eq_of_lt hv] at h

theorem bitTakes_setBit (s : State) (off : Nat) {i : Nat} (b : Bool) (hi : i < 32) : BitTakes off i b s (s.setBit off i b) := by
  refine ⟨by simp [bitAt_setBit _ _ _ _ _ _ hi], fun j hj hne => ?_⟩
  rw [bitAt_setBit _ _ _ _ _ _ hj, if_neg fun h => hne h.2]

/-- What a field takes depends on its register alone. -/
theorem FieldTakes.congr {off hi lo v : Nat} {s t s' t' : State} (h : FieldTakes off hi lo v s t) (hs : s'.reg off = s.reg off)
    (ht : t'.reg off = t.reg off) : FieldTakes off hi lo v s' t' := by
  unfold FieldTakes State.fieldAt State.bitAt at h ⊢
  rwa [hs, ht]

theorem BitTakes.congr {off i : Nat} {b : Bool} {s t s' t' : State} (h : BitTakes off i b s t) (hs : s'.reg off = s.reg off)
    (ht : t'.reg off = t.reg off) : BitTakes off i b s' t' := by
  unfold BitTakes State.bitAt at h ⊢
  rwa [hs, ht]

/-- RING_STATUS owns no level source. -/
theorem sourceOf_ringStatus {n : Nat} (b : Nat) (h : n < 16) : sourceOf (Reg.RING_STATUS n) b = none := by
  unfold sourceOf Reg.RING_STATUS Reg.RAS_EVENT Reg.HOST_EVENT Reg.POWER_EVENT Reg.SEC_EVENT Reg.MGMT_EVENT
  iterate 7 rw [if_neg]
  all_goals omega

/-- A status bit that is cleared and owns no source: its register changes, and nothing else. -/
theorem clearStatus_takes (s : State) {off i : Nat} (hi : i < 32) (hsource : sourceOf off i = none) :
    RegsOnly [off] s (clearStatus s off i) ∧ BitTakes off i false s (clearStatus s off i) := by
  unfold clearStatus
  split
  · rw [hsource]
    exact ⟨regsOnly_setBit .., bitTakes_setBit s off false hi⟩
  · next hclear => exact ⟨regsOnly_refl .., Bool.eq_false_iff.mpr hclear, fun _ _ _ => rfl⟩

/-! ## Doorbells (R31, R38) -/

/-- A ring's index is a field of 12 bits. -/
theorem fld_mod_lt (v : Word) (n : Nat) : fld v 11 0 % n < 2 ^ (11 + 1 - 0) := (Nat.mod_le _ _).trans_lt (fld_lt v 11 0)

theorem ringDoorbell_of_valid {s : State} {n : Nat} {v : Word} (h : doorbellValid s n v) :
    ringDoorbell n v s = s.setField (Reg.RING_TAIL n) 11 0 (newTail s n v) := by
  obtain ⟨hremote, hactive, hadvance⟩ := h
  have hfree : ¬ ringFree s n < tailAdvance s n v := Nat.not_lt.mpr hadvance
  simp only [tailAdvance, newTail] at hfree
  simp [ringDoorbell, hremote, hactive, hfree, newTail]

theorem ringDoorbell_of_not_valid {s : State} {n : Nat} {v : Word} (h : ¬ doorbellValid s n v) :
    ringDoorbell n v s = s.setBit (Reg.RING_STATUS n) 4 true := by
  refine if_pos ?_
  by_contra hc
  simp only [Bool.or_eq_true, Bool.not_eq_true', decide_eq_true_eq, not_or, Bool.not_eq_true, Bool.not_eq_false, Nat.not_lt] at hc
  obtain ⟨⟨hremote, hactive⟩, hadvance⟩ := hc
  exact h ⟨hremote, hactive, hadvance⟩

/-- Settles O8: the row has the two branches of the statement, and neither looks at the tags held. -/
theorem doorbellMovesTailOrSetsTailErr : Obligations.DoorbellMovesTailOrSetsTailErr := by
  unfold Obligations.DoorbellMovesTailOrSetsTailErr
  simp only [exec_doorbell]
  intro s r v hready
  refine ⟨fun hvalid => ?_, fun hinvalid => ?_⟩
  · have heq := ringDoorbell_of_valid hvalid
    have honly : RegsOnly _ s (ringDoorbell r.val v s) := heq ▸ regsOnly_setField ..
    exact ⟨_, act_whenReady_of_regsOnly hready honly, honly, heq ▸ fieldTakes_setField s _ (by decide) (fld_mod_lt v _)⟩
  · have heq := ringDoorbell_of_not_valid hinvalid
    have honly : RegsOnly _ s (ringDoorbell r.val v s) := heq ▸ regsOnly_setBit ..
    exact ⟨_, act_whenReady_of_regsOnly hready honly, honly, heq ▸ bitTakes_setBit s _ true (by decide)⟩

/-- Settles O9: each row changes one field or one bit of one register. -/
theorem cplHeadAndRingErrorBitsAreWritten : Obligations.CplHeadAndRingErrorBitsAreWritten := by
  unfold Obligations.CplHeadAndRingErrorBitsAreWritten
  simp only [exec_cplHeadWrite, exec_addrErrClear, exec_formatErrClear, exec_switchRefusedClear]
  intro s r v hready
  have hcleared {i : Nat} (hi : i < 32) : ∃ t, act (whenReady (fun s => clearStatus s (Reg.RING_STATUS r.val) i)) s = .next t ∧
      RegsOnly [Reg.RING_STATUS r.val] s t ∧ BitTakes (Reg.RING_STATUS r.val) i false s t := by
    obtain ⟨honly, htakes⟩ := clearStatus_takes s hi (sourceOf_ringStatus i r.isLt)
    exact ⟨_, act_whenReady_of_regsOnly hready honly, honly, htakes⟩
  refine ⟨?_, hcleared (by decide), hcleared (by decide), hcleared (by decide)⟩
  have honly : RegsOnly [Reg.CPL_HEAD r.val] s (writeCplHead r.val v s) := regsOnly_setField ..
  exact ⟨_, act_whenReady_of_regsOnly hready honly, honly, fieldTakes_setField s _ (by decide) (fld_mod_lt v _)⟩

/-! ## The grant (R34) -/

theorem mem_seqFrom {x : Nat} : ∀ {n a : Nat}, x ∈ seqFrom a n ↔ a ≤ x ∧ x < a + n
  | 0, a => by simp [seqFrom]
  | n + 1, a => by rw [seqFrom, List.mem_cons, mem_seqFrom]; omega

/-- The first of consecutive numbers at which a function answers: it answers at none before. -/
theorem findSome?_seqFrom {α : Type} {f : Nat → Option α} {x : α} : ∀ {n a : Nat}, (seqFrom a n).findSome? f = some x →
    ∃ p, f p = some x ∧ ∀ q, a ≤ q → q < p → f q = none
  | 0, _, h => by cases h
  | n + 1, a, h => by
    rw [seqFrom, List.findSome?_cons] at h
    split at h
    · next hfound => exact ⟨a, hfound.trans h, fun q hge hlt => absurd hlt (Nat.not_lt.mpr hge)⟩
    · next hnone =>
      obtain ⟨p, hp, hbefore⟩ := findSome?_seqFrom h
      refine ⟨p, hp, fun q hge hlt => ?_⟩
      rcases Nat.eq_or_lt_of_le hge with rfl | hgt
      · exact hnone
      · exact hbefore q hgt hlt

/-- A round of the rings reaches every ring, wherever it starts. -/
theorem mem_round {m : Nat} (start : Nat) (h : m < 16) : m ∈ (seqFrom 0 16).map (fun i => (start + i) % 16) :=
  List.mem_map.mpr ⟨(m + 16 - start % 16) % 16, mem_seqFrom.mpr (by omega), by omega⟩

/-- Settles O10: the search goes by priority, and the round of a priority reaches every ring. -/
theorem grantGoesToLowestPriority : Obligations.GrantGoesToLowestPriority := by
  unfold Obligations.GrantGoesToLowestPriority
  intro s n h
  obtain ⟨p, hp, hbefore⟩ := findSome?_seqFrom h
  have hfound := List.find?_some hp
  simp only [Bool.and_eq_true, decide_eq_true_eq, List.contains_iff_mem, List.mem_filter, mem_seqFrom] at hfound
  obtain ⟨⟨⟨-, hn⟩, hpacket, htag⟩, hprio⟩ := hfound
  refine ⟨by omega, hpacket, htag, fun m hm hmpacket hmtag => ?_⟩
  by_contra hlower
  have hnone := List.find?_eq_none.mp (hbefore (s.fieldAt (Reg.RING_PRIO m) 2 0) (Nat.zero_le _) (by omega)) m (mem_round _ hm)
  simp [mem_seqFrom, hm, hmpacket, hmtag] at hnone

/-! ## Wait conditions (R42) -/

/-- Settles O18: adding 2^32 before the difference is taken modulo 2^32 keeps it from being cut off at 0. -/
theorem waitConditionsCompareModulo : Obligations.WaitConditionsCompareModulo := by
  unfold Obligations.WaitConditionsCompareModulo
  intro v th hv hth
  refine ⟨?_, by simp [condHolds]⟩
  simp only [condHolds, if_true, decide_eq_true_eq]
  omega

end Sys2Proof.Machine
end

section
/-! PROOFS. Event counters written and signalled: waits, watches and the remote signal (R43, R45, R46, R273, R274). -/

namespace Sys2Proof.Machine

open Sys2Proof

theorem exec_evcValueWrite (c : Fin 4096) (v : Word) (s : State) :
    exec (.evcValueWrite c v) s = act (whenReady (fun s => setCounter s c.val v.toNat)) s := rfl

theorem exec_evcAddWrite (c : Fin 4096) (v : Word) (s : State) :
    exec (.evcAddWrite c v) s = act (whenReady (fun s => addCounter s c.val v.toNat)) s := rfl

theorem exec_evcWatchWrite (w : Fin 64) (threshold : Bool) (v : Word) (s : State) :
    exec (.evcWatchWrite w threshold v) s = act (whenReady (writeWatch w.val threshold v)) s := rfl

theorem exec_signalMessage (h : MsgHead) (c k sender : Nat) (s : State) :
    exec (.signalMessage h c k sender) s = act (onMessage h 3 (fun s => sendAck (addCounter s (c % 4096) k) h)) s := rfl

/-! ## Requests stay pending until they are claimed (R329) -/

theorem pendingReg_ne_coalStatus {i : Nat} (v : Nat) (h : i < 32) : Reg.IRQ_PENDING i ≠ Reg.VEC_COAL_STATUS v := by
  unfold Reg.IRQ_PENDING Reg.VEC_COAL_STATUS; omega

theorem pendingReg_ne_pba {i : Nat} (v : Nat) (h : i < 32) : Reg.IRQ_PENDING i ≠ Reg.MSIX_PBA v := by
  unfold Reg.IRQ_PENDING Reg.MSIX_PBA; omega

/-- A message sent for a vector, or owed, leaves what is pending. -/
theorem sendMsix_pendingReg (s : State) (v : Nat) {i : Nat} (h : i < 32) :
    (sendMsix s v).reg (Reg.IRQ_PENDING i) = s.reg (Reg.IRQ_PENDING i) := by
  unfold sendMsix
  split <;> exact reg_setReg_ne s _ (pendingReg_ne_pba _ h)

theorem resetVector_pendingReg (s : State) (v : Nat) {i : Nat} (h : i < 32) :
    (resetVector s v).reg (Reg.IRQ_PENDING i) = s.reg (Reg.IRQ_PENDING i) := reg_setReg_ne s _ (pendingReg_ne_coalStatus v h)

theorem fireVector_pendingReg (s : State) (v : Nat) {i : Nat} (h : i < 32) :
    (fireVector s v).reg (Reg.IRQ_PENDING i) = s.reg (Reg.IRQ_PENDING i) := by
  unfold fireVector
  split
  · exact (sendMsix_pendingReg _ v h).trans (resetVector_pendingReg s v h)
  · exact resetVector_pendingReg s v h

theorem owe_pendingReg (s : State) (id : Nat) {i : Nat} (h : i < 32) :
    (owe s id).reg (Reg.IRQ_PENDING i) = s.reg (Reg.IRQ_PENDING i) := by
  have hne := pendingReg_ne_coalStatus (i := i) (fld (srcCfg s id) 21 16) h
  have hset (u : State) (w w2 : Word) : ((u.setReg (Reg.VEC_COAL_STATUS (fld (srcCfg s id) 21 16)) w).setReg
      (Reg.VEC_COAL_STATUS (fld (srcCfg s id) 21 16)) w2).reg (Reg.IRQ_PENDING i) = u.reg (Reg.IRQ_PENDING i) :=
    (reg_setReg_ne _ _ hne).trans (reg_setReg_ne _ _ hne)
  unfold owe
  simp only
  split
  · exact fireVector_pendingReg s _ h
  · split
    · exact hset s _ _
    · exact hset s _ _

/-- After a request its source is pending, and so is every source that was. -/
theorem isPending_request (s : State) (id : Nat) {j : Nat} (hj : j < 1024) :
    isPending (request s id) j = (isPending s j || (decide (j = id) && srcAssigned id)) := by
  unfold request
  split
  · next hassigned =>
    have hbit : isPending (setPending s id true) j = (isPending s j || decide (j = id)) := by
      unfold isPending setPending
      rw [bitAt_setBit _ _ _ _ _ _ (Nat.mod_lt _ (by decide))]
      have hplace : (Reg.IRQ_PENDING (j / 32) = Reg.IRQ_PENDING (id / 32) ∧ j % 32 = id % 32) ↔ j = id := by
        unfold Reg.IRQ_PENDING; omega
      simp only [hplace]
      by_cases h : j = id <;> simp [h]
    have howe : isPending (owe (setPending s id true) id) j = isPending (setPending s id true) j :=
      bitAt_congr (owe_pendingReg _ id (by omega)) _
    simp only
    split <;> simp [hbit, howe, hassigned]
  · next hnot => simp [hnot]

/-- Requests one after another leave pending what they found pending, and each of their sources. -/
theorem isPending_requests {j : Nat} (hj : j < 1024) (hassigned : srcAssigned j = true) : ∀ (l : List Nat) (s : State),
    isPending s j = true ∨ j ∈ l → isPending (l.foldl request s) j = true
  | [], s, h => h.resolve_right List.not_mem_nil
  | id :: l, s, h => by
    refine isPending_requests hj hassigned l (request s id) ?_
    rw [isPending_request s id hj]
    rcases h with h | h
    · simp [h]
    · rcases List.mem_cons.mp h with rfl | h
      · simp [hassigned]
      · exact Or.inr h

/-! ## Waits and watches look at the counters' registers (R43, R45) -/

theorem block_watchCfg {w : Nat} (h : w < 64) : irqReg (Reg.EVC_WATCH_CFG w) = false := by
  have h1 : blockOf (Reg.EVC_WATCH_CFG w) = 15 := by unfold blockOf Reg.EVC_WATCH_CFG; omega
  simp [irqReg, h1]

theorem block_watchThresh {w : Nat} (h : w < 64) : irqReg (Reg.EVC_WATCH_THRESH w) = false := by
  have h1 : blockOf (Reg.EVC_WATCH_THRESH w) = 15 := by unfold blockOf Reg.EVC_WATCH_THRESH; omega
  simp [irqReg, h1]

/-- A watch's condition depends on the registers outside the interrupt controller. -/
theorem watchTrue_congr {s t : State} (h : ∀ off, irqReg off = false → t.reg off = s.reg off) {w : Nat} (hw : w < 64) :
    watchTrue t w = watchTrue s w := by
  simp only [watchTrue, counter]
  rw [h _ (block_watchCfg hw), h _ (block_watchThresh hw), h _ (block_evc (fld_lt _ 11 0))]

theorem wait_counter_lt {p : List Byte} {w : WaitCond} (h : w ∈ pktWaits p) : w.counter < 4096 := by
  obtain ⟨i, -, rfl⟩ := List.mem_map.mp h
  exact Nat.mod_lt _ (by decide)

/-- Whether a packet's conditions hold depends on the counters alone. -/
theorem waitsHold_congr {s t : State} (h : ∀ d, d < 4096 → counter t d = counter s d) (p : List Byte) : waitsHold t p = waitsHold s p := by
  rw [Bool.eq_iff_iff, waitsHold, waitsHold, List.all_eq_true, List.all_eq_true]
  exact forall₂_congr fun w hw => by unfold waitHolds; rw [h _ (wait_counter_lt hw)]

theorem counter_congr {s t : State} {d : Nat} (h : t.reg (Reg.EVC_VALUE d) = s.reg (Reg.EVC_VALUE d)) : counter t d = counter s d := by
  unfold counter; rw [h]

theorem fireWatches_foldl (s t : State) : fireWatches s t =
    (((seqFrom 0 64).filter (fun w => watchTrue t w && !watchTrue s w)).map (64 + ·)).foldl request t := by
  rw [List.foldl_map]; rfl

/-- Every watch whose condition became true is pending. -/
theorem isPending_fireWatches {s t : State} {w : Nat} (hw : w < 64) (hnew : watchTrue t w = true) (hold : watchTrue s w = false) :
    isPending (fireWatches s t) (64 + w) = true := by
  rw [fireWatches_foldl]
  refine isPending_requests (by omega) (by simp [srcAssigned]; omega) _ t (Or.inr ?_)
  exact List.mem_map.mpr ⟨w, List.mem_filter.mpr ⟨mem_seqFrom.mpr (by omega), by simp [hnew, hold]⟩, rfl⟩

/-- The same, seen from a state that differs only in what the interrupt controller holds. -/
theorem isPending_of_watch {s t u : State} (hpending : ∀ id, isPending u id = isPending (fireWatches s t) id)
    (hreg : ∀ off, irqReg off = false → u.reg off = (fireWatches s t).reg off) {w : Nat} (hw : w < 64) (hnew : watchTrue u w = true)
    (hold : watchTrue s w = false) : isPending u (64 + w) = true := by
  rw [hpending]
  refine isPending_fireWatches hw ?_ hold
  rw [← hnew]
  exact (watchTrue_congr (fun off hoff => (hreg off hoff).trans ((fireWatches_only s t).2 off hoff)) hw).symm

/-! ## A counter changed (R43, R45) -/

/-- The commands that a change of a counter wakes. -/
theorem setCounter_entries (s : State) (c v : Nat) : (setCounter s c v).entries =
    s.entries.map (fun e => if e.phase = .waiting && waitsHold (setCounter s c v) e.pkt then { e with phase := .ready } else e) := by
  show (fireWatches s (s.setReg (Reg.EVC_VALUE c) (BitVec.ofNat 32 v))).entries.map _ = _
  rw [(fireWatches_only s _).1]
  rfl

/-- The watches that a change of a counter fires. -/
theorem setCounter_pending (s : State) (c v : Nat) {w : Nat} (hw : w < 64) (hnew : watchTrue (setCounter s c v) w = true)
    (hold : watchTrue s w = false) : isPending (setCounter s c v) (64 + w) = true :=
  isPending_of_watch (fun _ => rfl) (fun _ _ => rfl) hw hnew hold

/-- What a write of a counter's register by the host, which sets it to a value, leaves. -/
theorem setCounter_act {f : State → State} {s : State} {c n : Nat} (hready : solocReady s = true) (hc : c < 4096)
    (hf : f s = setCounter s c n) :
    ∃ t, act (whenReady f) s = .next t ∧ counter t c = n % 2 ^ 32 ∧ (∀ d, d < 4096 → d ≠ c → counter t d = counter s d) ∧
      t = { s with regs := t.regs, irq := t.irq, entries := t.entries } ∧
      t.entries = s.entries.map (fun e => if e.phase = .waiting && waitsHold t e.pkt then { e with phase := .ready } else e) ∧
      (∀ w, w < 64 → watchTrue t w = true → watchTrue s w = false → isPending t (64 + w) = true) ∧
      ∀ off, off ≠ Reg.EVC_VALUE c → irqReg off = false → t.reg off = s.reg off := by
  have heq := (whenReady_true (f := f) hready).trans hf
  have hframe := setCounter_eq s c n
  refine ⟨setCounter s c n, act_eq_of_eq heq (by rw [hframe]) (by rw [hframe]) (by rw [hframe]), ?_, fun d hd hne => ?_, hframe,
    setCounter_entries s c n, fun w hw => setCounter_pending s c n hw, fun off hoff hirq => setCounter_reg s c n off hoff hirq⟩
  · rw [counter_setCounter s n c hc hc, if_pos rfl]
  · rw [counter_setCounter s n d hc hd, if_neg hne]

/-- A write of a watch's register: it, and the interrupt controller. -/
theorem writeWatch_eq (s : State) {w : Nat} (threshold : Bool) (v : Word) {off : Nat}
    (h : off = if threshold then Reg.EVC_WATCH_THRESH w else Reg.EVC_WATCH_CFG w) :
    writeWatch w threshold v s = fireWatches s (s.setReg off (writeFields .rw (fieldsOf off) (s.reg off) v)) := by
  subst h; rfl

theorem irqReg_watch {w : Nat} (hw : w < 64) (threshold : Bool) :
    irqReg (if threshold then Reg.EVC_WATCH_THRESH w else Reg.EVC_WATCH_CFG w) = false := by
  split
  · exact block_watchThresh hw
  · exact block_watchCfg hw

/-- Settles O19: a counter's change and a watch's write both end by firing the watches, and requests only add to what is pending. -/
theorem counterWritesWakeWaitingCommands : Obligations.CounterWritesWakeWaitingCommands := by
  unfold Obligations.CounterWritesWakeWaitingCommands
  intro s c v hready
  refine ⟨fun i hi => ?_, fun w threshold off hoff => ?_⟩
  · rcases List.mem_cons.mp hi with rfl | hi
    · have h := setCounter_act (f := fun s => setCounter s c.val v.toNat) hready c.isLt rfl
      rwa [Nat.mod_eq_of_lt v.isLt] at h
    · rw [List.mem_singleton.mp hi]
      have h := setCounter_act (f := fun s => addCounter s c.val v.toNat) hready c.isLt rfl
      rwa [Nat.mod_mod] at h
  · have hirq : irqReg off = false := hoff ▸ irqReg_watch w.isLt threshold
    have heq := (whenReady_true (f := writeWatch w.val threshold v) hready).trans (writeWatch_eq s threshold v hoff)
    obtain ⟨hframe, hreg⟩ := fireWatches_only s (s.setReg off (writeFields .rw (fieldsOf off) (s.reg off) v))
    refine ⟨_, act_eq_of_eq heq (by rw [hframe]; rfl) (by rw [hframe]; rfl) (by rw [hframe]; rfl), ⟨?_, fun j hj hjirq => ?_⟩, ?_, ?_⟩
    · rw [hframe]; rfl
    · exact (hreg j hjirq).trans (reg_setReg_ne s _ (List.ne_of_not_mem_cons hj))
    · exact (hreg off hirq).trans (reg_setReg_same ..)
    · exact isPending_of_watch (fun _ => rfl) (fun _ _ => rfl) w.isLt

end Sys2Proof.Machine
end

section
/-! PROOFS. Messages of the command model: remote signals, the relay and remote packets (R37, R38, R273, R274, R280, R288, R289, R426). -/

namespace Sys2Proof.Machine

open Sys2Proof

/-- What a REFUSE message does to the relay that waits for it. -/
def relayRefused (h : MsgHead) (reason : Nat) (s : State) : State :=
  match s.fab.relayMsg with
  | some (dest, n) =>
    if relayBusy s && decide (dest = h.peer) then
      endRelay (dropSent s { peer := dest, tc := classOf .soloc, msg := n, resent := false }) 3 reason
    else s
  | none => s

/-- What an acknowledgement does to the message it names. -/
def messageAcked (acked : MsgHead) (answers : List (Ask × Answer)) (s : State) : State :=
  match s.fab.sent.find? (fun x => decide (acceptKey x.1 = acceptKey acked)) with
  | some x => acknowledge s acked x.2 answers
  | none => s

theorem exec_refuseMessage (h : MsgHead) (reason : Nat) (s : State) :
    exec (.refuseMessage h reason) s = act (onMessage h 5 (relayRefused h reason)) s := rfl

theorem exec_e2eAck (h acked : MsgHead) (answers : List (Ask × Answer)) (s : State) :
    exec (.e2eAck h acked answers) s = act (onMessage h 0xA (messageAcked acked answers)) s := rfl

theorem exec_relayGo (v : Word) (s : State) : exec (.relayGo v) s = act (whenReady (relayGo v)) s := rfl

theorem exec_relayTimeout (time : Nat) (s : State) : exec (.relayTimeout time) s = actAt time (fun s =>
    if relayBusy s && decide (s.fab.relayStart + 1000 * s.fieldAt Reg.CMD_TIMEOUT_MIN 19 0 ≤ s.now) then endRelay s 5 0 else s) s := rfl

theorem exec_solocMessage (h : MsgHead) (packet : List Byte) (s : State) : exec (.solocMessage h packet) s =
    act (fun s => if firstPacket s h packet then tryMessage h 4 (solocArrives h packet) s else s) s := rfl

/-! ## What the rows of messages leave -/

/-- But for registers and what the fabric holds, the state stands. -/
def RegsAndFab (s t : State) : Prop := t = { s with regs := t.regs, fab := t.fab }

theorem RegsAndFab.trans {s t u : State} (first : RegsAndFab s t) (second : RegsAndFab t u) : RegsAndFab s u := by
  unfold RegsAndFab at *
  rw [second, first]

theorem FabOnly.regsAndFab {s t : State} (h : FabOnly s t) : RegsAndFab s t := by
  unfold RegsAndFab
  rw [h.1]

theorem regsAndFab_setReg (s : State) (off : Nat) (w : Word) : RegsAndFab s (s.setReg off w) := rfl

theorem regsAndFab_writeRw (s : State) (off : Nat) (v : Word) : RegsAndFab s (writeRw off v s) := regsAndFab_setReg ..

theorem regsAndFab_endRelay (s : State) (result reason : Nat) : RegsAndFab s (endRelay s result reason) := rfl

theorem regsAndFab_dropSent (s : State) (m : MsgHead) : RegsAndFab s (dropSent s m) := rfl

theorem act_of_regsAndFab {f : State → State} {s t : State} (heq : f s = t) (h : RegsAndFab s t) : act f s = .next t :=
  act_eq_of_eq heq (by rw [h]) (by rw [h]) (by rw [h])

/-! ## A message taken up (R273, R278) -/

/-- What taking up a message changes: the credits owed by the ports, what is accepted and what is delivered. -/
def TakesUp (s t : State) : Prop :=
  t = { s with fab := { s.fab with ports := t.fab.ports, accepted := t.fab.accepted, inbox := t.fab.inbox } }

theorem TakesUp.trans {s t u : State} (first : TakesUp s t) (second : TakesUp t u) : TakesUp s u := by
  unfold TakesUp at *
  rw [second, first]

theorem oweCredit_takesUp (s : State) (b : Option (Nat × Nat)) : TakesUp s (oweCredit s b) := by
  unfold oweCredit
  split <;> rfl

theorem returnHolds_takesUp (s : State) (l : List Inbound) : TakesUp s (returnHolds s l) :=
  List.foldlRecOn _ _ (motive := TakesUp s) rfl fun _ ht _ _ => ht.trans (oweCredit_takesUp _ _)

theorem admitExpansions_takesUp (s : State) : TakesUp s (admitExpansions s) := by
  unfold admitExpansions
  exact (returnHolds_takesUp s _).trans rfl

theorem TakesUp.regsAndFab {s t : State} (h : TakesUp s t) : RegsAndFab s t := by
  unfold RegsAndFab
  rw [h]

theorem takeMessage_takesUp (s : State) (h : MsgHead) : TakesUp s (takeMessage s h) := by
  unfold takeMessage
  refine TakesUp.trans ?_ (admitExpansions_takesUp _)
  exact (returnHolds_takesUp s _).trans rfl

theorem onMessage_of_fresh {s : State} {h : MsgHead} {kind : Nat} (f : State → State) (hfresh : Fresh s h kind) :
    onMessage h kind f s = f (takeMessage s h) := by
  obtain ⟨hdelivered, haccepts⟩ := hfresh
  simp [onMessage, hdelivered, haccepts]

theorem tryMessage_of_fresh {s t : State} {h : MsgHead} {kind : Nat} {f : State → Option State} (hfresh : Fresh s h kind)
    (hf : f (takeMessage s h) = some t) : tryMessage h kind f s = t := by
  obtain ⟨hdelivered, haccepts⟩ := hfresh
  simp [tryMessage, hdelivered, haccepts, hf]

/-- A message stays taken up while what is accepted stands. -/
theorem takenUp_of_accepted {s t : State} {h : MsgHead} (heq : t.fab.accepted = (takeMessage s h).fab.accepted) : TakenUp t h := by
  unfold TakenUp
  rw [heq]
  exact takeMessage_accepted s h

section

variable {s t : State} (h : TakesUp s t)
include h

theorem TakesUp.regs_eq : t.regs = s.regs := by rw [h]
theorem TakesUp.reg_eq (off : Nat) : t.reg off = s.reg off := reg_congr h.regs_eq off
theorem TakesUp.fieldAt_eq (off hi lo : Nat) : t.fieldAt off hi lo = s.fieldAt off hi lo := fieldAt_congr h.regs_eq off hi lo
theorem TakesUp.bitAt_eq (off i : Nat) : t.bitAt off i = s.bitAt off i := bitAt_congr (h.reg_eq off) i
theorem TakesUp.pci_eq : t.pci = s.pci := by rw [h]
theorem TakesUp.mem_eq : t.mem = s.mem := by rw [h]
theorem TakesUp.undef_eq : t.undef = s.undef := by rw [h]
theorem TakesUp.entries_eq : t.entries = s.entries := by rw [h]
theorem TakesUp.nextMsg_eq : t.fab.nextMsg = s.fab.nextMsg := by rw [h]
theorem TakesUp.relayMsg_eq : t.fab.relayMsg = s.fab.relayMsg := by rw [h]
theorem TakesUp.sent_eq : t.fab.sent = s.fab.sent := by rw [h]
theorem TakesUp.fab_only : t = { s with fab := t.fab } := by rw [h]

end

theorem FabOnly.accepted_eq {s t : State} (h : FabOnly s t) : t.fab.accepted = s.fab.accepted := by rw [h.1]

theorem FabOnly.fieldAt_eq {s t : State} (h : FabOnly s t) {off : Nat} (hoff : off ≠ Reg.FAB_NOROUTE) (hi lo : Nat) :
    t.fieldAt off hi lo = s.fieldAt off hi lo := congrArg (fld · hi lo) (h.2 off hoff)

/-! ## Remote signals (R43, R45, R273, R274) -/

/-- Settles O27: what takes the message up and what acknowledges it leave the counters, and the commands woken by the change see them. -/
theorem signalMessageAddsToItsCounter : Obligations.SignalMessageAddsToItsCounter := by
  unfold Obligations.SignalMessageAddsToItsCounter
  intro s h c k sender hfresh
  have hc : c % 4096 < 4096 := Nat.mod_lt _ (by decide)
  have htaken := takeMessage_takesUp s h
  obtain ⟨hack, hackreg⟩ := sendAck_only (addCounter (takeMessage s h) (c % 4096) k) h
  have heq : onMessage h 3 (fun s => sendAck (addCounter s (c % 4096) k) h) s =
      sendAck (addCounter (takeMessage s h) (c % 4096) k) h := onMessage_of_fresh _ hfresh
  set t := sendAck (addCounter (takeMessage s h) (c % 4096) k) h
  have hadd := setCounter_eq (takeMessage s h) (c % 4096) ((counter (takeMessage s h) (c % 4096) + k) % 2 ^ 32)
  have hframe : t = { s with regs := t.regs, irq := t.irq, entries := t.entries, fab := t.fab } := by
    rw [hack, addCounter, hadd, htaken]
  have hroute (d : Nat) : Reg.EVC_VALUE d ≠ Reg.FAB_NOROUTE := by unfold Reg.EVC_VALUE Reg.FAB_NOROUTE; omega
  have hcounter (d : Nat) (_ : d < 4096) : counter t d = counter (addCounter (takeMessage s h) (c % 4096) k) d :=
    counter_congr (hackreg _ (hroute d))
  have hold (d : Nat) : counter (takeMessage s h) d = counter s d := counter_congr (htaken.reg_eq _)
  refine ⟨t, exec_signalMessage .. ▸ act_eq_of_eq heq (by rw [hframe]) (by rw [hframe]) (by rw [hframe]), ?_, ?_, ?_, hframe, ?_, ?_⟩
  · refine takenUp_of_accepted (s := s) ?_
    rw [hack, addCounter, hadd]
  · rw [hcounter _ hc, addCounter, counter_setCounter _ _ _ hc hc, if_pos rfl, hold, Nat.mod_mod]
  · intro d hd hne
    rw [hcounter d hd, addCounter, counter_setCounter _ _ _ hc hd, if_neg hne, hold]
  · have hentries : t.entries = (addCounter (takeMessage s h) (c % 4096) k).entries := by rw [hack]
    rw [hentries, addCounter, setCounter_entries, htaken.entries_eq]
    simp only [waitsHold_congr hcounter, addCounter]
  · intro off hoff hroute hirq
    rw [hackreg off hroute, addCounter, setCounter_reg _ _ _ _ hoff hirq, htaken.reg_eq]

/-! ## The relay (R38, R280, R289) -/

theorem endRelay_accepted (s : State) (m : MsgHead) (result reason : Nat) :
    (endRelay (dropSent s m) result reason).fab.accepted = s.fab.accepted := rfl

theorem dropSent_reg (s : State) (m : MsgHead) (off : Nat) : (dropSent s m).reg off = s.reg off := rfl

theorem endRelay_relayMsg (s : State) (result reason : Nat) : (endRelay s result reason).fab.relayMsg = none := rfl

theorem endRelay_sent (s : State) (result reason : Nat) : (endRelay s result reason).fab.sent = s.fab.sent := rfl

theorem endRelay_regs (s : State) (result reason : Nat) : (endRelay s result reason).regs =
    ((s.setField Reg.RELAY_STATUS 2 0 result).setField Reg.RELAY_STATUS 15 8 reason).regs := rfl

theorem endRelay_result (s : State) {result : Nat} (reason : Nat) (h : result < 8) :
    (endRelay s result reason).fieldAt Reg.RELAY_STATUS 2 0 = result := by
  rw [fieldAt_congr (endRelay_regs s result reason), fieldAt_setField_ne _ _ _ _ _ _ _ _ (by decide) (by decide),
    fieldAt_setField _ _ _ _ _ (by decide)]
  exact Nat.mod_eq_of_lt h

theorem endRelay_reason (s : State) (result reason : Nat) :
    (endRelay s result reason).fieldAt Reg.RELAY_STATUS 15 8 = reason % 256 := by
  rw [fieldAt_congr (endRelay_regs s result reason), fieldAt_setField _ _ _ _ _ (by decide)]
  rfl

theorem endRelay_reg (s : State) (result reason : Nat) {off : Nat} (h : off ≠ Reg.RELAY_STATUS) :
    (endRelay s result reason).reg off = s.reg off := by
  rw [reg_congr (endRelay_regs s result reason), reg_setField, if_neg h, reg_setField, if_neg h]

/-- The route of a destination depends on its entry of the route table and on the states of the ports. -/
theorem routePort_congr {s t : State} {d : Nat} (hroute : t.reg (Reg.ROUTE_TABLE d) = s.reg (Reg.ROUTE_TABLE d))
    (hport : ∀ p, p < 8 → t.reg (Reg.PORT_STATUS p) = s.reg (Reg.PORT_STATUS p)) : routePort t d = routePort s d := by
  have hup (p : Nat) : (decide (p < 8) && portUp t p) = (decide (p < 8) && portUp s p) := by
    by_cases hp : p < 8
    · rw [portUp, portUp, portState, portState, State.fieldAt, State.fieldAt, hport p hp]
    · simp [hp]
  simp only [routePort, hroute, hup]

/-- A write of RELAY_CTRL stores DEST. -/
theorem writeRw_relayDest (s : State) (v : Word) : (writeRw Reg.RELAY_CTRL v s).fieldAt Reg.RELAY_CTRL 27 16 = fld v 27 16 := by
  have hfields : fieldsOf Reg.RELAY_CTRL = [⟨31, 31, .w1s, 0, []⟩, ⟨27, 16, .rw, 0, []⟩, ⟨8, 0, .rw, 0, [(64, 64), (80, 80), (96, 96),
    (112, 112), (128, 128), (144, 144), (160, 160), (176, 176), (192, 192), (208, 208), (224, 224), (240, 240), (256, 256)]⟩] := by rfl
  have hdest (w : Word) : fld (setFld w 27 16 (fld v 27 16)) 27 16 = fld v 27 16 :=
    (fld_setFld _ _ _ _ (by decide)).trans (Nat.mod_eq_of_lt (fld_lt v 27 16))
  rw [State.fieldAt, reg_writeRw, hfields]
  simp only [writeFields, encodingOk]
  split
  · rw [fld_setFld_ne _ _ _ _ _ _ (by decide) (by decide)]
    exact hdest _
  · exact hdest _

theorem writeRw_reg (s : State) (off : Nat) (v : Word) {j : Nat} (h : j ≠ off) : (writeRw off v s).reg j = s.reg j := reg_setReg_ne s _ h

theorem writeRw_sent (s : State) (off : Nat) (v : Word) : (writeRw off v s).fab.sent = s.fab.sent := rfl

theorem writeRw_relay_ownId (s : State) (v : Word) : ownId (writeRw Reg.RELAY_CTRL v s) = ownId s :=
  congrArg (fld · 11 0) (writeRw_reg s _ v (by decide))

theorem writeRw_relay_routePort (s : State) (v : Word) {d : Nat} (hd : d < 4096) :
    routePort (writeRw Reg.RELAY_CTRL v s) d = routePort s d := by
  refine routePort_congr (writeRw_reg s _ v ?_) fun p hp => writeRw_reg s _ v ?_
  · unfold Reg.ROUTE_TABLE Reg.RELAY_CTRL; omega
  · unfold Reg.PORT_STATUS Reg.RELAY_CTRL; omega

/-- A GO without a route ends at once. -/
theorem relayGo_of_noRoute {s : State} {v : Word} (hidle : relayBusy s = false) (hgo : flag v 31 = true)
    (hown : fld v 27 16 ≠ ownId s) (hroute : routePort s (fld v 27 16) = none) :
    relayGo v s = endRelay (writeRw Reg.RELAY_CTRL v s) 4 0 := by
  simp [relayGo, hidle, hgo, writeRw_relayDest, writeRw_relay_ownId, writeRw_relay_routePort s v (fld_lt v 27 16), hown, hroute]

/-- What a GO sends: the packet in RELAY_DATA, of the length in RELAY_CTRL. -/
def relayed (s : State) (v : Word) : Nat × State :=
  sendMessage (writeRw Reg.RELAY_CTRL v s) (fld v 27 16) ⟨.soloc, [],
    relayPacket (writeRw Reg.RELAY_CTRL v s) ((writeRw Reg.RELAY_CTRL v s).fieldAt Reg.RELAY_CTRL 8 0)⟩

/-- The relay waits for the reply to a message from now on. -/
def relayWaits (s : State) (dest n : Nat) : State := { s with fab := { s.fab with relayMsg := some (dest, n), relayStart := s.now } }

/-- A GO with a route sends the packet and waits. -/
theorem relayGo_of_route {s : State} {v : Word} (hidle : relayBusy s = false) (hgo : flag v 31 = true)
    (hroute : fld v 27 16 = ownId s ∨ (routePort s (fld v 27 16)).isSome = true) :
    relayGo v s = relayWaits (endRelay (relayed s v).2 1 0) (fld v 27 16) (relayed s v).1 := by
  have hsome : ¬ (fld v 27 16 ≠ ownId s ∧ (routePort s (fld v 27 16)).isNone = true) := by
    rintro ⟨hown, hnone⟩
    rcases hroute with h | h
    · exact hown h
    · simp [Option.isNone_iff_eq_none.mp hnone] at h
  simp only [relayGo, hidle, hgo, writeRw_relayDest, writeRw_relay_ownId, writeRw_relay_routePort s v (fld_lt v 27 16), if_neg hsome]
  rfl

theorem relayed_only (s : State) (v : Word) : FabOnly (writeRw Reg.RELAY_CTRL v s) (relayed s v).2 := sendMessage_only _ _ _

theorem regsAndFab_relayWaits (s : State) (dest n : Nat) : RegsAndFab s (relayWaits s dest n) := rfl

theorem relayWaits_relayMsg (s : State) (dest n : Nat) : (relayWaits s dest n).fab.relayMsg = some (dest, n) := rfl

theorem relayWaits_relayStart (s : State) (dest n : Nat) : (relayWaits s dest n).fab.relayStart = s.now := rfl

theorem relayWaits_reg (s : State) (dest n off : Nat) : (relayWaits s dest n).reg off = s.reg off := rfl

theorem relayBusy_congr {s t : State} (h : t.reg Reg.RELAY_STATUS = s.reg Reg.RELAY_STATUS) : relayBusy t = relayBusy s := by
  unfold relayBusy State.fieldAt
  rw [h]

/-- What a timed row answers, where its effect on the state to which time has passed is known. -/
theorem actAt_of_eq {time : Nat} {f : State → State} {s u : State} (h : f (passTime s time) = u) : ∃ t, actAt time f s = .next t ∧
    t.now = timeAt s time ∧ t.regs = u.regs ∧ t.fab = u.fab ∧ t.entries = u.entries ∧ t.mem = u.mem := by
  subst h
  exact ⟨_, rfl, rfl, rfl, rfl, rfl, rfl⟩

/-- A GO with a route: the packet is sent and the relay waits for its reply. -/
theorem relayGo_sends {s : State} {v : Word} (hready : solocReady s = true) (hidle : relayBusy s = false) (hgo : flag v 31 = true)
    (hroute : fld v 27 16 = ownId s ∨ (routePort s (fld v 27 16)).isSome = true) :
    ∃ t n, act (whenReady (relayGo v)) s = .next t ∧ t.fieldAt Reg.RELAY_STATUS 2 0 = 1 ∧ t.fab.relayMsg = some (fld v 27 16, n) ∧
      t.fab.relayStart = s.now ∧ t = { s with regs := t.regs, fab := t.fab } ∧
      ∀ off, off ∉ [Reg.RELAY_CTRL, Reg.RELAY_STATUS, Reg.FAB_NOROUTE] → t.reg off = s.reg off := by
  have heq := (whenReady_true (f := relayGo v) hready).trans (relayGo_of_route hidle hgo hroute)
  have hsent := relayed_only s v
  have hended := ((regsAndFab_writeRw s _ v).trans hsent.regsAndFab).trans (regsAndFab_endRelay _ 1 0)
  have hframe := hended.trans (regsAndFab_relayWaits _ (fld v 27 16) (relayed s v).1)
  refine ⟨_, (relayed s v).1, act_of_regsAndFab heq hframe, ?_, relayWaits_relayMsg .., ?_, hframe, fun off hoff => ?_⟩
  · rw [State.fieldAt, relayWaits_reg]
    exact endRelay_result _ 0 (by decide)
  · rw [relayWaits_relayStart, hended]
  · simp only [List.mem_cons, List.not_mem_nil, or_false, not_or] at hoff
    obtain ⟨hctrl, hstatus, hcount⟩ := hoff
    rw [relayWaits_reg, endRelay_reg _ 1 0 hstatus, hsent.2 off hcount, writeRw_reg s _ v hctrl]

/-- A GO without a route: NO_ROUTE, and nothing is sent. -/
theorem relayGo_noRoute {s : State} {v : Word} (hready : solocReady s = true) (hidle : relayBusy s = false) (hgo : flag v 31 = true)
    (hown : fld v 27 16 ≠ ownId s) (hroute : routePort s (fld v 27 16) = none) :
    ∃ t, act (whenReady (relayGo v)) s = .next t ∧ t.fieldAt Reg.RELAY_STATUS 2 0 = 4 ∧ t.fab.sent = s.fab.sent ∧
      t = { s with regs := t.regs, fab := t.fab } := by
  have heq := (whenReady_true (f := relayGo v) hready).trans (relayGo_of_noRoute hidle hgo hown hroute)
  have hframe := (regsAndFab_writeRw s Reg.RELAY_CTRL v).trans (regsAndFab_endRelay _ 4 0)
  exact ⟨_, act_of_regsAndFab heq hframe, endRelay_result _ 0 (by decide), (endRelay_sent ..).trans (writeRw_sent ..), hframe⟩

/-- A reply that is due ends the relay's wait with TIMEOUT. -/
theorem relayTimeout_ends {s : State} {time : Nat} (hbusy : relayBusy s = true)
    (hdue : s.fab.relayStart + 1000 * s.fieldAt Reg.CMD_TIMEOUT_MIN 19 0 ≤ timeAt s time) :
    ∃ t, exec (.relayTimeout time) s = .next t ∧ t.now = timeAt s time ∧ t.fieldAt Reg.RELAY_STATUS 2 0 = 5 ∧ t.fab.relayMsg = none ∧
      t.entries = s.entries ∧ t.mem = s.mem := by
  have hstatus : relayBusy (passTime s time) = true := (relayBusy_congr (passTime_reg s time _ (by decide) (by decide))).trans hbusy
  have hmin : (passTime s time).fieldAt Reg.CMD_TIMEOUT_MIN 19 0 = s.fieldAt Reg.CMD_TIMEOUT_MIN 19 0 :=
    congrArg (fld · 19 0) (passTime_reg s time _ (by decide) (by decide))
  have hends : (relayBusy (passTime s time) && decide ((passTime s time).fab.relayStart + 1000 * (passTime s time).fieldAt
      Reg.CMD_TIMEOUT_MIN 19 0 ≤ (passTime s time).now)) = true := by
    rw [hstatus, hmin]
    exact decide_eq_true hdue
  obtain ⟨t, hnext, hnow, hregs, hfab, hentries, hmem⟩ := actAt_of_eq (time := time) (f := fun s =>
    if relayBusy s && decide (s.fab.relayStart + 1000 * s.fieldAt Reg.CMD_TIMEOUT_MIN 19 0 ≤ s.now) then endRelay s 5 0 else s)
    (if_pos hends)
  exact ⟨t, hnext, hnow, (fieldAt_congr hregs ..).trans (endRelay_result _ 0 (by decide)), by rw [hfab]; rfl, hentries, hmem⟩

/-- A REFUSE message of the relay's destination. -/
theorem relayRefused_ends {s : State} {h : MsgHead} {n : Nat} (reason : Nat) (hfresh : Fresh s h 5) (hbusy : relayBusy s = true)
    (hmsg : s.fab.relayMsg = some (h.peer, n)) :
    ∃ t, act (onMessage h 5 (relayRefused h reason)) s = .next t ∧ TakenUp t h ∧ t.fieldAt Reg.RELAY_STATUS 2 0 = 3 ∧
      t.fieldAt Reg.RELAY_STATUS 15 8 = reason % 256 ∧ t.fab.relayMsg = none ∧ t = { s with regs := t.regs, fab := t.fab } := by
  have htaken := takeMessage_takesUp s h
  have heq : onMessage h 5 (relayRefused h reason) s =
      endRelay (dropSent (takeMessage s h) ⟨h.peer, classOf .soloc, n, false⟩) 3 reason := by
    have hstatus : relayBusy (takeMessage s h) = true := (relayBusy_congr (htaken.reg_eq _)).trans hbusy
    rw [onMessage_of_fresh _ hfresh]
    simp [relayRefused, htaken.relayMsg_eq, hmsg, hstatus]
  have hframe := (htaken.regsAndFab.trans (regsAndFab_dropSent _ ⟨h.peer, classOf .soloc, n, false⟩)).trans
    (regsAndFab_endRelay _ 3 reason)
  exact ⟨_, act_of_regsAndFab heq hframe, takenUp_of_accepted (endRelay_accepted ..), endRelay_result _ reason (by decide),
    endRelay_reason _ 3 reason, endRelay_relayMsg .., hframe⟩

/-- The acknowledgement of the relay's packet. -/
theorem relayAcked_ends {s : State} {h acked m : MsgHead} {c : Content} (answers : List (Ask × Answer)) (hfresh : Fresh s h 0xA)
    (hfind : s.fab.sent.find? (fun x => decide (acceptKey x.1 = acceptKey acked)) = some (m, c)) (hwhat : c.what = .soloc)
    (hbusy : relayBusy s = true) (hmsg : s.fab.relayMsg = some (acked.peer, acked.msg)) :
    ∃ t, act (onMessage h 0xA (messageAcked acked answers)) s = .next t ∧ TakenUp t h ∧ t.fieldAt Reg.RELAY_STATUS 2 0 = 2 ∧
      t.fab.relayMsg = none ∧ (∀ x ∈ t.fab.sent, acceptKey x.1 ≠ acceptKey acked) ∧ t = { s with regs := t.regs, fab := t.fab } := by
  have htaken := takeMessage_takesUp s h
  have heq : onMessage h 0xA (messageAcked acked answers) s = endRelay (dropSent (takeMessage s h) acked) 2 0 := by
    have hstatus : relayBusy (dropSent (takeMessage s h) acked) = true :=
      (relayBusy_congr ((dropSent_reg ..).trans (htaken.reg_eq _))).trans hbusy
    have hwaits : (dropSent (takeMessage s h) acked).fab.relayMsg = some (acked.peer, acked.msg) := htaken.relayMsg_eq.trans hmsg
    rw [onMessage_of_fresh _ hfresh]
    simp [messageAcked, htaken.sent_eq, hfind, acknowledge, hwhat, hstatus, hwaits]
  have hframe := (htaken.regsAndFab.trans (regsAndFab_dropSent _ acked)).trans (regsAndFab_endRelay _ 2 0)
  refine ⟨_, act_of_regsAndFab heq hframe, takenUp_of_accepted (endRelay_accepted ..), endRelay_result _ 0 (by decide),
    endRelay_relayMsg .., fun x hx => ?_, hframe⟩
  rw [endRelay_sent] at hx
  simpa using (List.mem_filter.mp hx).2

/-- Settles O28: each row ends the relay's wait by one call of `endRelay`, or begins it by one message. -/
theorem relayEndsWithItsAnswer : Obligations.RelayEndsWithItsAnswer := by
  unfold Obligations.RelayEndsWithItsAnswer
  simp only [exec_relayGo, exec_refuseMessage, exec_e2eAck]
  intro s
  refine ⟨fun v hready hbusy => ?_, fun v dest hready hidle hgo hdest => ?_, fun time => relayTimeout_ends,
    fun h reason n hfresh hbusy hmsg => relayRefused_ends reason hfresh hbusy hmsg,
    fun h acked answers m c hfresh hfind hwhat hbusy hmsg => relayAcked_ends answers hfresh hfind hwhat hbusy hmsg⟩
  · exact act_eq_of_eq ((whenReady_true hready).trans (by simp [relayGo, hbusy])) rfl rfl rfl
  · subst hdest
    exact ⟨relayGo_sends hready hidle hgo, relayGo_noRoute hready hidle hgo⟩

end Sys2Proof.Machine
end

section
/-! PROOFS. Remote packets written at a ring's tail or refused (R37, R38, R274, R289, R426). -/

namespace Sys2Proof.Machine

open Sys2Proof

/-- What an untimed row's effect leaves in registers, memory, tracking entries and the fabric stands. -/
theorem act_leaves {f : State → State} {s u : State} (h : f s = u) : ∃ t, act f s = .next t ∧ t.regs = u.regs ∧ t.mem = u.mem ∧
    t.undef = u.undef ∧ t.entries = u.entries ∧ t.fab = u.fab := by
  subst h
  exact ⟨_, rfl, rfl, rfl, rfl, rfl, rfl⟩

/-! ## Registers of the command block -/

/-- The command block's registers are outside the interrupt controller, the error log and the counters of corrected words. -/
theorem outsideLog_of_commandBlock {off : Nat} (hlow : 0x10000 ≤ off) (hhigh : off < 0x20000) : OutsideLog off := by
  have hblock : blockOf off = 1 := by unfold blockOf; omega
  refine ⟨by simp [irqReg, hblock], by unfold Reg.ERRLOG_TAIL; omega, by unfold Reg.ERRLOG_DROPPED; omega,
    by unfold Reg.RAS_EVENT; omega, ?_⟩
  rintro (hce | ⟨st, -, hce⟩)
  · unfold Reg.SKERRY_CE at hce; omega
  · unfold Reg.STACK_CE at hce; omega

theorem outsideLog_ringStatus {n : Nat} (h : n < 16) : OutsideLog (Reg.RING_STATUS n) :=
  outsideLog_of_commandBlock (by unfold Reg.RING_STATUS; omega) (by unfold Reg.RING_STATUS; omega)

theorem outsideLog_ringTail {n : Nat} (h : n < 16) : OutsideLog (Reg.RING_TAIL n) :=
  outsideLog_of_commandBlock (by unfold Reg.RING_TAIL; omega) (by unfold Reg.RING_TAIL; omega)

theorem outsideLog_ringHead {n : Nat} (h : n < 16) : OutsideLog (Reg.RING_HEAD n) :=
  outsideLog_of_commandBlock (by unfold Reg.RING_HEAD; omega) (by unfold Reg.RING_HEAD; omega)

theorem outsideLog_cplTail {n : Nat} (h : n < 16) : OutsideLog (Reg.CPL_TAIL n) :=
  outsideLog_of_commandBlock (by unfold Reg.CPL_TAIL; omega) (by unfold Reg.CPL_TAIL; omega)

theorem OutsideLog.irq {off : Nat} (h : OutsideLog off) : irqReg off = false := by obtain ⟨hirq, -⟩ := h; exact hirq

theorem logEvent_reg (s : State) (cls : Nat) (f : LogFields) {off : Nat} (h : OutsideLog off) : (logEvent s cls f).reg off = s.reg off := by
  obtain ⟨hirq, htail, hdropped, hevent, hce⟩ := h
  obtain ⟨-, hregs, -⟩ := logEvent_only s cls f
  exact hregs off hirq htail hdropped hevent hce

theorem MergeOnly.reg_eq {s t : State} (h : MergeOnly s t) {off : Nat} (hoff : OutsideLog off) : t.reg off = s.reg off := by
  obtain ⟨-, -, -, -, hce⟩ := hoff
  exact h.2.1 off hce

/-- A bit of RING_STATUS set: its register, and nothing else. -/
theorem setStatus_ringStatus (s : State) {n : Nat} (b : Nat) (h : n < 16) :
    setStatus s (Reg.RING_STATUS n) b = if s.bitAt (Reg.RING_STATUS n) b then s else s.setBit (Reg.RING_STATUS n) b true := by
  unfold setStatus
  rw [sourceOf_ringStatus b h]

theorem setStatus_ringStatus_only (s : State) {n : Nat} (b : Nat) (h : n < 16) :
    RegsOnly [Reg.RING_STATUS n] s (setStatus s (Reg.RING_STATUS n) b) := by
  rw [setStatus_ringStatus s b h]
  split
  · exact regsOnly_refl ..
  · exact regsOnly_setBit ..

theorem setStatus_ringStatus_takes (s : State) {n b : Nat} (hb : b < 32) (h : n < 16) :
    BitTakes (Reg.RING_STATUS n) b true s (setStatus s (Reg.RING_STATUS n) b) := by
  rw [setStatus_ringStatus s b h]
  split
  · next hset => exact ⟨hset, fun _ _ _ => rfl⟩
  · exact bitTakes_setBit s _ true hb

/-! ## A ring-memory fault (R426) -/

/-- But for what a record in the error log may change, a ring-memory fault sets ADDR_ERR only. -/
theorem ringFault_reg (s : State) {n off : Nat} (a : Nat) (hn : n < 16) (h : OutsideLog off) (hne : off ≠ Reg.RING_STATUS n) :
    (ringFault s n a).reg off = s.reg off := by
  obtain ⟨-, hreg⟩ := setStatus_ringStatus_only s 7 hn
  exact (logEvent_reg _ _ _ h).trans (hreg off (by simpa using hne))

theorem ringFault_bitAt (s : State) {n i : Nat} (a : Nat) (hn : n < 16) (hi : i < 32) :
    (ringFault s n a).bitAt (Reg.RING_STATUS n) i = (decide (i = 7) || s.bitAt (Reg.RING_STATUS n) i) := by
  obtain ⟨hset, hother⟩ := setStatus_ringStatus_takes s (b := 7) (by decide) hn
  refine (bitAt_congr (logEvent_reg _ _ _ (outsideLog_ringStatus hn)) i).trans ?_
  by_cases h : i = 7
  · simp [h, hset]
  · simp [h, hother i hi h]

/-- What a ring-memory fault leaves: all but registers, memory, the error log and the interrupt controller. -/
theorem ringFault_eq (s : State) {n : Nat} (a : Nat) (hn : n < 16) : ringFault s n a = { s with
    mem := (ringFault s n a).mem, undef := (ringFault s n a).undef, regs := (ringFault s n a).regs, irq := (ringFault s n a).irq
    errSeq := (ringFault s n a).errSeq, errs := (ringFault s n a).errs, merged := (ringFault s n a).merged } := by
  obtain ⟨hlog, -⟩ := logEvent_only (setStatus s (Reg.RING_STATUS n) 7) 0x12 (plainLog 0 0 a)
  obtain ⟨hset, -⟩ := setStatus_ringStatus_only s 7 hn
  unfold ringFault
  rw [hlog, hset]

/-! ## What the checks of a remote packet look at (R37) -/

theorem faultIn_congr {s t : State} (hregs : t.regs = s.regs) (hpci : t.pci = s.pci) (write : Bool) :
    ∀ (n a : Nat), faultIn t write a n = faultIn s write a n
  | 0, _ => rfl
  | n + 1, a => by
    have hfenced (st l : Nat) : fenced t st l = fenced s st l := by
      unfold fenced channelOf liveChannels State.fieldAt State.bitAt
      simp only [reg_congr hregs]
    rw [faultIn, faultIn, locate_congr hregs hpci, faultIn_congr hregs hpci write n]
    simp only [hfenced]

section

variable {s t : State} (hregs : t.regs = s.regs)
include hregs

theorem ringTail_congr (n : Nat) : ringTail t n = ringTail s n := fieldAt_congr hregs ..
theorem ringHead_congr (n : Nat) : ringHead t n = ringHead s n := fieldAt_congr hregs ..
theorem ringSize_congr (n : Nat) : ringSize t n = ringSize s n := congrArg (2 ^ ·) (fieldAt_congr hregs ..)
theorem ringBase_congr (n : Nat) : ringBase t n = ringBase s n := by unfold ringBase State.pair; simp only [reg_congr hregs]
theorem ringFree_congr (n : Nat) : ringFree t n = ringFree s n := by
  unfold ringFree ringUsed
  rw [ringSize_congr hregs, ringTail_congr hregs, ringHead_congr hregs]
theorem ringActive_congr (n : Nat) : ringActive t n = ringActive s n := by unfold ringActive State.fieldAt; simp only [reg_congr hregs]
theorem ringStopped_congr (n : Nat) : ringStopped t n = ringStopped s n := by unfold ringStopped State.bitAt; simp only [reg_congr hregs]
theorem solocReady_congr : solocReady t = solocReady s := bitAt_congr (reg_congr hregs _) 31

variable (hpci : t.pci = s.pci)
include hpci

theorem tailFault_congr (n size : Nat) : tailFault t n size = tailFault s n size := by
  unfold tailFault
  simp only [faultIn_congr hregs hpci, ringBase_congr hregs, ringTail_congr hregs, ringSize_congr hregs]

theorem refuseReason_congr (p : List Byte) : refuseReason t p = refuseReason s p := by
  unfold refuseReason
  simp only [bitAt_congr (reg_congr hregs _), solocReady_congr hregs, ringActive_congr hregs, ringStopped_congr hregs,
    ringFree_congr hregs, tailFault_congr hregs hpci]

theorem mayAccess_congr (a : Nat) : mayAccess t a = mayAccess s a := by
  have hheld (r : Region) : heldRegion t r = heldRegion s r := by
    cases r <;> simp only [heldRegion, bitAt_congr (reg_congr hregs _)]
  unfold mayAccess
  simp only [locate_congr hregs hpci, hheld, fieldAt_congr hregs]

end

/-- A packet refused for its ring's memory has a fault there. -/
theorem tailFault_of_refused {s : State} {p : List Byte} (h : refuseReason s p = some 5) :
    (tailFault s (leAt p 4 2 % 16) (pktGranules (leAt p 2 2))).isSome = true := by
  by_contra hnone
  simp only [refuseReason, if_neg hnone] at h
  split_ifs at h <;> simp at h

/-! ## Messages sent (R273) -/

theorem routeFlit_nextMsg (s : State) (q : QFlit) : (routeFlit s q).fab.nextMsg = s.fab.nextMsg := by
  unfold routeFlit
  simp only
  split <;> rfl

theorem nextMsgOf_congr {s t : State} (h : t.fab.nextMsg = s.fab.nextMsg) (dest tc : Nat) : nextMsgOf t dest tc = nextMsgOf s dest tc := by
  unfold nextMsgOf
  rw [h]

/-- A message sent takes the next number of its destination and class. -/
theorem nextMsgOf_sendMessage (s : State) (dest : Nat) (c : Content) :
    nextMsgOf (sendMessage s dest c).2 dest (classOf c.what) = (nextMsgOf s dest (classOf c.what) + 1) % 2 ^ 14 := by
  have hnumber : nextMsgOf (numberMessage s dest c).2 dest (classOf c.what) = (nextMsgOf s dest (classOf c.what) + 1) % 2 ^ 14 := by
    simp [nextMsgOf, numberMessage]
  have hsame : (sendMessage s dest c).2.fab.nextMsg = (numberMessage s dest c).2.fab.nextMsg := by
    unfold sendMessage
    simp only
    split
    · rfl
    · exact List.foldlRecOn (motive := fun t => t.fab.nextMsg = (numberMessage s dest c).2.fab.nextMsg) _ _ rfl
        fun t ht q _ => (routeFlit_nextMsg t q).trans ht
  exact (nextMsgOf_congr hsame _ _).trans hnumber

/-! ## Skerry memory -/

theorem byteAt_congr {s t : State} (hmem : t.mem = s.mem) (hundef : t.undef = s.undef) (k : Nat) : byteAt t k = byteAt s k := by
  unfold byteAt undefAt
  rw [hmem, hundef]

/-- Bytes of skerry memory depend on memory alone. -/
theorem peekBytes_skerry_congr {s t : State} (hmem : t.mem = s.mem) (hundef : t.undef = s.undef) : ∀ (n a : Nat),
    0x010000000000 ≤ a → a + n ≤ 0x020000000000 → peekBytes t a n = peekBytes s a n
  | 0, _, _, _ => rfl
  | n + 1, a, hlow, hhigh => by
    rw [peekBytes, peekBytes, peekBytes_skerry_congr hmem hundef n (a + 1) (by omega) (by omega), State.readByte, State.readByte,
      locate_skerry t hlow (by omega), locate_skerry s hlow (by omega)]
    simp only [byteAt_congr hmem hundef]

/-! ## The granules of a remote packet -/

theorem writeGranules_merge (s : State) (n : Nat) (p : List Byte) : MergeOnly s (writeGranules s n p) :=
  List.foldlRecOn _ _ (motive := MergeOnly s) (.refl s) fun t ht _ _ => ht.trans (storeBytes_merge t _ _)

/-- A packet of one granule is stored at the tail. -/
theorem writeGranules_of_granule (s : State) (n : Nat) {p : List Byte} (h : p.length = 64) :
    writeGranules s n p = storeBytes s (ringBase s n + 64 * (ringTail s n % ringSize s n)) p := by
  have hchunks : chunks 64 (p.length + 1) p = [p] := by
    have hne : p.isEmpty = false := by cases p <;> simp_all
    simp [h, chunks, hne, List.take_of_length_le h.le, List.drop_of_length_le h.le]
  unfold writeGranules
  rw [hchunks]
  rfl

/-- Bytes stored in skerry memory are there. -/
theorem peekBytes_storeBytes_skerry (s : State) (a : Nat) (l : List Byte) (hlow : 0x010000000000 ≤ a)
    (hhigh : a + l.length ≤ 0x020000000000) : peekBytes (storeBytes s a l) a l.length = l :=
  peekBytes_pokeBytes_skerry _ a l hlow hhigh

theorem solocArrives_of_good {s : State} {h : MsgHead} {p : List Byte} (hgood : refuseReason s p = none)
    (hreach : ∀ i < pktGranules (leAt p 2 2), mayAccess s (ringBase s (leAt p 4 2 % 16) +
      64 * ((ringTail s (leAt p 4 2 % 16) + i) % ringSize s (leAt p 4 2 % 16))) = true) :
    solocArrives h p s = some (sendAck ((writeGranules s (leAt p 4 2 % 16) p).setField (Reg.RING_TAIL (leAt p 4 2 % 16)) 11 0
      ((ringTail s (leAt p 4 2 % 16) + pktGranules (leAt p 2 2)) % ringSize s (leAt p 4 2 % 16))) h) := by
  have hall : (seqFrom 0 (pktGranules (leAt p 2 2))).all (fun i => mayAccess s (ringBase s (leAt p 4 2 % 16) +
      64 * ((ringTail s (leAt p 4 2 % 16) + i) % ringSize s (leAt p 4 2 % 16)))) = true :=
    List.all_eq_true.mpr fun i hi => hreach i (by have := mem_seqFrom.mp hi; omega)
  simp only [solocArrives, hgood, hall, if_true]

/-- What a refusal does to the ring: REMOTE_REFUSED, and ADDR_ERR where its memory faults. -/
def ringRefuses (s : State) (n r : Nat) (fault : Option Nat) : State :=
  match fault with
  | some a => if r = 5 then ringFault (setStatus s (Reg.RING_STATUS n) 6) n a else setStatus s (Reg.RING_STATUS n) 6
  | none => setStatus s (Reg.RING_STATUS n) 6

theorem solocArrives_of_refused {s : State} {h : MsgHead} {p : List Byte} {r : Nat} (hrefused : refuseReason s p = some r) :
    solocArrives h p s = some (sendMessage (ringRefuses s (leAt p 4 2 % 16) r (tailFault s (leAt p 4 2 % 16) (pktGranules (leAt p 2 2))))
      h.peer ⟨.refuse, [r], []⟩).2 := by
  simp only [solocArrives, hrefused]
  rfl

theorem ringRefuses_of_ne (s : State) (n : Nat) {r : Nat} (fault : Option Nat) (h : r ≠ 5) :
    ringRefuses s n r fault = setStatus s (Reg.RING_STATUS n) 6 := by
  unfold ringRefuses
  split
  · exact if_neg h
  · rfl

/-- What a refusal leaves: the ring's indices, the commands, and what the fabric holds. -/
theorem ringRefuses_leaves (s : State) {n : Nat} (r : Nat) (fault : Option Nat) (hn : n < 16) :
    (ringRefuses s n r fault).bitAt (Reg.RING_STATUS n) 6 = true ∧
    (ringRefuses s n r fault).reg (Reg.RING_TAIL n) = s.reg (Reg.RING_TAIL n) ∧
    (ringRefuses s n r fault).entries = s.entries ∧ (ringRefuses s n r fault).fab = s.fab := by
  obtain ⟨hset, -⟩ := setStatus_ringStatus_takes s (b := 6) (by decide) hn
  obtain ⟨heq, hreg⟩ := setStatus_ringStatus_only s 6 hn
  have htail : Reg.RING_TAIL n ≠ Reg.RING_STATUS n := by unfold Reg.RING_TAIL Reg.RING_STATUS; omega
  have hstatus : (setStatus s (Reg.RING_STATUS n) 6).reg (Reg.RING_TAIL n) = s.reg (Reg.RING_TAIL n) := hreg _ (by simp)
  have hplain : (setStatus s (Reg.RING_STATUS n) 6).entries = s.entries ∧ (setStatus s (Reg.RING_STATUS n) 6).fab = s.fab := by
    rw [heq]; exact ⟨rfl, rfl⟩
  unfold ringRefuses
  split
  · split
    · next a _ =>
      have hfault := ringFault_eq (setStatus s (Reg.RING_STATUS n) 6) a hn
      refine ⟨by simp [ringFault_bitAt _ a hn, hset], (ringFault_reg _ a hn (outsideLog_ringTail hn) htail).trans hstatus, ?_, ?_⟩
      · rw [hfault]; exact hplain.1
      · rw [hfault]; exact hplain.2
    · exact ⟨hset, hstatus, hplain⟩
  · exact ⟨hset, hstatus, hplain⟩

/-- A packet refused for its ring's memory sets ADDR_ERR. -/
theorem ringRefuses_addrErr (s : State) {n : Nat} {fault : Option Nat} (hn : n < 16) (h : fault.isSome = true) :
    (ringRefuses s n 5 fault).bitAt (Reg.RING_STATUS n) 7 = true := by
  obtain ⟨a, rfl⟩ := Option.isSome_iff_exists.mp h
  simp [ringRefuses, ringFault_bitAt _ a hn]

/-- A packet that passes the checks is written at the tail, which moves past it. -/
theorem solocMessage_written {s : State} {h : MsgHead} {p : List Byte} {n size : Nat} (hfresh : Fresh s h 4) (hn : n = leAt p 4 2 % 16)
    (hsize : size = pktGranules (leAt p 2 2)) (hgood : refuseReason s p = none)
    (hreach : ∀ i < size, mayAccess s (ringBase s n + 64 * ((ringTail s n + i) % ringSize s n)) = true) :
    ∃ u, tryMessage h 4 (solocArrives h p) s = u ∧ TakenUp u h ∧
      FieldTakes (Reg.RING_TAIL n) 11 0 ((ringTail s n + size) % ringSize s n % 4096) s u ∧ u.entries = s.entries ∧
      ∀ a, a = ringBase s n + 64 * (ringTail s n % ringSize s n) → 0x010000000000 ≤ a → a + 64 ≤ 0x020000000000 → p.length = 64 →
        peekBytes u a 64 = p := by
  have htaken := takeMessage_takesUp s h
  have hregs := htaken.regs_eq
  have hpci := htaken.pci_eq
  have hlt : n < 16 := hn ▸ Nat.mod_lt _ (by decide)
  have harrives := solocArrives_of_good (s := takeMessage s h) (h := h) ((refuseReason_congr hregs hpci p).trans hgood)
    (by simpa only [← hn, ← hsize, ringBase_congr hregs, ringTail_congr hregs, ringSize_congr hregs, mayAccess_congr hregs hpci] using hreach)
  rw [← hn, ← hsize, ringTail_congr hregs, ringSize_congr hregs] at harrives
  have hwritten := writeGranules_merge (takeMessage s h) n p
  have hacked := sendAck_only ((writeGranules (takeMessage s h) n p).setField (Reg.RING_TAIL n) 11 0
    ((ringTail s n + size) % ringSize s n)) h
  refine ⟨_, tryMessage_of_fresh hfresh harrives, takenUp_of_accepted (s := s) ?_, ?_, ?_, fun a ha hlow hhigh hlen => ?_⟩
  · rw [hacked.accepted_eq, State.setField_fab, hwritten.1]
  · refine (fieldTakes_setField_mod (writeGranules (takeMessage s h) n p) (Reg.RING_TAIL n) 0 _ (by decide)).congr ?_ ?_
    · exact ((hwritten.reg_eq (outsideLog_ringTail hlt)).trans (htaken.reg_eq _)).symm
    · exact hacked.2 _ (by unfold Reg.RING_TAIL Reg.FAB_NOROUTE; omega)
  · rw [hacked.1, State.setField_entries, hwritten.1, htaken.entries_eq]
  · rw [peekBytes_skerry_congr (s := writeGranules (takeMessage s h) n p) (by rw [hacked.1]; rfl) (by rw [hacked.1]; rfl) 64 a hlow hhigh,
      writeGranules_of_granule _ n hlen, ringBase_congr hregs, ringTail_congr hregs, ringSize_congr hregs, ← ha, ← hlen]
    exact peekBytes_storeBytes_skerry _ a p hlow (by omega)

/-- A packet that fails the checks is refused and answered. -/
theorem solocMessage_refused {s : State} {h : MsgHead} {p : List Byte} {n r : Nat} (hfresh : Fresh s h 4) (hn : n = leAt p 4 2 % 16)
    (hrefused : refuseReason s p = some r) :
    ∃ u, tryMessage h 4 (solocArrives h p) s = u ∧ TakenUp u h ∧ u.bitAt (Reg.RING_STATUS n) 6 = true ∧
      u.reg (Reg.RING_TAIL n) = s.reg (Reg.RING_TAIL n) ∧ u.entries = s.entries ∧
      nextMsgOf u h.peer 0 = (nextMsgOf s h.peer 0 + 1) % 2 ^ 14 ∧ (r = 5 → u.bitAt (Reg.RING_STATUS n) 7 = true) ∧
      (r ≠ 5 → BitTakes (Reg.RING_STATUS n) 6 true s u ∧ u.mem = s.mem) := by
  have htaken := takeMessage_takesUp s h
  have hlt : n < 16 := hn ▸ Nat.mod_lt _ (by decide)
  have hreason := (refuseReason_congr htaken.regs_eq htaken.pci_eq p).trans hrefused
  have harrives := solocArrives_of_refused (h := h) hreason
  rw [← hn] at harrives
  generalize hfault : tailFault (takeMessage s h) n (pktGranules (leAt p 2 2)) = fault at harrives
  obtain ⟨hbit, htail, hentries, hfab⟩ := ringRefuses_leaves (takeMessage s h) r fault hlt
  have hsent := sendMessage_only (ringRefuses (takeMessage s h) n r fault) h.peer ⟨.refuse, [r], []⟩
  have hstatus := hsent.2 (Reg.RING_STATUS n) (by unfold Reg.RING_STATUS Reg.FAB_NOROUTE; omega)
  refine ⟨_, tryMessage_of_fresh hfresh harrives, takenUp_of_accepted (s := s) ?_, (bitAt_congr hstatus 6).trans hbit, ?_, ?_, ?_,
    fun hr => ?_, fun hr => ⟨?_, ?_⟩⟩
  · rw [hsent.accepted_eq, hfab]
  · rw [hsent.2 _ (by unfold Reg.RING_TAIL Reg.FAB_NOROUTE; omega), htail, htaken.reg_eq]
  · rw [hsent.1]
    exact hentries.trans htaken.entries_eq
  · refine (nextMsgOf_sendMessage _ _ ⟨.refuse, [r], []⟩).trans ?_
    rw [nextMsgOf_congr (s := s) (by rw [hfab, htaken.nextMsg_eq])]
    rfl
  · subst hr
    have hsome := tailFault_of_refused hreason
    rw [← hn, hfault] at hsome
    exact (bitAt_congr hstatus 7).trans (ringRefuses_addrErr _ hlt hsome)
  · refine (setStatus_ringStatus_takes (takeMessage s h) (b := 6) (by decide) hlt).congr (htaken.reg_eq _).symm ?_
    rw [hstatus, ringRefuses_of_ne _ _ _ hr]
  · obtain ⟨hset, -⟩ := setStatus_ringStatus_only (takeMessage s h) 6 hlt
    rw [hsent.1, ringRefuses_of_ne _ _ _ hr]
    exact (by rw [hset] : _ = (takeMessage s h).mem).trans htaken.mem_eq

/-- Settles O29: the checks see the same ring before and after the message is taken up, and answering it leaves the ring. -/
theorem remotePacketIsWrittenOrRefused : Obligations.RemotePacketIsWrittenOrRefused := by
  unfold Obligations.RemotePacketIsWrittenOrRefused
  simp only [exec_solocMessage]
  intro s h p n size hfresh hn hsize hfirst
  refine ⟨fun hgood hreach => ?_, fun r hrefused => ?_⟩
  · obtain ⟨u, hu, htaken, htail, hentries, hbytes⟩ := solocMessage_written hfresh hn hsize hgood hreach
    obtain ⟨t, hnext, hregs, hmem, hundef, hents, hfab⟩ := act_leaves ((if_pos hfirst).trans hu)
    refine ⟨t, hnext, ?_, htail.congr rfl (reg_congr hregs _), hents.trans hentries, fun a ha hlow hhigh hlen => ?_⟩
    · unfold TakenUp at *
      rwa [hfab]
    · exact (peekBytes_skerry_congr hmem hundef 64 a hlow hhigh).trans (hbytes a ha hlow hhigh hlen)
  · obtain ⟨u, hu, htaken, hbit, htail, hentries, hnumber, hfault, hplain⟩ := solocMessage_refused hfresh hn hrefused
    obtain ⟨t, hnext, hregs, hmem, hundef, hents, hfab⟩ := act_leaves ((if_pos hfirst).trans hu)
    refine ⟨t, hnext, ?_, (bitAt_congr (reg_congr hregs _) 6).trans hbit, (reg_congr hregs _).trans htail, hents.trans hentries,
      (nextMsgOf_congr (by rw [hfab]) _ _).trans hnumber, fun hr => (bitAt_congr (reg_congr hregs _) 7).trans (hfault hr), fun hr => ?_⟩
    · unfold TakenUp at *
      rwa [hfab]
    · obtain ⟨htakes, hsame⟩ := hplain hr
      exact ⟨htakes.congr rfl (reg_congr hregs _), hmem.trans hsame⟩

end Sys2Proof.Machine
end

section
/-! PROOFS. Commits requested, and the control opcodes (R48, R59, R62, R63, R65, R414, R415). -/

namespace Sys2Proof.Machine

open Sys2Proof

theorem exec_commitRequest (block ring : Fin 16) (s : State) :
    exec (.commitRequest block ring) s = act (whenReady (fun s => requestCommit s (rowKey block ring))) s := rfl

theorem exec_nop (tag : Fin 1024) (s : State) :
    exec (.nop tag) s = act (controlRow 0x00 (fun _ => true) (fun s e => controlEnds s e ⟨0, 0, 0, 0, 0⟩) tag.val) s := rfl

theorem exec_wait (tag : Fin 1024) (s : State) :
    exec (.wait tag) s = act (controlRow 0x03 (fun _ => true) (fun s e => controlEnds s e ⟨0, 0, 0, 0, 0⟩) tag.val) s := rfl

theorem exec_signal (tag : Fin 1024) (s : State) :
    exec (.signal tag) s = act (controlRow 0x02 signalBodyOk (fun s e => controlEnds s e ⟨0, 0, 0, 0, 0⟩) tag.val) s := rfl

theorem exec_fence (tag : Fin 1024) (s : State) : exec (.fence tag) s = act (fenceRow tag.val) s := rfl

theorem exec_configCommit (tag : Fin 1024) (s : State) :
    exec (.configCommit tag) s = act (controlRow 0x04 (fun e => bodyZero e 2 16) configCommit tag.val) s := rfl

theorem exec_slotSwitch (tag : Fin 1024) (s : State) : exec (.slotSwitch tag) s =
    act (controlRow 0x05 (fun e => decide (bodyAt e 0 1 < 64) && bodyZero e 1 16) slotSwitch tag.val) s := rfl

/-! ## Commits requested (R65, R415) -/

theorem requestCommit_of_applying {s : State} {key : Nat} (h : isApplying s key = true) : requestCommit s key = s := by
  simp [requestCommit, h]

/-- The pending shadows of a key. -/
def pendingSet (s : State) (key : Nat) : List (Nat × Word) := s.shadow.filter (fun p => decide (commitKey p.1 = key))

/-- The state without them. -/
def withoutPending (s : State) (key : Nat) : State := { s with shadow := s.shadow.filter (fun p => decide (commitKey p.1 ≠ key)) }

/-- A commit that waits for a quiet point is APPLYING once it is requested. -/
theorem requestCommit_of_waiting {s : State} {key : Nat} (hidle : isApplying s key = false) (hset : pendingSet s key ≠ [])
    (h10 : key ≠ 10) (h11 : key ≠ 11) : requestCommit s key = { withoutPending s key with
      applying := s.applying ++ [⟨key, if key = 6 then fabricSet (pendingSet s key) else pendingSet s key⟩] } := by
  have hempty : (pendingSet s key).isEmpty = false := by simpa using hset
  unfold pendingSet at hempty
  simp [requestCommit, hidle, hempty, h10, h11, withoutPending, pendingSet]

/-- RAS and Undertow apply their sets at once. -/
theorem requestCommit_of_atOnce {s : State} {key : Nat} (hidle : isApplying s key = false) (hset : pendingSet s key ≠ [])
    (h : key = 10 ∨ key = 11) : requestCommit s key = applyWords (withoutPending s key) (pendingSet s key) := by
  have hempty : (pendingSet s key).isEmpty = false := by simpa using hset
  unfold pendingSet at hempty
  rcases h with rfl | rfl <;> simp [requestCommit, hidle, hempty, applyBlock, withoutPending, pendingSet]

theorem mem_withoutPending (s : State) (key : Nat) (p : Nat × Word) :
    p ∈ (withoutPending s key).shadow ↔ p ∈ s.shadow ∧ p ∉ pendingSet s key := by
  simp only [withoutPending, pendingSet, List.mem_filter, decide_eq_true_eq]
  tauto

theorem isPendingKey_eq_false_of {s : State} {key : Nat} (happlying : isApplying s key = false)
    (hshadow : ∀ p ∈ s.shadow, commitKey p.1 ≠ key) : isPendingKey s key = false := by
  simpa [isPendingKey, happlying] using hshadow

/-- Settles O15: a request moves the pending shadows of its key into the set, which RAS and Undertow apply in the same step. -/
theorem commitRequestTakesThePendingShadows : Obligations.CommitRequestTakesThePendingShadows := by
  unfold Obligations.CommitRequestTakesThePendingShadows
  simp only [exec_commitRequest]
  rintro s block ring key set hready rfl hset
  have hset' : set = pendingSet s (rowKey block ring) := hset
  have hrow {t : State} (h : requestCommit s (rowKey block ring) = t) :
      whenReady (fun s => requestCommit s (rowKey block ring)) s = t := (whenReady_true hready).trans h
  refine ⟨fun happlying => ?_, fun hidle hne h6 h10 h11 => ?_, fun hidle hne hnodup hkey => ?_⟩
  · exact act_eq_of_eq (hrow (requestCommit_of_applying happlying)) rfl rfl rfl
  · have heq := hrow (requestCommit_of_waiting hidle (hset' ▸ hne) h10 h11)
    rw [if_neg h6, ← hset'] at heq
    exact ⟨_, act_eq_of_eq heq rfl rfl rfl, rfl, fun p => hset' ▸ mem_withoutPending s _ p⟩
  · have heq := hrow (requestCommit_of_atOnce hidle (hset' ▸ hne) hkey)
    rw [← hset'] at heq
    have hframe := applyWords_eq set (withoutPending s (rowKey block ring))
    refine ⟨_, act_eq_of_eq heq (by rw [hframe]; rfl) (by rw [hframe]; rfl) (by rw [hframe]; rfl),
      setApplied_applyWords set (withoutPending s _) hnodup, ?_, by rw [hframe]; rfl, by rw [hframe]; rfl⟩
    rw [hframe]
    exact isPendingKey_eq_false_of hidle fun p hp => by simpa using (List.mem_filter.mp hp).2

/-! ## Tracking entries -/

/-- The entry of a tag once it is changed. -/
theorem entryOf_setEntry (s : State) (tag : Nat) {f : Entry → Entry} (hf : ∀ e, e.tag = tag → (f e).tag = tag) :
    entryOf (setEntry s tag f) tag = (entryOf s tag).map f := by
  have hsame : (fun e : Entry => decide (e.tag = tag)) ∘ (fun e => if e.tag = tag then f e else e) = fun e => decide (e.tag = tag) := by
    funext e
    by_cases h : e.tag = tag
    · simp [h, hf e h]
    · simp [h]
  unfold entryOf setEntry
  rw [List.find?_map, hsame]
  refine Option.map_congr fun e he => if_pos ?_
  simpa using List.find?_some he

theorem entryOf_tag {s : State} {tag : Nat} {e : Entry} (h : entryOf s tag = some e) : e.tag = tag := by simpa using List.find?_some h

theorem entryOf_mem {s : State} {tag : Nat} {e : Entry} (h : entryOf s tag = some e) : e ∈ s.entries := List.mem_of_find?_eq_some h

/-- The entries of the other tags stand. -/
theorem mem_setEntry_of_ne {s : State} {tag : Nat} (f : Entry → Entry) {c : Entry} (hc : c ∈ s.entries) (hne : c.tag ≠ tag) :
    c ∈ (setEntry s tag f).entries := List.mem_map.mpr ⟨c, hc, if_neg hne⟩

theorem mem_setEntry {s : State} {tag : Nat} {f : Entry → Entry} {c : Entry} (h : c ∈ (setEntry s tag f).entries) :
    (∃ e ∈ s.entries, e.tag = tag ∧ c = f e) ∨ c ∈ s.entries ∧ c.tag ≠ tag := by
  obtain ⟨e, he, rfl⟩ := List.mem_map.mp h
  by_cases htag : e.tag = tag
  · exact Or.inl ⟨e, he, htag, if_pos htag⟩
  · rw [if_neg htag]
    exact Or.inr ⟨he, htag⟩

theorem setEntry_eq (s : State) (tag : Nat) (f : Entry → Entry) :
    setEntry s tag f = { s with entries := (setEntry s tag f).entries } := rfl

/-- A control command that ends, whose entry stands under its tag. -/
theorem controlEnds_finished {s : State} {e c : Entry} (o : Done) (h : entryOf s e.tag = some c) :
    FinishedWith (controlEnds s e o) e.tag o :=
  ⟨{ c with phase := .finished o }, (entryOf_setEntry s e.tag (f := fun c => { c with phase := .finished o }) fun _ h => h).trans
    (congrArg (Option.map _) h), rfl⟩

/-! ## Control opcodes dispatched (R48, R62) -/

/-- The entry with which a control command is dispatched: its place in the order of dispatch, and NOTES bit 0. -/
def controlEntry (s : State) (e : Entry) : Entry := { e with disp := s.readSeq, notes := e.notes ||| b2n (decide (belowFloor s ≠ 0)) }

/-- The state in which it is dispatched. -/
def controlState (s : State) (tag : Nat) (e : Entry) : State :=
  setEntry { s with readSeq := s.readSeq + 1 } tag (fun _ => controlEntry s e)

/-- A control command ready to be dispatched, whatever its slot. -/
def ControlDue (s : State) (tag op : Nat) (e : Entry) : Prop :=
  entryOf s tag = some e ∧ pktOp e.pkt = op ∧ e.phase = .ready ∧ solocReady s = true ∧ blockedByCommit s e = false

theorem ControlReady.due {s : State} {tag op : Nat} {e : Entry} (h : ControlReady s tag op e) : ControlDue s tag op e := by
  obtain ⟨hentry, hop, hphase, hready, hblocked, -⟩ := h
  exact ⟨hentry, hop, hphase, hready, hblocked⟩

theorem ControlReady.slot_loaded {s : State} {tag op : Nat} {e : Entry} (h : ControlReady s tag op e) : slotLoaded s e.slot = true := by
  obtain ⟨-, -, -, -, -, hslot⟩ := h
  exact hslot

/-- The other entries stand at a control command's dispatch, and its own keeps all but its place and notes. -/
theorem mem_controlState {s : State} {tag : Nat} {e c : Entry} (hc : c ∈ (controlState s tag e).entries) : c = controlEntry s e ∨ c ∈ s.entries := by
  rcases mem_setEntry hc with ⟨_, -, -, rfl⟩ | ⟨hmem, -⟩
  · exact Or.inl rfl
  · exact Or.inr hmem

section

variable {s : State} {tag op : Nat} {e : Entry} (h : ControlDue s tag op e)
include h

theorem ControlDue.entry : entryOf s tag = some e := h.1

theorem ControlDue.tag_eq : e.tag = tag := entryOf_tag h.entry

/-- What a control command does where its slot is loaded. -/
theorem controlRow_of_loaded {bodyOk : Entry → Bool} (f : State → Entry → State) (hbody : bodyOk e = true)
    (hslot : slotLoaded s e.slot = true) : controlRow op bodyOk f tag s = f (controlState s tag e) (controlEntry s e) := by
  obtain ⟨hentry, hop, hphase, hready, hblocked⟩ := h
  simp [controlRow, hentry, hop, hphase, hready, hblocked, hbody, hslot, controlState, controlEntry]

/-- What it does where its slot is not loaded. -/
theorem controlRow_of_unloaded {bodyOk : Entry → Bool} (f : State → Entry → State) (hbody : bodyOk e = true)
    (hslot : slotLoaded s e.slot = false) :
    controlRow op bodyOk f tag s = controlEnds (controlState s tag e) (controlEntry s e) ⟨0x20, 0x02, 0, 0, 0⟩ := by
  obtain ⟨hentry, hop, hphase, hready, hblocked⟩ := h
  simp [controlRow, hentry, hop, hphase, hready, hblocked, hbody, hslot, controlState, controlEntry]

theorem entryOf_controlState : entryOf (controlState s tag e) tag = some (controlEntry s e) :=
  (entryOf_setEntry _ tag (f := fun _ => controlEntry s e) fun _ _ => h.tag_eq).trans (congrArg (Option.map _) h.entry)

/-- A control command that ends in a state in which its entry is as it was dispatched. -/
theorem controlEnds_dispatched {t : State} (o : Done) (ht : t.entries = (controlState s tag e).entries) :
    FinishedWith (controlEnds t (controlEntry s e) o) tag o := by
  have hentry : entryOf t (controlEntry s e).tag = some (controlEntry s e) := by
    have hstate := entryOf_controlState h
    unfold entryOf at hstate ⊢
    rw [ht, show (controlEntry s e).tag = tag from h.tag_eq]
    exact hstate
  have hfinished := controlEnds_finished o hentry
  rwa [show (controlEntry s e).tag = tag from h.tag_eq] at hfinished

end

/-- A control command that ends at its dispatch: its entry and the order of dispatch. -/
theorem controlEnds_controlState_eq (s : State) (tag : Nat) (e c : Entry) (o : Done) :
    controlEnds (controlState s tag e) c o =
      { s with entries := (controlEnds (controlState s tag e) c o).entries, readSeq := s.readSeq + 1 } := rfl

/-- The effect of a control row that ends its command at its dispatch, whatever the outcome. -/
theorem controlRow_ends {s : State} {tag op : Nat} {e : Entry} {row : State → State} {o : Done} (h : ControlDue s tag op e)
    (hrow : row s = controlEnds (controlState s tag e) (controlEntry s e) o) :
    ∃ t, act row s = .next t ∧ FinishedWith t tag o ∧ t = { s with entries := t.entries, readSeq := s.readSeq + 1 } ∧
      ∀ c ∈ s.entries, c.tag ≠ tag → c ∈ t.entries := by
  refine ⟨_, act_eq_of_eq hrow rfl rfl rfl, controlEnds_dispatched h o rfl, rfl, fun c hc hne => ?_⟩
  refine mem_setEntry_of_ne _ (mem_setEntry_of_ne _ hc hne) ?_
  rwa [show (controlEntry s e).tag = tag from h.tag_eq]

/-! ## FENCE (R48) -/

theorem fenceRow_of_ready {s : State} {tag : Nat} {e : Entry} (h : ControlDue s tag 0x01 e) : fenceRow tag s =
    controlRow 0x01 (fun _ => true) (fun s e => if earlierDone s e then controlEnds s e ⟨0, 0, 0, 0, 0⟩
      else setEntry s e.tag (fun c => { c with phase := .running .fence })) tag s := by
  obtain ⟨hentry, -, hphase, -⟩ := h
  simp [fenceRow, hentry, hphase]

/-- The earlier packets of a ring are the same when the command is dispatched. -/
theorem earlierDone_controlState {s : State} (tag : Nat) {e : Entry} (hdone : earlierDone s e = true) :
    earlierDone (controlState s tag e) (controlEntry s e) = true := by
  refine List.all_eq_true.mpr fun c hc => ?_
  rcases mem_controlState hc with rfl | hc
  · simp
  · exact List.all_eq_true.mp hdone c hc

/-- A dispatched FENCE. -/
theorem fenceRow_of_running {s : State} {tag : Nat} {e : Entry} (hentry : entryOf s tag = some e) (hphase : e.phase = .running .fence) :
    fenceRow tag s = if earlierDone s e then controlEnds s e ⟨0, 0, 0, 0, 0⟩ else s := by
  simp [fenceRow, hentry, hphase]

/-- Settles O20: a control command that ends at its dispatch touches its own entry and the order of dispatch only. -/
theorem controlCommandsExecute : Obligations.ControlCommandsExecute := by
  unfold Obligations.ControlCommandsExecute
  refine ⟨fun s tag e i hi hready hbody => ?_, fun s tag e => ⟨fun hready hdone => ?_, fun hentry hphase => ⟨fun hdone => ?_, fun hwaits => ?_⟩⟩⟩
  · have hslot := hready.slot_loaded
    have hdue := hready.due
    simp only [List.mem_cons, List.not_mem_nil, or_false] at hi
    rcases hi with rfl | rfl | rfl
    · exact exec_nop .. ▸ controlRow_ends hdue (controlRow_of_loaded hdue _ rfl hslot)
    · exact exec_wait .. ▸ controlRow_ends hdue (controlRow_of_loaded hdue _ rfl hslot)
    · exact exec_signal .. ▸ controlRow_ends hdue (controlRow_of_loaded hdue _ (hbody rfl) hslot)
  · have hdue := hready.due
    have heq := (fenceRow_of_ready hdue).trans (controlRow_of_loaded hdue _ rfl hready.slot_loaded)
    rw [if_pos (earlierDone_controlState _ hdone)] at heq
    obtain ⟨t, hnext, hfinished, hframe, -⟩ := controlRow_ends hdue heq
    exact ⟨t, exec_fence .. ▸ hnext, hfinished, by rw [hframe], by rw [hframe]⟩
  · have heq := fenceRow_of_running hentry hphase
    rw [if_pos hdone] at heq
    have hfinished := controlEnds_finished ⟨0, 0, 0, 0, 0⟩ ((entryOf_tag hentry).symm ▸ hentry)
    rw [entryOf_tag hentry] at hfinished
    exact ⟨_, exec_fence .. ▸ act_eq_of_eq heq rfl rfl rfl, hfinished, rfl⟩
  · have heq := fenceRow_of_running hentry hphase
    rw [if_neg (by simp [hwaits])] at heq
    exact exec_fence .. ▸ act_eq_of_eq heq rfl rfl rfl

/-! ## CONFIG_COMMIT (R414, R415) -/

theorem isPendingKey_of_applying {s : State} {key : Nat} (h : isApplying s key = true) : isPendingKey s key = true := by
  simp [isPendingKey, h]

/-- A request leaves the commits that are APPLYING, and the shadows of the other keys. -/
theorem requestCommit_applying (s : State) (k : Nat) : ∃ l, (requestCommit s k).applying = s.applying ++ l := by
  by_cases happlying : isApplying s k = true
  · exact ⟨[], by rw [requestCommit_of_applying happlying, List.append_nil]⟩
  · by_cases hset : pendingSet s k = []
    · exact ⟨[], by unfold pendingSet at hset; simp [requestCommit, hset]⟩
    · have hidle := Bool.eq_false_iff.mpr happlying
      by_cases hkey : k = 10 ∨ k = 11
      · exact ⟨[], by rw [requestCommit_of_atOnce hidle hset hkey, applyWords_eq, List.append_nil]; rfl⟩
      · rw [not_or] at hkey
        exact ⟨_, by rw [requestCommit_of_waiting hidle hset hkey.1 hkey.2]⟩

theorem isApplying_requestCommit {s : State} {key : Nat} (k : Nat) (h : isApplying s key = true) :
    isApplying (requestCommit s k) key = true := by
  obtain ⟨l, hl⟩ := requestCommit_applying s k
  unfold isApplying at h ⊢
  rw [hl, List.any_append, h, Bool.true_or]

theorem pendingSet_ne_nil {s : State} {key : Nat} (hidle : isApplying s key = false) (h : isPendingKey s key = true) :
    pendingSet s key ≠ [] := by
  rw [isPendingKey, hidle, Bool.false_or, List.any_eq_true] at h
  obtain ⟨p, hp, hkey⟩ := h
  exact List.ne_nil_of_mem (List.mem_filter.mpr ⟨hp, hkey⟩)

/-- A request makes the commit of its key APPLYING, where its shadows wait for a quiet point. -/
theorem isApplying_of_requested {s : State} {key : Nat} (h : isPendingKey s key = true) (h10 : key ≠ 10) (h11 : key ≠ 11) :
    isApplying (requestCommit s key) key = true := by
  by_cases happlying : isApplying s key = true
  · exact isApplying_requestCommit key happlying
  · have hidle := Bool.eq_false_iff.mpr happlying
    rw [requestCommit_of_waiting hidle (pendingSet_ne_nil hidle h) h10 h11]
    simp [isApplying]

/-- A request of one key leaves what is pending of another. -/
theorem isPendingKey_requestCommit {s : State} {key k : Nat} (hne : key ≠ k) (h : isPendingKey s key = true) :
    isPendingKey (requestCommit s k) key = true := by
  by_cases happlying : isApplying s key = true
  · exact isPendingKey_of_applying (isApplying_requestCommit k happlying)
  · have hmem : ∃ p ∈ (requestCommit s k).shadow, commitKey p.1 = key := by
      rw [isPendingKey, Bool.eq_false_iff.mpr happlying, Bool.false_or, List.any_eq_true] at h
      obtain ⟨p, hp, hkey⟩ := h
      have hkey : commitKey p.1 = key := of_decide_eq_true hkey
      have hleft : p ∈ (withoutPending s k).shadow := List.mem_filter.mpr ⟨hp, by simpa [hkey] using hne⟩
      refine ⟨p, ?_, hkey⟩
      by_cases hbusy : isApplying s k = true
      · rwa [requestCommit_of_applying hbusy]
      · by_cases hset : pendingSet s k = []
        · unfold pendingSet at hset
          simpa [requestCommit, hset] using hp
        · have hidle := Bool.eq_false_iff.mpr hbusy
          by_cases hat : k = 10 ∨ k = 11
          · rwa [requestCommit_of_atOnce hidle hset hat, applyWords_eq]
          · rw [not_or] at hat
            rwa [requestCommit_of_waiting hidle hset hat.1 hat.2]
    obtain ⟨p, hp, hkey⟩ := hmem
    exact hkey ▸ isPendingKey_of_mem_shadow hp

/-- Requests of several keys make each commit that is pending among them APPLYING. -/
theorem isApplying_requests {key : Nat} (h10 : key ≠ 10) (h11 : key ≠ 11) : ∀ (l : List Nat) (s : State),
    isApplying s key = true ∨ isPendingKey s key = true ∧ key ∈ l → isApplying (l.foldl requestCommit s) key = true
  | [], s, h => h.resolve_right fun hc => List.not_mem_nil hc.2
  | k :: l, s, h => by
    refine isApplying_requests h10 h11 l (requestCommit s k) ?_
    rcases h with h | ⟨hpending, hmem⟩
    · exact Or.inl (isApplying_requestCommit k h)
    · by_cases hkey : key = k
      · exact Or.inl (hkey ▸ isApplying_of_requested hpending h10 h11)
      · exact Or.inr ⟨isPendingKey_requestCommit hkey hpending, (List.mem_cons.mp hmem).resolve_left hkey⟩

/-- The keys that BLOCK_MASK names. -/
def namedKeys (e : Entry) : List Nat := ((seqFrom 0 16).filter (fun b => bit (bodyAt e 0 2) b)).flatMap keysOfBlock

/-- The keys that a CONFIG_COMMIT requests: pending, and not APPLYING. -/
def keysToRequest (s : State) (e : Entry) : List Nat := (namedKeys e).filter (fun k => !isApplying s k && isPendingKey s k)

/-- However a CONFIG_COMMIT goes on, it has requested its keys. -/
theorem configCommit_applying (s : State) (e : Entry) :
    (configCommit s e).applying = ((keysToRequest s e).foldl requestCommit s).applying := by
  unfold configCommit
  simp only
  split <;> rfl

theorem configCommit_requests {s : State} {e : Entry} {k : Nat} (hk : k ∈ namedKeys e) (h10 : k ≠ 10) (h11 : k ≠ 11)
    (h : isPendingKey s k = true) : isApplying (configCommit s e) k = true := by
  unfold isApplying
  rw [configCommit_applying]
  refine isApplying_requests h10 h11 _ s ?_
  by_cases happlying : isApplying s k = true
  · exact Or.inl happlying
  · exact Or.inr ⟨h, List.mem_filter.mpr ⟨hk, by simp [happlying, h]⟩⟩

/-- A CONFIG_COMMIT that finds nothing pending ends at once. -/
theorem configCommit_of_nothing {s : State} {e : Entry} (h : ∀ k ∈ namedKeys e, isPendingKey s k = false ∧ isApplying s k = false) :
    configCommit s e = controlEnds s e ⟨0, 0, 0, 0, 0⟩ := by
  have hask : keysToRequest s e = [] := List.filter_eq_nil_iff.mpr fun k hk => by simp [h k hk]
  have hagain : (namedKeys e).filter (isApplying s) = [] := List.filter_eq_nil_iff.mpr fun k hk => by simp [h k hk]
  have hresult : (namedKeys e).foldl (fun r k => if isPendingKey s k then withBit r (blockOfKey k) else r) 0 = 0 :=
    List.foldlRecOn (motive := fun r => r = 0) _ _ rfl fun r hr k hk => by simp [h k hk, hr]
  unfold keysToRequest namedKeys at hask
  unfold namedKeys at hagain hresult
  simp only [configCommit, hask, hagain, hresult]
  rfl

/-! ## SLOT_SWITCH (R63) -/

/-- A switch to a loaded slot that no collective holds back. -/
theorem slotSwitch_of_loaded {s : State} {e : Entry} {old new : Nat} (hold : s.fieldAt (Reg.SLOT_ACTIVE e.ring) 5 0 = old)
    (hnew : bodyAt e 0 1 = new) (hlt : new < 64) (hne : new ≠ old) (hslot : slotLoaded s new = true)
    (hfree : ∀ c ∈ s.entries, c.slot = old → ¬ (0x50 ≤ pktOp c.pkt ∧ pktOp c.pkt ≤ 0x54)) :
    slotSwitch s e = controlEnds (s.setField (Reg.SLOT_ACTIVE e.ring) 5 0 new) e ⟨0, 0, 0, old, 0⟩ := by
  have hnone : s.entries.any (fun c => decide (c.slot = old) && decide (0x50 ≤ pktOp c.pkt ∧ pktOp c.pkt ≤ 0x54)) = false :=
    List.any_eq_false.mpr fun c hc => by
      rw [Bool.and_eq_true, decide_eq_true_eq, decide_eq_true_eq]
      exact fun h => hfree c hc h.1 h.2
  simp only [slotSwitch, hold, hnew, Nat.mod_eq_of_lt hlt, if_neg hne, hslot, hnone]
  rfl

/-- A switch to a slot that is not loaded is refused. -/
theorem slotSwitch_of_unloaded {s : State} {e : Entry} {old new : Nat} (hold : s.fieldAt (Reg.SLOT_ACTIVE e.ring) 5 0 = old)
    (hnew : bodyAt e 0 1 = new) (hlt : new < 64) (hne : new ≠ old) (hslot : slotLoaded s new = false) :
    slotSwitch s e = controlEnds (s.setBit (Reg.RING_STATUS e.ring) 10 true) e ⟨0x20, 0x02, 0, 0, 0⟩ := by
  simp only [slotSwitch, hold, hnew, Nat.mod_eq_of_lt hlt, if_neg hne, hslot]
  rfl

/-- A control command that ends after a change of one register. -/
theorem controlRow_ends_setReg {s : State} {tag op off : Nat} {e : Entry} {row : State → State} {o : Done} {w : Word}
    (h : ControlDue s tag op e) (hrow : row s = controlEnds ((controlState s tag e).setReg off w) (controlEntry s e) o) :
    ∃ t, act row s = .next t ∧ t.reg off = w ∧ FinishedWith t tag o ∧ t.mem = s.mem ∧ ∀ j, j ≠ off → t.reg j = s.reg j := by
  refine ⟨_, act_eq_of_eq hrow rfl rfl rfl, ?_, controlEnds_dispatched h o rfl, rfl, fun j hj => ?_⟩
  · exact reg_setReg_same ..
  · exact reg_setReg_ne _ _ hj

theorem reg_controlState (s : State) (tag : Nat) (e : Entry) (off : Nat) : (controlState s tag e).reg off = s.reg off := rfl

/-- The keys a row leaves in application are those of its step's result. -/
theorem act_applying {f : State → State} {s u : State} (h : f s = u) : ∃ t, act f s = .next t ∧ t.applying = u.applying := by
  subst h
  exact ⟨_, rfl, rfl⟩

theorem isApplying_congr {s t : State} (h : t.applying = s.applying) (k : Nat) : isApplying s k = isApplying t k := by
  unfold isApplying
  rw [h]

/-- Settles O21: a request keeps what is pending of the other keys, so each named key is APPLYING in the end; SLOT_SWITCH has the branches
of the statement. -/
theorem configCommitAndSlotSwitchTakeEffect : Obligations.ConfigCommitAndSlotSwitchTakeEffect := by
  unfold Obligations.ConfigCommitAndSlotSwitchTakeEffect
  simp only [exec_configCommit, exec_slotSwitch]
  refine ⟨fun s tag e keys hready hbody hkeys => ?_, fun s tag e old new hready hbody hnew hlt hold hne => ?_⟩
  · have hdue := hready.due
    have hrow := controlRow_of_loaded hdue (bodyOk := fun e => bodyZero e 2 16) configCommit hbody hready.slot_loaded
    have hkeys : keys = namedKeys (controlEntry s e) := hkeys
    by_cases hnothing : ∀ k ∈ keys, isPendingKey s k = false ∧ isApplying s k = false
    · have hrow := hrow.trans (configCommit_of_nothing (s := controlState s tag.val e) fun k hk => hnothing k (hkeys ▸ hk))
      obtain ⟨t, hnext, hfinished, hframe, -⟩ := controlRow_ends hdue hrow
      refine ⟨t, hnext, fun k hk _ _ hpending => ?_, fun _ => ⟨hfinished, by rw [hframe]⟩⟩
      simp [(hnothing k hk).1] at hpending
    · obtain ⟨t, hnext, happlying⟩ := act_applying hrow
      refine ⟨t, hnext, fun k hk h10 h11 hpending => ?_, fun h => absurd h hnothing⟩
      refine isApplying_congr happlying k ▸ ?_
      exact configCommit_requests (s := controlState s tag.val e) (hkeys ▸ hk) h10 h11 hpending
  · have hdue := hready.due
    have hbodyOk : (decide (bodyAt e 0 1 < 64) && bodyZero e 1 16) = true := by simp [← hnew, hlt, hbody]
    have hrow := controlRow_of_loaded hdue (bodyOk := fun e => decide (bodyAt e 0 1 < 64) && bodyZero e 1 16) slotSwitch hbodyOk
      hready.slot_loaded
    refine ⟨fun hslot hfree => ?_, fun hslot => ?_⟩
    · have hstill (c : Entry) (hc : c ∈ (controlState s tag.val e).entries) (hcold : c.slot = old) :
          ¬ (0x50 ≤ pktOp c.pkt ∧ pktOp c.pkt ≤ 0x54) := by
        rcases mem_controlState hc with rfl | hc
        · exact hfree e (entryOf_mem hdue.entry) hcold
        · exact hfree c hc hcold
      have hrow := hrow.trans (slotSwitch_of_loaded (s := controlState s tag.val e) hold.symm hnew.symm hlt hne hslot hstill)
      obtain ⟨t, hnext, hreg, hfinished, hmem, hother⟩ := controlRow_ends_setReg hdue hrow
      refine ⟨t, hnext, ?_, hfinished, hmem, hother⟩
      exact (fieldTakes_setField s _ (by decide) hlt).congr rfl (hreg.trans (reg_setReg_same ..).symm)
    · have hrow := hrow.trans (slotSwitch_of_unloaded (s := controlState s tag.val e) hold.symm hnew.symm hlt hne hslot)
      obtain ⟨t, hnext, hreg, hfinished, hmem, hother⟩ := controlRow_ends_setReg hdue hrow
      refine ⟨t, hnext, ?_, hfinished, hmem, hother⟩
      exact (bitTakes_setBit s _ true (by decide)).congr rfl (hreg.trans (reg_setReg_same ..).symm)

/-! ## Slots that are not loaded (R62) -/

/-- NOP, WAIT and FENCE of a slot that is not loaded are refused at their dispatch. -/
theorem control_refused {s : State} {tag : Fin 1024} {e : Entry} {i : Instr × Nat}
    (hi : i ∈ [(Instr.nop tag, 0x00), (Instr.wait tag, 0x03), (Instr.fence tag, 0x01)]) (hdue : ControlDue s tag.val i.2 e)
    (hslot : slotLoaded s e.slot = false) : ∃ t, exec i.1 s = .next t ∧ FinishedWith t tag.val ⟨0x20, 0x02, 0, 0, 0⟩ ∧
      t = { s with entries := t.entries, readSeq := s.readSeq + 1 } := by
  have hends {row : State → State} (hrow : row s = controlEnds (controlState s tag.val e) (controlEntry s e) ⟨0x20, 0x02, 0, 0, 0⟩) :
      ∃ t, act row s = .next t ∧ FinishedWith t tag.val ⟨0x20, 0x02, 0, 0, 0⟩ ∧
        t = { s with entries := t.entries, readSeq := s.readSeq + 1 } := by
    obtain ⟨t, hnext, hfinished, hframe, -⟩ := controlRow_ends hdue hrow
    exact ⟨t, hnext, hfinished, hframe⟩
  simp only [List.mem_cons, List.not_mem_nil, or_false] at hi
  rcases hi with rfl | rfl | rfl
  · exact exec_nop .. ▸ hends (controlRow_of_unloaded hdue _ rfl hslot)
  · exact exec_wait .. ▸ hends (controlRow_of_unloaded hdue _ rfl hslot)
  · exact exec_fence .. ▸ hends ((fenceRow_of_ready hdue).trans (controlRow_of_unloaded hdue _ rfl hslot))

end Sys2Proof.Machine
end

section
/-! PROOFS. Runs that nothing interrupts: the units' opcodes and the commands that go on (R43, R49, R62, R64, R242, R355). -/

namespace Sys2Proof.Machine

open Sys2Proof

/-! ## The rows -/

theorem exec_unitRow {tag : Fin 1024} {failing : List Nat} {r : Instr × Nat × Job} (hr : r ∈ unitRows tag failing) (s : State) :
    exec r.1 s = act (runRow r.2.1 r.2.2 tag.val) s := by
  simp only [unitRows, List.cons_append, List.nil_append, List.mem_cons, List.not_mem_nil, or_false] at hr
  obtain rfl | rfl | rfl | rfl | rfl | rfl | rfl | rfl | rfl | rfl | rfl | rfl | rfl | rfl | rfl | rfl | rfl | rfl | rfl | rfl | rfl | rfl |
    rfl | rfl | rfl | rfl | rfl | rfl | rfl := hr
  all_goals rfl

theorem exec_tideWaitExit (tag : Fin 1024) (s : State) :
    exec (.tideWaitExit tag) s = act (fun s => resumeFrom s tag.val .tide) s := rfl

theorem exec_updateSlotWaitExit (tag : Fin 1024) (s : State) :
    exec (.updateSlotWaitExit tag) s = act (updateGoesOn tag.val) s := rfl

theorem exec_checkpointWaitExit (tag : Fin 1024) (s : State) :
    exec (.checkpointWaitExit tag) s = act (fun s => resumeFrom s tag.val .checkpoint) s := rfl

theorem exec_operationEnqueue (tag : Fin 1024) (s : State) :
    exec (.operationEnqueue tag) s = act (fun s => resumeFrom s tag.val .queueRoom) s := rfl

theorem exec_serialisedOperationStart (tag : Fin 1024) (s : State) :
    exec (.serialisedOperationStart tag) s = act (fun s => resumeFrom s tag.val .serialised) s := rfl

theorem exec_tileWake (tile : Fin 512) (s : State) : exec (.tileWake tile) s = act (powered (wakeTile tile.val)) s := rfl

/-! ## What a finished run leaves -/

theorem dropRecords_eq (s : State) (outs : List (Nat × Nat)) : dropRecords s outs = { s with replay := (dropRecords s outs).replay } := by
  unfold dropRecords
  split <;> rfl

theorem noteUsed_eq (s : State) (e : Entry) : noteUsed s e = { s with power := (noteUsed s e).power } := by
  unfold noteUsed
  simp only
  split <;> rfl

section

variable (s : State) (e : Entry)

@[simp] theorem noteUsed_regs : (noteUsed s e).regs = s.regs := by rw [noteUsed_eq]
@[simp] theorem noteUsed_mem : (noteUsed s e).mem = s.mem := by rw [noteUsed_eq]
@[simp] theorem noteUsed_undef : (noteUsed s e).undef = s.undef := by rw [noteUsed_eq]
@[simp] theorem noteUsed_entries : (noteUsed s e).entries = s.entries := by rw [noteUsed_eq]
@[simp] theorem noteUsed_undertow : (noteUsed s e).undertow = s.undertow := by rw [noteUsed_eq]

variable (env : Env) (o : Done)

/-- The state that a finished command leaves: its own entry, the replay records its outputs drop. -/
theorem finishWith_eq :
    finishWith s e env o = { s with entries := (finishWith s e env o).entries, replay := (finishWith s e env o).replay } := by
  obtain ⟨r, hr⟩ : ∃ r, dropRecords s env.outs = { s with replay := r } := ⟨_, dropRecords_eq ..⟩
  unfold finishWith
  rw [hr]
  rfl

@[simp] theorem finishWith_regs : (finishWith s e env o).regs = s.regs := by rw [finishWith_eq]
@[simp] theorem finishWith_mem : (finishWith s e env o).mem = s.mem := by rw [finishWith_eq]
@[simp] theorem finishWith_undef : (finishWith s e env o).undef = s.undef := by rw [finishWith_eq]

end

theorem entryOf_congr {s t : State} (h : t.entries = s.entries) (tag : Nat) : entryOf t tag = entryOf s tag := by
  unfold entryOf
  rw [h]

theorem FinishedWith.congr {s t : State} {tag : Nat} {o : Done} (h : FinishedWith s tag o) (ht : t.entries = s.entries) : FinishedWith t tag o := by
  obtain ⟨e, he, hphase⟩ := h
  exact ⟨e, (entryOf_congr ht tag).trans he, hphase⟩

theorem finishWith_finished {s : State} {e c : Entry} (env : Env) (o : Done) (h : entryOf s e.tag = some c) :
    FinishedWith (finishWith s e env o) e.tag o := by
  have hdrop : entryOf (dropRecords s env.outs) e.tag = some c := (entryOf_congr (by rw [dropRecords_eq]) _).trans h
  refine ⟨_, (entryOf_setEntry (dropRecords s env.outs) e.tag
    (f := fun c => { keepRun env c with phase := .finished o, ins := env.ins, outs := env.outs }) fun _ h => h).trans
    (congrArg (Option.map _) hdrop), rfl⟩

/-- A clean run's end: no race, no poison and no tile fault changes the outcome or the state. -/
theorem settleDone_of_clean {e : Entry} {env : Env} (o : Done) (hpoison : env.poison = none) (hundertow : env.s.undertow = [])
    (hrace : racingBytes env.s e env = []) : settleDone e env o = finishWith (noteUsed env.s e) e env (settled e env o) := by
  simp [settleDone, hrace, undefOutputs, injectTiles, hundertow, hpoison, settled]

/-! ## Commands run from their entries

`runEntry` in two parts: where a run starts, and how it ends. -/

/-- The entry with which a command starts a run. -/
def startEntry (s : State) (e : Entry) : Entry :=
  let e1 := if decide (e.phase = .ready) || r64Wait e then { e with policy := s.reg Reg.RAS_POLICY } else e
  if e.phase = .ready then { e1 with disp := s.readSeq, notes := e.notes ||| b2n (decide (belowFloor s ≠ 0)) } else e1

/-- The state it starts from. -/
def startState (s : State) (e : Entry) : State :=
  setEntry (if e.phase = .ready then { s with readSeq := s.readSeq + 1 } else s) (startEntry s e).tag (fun _ => startEntry s e)

/-- What only BAD_FORMAT precedes at its start. -/
def startFault (s : State) (e : Entry) : Option Done := if e.phase = .ready then dispatchFault s (startEntry s e) else none

/-- The end of a run of `e` from `base`, where `held` says whether a commit of the Memory block holds back what reaches memory. -/
def runEnds (s base : State) (e : Entry) (held : Bool) (fault : Option Done) (b : State) (env : Env) (x : Except Stop Done) : State :=
  if held && (env.touched || (waits x && usesMemory s e)) then s
  else match x with
    | .error x =>
      if badFirst s e x then settleStop s b e env x
      else match fault with
        | some o => finishWith base e (runEnv base e) o
        | none => settleStop s b e env x
    | .ok o => match fault with
      | some f => finishWith base e (runEnv base e) f
      | none => settleDone ((entryOf env.s e.tag).getD e) env o

/-- A run from `base`: the preparation where it is still due, then the body. -/
def runFrom (s base : State) (job : Job) (e : Entry) (ends : State → Env → Except Stop Done → State) : State :=
  if e.prepared then
    let (env, x) := runBody base job e
    ends base env x
  else
    let (x, env) := (job.prep e).run.run (runEnv base e)
    match x with
    | .error x => ends base env (.error x)
    | .ok _ =>
      match entryOf (preparedState env e.tag) e.tag with
      | none => s
      | some e1 =>
        let (env1, y) := runBody (preparedState env e.tag) job e1
        ends (preparedState env e.tag) env1 y

theorem runEntry_eq (s : State) (job : Job) (e : Entry) :
    runEntry s job e = runFrom s (startState s e) job (startEntry s e)
      (runEnds s (startState s e) (startEntry s e) ((decide (e.phase = .ready) || r64Wait e) && isApplying s 5) (startFault s e)) := rfl

theorem startEntry_of_ready {s : State} {e : Entry} (h : e.phase = .ready) : startEntry s e = dispatched s e := by
  simp [startEntry, dispatched, h]

theorem startState_of_ready {s : State} {e : Entry} (h : e.phase = .ready) : startState s e = dispatchedState s e := by
  unfold startState
  rw [startEntry_of_ready h, if_pos h]
  rfl

theorem startFault_of_ready {s : State} {e : Entry} (h : e.phase = .ready) : startFault s e = dispatchFault s (dispatched s e) := by
  rw [startFault, if_pos h, startEntry_of_ready h]

theorem startEntry_of_waiting {s : State} {e : Entry} (h : e.phase ≠ .ready) : startEntry s e = resumed s e := by
  simp [startEntry, resumed, h]

theorem resumed_tag (s : State) (e : Entry) : (resumed s e).tag = e.tag := by
  unfold resumed
  split <;> rfl

theorem startState_of_waiting {s : State} {e : Entry} (h : e.phase ≠ .ready) :
    startState s e = setEntry s e.tag (fun _ => resumed s e) := by
  unfold startState
  rw [startEntry_of_waiting h, if_neg h, resumed_tag]

theorem startFault_of_waiting {s : State} {e : Entry} (h : e.phase ≠ .ready) : startFault s e = none := if_neg h

/-- A run to its end that no commit of the Memory block holds back. -/
theorem runEnds_ok {s base : State} {e : Entry} {held : Bool} (fault : Option Done) (b : State) (env : Env) (o : Done)
    (h : held = false) : runEnds s base e held fault b env (.ok o) = match fault with
      | some f => finishWith base e (runEnv base e) f
      | none => settleDone ((entryOf env.s e.tag).getD e) env o := by
  simp [runEnds, h]

section

variable {s base : State} {job : Job} {e e3 : Entry} {env : Env} {o : Done}

/-- A clean run reaches its end. -/
theorem runFrom_of_clean (h : RunsClean base job e e3 env o) (ends : State → Env → Except Stop Done → State) :
    ∃ b, runFrom s base job e ends = ends b env (.ok o) := by
  obtain ⟨hruns, -⟩ := h
  unfold runFrom
  by_cases hprep : e.prepared = true
  · rw [if_pos hprep] at hruns
    rw [if_pos hprep, hruns]
    exact ⟨_, rfl⟩
  · rw [if_neg hprep] at hruns
    obtain ⟨env0, e2, hprepare, hentry, hbody⟩ := hruns
    rw [if_neg hprep, hprepare]
    simp only [hentry, hbody]
    exact ⟨_, rfl⟩

/-- No APPLYING commit of the Memory block holds the command back. -/
theorem NoMemoryCommit.goes (h : NoMemoryCommit s e) : ((decide (e.phase = .ready) || r64Wait e) && isApplying s 5) = false := by
  rcases h with h | ⟨hready, hwait⟩
  · simp [h]
  · simp [hready, hwait]

/-- A clean run of a command that nothing precedes ends as its body left it. -/
theorem runEntry_of_clean (hcommit : NoMemoryCommit s e) (hfault : startFault s e = none)
    (hrun : RunsClean (startState s e) job (startEntry s e) e3 env o) :
    runEntry s job e = finishWith (noteUsed env.s e3) e3 env (settled e3 env o) := by
  obtain ⟨b, hb⟩ := runFrom_of_clean (s := s) hrun
    (runEnds s (startState s e) (startEntry s e) ((decide (e.phase = .ready) || r64Wait e) && isApplying s 5) (startFault s e))
  obtain ⟨-, hpoison, hundertow, hentry, hrace⟩ := hrun
  rw [runEntry_eq, hb, runEnds_ok _ _ _ _ hcommit.goes, hfault, hentry]
  exact settleDone_of_clean o hpoison hundertow hrace

/-- One that something precedes ends with that, and its body's effects are dropped. -/
theorem runEntry_of_fault {f : Done} (hcommit : NoMemoryCommit s e) (hfault : startFault s e = some f)
    (hrun : RunsClean (startState s e) job (startEntry s e) e3 env o) :
    runEntry s job e = finishWith (startState s e) (startEntry s e) (runEnv (startState s e) (startEntry s e)) f := by
  obtain ⟨b, hb⟩ := runFrom_of_clean (s := s) hrun
    (runEnds s (startState s e) (startEntry s e) ((decide (e.phase = .ready) || r64Wait e) && isApplying s 5) (startFault s e))
  rw [runEntry_eq, hb, runEnds_ok _ _ _ _ hcommit.goes, hfault]

theorem finishWith_noteUsed_finished {tag : Nat} (o : Done) (hentry : entryOf env.s tag = some e) :
    FinishedWith (finishWith (noteUsed env.s e) e env o) tag o := by
  obtain rfl : e.tag = tag := entryOf_tag hentry
  exact finishWith_finished env o ((entryOf_congr (noteUsed_entries ..) _).trans hentry)

/-- What a row leaves whose command's run ended cleanly. -/
theorem act_of_clean {row : State → State} {tag : Nat} (hentry : entryOf env.s tag = some e3)
    (hrow : row s = finishWith (noteUsed env.s e3) e3 env (settled e3 env o)) :
    ∃ t, act row s = .next t ∧ FinishedWith t tag (settled e3 env o) ∧ t.mem = env.s.mem ∧ t.undef = env.s.undef ∧ t.regs = env.s.regs := by
  obtain ⟨t, hnext, hregs, hmem, hundef, hentries, -⟩ := act_leaves hrow
  refine ⟨t, hnext, (finishWith_noteUsed_finished _ hentry).congr hentries, ?_, ?_, ?_⟩
  · rw [hmem, finishWith_mem, noteUsed_mem]
  · rw [hundef, finishWith_undef, noteUsed_undef]
  · rw [hregs, finishWith_regs, noteUsed_regs]

end

/-- The row of an opcode runs its command when the command is ready and its gate open. -/
theorem runRow_of_ready {s : State} {op tag : Nat} {e : Entry} (job : Job) (hentry : entryOf s tag = some e) (hready : e.phase = .ready)
    (hop : pktOp e.pkt = op) (hgate : gateOpen s e = true) : runRow op job tag s = runEntry s job e := by
  simp [runRow, hentry, hop, hgate, mayGoOn, hready]

/-- A row that ends a wait runs its command when the command is in that wait and its gate open. -/
theorem resumeFrom_of_waiting {s : State} {tag : Nat} {w : Wait} {e : Entry} (hentry : entryOf s tag = some e)
    (hwait : e.phase = .running w) (hgate : gateOpen s e = true) : resumeFrom s tag w = runEntry s (jobOf (pktOp e.pkt)) e := by
  simp [resumeFrom, hentry, hwait, hgate]

/-- It leaves any other command as it is. -/
theorem resumeFrom_of_elsewhere {s : State} {tag : Nat} {w : Wait} {e : Entry} (hentry : entryOf s tag = some e)
    (hwait : e.phase ≠ .running w) : resumeFrom s tag w = s := by
  simp [resumeFrom, hentry, hwait]

/-- Settles O22: the row runs the command's entry, and a clean run ends as its body left it. -/
theorem unitCommandsExecute : Obligations.UnitCommandsExecute := by
  unfold Obligations.UnitCommandsExecute
  intro s tag failing e e3 env o r hr hentry hready hop hgate hcommit hfault hrun
  have htag : e.tag = tag.val := entryOf_tag hentry
  obtain ⟨-, -, -, hdone, -⟩ := id hrun
  rw [← startState_of_ready hready, ← startEntry_of_ready hready] at hrun
  rw [← startFault_of_ready hready] at hfault
  rw [exec_unitRow hr]
  exact act_of_clean (htag ▸ hdone) ((runRow_of_ready r.2.2 hentry hready hop hgate).trans (runEntry_of_clean hcommit hfault hrun))

/-- Settles O23: the refusal precedes whatever the command's body would do. -/
theorem unloadedSlotIsRefused : Obligations.UnloadedSlotIsRefused := by
  unfold Obligations.UnloadedSlotIsRefused
  refine ⟨fun s tag e i hi hentry hop hready hsoloc hblocked hslot =>
    control_refused hi ⟨hentry, hop, hready, hsoloc, hblocked⟩ hslot, ?_⟩
  intro s tag failing e e3 env o r hr hentry hready hop hgate hcommit hslot hrun
  have htag : e.tag = tag.val := entryOf_tag hentry
  have hfault : startFault s e = some ⟨0x20, 0x02, 0, 0, 0⟩ := by
    have hslot' : slotLoaded s (dispatched s e).slot = false := hslot
    rw [startFault_of_ready hready, dispatchFault, hslot']
    rfl
  rw [← startState_of_ready hready, ← startEntry_of_ready hready] at hrun
  have hrow := (runRow_of_ready r.2.2 hentry hready hop hgate).trans (runEntry_of_fault hcommit hfault hrun)
  rw [startState_of_ready hready, startEntry_of_ready hready] at hrow
  obtain ⟨t, hnext, hregs, hmem, -, hentries, -⟩ := act_leaves hrow
  have hstart : entryOf (dispatchedState s e) (dispatched s e).tag = some (dispatched s e) :=
    (entryOf_setEntry _ e.tag (f := fun _ => dispatched s e) fun _ _ => rfl).trans (congrArg (Option.map _) (htag ▸ hentry))
  have hfinished := (finishWith_finished (runEnv (dispatchedState s e) (dispatched s e)) ⟨0x20, 0x02, 0, 0, 0⟩ hstart).congr hentries
  refine ⟨t, (exec_unitRow hr s).trans hnext, ?_, hmem.trans (finishWith_mem ..), hregs.trans (finishWith_regs ..)⟩
  rwa [show (dispatched s e).tag = tag.val from htag] at hfinished

/-! ## Waits that end (R43, R64, R355) -/

/-- A command in a wait whose row comes, and whose run is clean. -/
theorem resumeFrom_of_clean {s : State} {tag : Nat} {w : Wait} {e e3 : Entry} {env : Env} {o : Done} (hentry : entryOf s tag = some e)
    (hwait : e.phase = .running w) (hgate : gateOpen s e = true) (hcommit : NoMemoryCommit s e)
    (hrun : RunsClean (setEntry s tag (fun _ => resumed s e)) (jobOf (pktOp e.pkt)) (resumed s e) e3 env o) :
    resumeFrom s tag w = finishWith (noteUsed env.s e3) e3 env (settled e3 env o) ∧ entryOf env.s tag = some e3 := by
  have htag : e.tag = tag := entryOf_tag hentry
  have hnotReady : e.phase ≠ .ready := by simp [hwait]
  obtain ⟨-, -, -, hdone, -⟩ := id hrun
  subst htag
  rw [← startState_of_waiting hnotReady, ← startEntry_of_waiting hnotReady] at hrun
  exact ⟨(resumeFrom_of_waiting hentry hwait hgate).trans (runEntry_of_clean hcommit (startFault_of_waiting hnotReady) hrun),
    resumed_tag s e ▸ hdone⟩

/-- A finished command is in no wait. -/
theorem resumeFrom_of_finished {s : State} {tag : Nat} {o : Done} (w : Wait) (h : FinishedWith s tag o) : resumeFrom s tag w = s := by
  obtain ⟨e, hentry, hphase⟩ := h
  exact resumeFrom_of_elsewhere hentry (by simp [hphase])

/-- A row that ends a wait resumes its command, which then ends. -/
theorem exec_waitRow {s : State} {tag : Fin 1024} {e : Entry} {o : Done} {r : Instr × Wait}
    (hr : r ∈ [(Instr.tideWaitExit tag, Wait.tide), (Instr.updateSlotWaitExit tag, Wait.turn), (Instr.updateSlotWaitExit tag, Wait.slot),
      (Instr.checkpointWaitExit tag, Wait.checkpoint), (Instr.operationEnqueue tag, Wait.queueRoom),
      (Instr.serialisedOperationStart tag, Wait.serialised)])
    (hentry : entryOf s tag.val = some e) (hwait : e.phase = .running r.2)
    (hfinished : FinishedWith (resumeFrom s tag.val r.2) tag.val o) :
    ∃ row, exec r.1 s = act row s ∧ row s = resumeFrom s tag.val r.2 := by
  simp only [List.mem_cons, List.not_mem_nil, or_false] at hr
  obtain rfl | rfl | rfl | rfl | rfl | rfl := hr
  · exact ⟨_, exec_tideWaitExit tag s, rfl⟩
  · exact ⟨_, exec_updateSlotWaitExit tag s, resumeFrom_of_finished .slot hfinished⟩
  · refine ⟨_, exec_updateSlotWaitExit tag s, ?_⟩
    rw [updateGoesOn, resumeFrom_of_elsewhere (w := .turn) hentry (by simp [hwait])]
  · exact ⟨_, exec_checkpointWaitExit tag s, rfl⟩
  · exact ⟨_, exec_operationEnqueue tag s, rfl⟩
  · exact ⟨_, exec_serialisedOperationStart tag s, rfl⟩

/-- TILE_WAKE of a tile that one command waits for resumes that command on the tile's supply. -/
theorem powered_wakeTile {s : State} {tile : Nat} {e : Entry} (hon : s.power.off = false) (hgated : tileGated s tile = true)
    (hnext : wakesNext s tile = true) (hwaits : s.entries.filter (waitsForTile tile) = [e]) :
    powered (wakeTile tile) s = resumeFrom (setGated s tile false) e.tag .gated := by
  have hany : s.entries.any (waitsForTile tile) = true := by
    obtain ⟨hmem, hwait⟩ := List.mem_filter.mp (hwaits ▸ List.mem_singleton_self e : e ∈ s.entries.filter (waitsForTile tile))
    exact List.any_eq_true.mpr ⟨e, hmem, hwait⟩
  simp [powered, hon, wakeTile, hgated, hany, hnext, hwaits]

/-- Settles O24: each row resumes the command that waits for it, and a clean run ends as its body left it. -/
theorem waitingCommandsGoOn : Obligations.WaitingCommandsGoOn := by
  unfold Obligations.WaitingCommandsGoOn
  refine ⟨fun s tag e e3 env o r hr hentry hwait hgate hcommit hrun => ?_,
    fun s tile e e3 env o hon hgated hnext hwaits hentry hgate hrun => ?_⟩
  · obtain ⟨hresume, hdone⟩ := resumeFrom_of_clean hentry hwait hgate hcommit hrun
    obtain ⟨row, hexec, hrow⟩ := exec_waitRow hr hentry hwait (hresume ▸ finishWith_noteUsed_finished _ hdone)
    exact hexec ▸ act_of_clean hdone (hrow.trans hresume)
  · have hphase : e.phase = .running .gated := by
      obtain ⟨-, hwait⟩ := List.mem_filter.mp (hwaits ▸ List.mem_singleton_self e : e ∈ s.entries.filter (waitsForTile tile.val))
      simp only [waitsForTile, Bool.and_eq_true, decide_eq_true_eq] at hwait
      exact hwait.1
    have hlast : r64Wait e = false := by simp [r64Wait, hphase]
    have hresumed : resumed (setGated s tile.val false) e = e := by simp [resumed, hlast]
    obtain ⟨hresume, hdone⟩ := resumeFrom_of_clean (s := setGated s tile.val false) hentry hphase hgate
      (Or.inr ⟨by simp [hphase], hlast⟩) (by rwa [hresumed])
    obtain ⟨t, hnext, hfinished, hmem, -, hregs⟩ := act_of_clean hdone ((powered_wakeTile hon hgated hnext hwaits).trans hresume)
    exact ⟨t, exec_tileWake tile s ▸ hnext, hfinished, hmem, hregs⟩

end Sys2Proof.Machine
end

section
/-! PROOFS. What the units do when a command's tag is taken or it ends leaves the rings as they are (R36, R43, R45, R49, R217 to R221). -/

namespace Sys2Proof.Machine

open Sys2Proof

/-! ## Rings that stand -/

/-- The same command in its tag, which has not become undispatched. -/
structure SameCommand (c d : Entry) : Prop where
  tag : d.tag = c.tag
  ring : d.ring = c.ring
  pkt : d.pkt = c.pkt
  start : d.start = c.start
  seq : d.seq = c.seq
  undispatched : undispatched d = true → undispatched c = true

theorem SameCommand.refl (c : Entry) : SameCommand c c := ⟨rfl, rfl, rfl, rfl, rfl, id⟩

theorem SameCommand.trans {c d e : Entry} (first : SameCommand c d) (second : SameCommand d e) : SameCommand c e :=
  ⟨second.tag.trans first.tag, second.ring.trans first.ring, second.pkt.trans first.pkt, second.start.trans first.start,
    second.seq.trans first.seq, fun h => first.undispatched (second.undispatched h)⟩

/-- The registers of the rings. -/
def ringReg (off : Nat) : Prop := 0x10000 ≤ off ∧ off < 0x11000

/-- The registers of the rings, the commands in their tags, and the PCI Express configuration stand. -/
structure RingsStand (s t : State) : Prop where
  reg : ∀ off, ringReg off → t.reg off = s.reg off
  entries : List.Forall₂ SameCommand s.entries t.entries
  pci : t.pci = s.pci
  now : t.now = s.now
  readSeq : t.readSeq = s.readSeq

theorem forall₂_sameCommand_refl (l : List Entry) : List.Forall₂ SameCommand l l := List.forall₂_same.mpr fun c _ => .refl c

theorem forall₂_sameCommand_trans : ∀ {l m k : List Entry}, List.Forall₂ SameCommand l m → List.Forall₂ SameCommand m k →
    List.Forall₂ SameCommand l k
  | [], [], [], .nil, .nil => .nil
  | _ :: _, _ :: _, _ :: _, .cons h hs, .cons k ks => .cons (h.trans k) (forall₂_sameCommand_trans hs ks)

theorem RingsStand.trans {s t u : State} (first : RingsStand s t) (second : RingsStand t u) : RingsStand s u :=
  ⟨fun off h => (second.reg off h).trans (first.reg off h), forall₂_sameCommand_trans first.entries second.entries,
    second.pci.trans first.pci, second.now.trans first.now, second.readSeq.trans first.readSeq⟩

/-- A change of anything but registers, entries, the configuration, the timebase and the order of dispatch. -/
theorem RingsStand.of_eq {s t : State} (hregs : t.regs = s.regs) (hentries : t.entries = s.entries) (hpci : t.pci = s.pci)
    (hnow : t.now = s.now) (hseq : t.readSeq = s.readSeq) : RingsStand s t :=
  ⟨fun off _ => reg_congr hregs off, hentries ▸ forall₂_sameCommand_refl _, hpci, hnow, hseq⟩

theorem RingsStand.refl (s : State) : RingsStand s s := .of_eq rfl rfl rfl rfl rfl

/-- One operation after another. -/
theorem RingsStand.foldl {α : Type} (f : State → α → State) (h : ∀ s a, RingsStand s (f s a)) (l : List α) (s : State) :
    RingsStand s (l.foldl f s) := List.foldlRecOn l f (motive := RingsStand s) (.refl s) fun t ht a _ => ht.trans (h t a)

theorem RingsStand.map_entries {s : State} {f : Entry → Entry} (h : ∀ c, SameCommand c (f c)) :
    RingsStand s { s with entries := s.entries.map f } :=
  ⟨fun _ _ => rfl, List.forall₂_map_right_iff.mpr (List.forall₂_same.mpr fun c _ => h c), rfl, rfl, rfl⟩

theorem RingsStand.setReg (s : State) {off : Nat} (w : Word) (h : ¬ ringReg off) : RingsStand s (s.setReg off w) :=
  ⟨fun _ hoff => reg_setReg_ne _ _ fun heq => h (heq ▸ hoff), forall₂_sameCommand_refl _, rfl, rfl, rfl⟩

theorem ringReg_outsideLog {off : Nat} (h : ringReg off) : OutsideLog off :=
  outsideLog_of_commandBlock h.1 (h.2.trans (by decide))

theorem MergeOnly.ringsStand {s t : State} (h : MergeOnly s t) : RingsStand s t := by
  refine ⟨fun off hoff => h.reg_eq (ringReg_outsideLog hoff), ?_, ?_, ?_, ?_⟩
  · rw [h.1]; exact forall₂_sameCommand_refl _
  all_goals rw [h.1]

theorem LogOnly.ringsStand {s t : State} (h : LogOnly s t) : RingsStand s t := by
  obtain ⟨heq, hreg, -⟩ := h
  refine ⟨fun off hoff => ?_, ?_, ?_, ?_, ?_⟩
  · obtain ⟨hirq, htail, hdropped, hevent, hce⟩ := ringReg_outsideLog hoff
    exact hreg off hirq htail hdropped hevent hce
  · rw [heq]; exact forall₂_sameCommand_refl _
  all_goals rw [heq]

theorem IrqOnly.ringsStand {s t : State} (h : IrqOnly s t) : RingsStand s t := by
  obtain ⟨heq, hreg⟩ := h
  refine ⟨fun off hoff => hreg off (ringReg_outsideLog hoff).irq, ?_, ?_, ?_, ?_⟩
  · rw [heq]; exact forall₂_sameCommand_refl _
  all_goals rw [heq]

theorem setStatus_ringsStand (s : State) {off : Nat} (b : Nat) (h : ¬ ringReg off) : RingsStand s (setStatus s off b) := by
  refine ⟨fun j hj => setStatus_reg s off b j (fun heq => h (heq ▸ hj)) (ringReg_outsideLog hj).irq, ?_, ?_, ?_, ?_⟩
  · rw [setStatus_eq]; exact forall₂_sameCommand_refl _
  all_goals rw [setStatus_eq]

theorem setEntry_ringsStand (s : State) (tag : Nat) {f : Entry → Entry} (h : ∀ c, SameCommand c (f c)) : RingsStand s (setEntry s tag f) :=
  .map_entries fun c => by
    split
    · exact h c
    · exact .refl c

/-! ## Memory and the error log -/

theorem storeBytes_ringsStand (s : State) (a : Nat) (l : List Byte) : RingsStand s (storeBytes s a l) := (storeBytes_merge s a l).ringsStand

theorem logEvent_ringsStand (s : State) (cls : Nat) (f : LogFields) : RingsStand s (logEvent s cls f) := (logEvent_only s cls f).ringsStand

theorem putUndef_ringsStand (s : State) (lo hi : Nat) : RingsStand s (putUndef s lo hi) := by
  unfold putUndef
  split
  · exact .of_eq rfl rfl rfl rfl rfl
  · exact .refl s

theorem undefDevice_ringsStand : ∀ (fuel : Nat) (s : State) (a n : Nat), RingsStand s (undefDevice s a n fuel)
  | 0, s, _, _ => .refl s
  | fuel + 1, s, a, n => by
    unfold undefDevice
    split
    · exact .refl s
    · refine RingsStand.trans ?_ (undefDevice_ringsStand fuel _ _ _)
      split
      · exact putUndef_ringsStand ..
      · exact .refl s

theorem writeThrough_ringsStand (s : State) (a : Nat) (l : List Byte) : RingsStand s (writeThrough s a l) := by
  unfold writeThrough
  split
  · exact logEvent_ringsStand ..
  · exact storeBytes_ringsStand ..

theorem count_ringsStand (s : State) {off : Nat} (k : Nat) (h : ¬ ringReg off) : RingsStand s (s.count off k) := .setReg s _ h

theorem noteUncorrectable_ringsStand (s : State) (p : Located) (a : Nat) : RingsStand s (noteUncorrectable s p a) := by
  have hevent : ¬ ringReg Reg.RAS_EVENT := by unfold ringReg Reg.RAS_EVENT; omega
  have hskerry : ¬ ringReg Reg.SKERRY_UE := by unfold ringReg Reg.SKERRY_UE; omega
  have hstack (st : Nat) : ¬ ringReg (Reg.STACK_UE st) := by unfold ringReg Reg.STACK_UE; omega
  unfold noteUncorrectable
  split
  · exact ((count_ringsStand s 1 (hstack _)).trans (setStatus_ringsStand _ 0 hevent)).trans (logEvent_ringsStand ..)
  · exact ((count_ringsStand s 1 hskerry).trans (setStatus_ringsStand _ 2 hevent)).trans (logEvent_ringsStand ..)
  · exact .refl s
  · exact (setStatus_ringsStand s 1 hevent).trans (logEvent_ringsStand ..)

theorem scanWords_ringsStand (s : State) (a n : Nat) : RingsStand s (scanWords s a n) := by
  unfold scanWords
  split
  · exact .refl s
  · refine .foldl _ (fun s w => ?_) _ s
    split
    · next p hp =>
      split
      · exact noteUncorrectable_ringsStand ..
      · exact (settleWord_merge s p _ fun _ => locate_stack hp).ringsStand
    · exact .refl s

/-! ## Event counters -/

/-- A waiting command whose conditions hold is still undispatched. -/
theorem wakeWaiting_ringsStand (s : State) : RingsStand s (wakeWaiting s) :=
  .map_entries fun c => by
    split
    · next h =>
      have hwaiting : c.phase = .waiting := by simpa using (Bool.and_eq_true_iff.mp h).1
      exact ⟨rfl, rfl, rfl, rfl, rfl, fun _ => by simp [undispatched, hwaiting]⟩
    · exact .refl c

theorem not_ringReg_counter (c : Nat) : ¬ ringReg (Reg.EVC_VALUE c) := by unfold ringReg Reg.EVC_VALUE; omega

theorem setCounter_ringsStand (s : State) (c v : Nat) : RingsStand s (setCounter s c v) :=
  ((RingsStand.setReg s _ (not_ringReg_counter c)).trans (fireWatches_only s _).ringsStand).trans (wakeWaiting_ringsStand _)

theorem applySignals_ringsStand (s : State) (p : List Byte) : RingsStand s (applySignals s p) := by
  have hbumps : RingsStand s ((localSignals s p).foldl bumpCounter s) :=
    .foldl _ (fun s _ => .setReg s _ (not_ringReg_counter _)) _ s
  exact (hbumps.trans (fireWatches_only s _).ringsStand).trans (wakeWaiting_ringsStand _)

/-! ## Tides (R217 to R221) -/

theorem setPw_ringsStand (s : State) (layer off size v : Nat) : RingsStand s (setPw s layer off size v) := storeBytes_ringsStand ..

theorem closeLayer_ringsStand (s : State) (tide layer : Nat) : RingsStand s (closeLayer s tide layer) := by
  have hevent : ¬ ringReg Reg.PW_EVENT := by unfold ringReg Reg.PW_EVENT; omega
  unfold closeLayer
  have hscan : RingsStand s (scanLayer s layer) := scanWords_ringsStand ..
  generalize scanLayer s layer = t at hscan
  refine hscan.trans (RingsStand.trans ?_ ((storeBytes_ringsStand _ _ _).trans (setPw_ringsStand ..)))
  simp only
  split
  · have htrip (a : State) (h : RingsStand t a) : RingsStand t ((a.setBit Reg.PW_EVENT 31 true).setField Reg.PW_EVENT 9 0 layer) :=
      (h.trans (.setReg a _ hevent)).trans (.setReg _ _ hevent)
    have hmarked (u v : Nat) : RingsStand t (setPw (setPw (setPw t layer 68 1 1) layer 66 2 u) layer 69 1 v) :=
      ((setPw_ringsStand ..).trans (setPw_ringsStand ..)).trans (setPw_ringsStand ..)
    split
    · exact (htrip _ (hmarked _ _)).trans (setCounter_ringsStand ..)
    · exact htrip _ (hmarked _ _)
  · exact .refl t

theorem closeWatch_ringsStand (s : State) (slot entry tide : Nat) : RingsStand s (closeWatch s slot entry tide) :=
  .foldl _ (fun s l => closeLayer_ringsStand s tide l) _ s

theorem setTide_ringsStand (s : State) (slot i : Nat) (f : TideEntry → TideEntry) : RingsStand s (setTide s slot i f) := by
  unfold setTide
  split
  · exact .refl s
  · split
    · exact .refl s
    · refine RingsStand.trans ?_ (.foldl _ (fun s _ => writeThrough_ringsStand ..) _ _)
      exact .of_eq rfl rfl rfl rfl rfl

theorem setVslot_ringsStand (s : State) (slot i v : Nat) (f : VersionSlot → VersionSlot) : RingsStand s (setVslot s slot i v f) :=
  setTide_ringsStand ..

/-- A TIDE_RETIRE that counts a tide is dispatched before and after. -/
theorem retireWaiters_ringsStand (s : State) (slot entry tide : Nat) : RingsStand s (retireWaiters s slot entry tide) :=
  .map_entries fun c => by
    split
    · next hphase =>
      have hnot {p : Phase} (hp : p ≠ .waiting) (hr : p ≠ .ready) : SameCommand c { c with phase := p } :=
        ⟨rfl, rfl, rfl, rfl, rfl, by simp [undispatched, hp, hr]⟩
      split
      · simp only
        split
        · exact hnot (by simp) (by simp)
        · exact hnot (by simp) (by simp)
      · exact .refl c
    · exact .refl c

theorem retireSlot_ringsStand (s : State) (slot entry v : Nat) : RingsStand s (retireSlot s slot entry v) := by
  unfold retireSlot
  split
  · exact .refl s
  · refine RingsStand.trans ?_ (retireWaiters_ringsStand ..)
    exact ((closeWatch_ringsStand ..).trans (setVslot_ringsStand ..)).trans (.of_eq rfl rfl rfl rfl rfl)

theorem settleEntry_ringsStand (s : State) (slot entry : Nat) : RingsStand s (settleEntry s slot entry) := by
  unfold settleEntry
  refine .foldl _ (fun s v => ?_) _ s
  split
  · split
    · exact retireSlot_ringsStand ..
    · exact .refl s
  · exact .refl s

theorem dropReaders_ringsStand (s : State) (c : Entry) : RingsStand s (dropReaders s c) := by
  unfold dropReaders
  refine .foldl _ (fun s r => ?_) _ s
  exact (setVslot_ringsStand ..).trans (settleEntry_ringsStand ..)

theorem addReader_ringsStand (s : State) (tag slot entry v : Nat) : RingsStand s (addReader s tag slot entry v) :=
  (setVslot_ringsStand ..).trans (setEntry_ringsStand _ _ fun _ => ⟨rfl, rfl, rfl, rfl, rfl, id⟩)

theorem countUsers_ringsStand (s : State) (tag : Nat) (p : List Byte) (words : List FmtWord) : RingsStand s (countUsers s tag p words) := by
  unfold countUsers
  split
  · exact .refl s
  · refine .foldl _ (fun s w => ?_) _ s
    split
    · exact .refl s
    · split
      · exact addReader_ringsStand ..
      · split
        · exact setEntry_ringsStand _ _ fun _ => ⟨rfl, rfl, rfl, rfl, rfl, id⟩
        · exact .refl s

/-! ## What a command leaves behind when it ends -/

theorem abandonUpdate_ringsStand (s : State) (e : Entry) : RingsStand s (abandonUpdate s e) := by
  unfold abandonUpdate
  simp only
  split
  · split
    · split
      · exact setVslot_ringsStand ..
      · exact .refl s
    · exact .refl s
  · exact .refl s

theorem releaseHold_ringsStand (s : State) (e : Entry) (o : Done) : RingsStand s (releaseHold s e o) := by
  unfold releaseHold
  split
  · split
    · refine .foldl _ (fun s r => ?_) _ s
      split
      · split
        · exact setVslot_ringsStand ..
        · exact .refl s
      · exact .refl s
    · exact .refl s
  · exact .refl s

theorem recordReplay_ringsStand (s : State) (e : Entry) (o : Done) : RingsStand s (recordReplay s e o) := by
  unfold recordReplay
  simp only
  split
  · refine RingsStand.trans ?_ (undefDevice_ringsStand ..)
    exact .of_eq rfl rfl rfl rfl rfl
  · exact .refl s

theorem leaveUnits_ringsStand (s : State) (e : Entry) (o : Done) : RingsStand s (leaveUnits s e o) := by
  have habandon : RingsStand s (if decide (pktOp e.pkt = 0x60) && !signals o then abandonUpdate s e else s) := by
    split
    · exact abandonUpdate_ringsStand s e
    · exact .refl s
  have hleave (t : State) : RingsStand t (leaveColl t e.tag) := .of_eq rfl rfl rfl rfl rfl
  refine RingsStand.trans ?_ (recordReplay_ringsStand ..)
  refine RingsStand.trans (((habandon.trans (hleave _)).trans (releaseHold_ringsStand _ e o)).trans (dropReaders_ringsStand _ e)) ?_
  exact .of_eq rfl rfl rfl rfl rfl

end Sys2Proof.Machine
end

section
/-! PROOFS. Packets fetched (R32 to R34, R242, R426). -/

namespace Sys2Proof.Machine

open Sys2Proof

theorem exec_packetFetch (s : State) : exec .packetFetch s = act fetchPacket s := rfl

/-- An untimed row's effect, but for the queue, the timebase and the configuration. -/
theorem act_next_of {f : State → State} {s u : State} (h : f s = u) :
    act f s = .next { u with pending := s.pending, now := s.now, pci := s.pci } := by
  subst h
  rfl

/-! ## States that read alike -/

/-- The two states agree in registers, memory and configuration. -/
structure ReadAlike (s t : State) : Prop where
  regs : t.regs = s.regs
  pci : t.pci = s.pci
  mem : t.mem = s.mem
  undef : t.undef = s.undef
  errs : t.errs = s.errs

theorem noteGrant_readAlike (s : State) (n : Nat) : ReadAlike s (noteGrant s n) := ⟨rfl, rfl, rfl, rfl, rfl⟩

theorem ReadAlike.trans {s t u : State} (first : ReadAlike s t) (second : ReadAlike t u) : ReadAlike s u :=
  ⟨second.regs.trans first.regs, second.pci.trans first.pci, second.mem.trans first.mem, second.undef.trans first.undef,
    second.errs.trans first.errs⟩

theorem ReadAlike.symm {s t : State} (h : ReadAlike s t) : ReadAlike t s :=
  ⟨h.regs.symm, h.pci.symm, h.mem.symm, h.undef.symm, h.errs.symm⟩

theorem logMerged_readAlike (s : State) (cls : Nat) (f : LogFields) : ReadAlike s (logMerged s cls f) := by
  rw [logMerged_eq]
  exact ⟨rfl, rfl, rfl, rfl, rfl⟩

section

variable {s t : State} (h : ReadAlike s t)
include h

theorem ReadAlike.reg_eq (off : Nat) : t.reg off = s.reg off := reg_congr h.regs off

theorem ReadAlike.locate_eq (a : Nat) : locate t a = locate s a := locate_congr h.regs h.pci a

theorem ReadAlike.fieldAt_eq (off hi lo : Nat) : t.fieldAt off hi lo = s.fieldAt off hi lo := fieldAt_congr h.regs off hi lo

theorem ReadAlike.bitAt_eq (off i : Nat) : t.bitAt off i = s.bitAt off i := bitAt_congr (h.reg_eq off) i

theorem ReadAlike.byteAt_eq (k : Nat) : byteAt t k = byteAt s k := byteAt_congr h.mem h.undef k

theorem ReadAlike.errorsAt_eq (k : Nat) : errorsAt t k = errorsAt s k := by unfold errorsAt; rw [h.errs]

theorem ReadAlike.fenced_eq (st l : Nat) : Sys2Proof.Machine.fenced t st l = Sys2Proof.Machine.fenced s st l := by
  unfold Sys2Proof.Machine.fenced channelOf liveChannels
  simp only [h.fieldAt_eq, h.bitAt_eq]

theorem ReadAlike.wordState_eq (p : Located) : wordState t p = wordState s p := by
  unfold wordState erasedPackage
  simp only [h.errorsAt_eq, h.fenced_eq, h.fieldAt_eq, h.bitAt_eq]

theorem ReadAlike.putByte (k : Nat) (b : Byte) : ReadAlike (putByte s k b) (putByte t k b) :=
  ⟨h.regs, h.pci, congrArg (Sparse.set memDefault · k b) h.mem, congrArg (cutUndef k (k + 1) ·) h.undef, h.errs⟩

theorem ReadAlike.clearErr (k : Nat) : ReadAlike (clearErr s k) (clearErr t k) :=
  ⟨h.regs, h.pci, h.mem, h.undef, congrArg (Sparse.set errDefault · (k / 64 * 64) 0) h.errs⟩

theorem ReadAlike.count (off k : Nat) : ReadAlike (s.count off k) (t.count off k) := by
  refine ⟨?_, h.pci, h.mem, h.undef, h.errs⟩
  unfold State.count State.setReg
  rw [h.reg_eq, h.regs]

theorem ReadAlike.logMerged (cls : Nat) (f g : LogFields) : ReadAlike (logMerged s cls f) (logMerged t cls g) :=
  ((logMerged_readAlike s cls f).symm.trans h).trans (logMerged_readAlike t cls g)

theorem ReadAlike.noteCorrected (p : Located) (a : Nat) : ReadAlike (noteCorrected s p a) (noteCorrected t p a) := by
  unfold Sys2Proof.Machine.noteCorrected
  cases p.region with
  | hbm st => exact ((h.clearErr _).count _ _).logMerged ..
  | skerry => exact ((h.clearErr _).count _ _).logMerged ..
  | scratchpad tile => exact (h.clearErr _).logMerged ..
  | shelf bay => exact (h.clearErr _).logMerged ..
  | host => exact (h.clearErr _).logMerged ..

theorem ReadAlike.miscorrect (k : Nat) : ReadAlike (miscorrect s k) (miscorrect t k) := by
  have hbytes : ∀ (l : List Nat) (s t : State), ReadAlike s t →
      ReadAlike (l.foldl (fun s j => Sys2Proof.Machine.putByte s j (Config.garbledByte (errorsAt s k) j)) s)
        (l.foldl (fun s j => Sys2Proof.Machine.putByte s j (Config.garbledByte (errorsAt s k) j)) t) := by
    intro l
    induction l with
    | nil => exact fun _ _ h => h
    | cons j l ih =>
      intro s t h
      refine ih _ _ ?_
      simp only [h.errorsAt_eq]
      exact h.putByte j _
  exact (hbytes _ _ _ h).clearErr k

theorem ReadAlike.settleWord (p : Located) (a : Nat) : ReadAlike (settleWord s p a) (settleWord t p a) := by
  unfold Sys2Proof.Machine.settleWord
  rw [h.wordState_eq]
  split
  · exact h.noteCorrected p a
  · exact (h.miscorrect _).noteCorrected p a
  · exact h

theorem ReadAlike.readByte_eq (a : Nat) : t.readByte a = s.readByte a := by
  unfold State.readByte
  rw [h.locate_eq]
  simp only [h.byteAt_eq]

theorem ReadAlike.peekBytes_eq (n a : Nat) : peekBytes t a n = peekBytes s a n := by
  induction n generalizing a with
  | zero => rfl
  | succ n ih => rw [peekBytes, peekBytes, ih, h.readByte_eq]

theorem ReadAlike.undetectedByte_eq (k : Nat) : undetectedByte t k = undetectedByte s k := by
  unfold undetectedByte
  rw [h.errorsAt_eq, h.byteAt_eq]

theorem ReadAlike.unitByte_eq (a : Nat) : unitByte t a = unitByte s a := by
  unfold unitByte
  simp only [h.locate_eq, h.wordState_eq, h.byteAt_eq, h.undetectedByte_eq, h.errorsAt_eq]

theorem ReadAlike.unitBytes_eq (a n : Nat) : unitBytes t a n = unitBytes s a n := by
  unfold unitBytes deliverable
  simp only [h.errs, h.locate_eq, h.wordState_eq, h.peekBytes_eq, funext h.unitByte_eq]

theorem ReadAlike.loadGranule_eq (a : Nat) : (loadGranule t a).1 = (loadGranule s a).1 := by
  unfold loadGranule
  rw [h.locate_eq]
  split
  · rfl
  · exact (h.settleWord _ _).unitBytes_eq a 64

theorem ReadAlike.granuleAddr_eq (n i : Nat) : granuleAddr t n i = granuleAddr s n i := by
  unfold granuleAddr
  rw [ringBase_congr h.regs, ringHead_congr h.regs, ringSize_congr h.regs]

theorem ReadAlike.headLen_eq (n : Nat) : headLen t n = headLen s n := by
  unfold headLen
  rw [h.granuleAddr_eq, h.loadGranule_eq]

theorem ReadAlike.headAddrs_eq (n : Nat) : headAddrs t n = headAddrs s n := by
  unfold headAddrs headGranules
  rw [h.headLen_eq, funext (h.granuleAddr_eq n)]

theorem ReadAlike.badGranule_eq (a : Nat) : badGranule t a = badGranule s a := by
  unfold badGranule granuleLost
  rw [faultIn_congr h.regs h.pci, h.locate_eq]
  simp only [h.wordState_eq]

theorem ReadAlike.granuleFault_eq (l : List Nat) : granuleFault t l = granuleFault s l :=
  congrArg (List.findSome? · l) (funext h.badGranule_eq)

end

/-! ## A packet takes its tag -/

/-- What taking a tag leaves: the rings stand, and the packet has its entry behind the others. -/
theorem takeTag_ringsStand (s : State) (n : Nat) (p : List Byte) :
    RingsStand { s with entries := s.entries ++ [newEntry s n p], readSeq := s.readSeq + 1 } (takeTag s n p) := by
  unfold takeTag
  simp only
  split
  · exact countUsers_ringsStand ..
  · exact .refl _

/-- A packet that names no tide counts in no tide's READERS. -/
theorem takeTag_mem (s : State) (n : Nat) {p : List Byte} (h : pktTideValid p = false) : (takeTag s n p).mem = s.mem := by
  unfold takeTag countUsers
  simp [h]

theorem pktTideValid_take (p : List Byte) (k : Nat) : pktTideValid (p.take (64 + k)) = pktTideValid p := by
  have hbyte : ((p.take (64 + k)).drop 1).take 1 = (p.drop 1).take 1 := by
    rw [List.drop_take, List.take_take]
    congr 1
    omega
  unfold pktTideValid pktFlags leAt
  rw [hbyte]

/-- Each command is still there. -/
theorem exists_mem_of_forall₂ {c : Entry} : ∀ {l m : List Entry}, List.Forall₂ SameCommand l m → c ∈ l → ∃ d ∈ m, SameCommand c d
  | _ :: _, _ :: _, .cons h hs, hc => by
    rcases List.mem_cons.mp hc with rfl | hc
    · exact ⟨_, List.mem_cons_self, h⟩
    · obtain ⟨d, hd, hsame⟩ := exists_mem_of_forall₂ hs hc
      exact ⟨d, List.mem_cons_of_mem _ hd, hsame⟩

/-! ## The head of a ring moves -/

/-- The state in which a packet has taken its tag, with the ring's head behind it. -/
theorem readPacket_of_good {s : State} {n : Nat} {bytes : List Byte} (hfirst : badGranule s (granuleAddr s n 0) = none)
    (hall : granuleFault s (headAddrs s n) = none) (hlen : headLen s n ≤ 60) (hload : loadGranules s (headAddrs s n) = (bytes, s)) :
    readPacket s n = moveHead (takeTag s n (bytes.take (64 + 16 * headLen s n))) n (headGranules s n) := by
  have hnot : ¬ 60 < headLen s n := by omega
  unfold readPacket
  simp only [hfirst, hall, hload, if_neg hnot, headGranules]

theorem readPacket_of_bad {s : State} {n a : Nat} (h : badGranule s (granuleAddr s n 0) = some a) : readPacket s n = granuleFaults s n a := by
  unfold readPacket
  rw [h]

theorem fetchPacket_of_granted {s : State} {n : Nat} (hgrant : grantedRing s = some n) (hflush : ∀ m, m < 16 → flushing s m = false) :
    fetchPacket s = readPacket (noteGrant s n) n := by
  have hnone : (seqFrom 0 16).filter (flushing s) = [] :=
    List.filter_eq_nil_iff.mpr fun m hm => by simp [hflush m (by have := seqFrom_bounds hm; omega)]
  unfold fetchPacket
  simp only [hnone, List.foldl_nil, hgrant]

theorem ringReg_head {n : Nat} (h : n < 16) : ringReg (Reg.RING_HEAD n) := by unfold ringReg Reg.RING_HEAD; omega

theorem ringReg_size {n : Nat} (h : n < 16) : ringReg (Reg.RING_SIZE n) := by unfold ringReg Reg.RING_SIZE; omega

/-- The head past a packet, where the rings stand but for that. -/
theorem moveHead_takes {s t u : State} {n : Nat} (hn : n < 16) (hstand : ∀ off, ringReg off → u.reg off = s.reg off) (k : Nat)
    (ht : t.reg (Reg.RING_HEAD n) = (moveHead u n k).reg (Reg.RING_HEAD n) := by rfl) :
    FieldTakes (Reg.RING_HEAD n) 11 0 ((ringHead s n + k) % ringSize s n % 4096) s t := by
  have hhead : ringHead u n = ringHead s n := congrArg (fld · 11 0) (hstand _ (ringReg_head hn))
  have hsize : ringSize u n = ringSize s n := congrArg (2 ^ fld · 3 0) (hstand _ (ringReg_size hn))
  have htakes := fieldTakes_setField_mod u (Reg.RING_HEAD n) 0 ((ringHead u n + k) % ringSize u n) (show 11 < 32 by decide)
  rw [hhead, hsize] at htakes
  refine htakes.congr (hstand _ (ringReg_head hn)).symm (ht.trans ?_)
  rw [← hhead, ← hsize]
  rfl

/-! ## A granule that cannot be read -/

theorem logEvent_entries (s : State) (cls : Nat) (f : LogFields) : (logEvent s cls f).entries = s.entries := by
  rw [(logEvent_only s cls f).1]

theorem setStatus_entries (s : State) (off b : Nat) : (setStatus s off b).entries = s.entries := by rw [setStatus_eq]

theorem noteUncorrectable_entries (s : State) (p : Located) (a : Nat) : (noteUncorrectable s p a).entries = s.entries := by
  unfold noteUncorrectable
  split
  · rw [logEvent_entries, setStatus_entries]; rfl
  · rw [logEvent_entries, setStatus_entries]; rfl
  · rfl
  · rw [logEvent_entries, setStatus_entries]

theorem ringFault_entries (s : State) (n a : Nat) : (ringFault s n a).entries = s.entries :=
  (logEvent_entries ..).trans (setStatus_entries ..)

/-- A granule that cannot be read is noted, and the ring faults. -/
theorem granuleFaults_eq (s : State) (n a : Nat) :
    ∃ u, RingsStand s u ∧ u.entries = s.entries ∧ granuleFaults s n a = ringFault u n a := by
  unfold granuleFaults
  by_cases hlost : granuleLost s a = true
  · simp only [hlost, if_true]
    split
    · exact ⟨_, noteUncorrectable_ringsStand .., noteUncorrectable_entries .., rfl⟩
    · exact ⟨s, .refl s, rfl, rfl⟩
  · simp only [hlost]
    exact ⟨s, .refl s, rfl, rfl⟩

/-- Settles O11: the granted ring's packet is read in the state that has noted the grant, which reads as the state before. -/
theorem packetFetchTakesTagOrSetsAddrErr : Obligations.PacketFetchTakesTagOrSetsAddrErr := by
  unfold Obligations.PacketFetchTakesTagOrSetsAddrErr
  intro s n bytes hgrant hflush
  obtain ⟨hn, -⟩ := grantGoesToLowestPriority s n hgrant
  have halike := noteGrant_readAlike s n
  have hfetch := fetchPacket_of_granted hgrant hflush
  have hhead := ringReg_head hn
  rw [exec_packetFetch]
  refine ⟨fun hfirst hall hlen hload => ?_, fun hbad => ?_⟩
  · have hread := readPacket_of_good (s := noteGrant s n) (n := n) (bytes := bytes)
      (by rw [halike.granuleAddr_eq, halike.badGranule_eq, hfirst]) (by rw [halike.headAddrs_eq, halike.granuleFault_eq, hall])
      (by rw [halike.headLen_eq]; exact hlen) (by rw [halike.headAddrs_eq, hload])
    rw [halike.headLen_eq, headGranules, halike.headLen_eq, ← headGranules] at hread
    have hstand := takeTag_ringsStand (noteGrant s n) n (bytes.take (64 + 16 * headLen s n))
    have hmem := takeTag_mem (noteGrant s n) n (p := bytes.take (64 + 16 * headLen s n))
    generalize takeTag (noteGrant s n) n (bytes.take (64 + 16 * headLen s n)) = u at hread hstand hmem
    obtain ⟨d, hd, hsame⟩ := exists_mem_of_forall₂ hstand.entries (List.mem_append_right _ (List.mem_singleton_self _))
    have hcount := hstand.entries.length_eq
    refine ⟨_, act_next_of (hfetch.trans hread), ?_, fun htide => ?_, hstand.readSeq, ?_, d, hd, hsame.tag, hsame.ring, hsame.start,
      hsame.seq, hsame.pkt⟩
    · exact moveHead_takes hn hstand.reg (headGranules s n)
    · exact hmem ((pktTideValid_take ..).trans htide)
    · exact hcount.symm.trans List.length_append
  · obtain ⟨a, ha⟩ := Option.isSome_iff_exists.mp hbad
    have hread := readPacket_of_bad (s := noteGrant s n) (n := n) (a := a) (by rw [halike.granuleAddr_eq, halike.badGranule_eq, ha])
    obtain ⟨u, hstand, hentries, hfault⟩ := granuleFaults_eq (noteGrant s n) n a
    refine ⟨_, act_next_of ((hfetch.trans hread).trans hfault), ?_, ?_, ?_⟩
    · exact (ringFault_bitAt u a hn (by decide)).trans (by simp)
    · exact (ringFault_entries u n a).trans hentries
    · exact (ringFault_reg u a hn (outsideLog_ringHead hn) (by unfold Reg.RING_HEAD Reg.RING_STATUS; omega)).trans (hstand.reg _ hhead)

end Sys2Proof.Machine
end

section
/-! PROOFS. Completion and replies (R36, R50 to R52, R56 to R59, R429). -/

namespace Sys2Proof.Machine

open Sys2Proof

theorem exec_commandComplete (tag : Fin 1024) (s : State) : exec (.commandComplete tag) s = act (completeCommand tag.val) s := rfl

theorem exec_replyDeferredPost (ring : Fin 16) (s : State) : exec (.replyDeferredPost ring) s = act (deferredPost ring.val) s := rfl

theorem exec_commandTimeout (tag : Fin 1024) (time : Nat) (s : State) :
    exec (.commandTimeout tag time) s = actAt time (timeoutCommand tag.val) s := rfl

theorem exec_flush (ring : Fin 16) (s : State) : exec (.flush ring) s = act (whenReady (flushRing ring.val)) s := rfl

theorem exec_cancelWaiting (ring : Fin 16) (s : State) :
    exec (.cancelWaiting ring) s = act (whenReady (fun s => cancelRing s ring.val 0x01)) s := rfl

/-! ## The firmware's look at a reply (R343) -/

/-- It moves CPL_HEAD of its ring and raises MGMT_EVENT. -/
theorem mgmtReply_eq (s : State) (n status : Nat) :
    mgmtReply s n status = { s with regs := (mgmtReply s n status).regs, irq := (mgmtReply s n status).irq } := by
  unfold mgmtReply
  split
  · simp only
    split
    · rw [setStatus_eq]; rfl
    · rfl
  · rfl

theorem mgmtReply_reg (s : State) {n off : Nat} (status : Nat) (hirq : irqReg off = false) (hhead : off ≠ Reg.CPL_HEAD n)
    (hevent : off ≠ Reg.MGMT_EVENT) : (mgmtReply s n status).reg off = s.reg off := by
  unfold mgmtReply
  split
  · simp only
    split
    · rw [setStatus_reg _ _ _ _ hevent hirq, reg_setField, if_neg hhead]
    · rw [reg_setField, if_neg hhead]
  · rfl

section

variable (s : State) (n status : Nat)

@[simp] theorem mgmtReply_entries : (mgmtReply s n status).entries = s.entries := by rw [mgmtReply_eq]
@[simp] theorem mgmtReply_mem : (mgmtReply s n status).mem = s.mem := by rw [mgmtReply_eq]
@[simp] theorem mgmtReply_undef : (mgmtReply s n status).undef = s.undef := by rw [mgmtReply_eq]
@[simp] theorem mgmtReply_pci : (mgmtReply s n status).pci = s.pci := by rw [mgmtReply_eq]

end

/-! ## A reply posted (R36, R51) -/

theorem completionIrqs_only (s : State) (e : Entry) (o : Done) : IrqOnly s (completionIrqs s e o) := by
  have hirq : IrqOnly s (if pktIrq e.pkt then request s e.ring else s) := by
    split
    · exact request_only ..
    · exact .refl s
  unfold completionIrqs
  simp only
  split
  · exact hirq.trans (request_only ..)
  · exact hirq

/-- The reply in the completion ring, or lost there. -/
def replyStored (s : State) (e : Entry) (o : Done) (time : Nat) (delayed : Bool) : State :=
  match faultIn s true (cplBase s e.ring + 32 * s.fieldAt (Reg.CPL_TAIL e.ring) 11 0) 32 with
  | some bad => ringFault s e.ring bad
  | none => storeBytes s (cplBase s e.ring + 32 * s.fieldAt (Reg.CPL_TAIL e.ring) 11 0) (replyBytes e o time (phaseOf s e.ring) delayed)

/-- The place of the next reply. -/
def nextTail (s : State) (n : Nat) : Nat := (s.fieldAt (Reg.CPL_TAIL n) 11 0 + 1) % cplSize s n

section

variable (s : State) (e : Entry) (o : Done) (time : Nat) (delayed : Bool)

/-- A reply posted, in its parts. -/
theorem postReply_eq : ∃ phases, postReply s e o time delayed = completionIrqs (freeEntry
    { (replyStored s e o time delayed).setField (Reg.CPL_TAIL e.ring) 11 0 (nextTail s e.ring) with cplPhase := phases } e.tag) e o := by
  unfold postReply
  simp only
  by_cases hwrap : (s.fieldAt (Reg.CPL_TAIL e.ring) 11 0 + 1) % cplSize s e.ring = 0
  · rw [if_pos hwrap]
    exact ⟨_, rfl⟩
  · rw [if_neg hwrap]
    exact ⟨_, rfl⟩

theorem replyStored_entries : (replyStored s e o time delayed).entries = s.entries := by
  unfold replyStored
  split
  · exact ringFault_entries ..
  · rw [(storeBytes_merge ..).1]

theorem postReply_entries : (postReply s e o time delayed).entries = s.entries.filter (fun c => decide (c.tag ≠ e.tag)) := by
  obtain ⟨phases, h⟩ := postReply_eq s e o time delayed
  rw [h, (completionIrqs_only _ e o).1]
  exact congrArg (List.filter _) (replyStored_entries ..)

theorem replyStored_pci : (replyStored s e o time delayed).pci = s.pci := by
  unfold replyStored ringFault
  split
  · rw [(logEvent_only _ _ _).1, setStatus_eq]
  · rw [(storeBytes_merge ..).1]

theorem postReply_pci : (postReply s e o time delayed).pci = s.pci := by
  obtain ⟨phases, h⟩ := postReply_eq s e o time delayed
  rw [h, (completionIrqs_only _ e o).1]
  exact replyStored_pci ..

variable {e} (hn : e.ring < 16)
include hn

theorem replyStored_reg {off : Nat} (h : OutsideLog off) (hne : off ≠ Reg.RING_STATUS e.ring) :
    (replyStored s e o time delayed).reg off = s.reg off := by
  unfold replyStored
  split
  · exact ringFault_reg s _ hn h hne
  · exact (storeBytes_merge ..).reg_eq h

theorem replyStored_status {i : Nat} (hi : i < 32) (h7 : i ≠ 7) :
    (replyStored s e o time delayed).bitAt (Reg.RING_STATUS e.ring) i = s.bitAt (Reg.RING_STATUS e.ring) i := by
  unfold replyStored
  split
  · rw [ringFault_bitAt s _ hn hi, decide_eq_false h7, Bool.false_or]
  · exact bitAt_congr ((storeBytes_merge ..).reg_eq (outsideLog_ringStatus hn)) i

theorem postReply_reg {off : Nat} (h : OutsideLog off) (hne : off ≠ Reg.RING_STATUS e.ring) (htail : off ≠ Reg.CPL_TAIL e.ring) :
    (postReply s e o time delayed).reg off = s.reg off := by
  obtain ⟨phases, hpost⟩ := postReply_eq s e o time delayed
  rw [hpost, (completionIrqs_only _ e o).2 off h.irq]
  exact (reg_setReg_ne _ _ htail).trans (replyStored_reg s o time delayed hn h hne)

theorem postReply_status {i : Nat} (hi : i < 32) (h7 : i ≠ 7) :
    (postReply s e o time delayed).bitAt (Reg.RING_STATUS e.ring) i = s.bitAt (Reg.RING_STATUS e.ring) i := by
  obtain ⟨phases, hpost⟩ := postReply_eq s e o time delayed
  have hne : Reg.RING_STATUS e.ring ≠ Reg.CPL_TAIL e.ring := by unfold Reg.RING_STATUS Reg.CPL_TAIL; omega
  rw [hpost, bitAt_congr ((completionIrqs_only _ e o).2 _ (outsideLog_ringStatus hn).irq) i]
  exact (bitAt_congr (reg_setReg_ne _ _ hne) i).trans (replyStored_status s o time delayed hn hi h7)

/-- CPL_TAIL moves on. -/
theorem postReply_tail : FieldTakes (Reg.CPL_TAIL e.ring) 11 0 (nextTail s e.ring % 4096) s (postReply s e o time delayed) := by
  obtain ⟨phases, hpost⟩ := postReply_eq s e o time delayed
  have hne : Reg.CPL_TAIL e.ring ≠ Reg.RING_STATUS e.ring := by unfold Reg.RING_STATUS Reg.CPL_TAIL; omega
  have hstored := replyStored_reg s o time delayed hn (outsideLog_cplTail hn) hne
  have htakes := fieldTakes_setField_mod (replyStored s e o time delayed) (Reg.CPL_TAIL e.ring) 0 (nextTail s e.ring) (show 11 < 32 by decide)
  refine htakes.congr hstored.symm ?_
  rw [hpost]
  exact (completionIrqs_only _ e o).2 _ (outsideLog_cplTail hn).irq

end

/-! ## A command's end (R50, R52) -/

/-- A silent command's tag is free. -/
theorem finishReply_of_silent {s : State} {e : Entry} {o : Done} (h : (pktSilent e.pkt && decide (o.status ≤ 1)) = true) :
    finishReply s e o = completionIrqs (freeEntry s e.tag) e o := if_pos h

/-- A reply is posted where its completion ring can take it. -/
theorem finishReply_of_ready {s : State} {e : Entry} {o : Done} (h : (pktSilent e.pkt && decide (o.status ≤ 1)) = false)
    (hready : cplReady s e.ring = true) : finishReply s e o = postReply s e o s.now false := by
  simp [finishReply, h, hready]

/-- It waits where its completion ring cannot. -/
theorem finishReply_of_full {s : State} {e : Entry} {o : Done} (h : (pktSilent e.pkt && decide (o.status ≤ 1)) = false)
    (hready : cplReady s e.ring = false) : finishReply s e o = setEntry s e.tag (fun x => { x with phase := .replyHeld o s.now }) := by
  simp [finishReply, h, hready]

/-- The entries that the last step of a completion leaves: the others, and its own where its reply waits. -/
theorem finishReply_entries (s : State) (e : Entry) (o : Done) :
    (finishReply s e o).entries = s.entries.filter (fun c => decide (c.tag ≠ e.tag)) ∨
    (finishReply s e o).entries = s.entries.map (fun c => if c.tag = e.tag then { c with phase := .replyHeld o s.now } else c) := by
  by_cases hsilent : (pktSilent e.pkt && decide (o.status ≤ 1)) = true
  · rw [finishReply_of_silent hsilent, (completionIrqs_only _ e o).1]
    exact Or.inl rfl
  · rw [Bool.not_eq_true] at hsilent
    by_cases hready : cplReady s e.ring = true
    · rw [finishReply_of_ready hsilent hready]
      exact Or.inl (postReply_entries ..)
    · rw [finishReply_of_full hsilent (by simpa using hready)]
      exact Or.inr rfl

/-- A command that ends has completed; the others stand. -/
theorem mem_finishReply {s : State} {e d : Entry} {o : Done} (h : d ∈ (finishReply s e o).entries) :
    d.tag = e.tag ∧ completed d = true ∨ d.tag ≠ e.tag ∧ d ∈ s.entries := by
  rcases finishReply_entries s e o with hentries | hentries <;> rw [hentries] at h
  · obtain ⟨hmem, htag⟩ := List.mem_filter.mp h
    exact Or.inr ⟨by simpa using htag, hmem⟩
  · obtain ⟨c, hc, rfl⟩ := List.mem_map.mp h
    split
    · next htag => exact Or.inl ⟨htag, rfl⟩
    · next htag => exact Or.inr ⟨htag, hc⟩

/-- Each command was there before. -/
theorem mem_of_forall₂ {d : Entry} {l m : List Entry} (h : List.Forall₂ SameCommand l m) (hd : d ∈ m) : ∃ c ∈ l, SameCommand c d := by
  induction h with
  | nil => cases hd
  | cons hsame _ ih =>
    rcases List.mem_cons.mp hd with rfl | hd
    · exact ⟨_, List.mem_cons_self, hsame⟩
    · obtain ⟨c, hc, hsame⟩ := ih hd
      exact ⟨c, List.mem_cons_of_mem _ hc, hsame⟩

/-- The command of a tag is still there. -/
theorem find?_of_forall₂ {tag : Nat} {c : Entry} {l m : List Entry} (h : List.Forall₂ SameCommand l m)
    (hc : l.find? (fun e => decide (e.tag = tag)) = some c) : ∃ d, m.find? (fun e => decide (e.tag = tag)) = some d ∧ SameCommand c d := by
  induction h with
  | nil => simp at hc
  | @cons x y _ _ hsame _ ih =>
    by_cases hx : x.tag = tag
    · have hy : y.tag = tag := hsame.tag.trans hx
      rw [List.find?_cons_of_pos (by simpa using hx)] at hc
      rw [List.find?_cons_of_pos (by simpa using hy)]
      exact ⟨y, rfl, Option.some.inj hc ▸ hsame⟩
    · have hy : ¬ y.tag = tag := fun hy => hx (hsame.tag.symm.trans hy)
      rw [List.find?_cons_of_neg (by simpa using hx)] at hc
      rw [List.find?_cons_of_neg (by simpa using hy)]
      exact ih hc

/-- The outcome with which a command's reply is posted. -/
def replied (s : State) (e : Entry) (o : Done) : Done :=
  namedUnit e (if decide (pktOp e.pkt = 2) && signals o then { o with result := signalResult s e.pkt } else o)

theorem namedUnit_status (e : Entry) (o : Done) : (namedUnit e o).status = o.status := by
  unfold namedUnit
  split
  · rfl
  · split <;> rfl

theorem replied_status (s : State) (e : Entry) (o : Done) : (replied s e o).status = o.status := by
  unfold replied
  rw [namedUnit_status]
  split <;> rfl

theorem replied_of_silentSignals {s : State} {o : Done} (e : Entry) (h : signals o = false) : replied s e o = namedUnit e o := by
  simp [replied, h]

/-- A completion: what the units do leaves the rings as they are, then the reply, and the firmware's look at it. -/
theorem completeNow_eq (s : State) (e : Entry) (o : Done) :
    ∃ u, RingsStand s u ∧ completeNow s e o = mgmtReply (finishReply u e (replied s e o)) e.ring o.status := by
  have hsignals : RingsStand s (if signals o then applySignals s e.pkt else s) := by
    split
    · exact applySignals_ringsStand ..
    · exact .refl s
  have hevent : ¬ ringReg Reg.TIDE_EVENT := by unfold ringReg Reg.TIDE_EVENT; omega
  have hend (t : State) (d : Done) : ∃ u, RingsStand t u ∧ endCommand t e d = mgmtReply (finishReply u e (namedUnit e d)) e.ring d.status := by
    have hleft : RingsStand t (setEntry (leaveUnits t e d) e.tag (fun c => { c with reads := [], readsLater := [], pauseFrom := none })) :=
      (leaveUnits_ringsStand t e d).trans (setEntry_ringsStand _ _ fun _ => ⟨rfl, rfl, rfl, rfl, rfl, id⟩)
    unfold endCommand
    simp only
    split
    · exact ⟨_, hleft.trans (.setReg _ _ hevent), rfl⟩
    · exact ⟨_, hleft, rfl⟩
  unfold completeNow
  simp only
  obtain ⟨u, hu, heq⟩ := hend (if signals o then applySignals s e.pkt else s)
    (if decide (pktOp e.pkt = 2) && signals o then { o with result := signalResult s e.pkt } else o)
  refine ⟨u, hsignals.trans hu, heq.trans (congrArg (mgmtReply _ e.ring) ?_)⟩
  split <;> rfl

/-- After a completion: its command has completed, and every other is one that was there. -/
theorem mem_completeNow {s : State} {e d : Entry} {o : Done} (h : d ∈ (completeNow s e o).entries) :
    d.tag = e.tag ∧ completed d = true ∨ d.tag ≠ e.tag ∧ ∃ c ∈ s.entries, SameCommand c d := by
  obtain ⟨u, hu, heq⟩ := completeNow_eq s e o
  rw [heq, mgmtReply_entries] at h
  rcases mem_finishReply h with hown | ⟨hne, hother⟩
  · exact Or.inl hown
  · exact Or.inr ⟨hne, mem_of_forall₂ hu.entries hother⟩

theorem completeNow_tagEnded (s : State) (e : Entry) (o : Done) : TagEnded (completeNow s e o) e.tag := by
  intro d hd htag
  rcases mem_completeNow hd with ⟨-, hdone⟩ | ⟨hne, -⟩
  · exact hdone
  · exact absurd htag hne

theorem TagEnded.congr {s t : State} {tag : Nat} (h : TagEnded s tag) (ht : t.entries = s.entries) : TagEnded t tag := by
  unfold TagEnded
  rwa [ht]

theorem entryOf_filter_tag (l : List Entry) (tag : Nat) :
    (l.filter (fun c => decide (c.tag ≠ tag))).find? (fun e => decide (e.tag = tag)) = none :=
  List.find?_eq_none.mpr fun c hc => by simpa using (List.mem_filter.mp hc).2

/-- The tag of a silent command is free at its end. -/
theorem completeNow_of_silent {s : State} {e : Entry} {o : Done} (hsilent : pktSilent e.pkt = true) (hstatus : o.status ≤ 1) :
    entryOf (completeNow s e o) e.tag = none := by
  obtain ⟨u, -, heq⟩ := completeNow_eq s e o
  have hreply := finishReply_of_silent (s := u) (e := e) (o := replied s e o) (by simp [hsilent, replied_status, hstatus])
  unfold entryOf
  rw [heq, mgmtReply_entries, hreply, (completionIrqs_only _ _ _).1]
  exact entryOf_filter_tag ..

theorem completeCommand_of_finished {s : State} {tag : Nat} {e : Entry} {o : Done} (hentry : entryOf s tag = some e)
    (hphase : e.phase = .finished o) (h : signals o = false ∨ remoteSignals s e.pkt = []) : completeCommand tag s = completeNow s e o := by
  have hnone : (signals o && !(remoteSignals s e.pkt).isEmpty) = false := by
    rcases h with h | h <;> simp [h]
  simp [completeCommand, hentry, hphase, hnone]

/-! ## Timeouts (R56 to R58) -/

theorem timeoutCommand_ends {s : State} {tag : Nat} {e : Entry} {o : Done} (hentry : entryOf s tag = some e) (hexpired : expired s e = true)
    (hdone : timeoutDone s e = some o) : ∃ u, timeoutCommand tag s = completeNow u e o := by
  simp only [timeoutCommand, hentry, hexpired, if_true, hdone]
  exact ⟨_, rfl⟩

theorem timeoutCommand_of_undispatched {s : State} {tag : Nat} {e : Entry} (hentry : entryOf s tag = some e) (hexpired : expired s e = true)
    (hundispatched : undispatched e = true) : timeoutCommand tag s = completeNow s e ⟨0x15, 0x01, 0, 0, 0⟩ := by
  have hphase : e.phase = .waiting ∨ e.phase = .ready := by simpa [undispatched] using hundispatched
  rcases hphase with hphase | hphase <;> simp [timeoutCommand, hentry, hexpired, timeoutDone, inFlight, hphase]

section

variable {s u : State} (h : ∀ off, ringReg off → u.reg off = s.reg off) {n : Nat} (hn : n < 16)
include h hn

theorem cplSize_of_stand : cplSize u n = cplSize s n :=
  congrArg (2 ^ fld · 3 0) (h _ (by unfold ringReg Reg.CPL_SIZE; omega))

theorem cplTail_of_stand : u.reg (Reg.CPL_TAIL n) = s.reg (Reg.CPL_TAIL n) := h _ (by unfold ringReg Reg.CPL_TAIL; omega)

theorem nextTail_of_stand : nextTail u n = nextTail s n := by
  unfold nextTail State.fieldAt
  rw [cplTail_of_stand h hn, cplSize_of_stand h hn]

theorem cplReady_of_stand (hpci : u.pci = s.pci) : cplReady u n = cplReady s n := by
  have hhead : u.reg (Reg.CPL_HEAD n) = s.reg (Reg.CPL_HEAD n) := h _ (by unfold ringReg Reg.CPL_HEAD; omega)
  have hlo : u.reg (Reg.CPL_BASE_LO n) = s.reg (Reg.CPL_BASE_LO n) := h _ (by unfold ringReg Reg.CPL_BASE_LO; omega)
  have hhi : u.reg (Reg.CPL_BASE_LO n + 4) = s.reg (Reg.CPL_BASE_LO n + 4) := h _ (by unfold ringReg Reg.CPL_BASE_LO; omega)
  have hsize : u.reg (Reg.RING_SIZE n) = s.reg (Reg.RING_SIZE n) := h _ (ringReg_size hn)
  have hcpl : u.reg (Reg.CPL_SIZE n) = s.reg (Reg.CPL_SIZE n) := h _ (by unfold ringReg Reg.CPL_SIZE; omega)
  unfold cplReady ringActive cplBase State.pair State.fieldAt
  rw [cplSize_of_stand h hn, cplTail_of_stand h hn, hhead, hlo, hhi, hsize, hcpl, hpci]

end

/-- The frame of time's passing: its two counters. -/
theorem passTime_ringReg (s : State) (time : Nat) {off : Nat} (h : ringReg off) : (passTime s time).reg off = s.reg off := by
  obtain ⟨hlow, hhigh⟩ := h
  exact passTime_reg s time off (by unfold Reg.CMD_STALL_COUNT; omega) (by unfold Reg.FLOOR_TIME; omega)

theorem timeoutNs_passTime (s : State) (time : Nat) (e : Entry) : timeoutNs (passTime s time) e = timeoutNs s e := by
  have hown : ownId (passTime s time) = ownId s := congrArg (fld · 11 0) (passTime_reg s time _ (by decide) (by decide))
  have hleast : (passTime s time).fieldAt Reg.CMD_TIMEOUT_MIN 19 0 = s.fieldAt Reg.CMD_TIMEOUT_MIN 19 0 :=
    congrArg (fld · 19 0) (passTime_reg s time _ (by decide) (by decide))
  unfold timeoutNs touchesFabric remoteSignals
  rw [hown, hleast]

theorem expired_passTime {s : State} {time : Nat} {e : Entry} (htimeout : pktTimeout e.pkt ≠ 0) (hpause : e.pauseFrom = none)
    (htime : e.start + e.paused + timeoutNs s e ≤ timeAt s time) : expired (passTime s time) e = true := by
  have hnow : (passTime s time).now = timeAt s time := rfl
  simp [expired, htimeout, hpause, timeoutNs_passTime, hnow, htime]

/-- Settles O13: a command that completes has ended its tag; the reply of one never dispatched finds its completion ring as it was. -/
theorem expiredCommandCompletes : Obligations.ExpiredCommandCompletes := by
  unfold Obligations.ExpiredCommandCompletes
  intro s tag time e
  rw [exec_commandTimeout]
  refine ⟨fun o hentry hexpired hdone => ?_, fun hentry hundispatched htimeout hpause hn htime => ?_⟩
  · obtain ⟨u, hrow⟩ := timeoutCommand_ends hentry hexpired hdone
    obtain ⟨t, hnext, hnow, -, -, hentries, -⟩ := actAt_of_eq (time := time) hrow
    exact ⟨t, hnext, hnow, entryOf_tag hentry ▸ (completeNow_tagEnded u e o).congr hentries⟩
  · have htag : e.tag = tag.val := entryOf_tag hentry
    have hentry' : entryOf (passTime s time) tag.val = some e := hentry
    have hrow := timeoutCommand_of_undispatched hentry' (expired_passTime htimeout hpause htime) hundispatched
    obtain ⟨t, hnext, hnow, hregs, -, hentries, -⟩ := actAt_of_eq (time := time) hrow
    have hended := (completeNow_tagEnded (passTime s time) e ⟨0x15, 0x01, 0, 0, 0⟩).congr hentries
    rw [htag] at hended
    obtain ⟨u, hstand, hdone⟩ := completeNow_eq (passTime s time) e ⟨0x15, 0x01, 0, 0, 0⟩
    rw [replied_of_silentSignals e rfl] at hdone
    have hsilent : (pktSilent e.pkt && decide ((namedUnit e ⟨0x15, 0x01, 0, 0, 0⟩).status ≤ 1)) = false := by simp [namedUnit_status]
    have hreg (off : Nat) (h : ringReg off) : u.reg off = s.reg off := (hstand.reg off h).trans (passTime_ringReg s time h)
    have hcpl : cplReady u e.ring = cplReady s e.ring := cplReady_of_stand hreg hn hstand.pci
    refine ⟨t, hnext, hnow, hended, fun hfull => ?_, fun hready => ?_⟩
    · rw [finishReply_of_full hsilent (hcpl.trans hfull)] at hdone
      obtain ⟨x, hx, hsame⟩ := find?_of_forall₂ hstand.entries hentry'
      refine ⟨{ x with phase := .replyHeld (namedUnit e ⟨0x15, 0x01, 0, 0, 0⟩) u.now }, ?_, hsame.pkt, ?_⟩
      · rw [entryOf_congr (hentries.trans (congrArg State.entries hdone)), entryOf_congr (mgmtReply_entries ..), htag]
        refine (entryOf_setEntry u tag.val
          (f := fun x => { x with phase := .replyHeld (namedUnit e ⟨0x15, 0x01, 0, 0, 0⟩) u.now }) fun _ h => h).trans ?_
        exact congrArg (Option.map _) hx
      · exact congrArg (Phase.replyHeld _) hstand.now
    · rw [finishReply_of_ready hsilent (hcpl.trans hready)] at hdone
      refine ⟨?_, ?_⟩
      · rw [entryOf_congr (hentries.trans (congrArg State.entries hdone)), entryOf_congr (mgmtReply_entries ..), ← htag]
        unfold entryOf
        rw [postReply_entries]
        exact entryOf_filter_tag ..
      · have htakes := postReply_tail u (namedUnit e ⟨0x15, 0x01, 0, 0, 0⟩) u.now false hn
        rw [nextTail_of_stand hreg hn] at htakes
        refine htakes.congr (cplTail_of_stand hreg hn).symm ?_
        rw [reg_congr (hregs.trans (congrArg State.regs hdone))]
        exact mgmtReply_reg _ _ (outsideLog_cplTail hn).irq (by unfold Reg.CPL_TAIL Reg.CPL_HEAD; omega)
          (by unfold Reg.CPL_TAIL Reg.MGMT_EVENT; omega)

end Sys2Proof.Machine
end

section
/-! PROOFS. Cancellation and FLUSH (R59, R60). -/

namespace Sys2Proof.Machine

open Sys2Proof

/-! ## What replies on a ring change -/

/-- Of the ring registers only CPL_TAIL, CPL_HEAD and ADDR_ERR of ring `n` have changed. -/
structure RepliesOnly (n : Nat) (s t : State) : Prop where
  reg : ∀ off, ringReg off → off ≠ Reg.RING_STATUS n → off ≠ Reg.CPL_TAIL n → off ≠ Reg.CPL_HEAD n → t.reg off = s.reg off
  status : ∀ i, i < 32 → i ≠ 7 → t.bitAt (Reg.RING_STATUS n) i = s.bitAt (Reg.RING_STATUS n) i

theorem RepliesOnly.refl (n : Nat) (s : State) : RepliesOnly n s s := ⟨fun _ _ _ _ _ => rfl, fun _ _ _ => rfl⟩

theorem RepliesOnly.trans {n : Nat} {s t u : State} (first : RepliesOnly n s t) (second : RepliesOnly n t u) : RepliesOnly n s u :=
  ⟨fun off h h1 h2 h3 => (second.reg off h h1 h2 h3).trans (first.reg off h h1 h2 h3),
    fun i hi h7 => (second.status i hi h7).trans (first.status i hi h7)⟩

section

variable {n : Nat} (hn : n < 16)
include hn

theorem ringReg_status : ringReg (Reg.RING_STATUS n) := by unfold ringReg Reg.RING_STATUS; omega

theorem ringReg_tail : ringReg (Reg.RING_TAIL n) := by unfold ringReg Reg.RING_TAIL; omega

theorem RingsStand.repliesOnly {s t : State} (h : RingsStand s t) : RepliesOnly n s t :=
  ⟨fun off hoff _ _ _ => h.reg off hoff, fun i _ _ => bitAt_congr (h.reg _ (ringReg_status hn)) i⟩

theorem ringFault_repliesOnly (s : State) (a : Nat) : RepliesOnly n s (ringFault s n a) :=
  ⟨fun _ hoff h1 _ _ => ringFault_reg s a hn (ringReg_outsideLog hoff) h1,
    fun i hi h7 => by rw [ringFault_bitAt s a hn hi, decide_eq_false h7, Bool.false_or]⟩

theorem granuleFaults_repliesOnly (s : State) (a : Nat) : RepliesOnly n s (granuleFaults s n a) := by
  obtain ⟨u, hstand, -, hfault⟩ := granuleFaults_eq s n a
  rw [hfault]
  exact (hstand.repliesOnly hn).trans (ringFault_repliesOnly hn u a)

theorem mgmtReply_repliesOnly (s : State) (status : Nat) : RepliesOnly n s (mgmtReply s n status) := by
  have hevent {off : Nat} (h : ringReg off) : off ≠ Reg.MGMT_EVENT := by unfold ringReg at h; unfold Reg.MGMT_EVENT; omega
  refine ⟨fun off hoff _ _ hhead => mgmtReply_reg s status (ringReg_outsideLog hoff).irq hhead (hevent hoff), fun i _ _ => ?_⟩
  exact bitAt_congr (mgmtReply_reg s status (outsideLog_ringStatus hn).irq (by unfold Reg.RING_STATUS Reg.CPL_HEAD; omega)
    (hevent (ringReg_status hn))) i

theorem finishReply_repliesOnly (s : State) {e : Entry} (o : Done) (he : e.ring = n) : RepliesOnly n s (finishReply s e o) := by
  subst he
  by_cases hsilent : (pktSilent e.pkt && decide (o.status ≤ 1)) = true
  · rw [finishReply_of_silent hsilent]
    refine ⟨fun off hoff _ _ _ => ?_, fun i _ _ => ?_⟩
    · exact (completionIrqs_only _ e o).2 off (ringReg_outsideLog hoff).irq
    · exact bitAt_congr ((completionIrqs_only _ e o).2 _ (outsideLog_ringStatus hn).irq) i
  · rw [Bool.not_eq_true] at hsilent
    by_cases hready : cplReady s e.ring = true
    · rw [finishReply_of_ready hsilent hready]
      exact ⟨fun off hoff h1 h2 _ => postReply_reg s o _ _ hn (ringReg_outsideLog hoff) h1 h2,
        fun i hi h7 => postReply_status s o _ _ hn hi h7⟩
    · rw [finishReply_of_full hsilent (by simpa using hready)]
      exact ⟨fun _ _ _ _ _ => rfl, fun _ _ _ => rfl⟩

theorem completeNow_repliesOnly (s : State) {e : Entry} (o : Done) (he : e.ring = n) : RepliesOnly n s (completeNow s e o) := by
  obtain ⟨u, hstand, heq⟩ := completeNow_eq s e o
  rw [heq, he]
  exact ((hstand.repliesOnly hn).trans (finishReply_repliesOnly hn u _ he)).trans (mgmtReply_repliesOnly hn _ _)

theorem RepliesOnly.head {s t : State} (h : RepliesOnly n s t) : t.reg (Reg.RING_HEAD n) = s.reg (Reg.RING_HEAD n) :=
  h.reg _ (ringReg_head hn) (by unfold Reg.RING_HEAD Reg.RING_STATUS; omega) (by unfold Reg.RING_HEAD Reg.CPL_TAIL; omega)
    (by unfold Reg.RING_HEAD Reg.CPL_HEAD; omega)

theorem RepliesOnly.tail {s t : State} (h : RepliesOnly n s t) : t.reg (Reg.RING_TAIL n) = s.reg (Reg.RING_TAIL n) :=
  h.reg _ (ringReg_tail hn) (by unfold Reg.RING_TAIL Reg.RING_STATUS; omega) (by unfold Reg.RING_TAIL Reg.CPL_TAIL; omega)
    (by unfold Reg.RING_TAIL Reg.CPL_HEAD; omega)

end

/-! ## No undispatched command of a ring -/

/-- No command of ring `n` is tagged and undispatched. -/
def NoneUndispatched (n : Nat) (s : State) : Prop := ∀ d ∈ s.entries, d.ring = n → undispatched d = false

theorem NoneUndispatched.congr {n : Nat} {s t : State} (h : NoneUndispatched n s) (ht : t.entries = s.entries) : NoneUndispatched n t := by
  unfold NoneUndispatched
  rwa [ht]

theorem NoneUndispatched.stand {n : Nat} {s t : State} (h : NoneUndispatched n s) (ht : RingsStand s t) : NoneUndispatched n t := by
  intro d hd hring
  obtain ⟨c, hc, hsame⟩ := mem_of_forall₂ ht.entries hd
  exact Bool.eq_false_iff.mpr fun hundispatched => by simpa [h c hc (hsame.ring.symm.trans hring)] using hsame.undispatched hundispatched

theorem undispatched_of_completed {e : Entry} (h : completed e = true) : undispatched e = false := by
  unfold completed at h
  split at h
  · next hphase => simp [undispatched, hphase]
  · cases h

/-- Commands of one ring completed one after another: of that ring only those still to come are undispatched. -/
theorem cancels_noneUndispatched {n : Nat} (o : Done) : ∀ (l : List Entry) (s : State),
    (∀ c ∈ s.entries, c.ring = n → undispatched c = true → ∃ e ∈ l, e.tag = c.tag) →
    NoneUndispatched n (l.foldl (fun s e => completeNow s e o) s)
  | [], s, h => fun d hd hring => Bool.eq_false_iff.mpr fun hundispatched => by
    obtain ⟨e, he, -⟩ := h d hd hring hundispatched
    cases he
  | e :: l, s, h => by
    refine cancels_noneUndispatched o l _ fun d hd hring hundispatched => ?_
    rcases mem_completeNow hd with ⟨-, hdone⟩ | ⟨hne, c, hc, hsame⟩
    · simp [undispatched_of_completed hdone] at hundispatched
    · obtain ⟨e', he', htag⟩ := h c hc (hsame.ring.symm.trans hring) (hsame.undispatched hundispatched)
      rcases List.mem_cons.mp he' with rfl | hrest
      · exact absurd (hsame.tag.trans htag.symm) hne
      · exact ⟨e', hrest, htag.trans hsame.tag.symm⟩

theorem cancels_repliesOnly {n : Nat} (hn : n < 16) (o : Done) (s : State) {l : List Entry} (h : ∀ e ∈ l, e.ring = n) :
    RepliesOnly n s (l.foldl (fun s e => completeNow s e o) s) :=
  List.foldlRecOn l _ (motive := RepliesOnly n s) (.refl n s) fun t ht e he => ht.trans (completeNow_repliesOnly hn t o (h e he))

theorem cancelRing_noneUndispatched (s : State) (n detail : Nat) : NoneUndispatched n (cancelRing s n detail) :=
  cancels_noneUndispatched _ _ s fun c hc hring hundispatched => ⟨c, List.mem_filter.mpr ⟨hc, by simp [hring, hundispatched]⟩, rfl⟩

theorem cancelRing_repliesOnly (s : State) {n : Nat} (hn : n < 16) (detail : Nat) : RepliesOnly n s (cancelRing s n detail) :=
  cancels_repliesOnly hn _ s fun e he => by
    have hring := (List.mem_filter.mp he).2
    simp only [Bool.and_eq_true, decide_eq_true_eq] at hring
    exact hring.1

/-! ## FLUSH -/

theorem cancelPacket_noneUndispatched {s : State} {n : Nat} (p : List Byte) (h : NoneUndispatched n s) :
    NoneUndispatched n (cancelPacket s n p) := by
  intro d hd hring
  unfold cancelPacket at hd
  rcases mem_completeNow hd with ⟨-, hdone⟩ | ⟨hne, c, hc, hsame⟩
  · exact undispatched_of_completed hdone
  · rcases List.mem_append.mp hc with hc | hc
    · exact Bool.eq_false_iff.mpr fun hundispatched => by
        simpa [h c hc (hsame.ring.symm.trans hring)] using hsame.undispatched hundispatched
    · exact absurd (List.mem_singleton.mp hc ▸ hsame.tag) hne

theorem cancelPacket_repliesOnly (s : State) {n : Nat} (hn : n < 16) (p : List Byte) : RepliesOnly n s (cancelPacket s n p) := by
  have htagged (l : List Entry) (k : Nat) : RepliesOnly n s { s with entries := l, readSeq := k } :=
    ⟨fun _ _ _ _ _ => rfl, fun _ _ _ => rfl⟩
  have hring : (newEntry s n p).ring = n := rfl
  unfold cancelPacket
  generalize newEntry s n p = e at hring
  exact (htagged _ _).trans (completeNow_repliesOnly hn _ _ hring)

theorem loadGranules_ringsStand : ∀ (l : List Nat) (s : State), RingsStand s (loadGranules s l).2
  | [], s => .refl s
  | a :: l, s => by
    have hfirst : RingsStand s (loadGranule s a).2 := by
      unfold loadGranule
      split
      · exact .refl s
      · next hp => exact (settleWord_merge s _ a fun _ => locate_stack hp).ringsStand
    exact hfirst.trans (loadGranules_ringsStand l _)

/-- A ring under FLUSH of which no command is undispatched. -/
def Flushing (n : Nat) (s : State) : Prop := NoneUndispatched n s ∧ flushing s n = true

theorem Flushing.replies {n : Nat} {s t : State} (h : Flushing n s) (hentries : NoneUndispatched n t) (ht : RepliesOnly n s t) :
    Flushing n t := ⟨hentries, (ht.status 9 (by decide) (by decide)).trans h.2⟩

theorem moveHead_flushing {n : Nat} {s : State} (k : Nat) (h : Flushing n s) : Flushing n (moveHead s n k) := by
  refine ⟨h.1, Eq.trans ?_ h.2⟩
  exact bitAt_congr (reg_setReg_ne _ _ (by unfold Reg.RING_STATUS Reg.RING_HEAD; omega)) 9

/-- The ring is empty. -/
def RingEmpty (n : Nat) (s : State) : Prop := ringHead s n % ringSize s n = ringTail s n % ringSize s n

/-- The head moved past all granules in use is at the tail. -/
theorem moveHead_used_empty (s : State) (n : Nat) : RingEmpty n (moveHead s n (ringUsed s n)) := by
  have hother {off : Nat} (h : off ≠ Reg.RING_HEAD n) : (moveHead s n (ringUsed s n)).reg off = s.reg off := reg_setReg_ne _ _ h
  have hsize : ringSize (moveHead s n (ringUsed s n)) n = ringSize s n :=
    congrArg (2 ^ fld · 3 0) (hother (by unfold Reg.RING_SIZE Reg.RING_HEAD; omega))
  have htail : ringTail (moveHead s n (ringUsed s n)) n = ringTail s n :=
    congrArg (fld · 11 0) (hother (by unfold Reg.RING_TAIL Reg.RING_HEAD; omega))
  have hhead : ringHead (moveHead s n (ringUsed s n)) n = (ringHead s n + ringUsed s n) % ringSize s n % 2 ^ 12 :=
    fieldAt_setField s _ 11 0 _ (by decide)
  have htail_lt : ringTail s n < 2 ^ 12 := fld_lt _ 11 0
  unfold RingEmpty
  rw [hsize, htail, hhead]
  have hpos : 0 < ringSize s n := Nat.two_pow_pos _
  have hused : (ringHead s n + ringUsed s n) % ringSize s n = ringTail s n % ringSize s n := by
    have hle : ringHead s n % ringSize s n ≤ ringSize s n := (Nat.mod_lt _ hpos).le
    rw [ringUsed, Nat.add_mod_mod, ← Nat.mod_add_mod, ← Nat.add_sub_assoc (by omega), Nat.add_sub_cancel_left, Nat.add_mod_right,
      Nat.mod_mod]
  rw [hused, Nat.mod_eq_of_lt ((Nat.mod_le _ _).trans_lt htail_lt), Nat.mod_mod]

theorem setStatusBit_empty {n : Nat} {s : State} (b : Bool) (h : RingEmpty n s) : RingEmpty n (s.setBit (Reg.RING_STATUS n) 9 b) := by
  have hother {off : Nat} (h : off ≠ Reg.RING_STATUS n) : (s.setBit (Reg.RING_STATUS n) 9 b).reg off = s.reg off := reg_setReg_ne _ _ h
  have hhead := hother (off := Reg.RING_HEAD n) (by unfold Reg.RING_STATUS Reg.RING_HEAD; omega)
  have htail := hother (off := Reg.RING_TAIL n) (by unfold Reg.RING_STATUS Reg.RING_TAIL; omega)
  have hsize := hother (off := Reg.RING_SIZE n) (by unfold Reg.RING_STATUS Reg.RING_SIZE; omega)
  unfold RingEmpty ringHead ringTail ringSize State.fieldAt at h ⊢
  rwa [hhead, htail, hsize]

theorem endFlush_empty (s : State) (n : Nat) : RingEmpty n (endFlush s n) := by
  unfold endFlush
  simp only
  refine setStatusBit_empty false ?_
  split
  · next h => exact congrArg (· % ringSize s n) h
  · exact moveHead_used_empty s n

theorem endFlush_entries (s : State) (n : Nat) : (endFlush s n).entries = s.entries := by
  unfold endFlush
  simp only
  split <;> rfl

/-- How a FLUSH stands: no command of its ring is undispatched, and it is under way or the ring is empty. -/
def FlushStands (n : Nat) (t : State) : Prop := NoneUndispatched n t ∧ (flushing t n = false → RingEmpty n t)

theorem endFlush_stands {n : Nat} {s : State} (h : NoneUndispatched n s) : FlushStands n (endFlush s n) :=
  ⟨h.congr (endFlush_entries s n), fun _ => endFlush_empty s n⟩

theorem Flushing.stands {n : Nat} {s : State} (h : Flushing n s) : FlushStands n s :=
  ⟨h.1, fun hdone => absurd h.2 (by simp [hdone])⟩

theorem granuleFaults_flushing {n : Nat} {s : State} (hn : n < 16) (a : Nat) (h : Flushing n s) : Flushing n (granuleFaults s n a) := by
  obtain ⟨u, -, hentries, hfault⟩ := granuleFaults_eq s n a
  refine h.replies (h.1.congr ?_) (granuleFaults_repliesOnly hn s a)
  rw [hfault, ringFault_entries, hentries]

theorem cancelPacket_flushing {n : Nat} {s : State} (hn : n < 16) (p : List Byte) (h : Flushing n s) : Flushing n (cancelPacket s n p) :=
  h.replies (cancelPacket_noneUndispatched p h.1) (cancelPacket_repliesOnly s hn p)

/-- A FLUSH reads on until the ring is empty, or stays under way. -/
theorem flushPackets_stands {n : Nat} (hn : n < 16) : ∀ (fuel : Nat) (s : State), Flushing n s → FlushStands n (flushPackets n fuel s)
  | 0, _, h => endFlush_stands h.1
  | fuel + 1, s, h => by
    unfold flushPackets
    split
    · exact endFlush_stands h.1
    · split
      · exact endFlush_stands (granuleFaults_flushing hn _ h).1
      · split
        · exact h.stands
        · split
          · split
            · exact endFlush_stands h.1
            · exact endFlush_stands (cancelPacket_noneUndispatched _ h.1)
          · simp only
            split
            · exact flushPackets_stands hn fuel _ (moveHead_flushing _ (granuleFaults_flushing hn _ h))
            · split
              · exact h.stands
              · have hload := loadGranules_ringsStand ((headAddrs s n).take (ringUsed s n)) s
                exact flushPackets_stands hn fuel _ (moveHead_flushing _ (cancelPacket_flushing hn _
                  (h.replies (h.1.stand hload) (hload.repliesOnly hn))))

/-- Where the head is at the tail, a FLUSH ends at once. -/
theorem flushPackets_of_empty {s : State} {n fuel : Nat} (h : ringHead s n = ringTail s n) : flushPackets n fuel s = endFlush s n := by
  cases fuel with
  | zero => rfl
  | succ fuel => rw [flushPackets, if_pos h]

theorem endFlush_ended (s : State) (n : Nat) : flushing (endFlush s n) n = false := by
  unfold endFlush flushing
  exact (bitTakes_setBit _ _ false (by decide)).1

/-- Settles O14: each command cancelled has completed, and what a FLUSH reads on its way keeps its bit until the ring is empty. -/
theorem flushAndCancelEmptyTheRing : Obligations.FlushAndCancelEmptyTheRing := by
  unfold Obligations.FlushAndCancelEmptyTheRing
  intro s r hready
  have hr := r.isLt
  rw [exec_flush, exec_cancelWaiting]
  refine ⟨?_, ?_⟩
  · have honly := cancelRing_repliesOnly (s.setBit (Reg.RING_STATUS r.val) 9 true) hr 0x02
    have hbegun : flushing (cancelRing (s.setBit (Reg.RING_STATUS r.val) 9 true) r.val 0x02) r.val = true :=
      (honly.status 9 (by decide) (by decide)).trans (bitTakes_setBit s _ true (by decide)).1
    have hstands := flushPackets_stands hr 4096 _ ⟨cancelRing_noneUndispatched _ r.val 0x02, hbegun⟩
    obtain ⟨t, hnext, hregs, -, -, hentries, -⟩ := act_leaves (f := whenReady (flushRing r.val)) (whenReady_true hready)
    refine ⟨t, hnext, hstands.1.congr hentries, fun hdone => ?_, fun hempty => ?_⟩
    · have hring := hstands.2 ((bitAt_congr (reg_congr hregs _) 9).symm.trans hdone)
      unfold RingEmpty at hring
      rw [ringHead_congr hregs, ringTail_congr hregs, ringSize_congr hregs]
      exact hring
    · have hnot (off : Nat) (h : off ≠ Reg.RING_STATUS r.val) : (s.setBit (Reg.RING_STATUS r.val) 9 true).reg off = s.reg off :=
        reg_setReg_ne _ _ h
      have hhead := congrArg (fld · 11 0) ((honly.head hr).trans (hnot _ (by unfold Reg.RING_STATUS Reg.RING_HEAD; omega)))
      have htail := congrArg (fld · 11 0) ((honly.tail hr).trans (hnot _ (by unfold Reg.RING_STATUS Reg.RING_TAIL; omega)))
      have hended := flushPackets_of_empty (fuel := 4096) (hhead.trans (Eq.trans hempty htail.symm))
      refine (bitAt_congr (reg_congr (hregs.trans (congrArg State.regs hended)) _) 9).trans ?_
      exact endFlush_ended ..
  · obtain ⟨t, hnext, hregs, -, -, hentries, -⟩ := act_leaves (f := whenReady (fun s => cancelRing s r.val 0x01)) (whenReady_true hready)
    have honly := cancelRing_repliesOnly s hr 0x01
    refine ⟨t, hnext, (cancelRing_noneUndispatched s r.val 0x01).congr hentries, ?_, ?_⟩
    · exact congrArg (fld · 11 0) ((reg_congr hregs _).trans (honly.head hr))
    · exact congrArg (fld · 11 0) ((reg_congr hregs _).trans (honly.tail hr))

end Sys2Proof.Machine
end

section
/-! PROOFS. COMMAND_COMPLETE and REPLY_DEFERRED_POST (R36, R50). -/

namespace Sys2Proof.Machine

open Sys2Proof

/-! ## Memory that is addressed directly: skerry memory, scratchpads, shelves -/

/-- Such an address is its own location, where it reaches anything. -/
theorem locate_direct (s : State) {a : Nat} (hlow : 0x010000000000 ≤ a) (hhigh : a < 0x800000000000) :
    locate s a = .error 1 ∨ ∃ r, locate s a = .ok ⟨a, r⟩ := by
  unfold locate
  rw [if_neg (by omega), if_neg (by omega)]
  simp only
  split_ifs
  all_goals simp

/-- What it reaches depends on the enabled bays alone. -/
theorem locate_direct_congr {s t : State} (h : t.reg Reg.BAY_ENABLE_MASK = s.reg Reg.BAY_ENABLE_MASK) {a : Nat}
    (hlow : 0x010000000000 ≤ a) (hhigh : a < 0x800000000000) : locate t a = locate s a := by
  have hbay (b : Nat) : bayEnabled t b = bayEnabled s b := bitAt_congr h b
  have hhbm : ¬ a < 0x009000000000 := by omega
  simp only [locate, if_neg hhbm, if_pos hhigh, hbay]

/-- A byte at a location that is addressed directly. -/
def Direct (s : State) (a : Nat) : Prop := ∃ r, locate s a = .ok ⟨a, r⟩

theorem direct_of_faultIn {s : State} {write : Bool} : ∀ {n a : Nat}, 0x010000000000 ≤ a → a + n ≤ 0x800000000000 →
    faultIn s write a n = none → ∀ i, i < n → Direct s (a + i)
  | n + 1, a, hlow, hhigh, h, i, hi => by
    rw [faultIn] at h
    rcases locate_direct s hlow (by omega) with hloc | hloc
    · simp [hloc] at h
    · obtain ⟨r, hr⟩ := hloc
      have hrest : faultIn s write (a + 1) n = none := by
        rw [hr] at h
        simp only at h
        split at h
        · split at h
          · cases h
          · exact h
        · exact h
      cases i with
      | zero => exact ⟨r, hr⟩
      | succ i =>
        have hnext := direct_of_faultIn (by omega) (by omega) hrest i (by omega)
        rwa [Nat.add_right_comm] at hnext

/-- Bytes stored there are there. -/
theorem byteAt_pokeBytes_direct (l : List Byte) : ∀ (s : State) (a i : Nat), (∀ j, j < l.length → Direct s (a + j)) → i < l.length →
    byteAt (pokeBytes s a l) (a + i) = (l[i]?).getD 0 := by
  induction l with
  | nil => intro s a i _ hi; simp at hi
  | cons b l ih =>
    intro s a i h hi
    have hsame (x : Nat) : locate (putByte s a b) x = locate s x := locate_congr rfl rfl x
    have hrest (j : Nat) (hj : j < l.length) : Direct (putByte s a b) (a + 1 + j) := by
      obtain ⟨r, hr⟩ := h (j + 1) (by simpa using hj)
      exact ⟨r, by rw [hsame, Nat.add_assoc, Nat.add_comm 1 j]; exact hr⟩
    obtain ⟨r, hr⟩ := h 0 (by simp)
    rw [pokeBytes, show locate s a = .ok ⟨a, r⟩ from hr]
    simp only
    cases i with
    | zero =>
      rw [byteAt_pokeBytes_ne, byteAt_putByte]
      · simp
      · intro j p hj hp
        obtain ⟨_, hq⟩ := hrest j hj
        have hkey : p.key = a + 1 + j := by rw [← Except.ok.inj (hq.symm.trans hp)]
        omega
    | succ i =>
      rw [show a + (i + 1) = a + 1 + i by omega, ih _ (a + 1) i hrest (by simpa using hi)]
      simp

theorem peekBytes_of_bytes {s : State} {a : Nat} {l : List Byte} (hdirect : ∀ j, j < l.length → Direct s (a + j))
    (hbytes : ∀ j, j < l.length → byteAt s (a + j) = (l[j]?).getD 0) : peekBytes s a l.length = l := by
  have hfrom : ∀ (n i : Nat), i + n = l.length → peekBytes s (a + i) n = l.drop i := by
    intro n
    induction n with
    | zero => intro i h; simp [peekBytes, List.drop_of_length_le (show l.length ≤ i by omega)]
    | succ n ih =>
      intro i h
      have hi : i < l.length := by omega
      obtain ⟨r, hr⟩ := hdirect i hi
      rw [peekBytes, List.drop_eq_getElem_cons hi, Nat.add_assoc, ih (i + 1) (by omega), State.readByte, hr]
      simp [hbytes i hi, hi]
  simpa using hfrom l.length 0 (by omega)

/-! ## The reply that has waited longest (R36) -/

/-- Since when a command's reply waits. -/
def heldTime (e : Entry) : Option Nat :=
  match e.phase with
  | .replyHeld _ t => some t
  | _ => none

/-- Of two, the one that has waited longer. -/
def longerHeld (b : Option Entry) (e : Entry) : Option Entry :=
  match b with
  | none => some e
  | some c => if (heldTime e).getD 0 < (heldTime c).getD 0 then some e else some c

/-- The commands whose replies wait for a ring. -/
def heldOf (s : State) (n : Nat) : List Entry := s.entries.filter (fun e => decide (e.ring = n) && (heldTime e).isSome)

theorem heldTime_of_held {e : Entry} {o : Done} {t : Nat} (h : e.phase = .replyHeld o t) : heldTime e = some t := by
  simp [heldTime, h]

theorem held_of_heldTime {e : Entry} (h : (heldTime e).isSome = true) : ∃ o t, e.phase = .replyHeld o t ∧ heldTime e = some t := by
  unfold heldTime at h ⊢
  split at h
  · next o t hphase => exact ⟨o, t, hphase, by simp⟩
  · simp at h

/-- A held reply posted where its completion ring can take it. -/
def postHeld (s : State) (n : Nat) (e : Entry) : State :=
  match e.phase with
  | .replyHeld o t => if cplReady s n then mgmtReply (postReply s e o t true) n o.status else s
  | _ => s

theorem deferredPost_eq (s : State) (n : Nat) : deferredPost n s = ((heldOf s n).foldl longerHeld none).elim s (postHeld s n) := by
  have hmatch : deferredPost n s = (match (heldOf s n).foldl longerHeld none with
    | some e => postHeld s n e
    | none => s) := rfl
  rw [hmatch]
  cases (heldOf s n).foldl longerHeld none <;> rfl

theorem deferredPost_of_first {s : State} {n : Nat} {e : Entry} {o : Done} {time : Nat} (hfirst : (heldOf s n).foldl longerHeld none = some e)
    (hphase : e.phase = .replyHeld o time) (hready : cplReady s n = true) :
    deferredPost n s = mgmtReply (postReply s e o time true) n o.status := by
  rw [deferredPost_eq, hfirst]
  simp [postHeld, hphase, hready]

theorem deferredPost_of_none {s : State} {n : Nat} (h : heldOf s n = []) : deferredPost n s = s := by
  rw [deferredPost_eq, h]
  rfl

/-- The first of them all is found. -/
theorem longest_of_first {e : Entry} : ∀ (l : List Entry) (b : Option Entry),
    (∀ c ∈ l, c = e ∨ (heldTime e).getD 0 < (heldTime c).getD 0) → (∀ c, b = some c → c = e ∨ (heldTime e).getD 0 < (heldTime c).getD 0) →
    e ∈ l ∨ b = some e → l.foldl longerHeld b = some e
  | [], _, _, _, h => h.resolve_left (by simp)
  | c :: l, b, hl, hb, h => by
    have hrest (d : Entry) (hd : d ∈ l) : d = e ∨ (heldTime e).getD 0 < (heldTime d).getD 0 := hl d (List.mem_cons_of_mem _ hd)
    have hc := hl c List.mem_cons_self
    rcases b with _ | b
    · refine longest_of_first l (some c) hrest (fun d hd => Option.some.inj hd ▸ hc) ?_
      rcases h with h | h
      · exact (List.mem_cons.mp h).symm.imp_right fun h => congrArg some h.symm
      · cases h
    · have hb := hb b rfl
      by_cases hlonger : (heldTime c).getD 0 < (heldTime b).getD 0
      · have hstep : longerHeld (some b) c = some c := if_pos hlonger
        rw [List.foldl_cons, hstep]
        refine longest_of_first l (some c) hrest (fun d hd => Option.some.inj hd ▸ hc) ?_
        rcases h with h | h
        · exact (List.mem_cons.mp h).symm.imp_right fun h => congrArg some h.symm
        · obtain rfl := Option.some.inj h
          exact Or.inr (congrArg some (hc.resolve_right (by omega)))
      · have hstep : longerHeld (some b) c = some b := if_neg hlonger
        rw [List.foldl_cons, hstep]
        refine longest_of_first l (some b) hrest (fun d hd => Option.some.inj hd ▸ hb) ?_
        rcases h with h | h
        · rcases List.mem_cons.mp h with rfl | h
          · exact Or.inr (congrArg some (hb.resolve_right hlonger))
          · exact Or.inl h
        · exact Or.inr h

theorem length_toLE : ∀ (n v : Nat), (toLE n v).length = n
  | 0, _ => rfl
  | n + 1, _ => congrArg (· + 1) (length_toLE n _)

theorem length_replyBytes (e : Entry) (o : Done) (time phase : Nat) (delayed : Bool) : (replyBytes e o time phase delayed).length = 32 := by
  simp [replyBytes, length_toLE]

/-! ## The reply in its completion ring -/

theorem outsideLog_bayMask : OutsideLog Reg.BAY_ENABLE_MASK := by
  refine ⟨by decide, by decide, by decide, by decide, ?_⟩
  rintro (h | ⟨st, -, h⟩)
  · exact absurd h (by decide)
  · unfold Reg.BAY_ENABLE_MASK Reg.STACK_CE at h; omega

/-- A reply that its completion ring's memory takes stands there, whatever registers of the rings change after it. -/
theorem peekBytes_reply {s t : State} {e : Entry} {o : Done} {time : Nat} {delayed : Bool} {a : Nat}
    (ha : a = cplBase s e.ring + 32 * s.fieldAt (Reg.CPL_TAIL e.ring) 11 0) (hlow : 0x010000000000 ≤ a) (hhigh : a + 32 ≤ 0x800000000000)
    (hfault : faultIn s true a 32 = none) (hmem : t.mem = (replyStored s e o time delayed).mem)
    (hundef : t.undef = (replyStored s e o time delayed).undef) (hbays : t.reg Reg.BAY_ENABLE_MASK = s.reg Reg.BAY_ENABLE_MASK) :
    peekBytes t a 32 = replyBytes e o time (phaseOf s e.ring) delayed := by
  have hlength := length_replyBytes e o time (phaseOf s e.ring) delayed
  have hstored : replyStored s e o time delayed = storeBytes s a (replyBytes e o time (phaseOf s e.ring) delayed) := by
    unfold replyStored
    rw [← ha, hfault]
  have hdirect := direct_of_faultIn hlow hhigh hfault
  have hmerge := settleWrite_merge s a (replyBytes e o time (phaseOf s e.ring) delayed).length
  generalize hl : replyBytes e o time (phaseOf s e.ring) delayed = l at *
  rw [hstored] at hmem hundef
  have hmoved {u : State} (hu : u.reg Reg.BAY_ENABLE_MASK = s.reg Reg.BAY_ENABLE_MASK) (j : Nat) (hj : j < l.length) : Direct u (a + j) := by
    obtain ⟨r, hr⟩ := hdirect j (by omega)
    exact ⟨r, (locate_direct_congr hu (by omega) (by omega)).trans hr⟩
  rw [← hlength]
  refine peekBytes_of_bytes (hmoved hbays) fun j hj => ?_
  rw [byteAt_congr hmem hundef]
  exact byteAt_pokeBytes_direct l _ a j (hmoved (hmerge.reg_eq outsideLog_bayMask)) hj

/-! ## COMMAND_COMPLETE and REPLY_DEFERRED_POST -/

/-- Settles O12: a completion ends its tag, and the reply that has waited longest is posted. -/
theorem commandCompleteAndDeferredReplyEndTheTag : Obligations.CommandCompleteAndDeferredReplyEndTheTag := by
  unfold Obligations.CommandCompleteAndDeferredReplyEndTheTag
  refine ⟨fun s tag e o hentry hphase hsignals => ?_, fun s r => ⟨fun e o time he hring hphase hready hfirst => ?_, fun hnone => ?_⟩⟩
  · obtain ⟨t, hnext, -, -, -, hentries, -⟩ := act_leaves (completeCommand_of_finished hentry hphase hsignals)
    have htag : e.tag = tag.val := entryOf_tag hentry
    rw [exec_commandComplete, ← htag]
    refine ⟨t, htag ▸ hnext, (completeNow_tagEnded s e o).congr hentries, fun ⟨hsilent, hstatus⟩ => ?_⟩
    rw [entryOf_congr hentries]
    exact completeNow_of_silent hsilent hstatus
  · have hheld : heldTime e = some time := heldTime_of_held hphase
    have hlongest : (heldOf s r.val).foldl longerHeld none = some e := by
      refine longest_of_first _ none (fun c hc => ?_) (fun c hc => by cases hc) (Or.inl (List.mem_filter.mpr ⟨he, by simp [hring, hheld]⟩))
      obtain ⟨hmem, hwaits⟩ := List.mem_filter.mp hc
      simp only [Bool.and_eq_true, decide_eq_true_eq] at hwaits
      obtain ⟨p, u, hphase', hheld'⟩ := held_of_heldTime hwaits.2
      by_cases hsame : c = e
      · exact Or.inl hsame
      · exact Or.inr (by simpa [hheld, hheld'] using (hfirst c hmem hsame).2 p u hwaits.1 hphase')
    have hn : e.ring < 16 := hring ▸ r.isLt
    obtain ⟨t, hnext, hregs, hmem, hundef, hentries, -⟩ := act_leaves (deferredPost_of_first hlongest hphase hready)
    rw [← hring] at hregs hmem hundef hentries ⊢
    obtain ⟨phases, hpost⟩ := postReply_eq s e o time true
    have honly := (completionIrqs_only (freeEntry
      { (replyStored s e o time true).setField (Reg.CPL_TAIL e.ring) 11 0 (nextTail s e.ring) with cplPhase := phases } e.tag) e o).1
    have hreg {off : Nat} (hirq : irqReg off = false) (hhead : off ≠ Reg.CPL_HEAD e.ring) (hevent : off ≠ Reg.MGMT_EVENT) :
        t.reg off = (postReply s e o time true).reg off := (reg_congr hregs off).trans (mgmtReply_reg _ _ hirq hhead hevent)
    refine ⟨t, (exec_replyDeferredPost r s).trans hnext, ?_, ?_, fun a ha hlow hhigh hfault => ?_⟩
    · rw [hentries, mgmtReply_entries, postReply_entries]
    · exact (postReply_tail s o time true hn).congr rfl (hreg (outsideLog_cplTail hn).irq
        (by unfold Reg.CPL_TAIL Reg.CPL_HEAD; omega) (by unfold Reg.CPL_TAIL Reg.MGMT_EVENT; omega))
    · refine peekBytes_reply ha hlow (by omega) hfault ?_ ?_ ?_
      · rw [hmem, mgmtReply_mem, hpost, honly]
        rfl
      · rw [hundef, mgmtReply_undef, hpost, honly]
        rfl
      · exact (hreg (by decide) (by unfold Reg.BAY_ENABLE_MASK Reg.CPL_HEAD; omega) (by decide)).trans
          (postReply_reg s o time true hn outsideLog_bayMask (by unfold Reg.BAY_ENABLE_MASK Reg.RING_STATUS; omega)
            (by unfold Reg.BAY_ENABLE_MASK Reg.CPL_TAIL; omega))
  · have hempty : heldOf s r.val = [] := List.filter_eq_nil_iff.mpr fun c hc hheld => by
      simp only [Bool.and_eq_true, decide_eq_true_eq] at hheld
      obtain ⟨o, t, hphase, -⟩ := held_of_heldTime hheld.2
      simpa [completed, hphase] using hnone c hc hheld.1
    exact exec_replyDeferredPost .. ▸ act_eq_of_eq (deferredPost_of_none hempty) rfl rfl rfl

end Sys2Proof.Machine
end

section
/-! PROOFS. Executions of commands that nothing stops: how they compose, and reads and writes of memory in reach (R49, R229, R242, R421). -/

namespace Sys2Proof.Machine

open Sys2Proof

/-! ## Executions that reach their end -/

/-- From every environment that meets `P` the execution ends without a stop, and its result and the environment it leaves meet `Q`. -/
def Ends {α : Type} (P : Env → Prop) (c : Cmd α) (Q : α → Env → Prop) : Prop :=
  ∀ env, P env → ∃ a env', c.run.run env = (.ok a, env') ∧ Q a env'

/-- The execution ends, and what holds before it holds after it. -/
def Keeps {α : Type} (P : Env → Prop) (c : Cmd α) : Prop := Ends P c fun _ => P

section

variable {α β : Type} {P : Env → Prop} {c : Cmd α} {f : α → Cmd β} {R : α → Env → Prop} {Q : β → Env → Prop}

theorem Ends.pure {a : α} (h : ∀ env, P env → R a env) : Ends P (Pure.pure a) R := fun env henv => ⟨a, env, rfl, h env henv⟩

theorem Keeps.pure (a : α) : Keeps P (Pure.pure a) := Ends.pure fun _ h => h

theorem Ends.bind (hc : Ends P c R) (hf : ∀ a, Ends (R a) (f a) Q) : Ends P (c >>= f) Q := fun env henv => by
  obtain ⟨a, env1, hrun, hR⟩ := hc env henv
  obtain ⟨b, env2, hrun2, hQ⟩ := hf a env1 hR
  refine ⟨b, env2, ?_, hQ⟩
  rw [ExceptT.run_bind, StateT.run_bind, hrun]
  exact hrun2

/-- An execution whose result is known. -/
theorem Ends.bind_of_eq {a : α} (hc : Ends P c fun r env => P env ∧ r = a) (hf : Ends P (f a) Q) : Ends P (c >>= f) Q :=
  Ends.bind hc fun _ env h => by
    obtain ⟨henv, rfl⟩ := h
    exact hf env henv

/-- What holds throughout one execution after another. -/
theorem Keeps.bind (hc : Keeps P c) (hf : ∀ a, Ends P (f a) Q) : Ends P (c >>= f) Q := Ends.bind hc hf

theorem Ends.weaken {R' : α → Env → Prop} (h : Ends P c R) (hR : ∀ a env, R a env → R' a env) : Ends P c R' := fun env henv => by
  obtain ⟨a, env1, hrun, h1⟩ := h env henv
  exact ⟨a, env1, hrun, hR a env1 h1⟩

theorem Ends.strengthen {P' : Env → Prop} (h : ∀ env, P env → P' env) (hc : Ends P' c R) : Ends P c R :=
  fun env henv => hc env (h env henv)

/-- A fact that every environment at the start tells, and that is about none of them. -/
theorem Ends.assume {φ : Prop} (h : ∀ env, P env → φ) (hc : φ → Ends P c R) : Ends P c R := fun env henv => hc (h env henv) env henv

theorem Ends.modify {g : Env → Env} {R : Unit → Env → Prop} (h : ∀ env, P env → R () (g env)) : Ends P (modify g) R :=
  fun env henv => ⟨(), g env, rfl, h env henv⟩

theorem Keeps.update {g : State → State} (h : ∀ env, P env → P { env with s := g env.s }) : Keeps P (Cmd.update g) := Ends.modify h

theorem Ends.get : Ends P (MonadState.get : Cmd Env) fun e env => P env ∧ e = env := fun env henv => ⟨env, env, rfl, henv, rfl⟩

theorem Keeps.get : Keeps P (MonadState.get : Cmd Env) := Ends.get.weaken fun _ _ h => h.1

theorem Ends.state : Ends P Cmd.state fun s env => P env ∧ s = env.s := fun env henv => ⟨env.s, env, rfl, henv, rfl⟩

theorem Keeps.state : Keeps P Cmd.state := Ends.state.weaken fun _ _ h => h.1

theorem Keeps.field (off hi lo : Nat) : Keeps P (Cmd.field off hi lo) := Keeps.state.bind fun _ => Keeps.pure _

theorem Keeps.escEn : Keeps P Cmd.escEn := Keeps.bind (Keeps.field _ _ _) fun _ => Keeps.pure _

theorem Keeps.marks : Keeps P Cmd.marks := Keeps.get.bind fun _ => Keeps.pure _

theorem Keeps.ite {b : Prop} [Decidable b] {d : Cmd α} (hc : b → Keeps P c) (hd : ¬ b → Keeps P d) : Keeps P (if b then c else d) := by
  split
  · exact hc ‹_›
  · exact hd ‹_›

theorem Keeps.mapM {γ : Type} {g : γ → Cmd α} : ∀ {l : List γ}, (∀ x ∈ l, Keeps P (g x)) → Keeps P (l.mapM g)
  | [], _ => by
    rw [List.mapM_nil]
    exact Keeps.pure _
  | x :: l, h => by
    rw [List.mapM_cons]
    exact (h x (.head _)).bind fun _ => (Keeps.mapM fun y hy => h y (.tail _ hy)).bind fun _ => Keeps.pure _

theorem Keeps.foldlM {γ : Type} {g : α → γ → Cmd α} :
    ∀ {l : List γ} {a : α}, (∀ x ∈ l, ∀ a, Keeps P (g a x)) → Keeps P (l.foldlM g a)
  | [], _, _ => Keeps.pure _
  | x :: l, a, h => by
    rw [List.foldlM_cons]
    exact (h x (.head _) a).bind fun _ => Keeps.foldlM fun y hy => h y (.tail _ hy)

theorem Keeps.forM {γ : Type} {g : γ → Cmd PUnit} : ∀ {l : List γ}, (∀ x ∈ l, Keeps P (g x)) → Keeps P (l.forM g)
  | [], _ => Keeps.pure _
  | x :: _, h => (h x (.head _)).bind fun _ => Keeps.forM fun y hy => h y (.tail _ hy)

end

/-! ## Addresses in reach -/

/-- A byte in device memory, in no held stack, in a word without errors. -/
def Reached (s : State) (a : Nat) : Prop :=
  ∃ p, locate s a = .ok p ∧ heldRegion s p.region = false ∧ p.region ≠ .host ∧ wordState s p = .good

theorem reach_iff {s : State} {a n : Nat} : reach s a n = true ↔ ∀ x, a ≤ x → x < a + n → Reached s x := by
  unfold reach Reached
  rw [List.all_eq_true]
  refine forall_congr' fun x => ?_
  rw [mem_seqFrom, and_imp]
  refine imp_congr_right fun _ => imp_congr_right fun _ => ?_
  cases locate s x with
  | error d => simp
  | ok p => simp [and_assoc]

theorem reached_of_reach {s : State} {a n x : Nat} (h : reach s a n = true) (hlow : a ≤ x) (hhigh : x < a + n) : Reached s x :=
  reach_iff.mp h x hlow hhigh

/-- The registers of the address map and of memory are outside the error log. -/
theorem outsideLog_of_memory {off : Nat} (hlow : 0x50000 ≤ off) (hhigh : off < 0x60000) (hce : ∀ st, st ≤ 8 → off ≠ Reg.STACK_CE st) :
    OutsideLog off := by
  have hblock : blockOf off = 5 := by unfold blockOf; omega
  refine ⟨by simp [irqReg, hblock], by unfold Reg.ERRLOG_TAIL; omega, by unfold Reg.ERRLOG_DROPPED; omega,
    by unfold Reg.RAS_EVENT; omega, ?_⟩
  rintro (h | ⟨st, hst, h⟩)
  · unfold Reg.SKERRY_CE at h; omega
  · exact hce st hst h

theorem outsideLog_skerryEcc : OutsideLog Reg.SKERRY_ECC := by
  refine ⟨by decide, by decide, by decide, by decide, ?_⟩
  rintro (h | ⟨st, -, h⟩)
  · exact absurd h (by decide)
  · unfold Reg.SKERRY_ECC Reg.STACK_CE at h; omega

/-- What an execution may do to the state while addresses in reach stay so: nothing to the address map, the codewords and the armed rules. -/
structure MapStands (s t : State) : Prop where
  reg : ∀ off, OutsideLog off → t.reg off = s.reg off
  pci : t.pci = s.pci
  errs : s.errs = [] → t.errs = []
  undertow : t.undertow = s.undertow

theorem MapStands.trans {s t u : State} (first : MapStands s t) (second : MapStands t u) : MapStands s u :=
  ⟨fun off h => (second.reg off h).trans (first.reg off h), second.pci.trans first.pci, fun h => second.errs (first.errs h),
    second.undertow.trans first.undertow⟩

theorem MapStands.of_eq {s t : State} (hregs : t.regs = s.regs) (hpci : t.pci = s.pci) (herrs : t.errs = s.errs)
    (hundertow : t.undertow = s.undertow) : MapStands s t :=
  ⟨fun off _ => reg_congr hregs off, hpci, fun h => herrs.trans h, hundertow⟩

theorem MapStands.refl (s : State) : MapStands s s := .of_eq rfl rfl rfl rfl

section

variable {s t : State} (h : MapStands s t)
include h

/-- The registers of the placement windows and of the whole of HBM. -/
theorem MapStands.window_reg {off : Nat} (hlow : 0x50000 ≤ off) (hhigh : off < 0x50800) : t.reg off = s.reg off :=
  h.reg off (outsideLog_of_memory hlow (by omega) fun st _ => by unfold Reg.STACK_CE; omega)

/-- The registers of one window. -/
theorem MapStands.window_pair {w first : Nat} (hw : w < 16) (hlow : 0x50000 ≤ first) (hhigh : first < 0x50020) :
    t.pair (first + 0x20 * w) = s.pair (first + 0x20 * w) := by
  unfold State.pair
  rw [h.window_reg (by omega) (by omega), h.window_reg (by omega) (by omega)]

theorem MapStands.window_fieldAt {w first : Nat} (hi lo : Nat) (hw : w < 16) (hlow : 0x50000 ≤ first) (hhigh : first < 0x50020) :
    t.fieldAt (first + 0x20 * w) hi lo = s.fieldAt (first + 0x20 * w) hi lo := by
  unfold State.fieldAt
  rw [h.window_reg (by omega) (by omega)]

theorem MapStands.winBase_eq {w : Nat} (hw : w < 16) : winBase t w = winBase s w := by
  unfold winBase
  rw [h.window_pair hw (by decide) (by decide)]

theorem MapStands.windowOf_eq (a : Nat) : windowOf t a = windowOf s a := by
  unfold windowOf
  refine List.find?_congr fun w hw => ?_
  obtain ⟨-, hlt⟩ := mem_seqFrom.mp hw
  unfold winLoaded winEnd
  rw [bitAt_congr (h.window_reg (by decide) (by decide)), h.winBase_eq (by omega), h.window_pair (by omega) (by decide) (by decide)]

/-- Where a window places an address. -/
theorem MapStands.place_eq {w : Nat} (a : Nat) (hw : w < 16) :
    place (a - winBase t w) (winMode t w) (winStack t w) (winPbase t w) =
      place (a - winBase s w) (winMode s w) (winStack s w) (winPbase s w) := by
  unfold winMode winStack winPbase
  rw [h.winBase_eq hw, h.window_pair hw (by decide) (by decide), h.window_fieldAt _ _ hw (by decide) (by decide),
    h.window_fieldAt _ _ hw (by decide) (by decide)]

theorem MapStands.stack_reg {off st : Nat} (hst : st ≤ 8)
    (hoff : off = Reg.STACK_STATE st ∨ off = Reg.STACK_CHANNELS st ∨ off = Reg.STACK_CAPACITY st) : t.reg off = s.reg off := by
  unfold Reg.STACK_STATE Reg.STACK_CHANNELS Reg.STACK_CAPACITY at hoff
  exact h.reg off (outsideLog_of_memory (by omega) (by omega) fun _ _ => by unfold Reg.STACK_CE; omega)

theorem MapStands.bayEnabled_eq (b : Nat) : bayEnabled t b = bayEnabled s b := bitAt_congr (h.reg _ outsideLog_bayMask) b

theorem MapStands.locate_eq (a : Nat) : locate t a = locate s a := by
  by_cases hhbm : a < 0x009000000000
  · simp only [locate, if_pos hhbm, h.windowOf_eq]
    cases hw : windowOf s a with
    | none => rfl
    | some w =>
      obtain ⟨-, hlt⟩ := mem_seqFrom.mp (List.mem_of_find?_eq_some hw)
      have hstack : (place (a - winBase s w) (winMode s w) (winStack s w) (winPbase s w)).1 ≤ 8 := place_le _ _ _ _ (fld_lt _ _ _)
      simp only [h.place_eq a (by omega : w < 16)]
      generalize place (a - winBase s w) (winMode s w) (winStack s w) (winPbase s w) = p at hstack
      have hcapacity : stackCapacity t p.1 = stackCapacity s p.1 := by
        unfold stackCapacity State.fieldAt
        rw [h.stack_reg hstack (.inr (.inr rfl))]
      rw [hcapacity]
  · simp only [locate, if_neg hhbm, h.bayEnabled_eq, h.pci]

theorem MapStands.fenced_eq {st : Nat} (hst : st ≤ 8) (l : Nat) : fenced t st l = fenced s st l := by
  have hchannels (i : Nat) : t.bitAt (Reg.STACK_CHANNELS st) i = s.bitAt (Reg.STACK_CHANNELS st) i :=
    bitAt_congr (h.stack_reg hst (.inr (.inl rfl))) i
  have hstate : t.fieldAt (Reg.STACK_STATE st) 2 0 = s.fieldAt (Reg.STACK_STATE st) 2 0 := by
    unfold State.fieldAt
    rw [h.stack_reg hst (.inl rfl)]
  simp only [fenced, channelOf, liveChannels, hchannels, hstate]

/-- Where no word has an error pattern, a word stays in its state. -/
theorem MapStands.wordState_eq (hclean : s.errs = []) {a : Nat} {p : Located} (hp : locate s a = .ok p) : wordState t p = wordState s p := by
  have herrors (k : Nat) : errorsAt t k = errorsAt s k := by rw [errorsAt_clean hclean, errorsAt_clean (h.errs hclean)]
  have hskerry (hi lo : Nat) : t.fieldAt Reg.SKERRY_ECC hi lo = s.fieldAt Reg.SKERRY_ECC hi lo := by
    unfold State.fieldAt
    rw [h.reg _ outsideLog_skerryEcc]
  obtain ⟨k, r⟩ := p
  cases r with
  | hbm st =>
    have hmode : t.bitAt Reg.HBM_ECC_MODE 0 = s.bitAt Reg.HBM_ECC_MODE 0 := bitAt_congr (h.window_reg (by decide) (by decide)) 0
    simp only [wordState, herrors, h.fenced_eq (locate_stack hp rfl), hmode]
  | skerry => simp only [wordState, herrors, erasedPackage, hskerry, bitAt_congr (h.reg _ outsideLog_skerryEcc)]
  | scratchpad n => simp only [wordState, herrors]
  | shelf b => simp only [wordState, herrors]
  | host => simp only [wordState, herrors]

theorem MapStands.heldRegion_eq (r : Region) : heldRegion t r = heldRegion s r := by
  cases r with
  | hbm st => exact bitAt_congr (h.window_reg (by decide) (by decide)) st
  | _ => rfl

/-- Where no word has an error pattern, what is in reach stays so. -/
theorem MapStands.reached (hclean : s.errs = []) {a : Nat} (ha : Reached s a) : Reached t a := by
  obtain ⟨p, hp, hheld, hhost, hgood⟩ := ha
  exact ⟨p, (h.locate_eq a).trans hp, (h.heldRegion_eq _).trans hheld, hhost, (h.wordState_eq hclean hp).trans hgood⟩

end

end Sys2Proof.Machine
end

section
/-! PROOFS. Reads and writes of a command within reach, where no word has an error pattern and no fault-injection rule is armed (R49, R229,
R242, R245, R371, R378, R421). -/

namespace Sys2Proof.Machine

open Sys2Proof

/-! ## Calm executions -/

/-- A command's execution started in `s` with nothing in its way so far: what is in reach in `s` still is, no word has an error pattern, no
rule is armed, nothing was poisoned or corrected, and the command of the tag is tracked, never run again after a recovery. -/
structure Calm (s : State) (tag : Nat) (env : Env) : Prop where
  map : MapStands s env.s
  clean : s.errs = []
  unarmed : s.undertow = []
  unpoisoned : env.poison = none
  uncorrected : env.corrected = false
  tracked : ∃ c, entryOf env.s tag = some c ∧ c.reruns = 0

section

variable {s : State} {tag : Nat}

theorem Calm.reached {env : Env} (h : Calm s tag env) {a : Nat} (ha : Reached s a) : Reached env.s a := h.map.reached h.clean ha

theorem Calm.step {env env' : Env} (h : Calm s tag env) (hmap : MapStands env.s env'.s) (hentries : env'.s.entries = env.s.entries)
    (hpoison : env'.poison = env.poison) (hcorrected : env'.corrected = env.corrected) : Calm s tag env' := by
  obtain ⟨hfirst, hclean, hunarmed, hunpoisoned, huncorrected, c, hc, hreruns⟩ := h
  exact ⟨hfirst.trans hmap, hclean, hunarmed, hpoison.trans hunpoisoned, hcorrected.trans huncorrected, c,
    (entryOf_congr hentries tag).trans hc, hreruns⟩

/-- What only the environment's own records change. -/
theorem Calm.of_state {env env' : Env} (h : Calm s tag env) (hs : env'.s = env.s) (hpoison : env'.poison = env.poison)
    (hcorrected : env'.corrected = env.corrected) : Calm s tag env' :=
  h.step (hs ▸ .refl _) (by rw [hs]) hpoison hcorrected

theorem Keeps.note (b : Nat) : Keeps (Calm s tag) (Cmd.note b) := Ends.modify fun _ h => h.of_state rfl rfl rfl

theorem Keeps.declare (a n : Nat) : Keeps (Calm s tag) (Cmd.declare a n) := Ends.modify fun _ h => h.of_state rfl rfl rfl

/-! ## Bytes -/

/-- A byte in reach is reached, in a word that its decoder delivers as it stands. -/
theorem locate_ends {a : Nat} (ha : Reached s a) : Ends (Calm s tag) (Cmd.locate a) fun p env =>
    Calm s tag env ∧ locate env.s a = .ok p ∧ wordState env.s p = .good := by
  unfold Cmd.locate
  refine Ends.bind Ends.get fun e => ?_
  rintro env ⟨henv, rfl⟩
  obtain ⟨p, hp, hheld, hhost, hgood⟩ := henv.reached ha
  refine ⟨p, { e with touched := e.touched || memoryUser p.region }, ?_, henv.of_state rfl rfl rfl, hp, hgood⟩
  simp only [hp, hheld, hhost]
  rfl

theorem Keeps.readByteP {a : Nat} (ha : Reached s a) : Keeps (Calm s tag) (Cmd.readByteP a) := by
  unfold Cmd.readByteP
  refine Ends.bind (locate_ends ha) fun p => Ends.bind Ends.get fun e => ?_
  rintro env ⟨⟨henv, -, hgood⟩, rfl⟩
  refine ⟨some (byteAt e.s p.key), e, ?_, henv⟩
  rw [hgood]
  rfl

theorem Keeps.readBytesP : ∀ {n a : Nat}, reach s a n = true → Keeps (Calm s tag) (Cmd.readBytesP a n)
  | 0, _, _ => Keeps.pure _
  | n + 1, a, h =>
    (Keeps.readByteP (reached_of_reach h (by omega) (by omega))).bind fun _ =>
      (Keeps.readBytesP (reach_iff.mpr fun _ hlow hhigh => reached_of_reach h (by omega) (by omega))).bind fun _ => Keeps.pure _

theorem Keeps.readP {a n : Nat} (h : reach s a n = true) : Keeps (Calm s tag) (Cmd.readP a n) :=
  Keeps.bind (Ends.modify fun _ henv => henv.of_state rfl rfl rfl) fun _ => Keeps.readBytesP h

theorem Keeps.readNeeded {a : Nat} (need : Nat → Bool) : ∀ {n i : Nat}, reach s (a + i) n = true →
    Keeps (Calm s tag) (Cmd.readNeeded a need n i)
  | 0, _, _ => Keeps.pure _
  | n + 1, i, h => by
    have hrest (b : Option Byte) : Keeps (Calm s tag) (do
        let r ← Cmd.readNeeded a need n (i + 1)
        return b :: r) :=
      (Keeps.readNeeded need (reach_iff.mpr fun _ _ _ => reached_of_reach h (by omega) (by omega))).bind fun _ => Keeps.pure _
    unfold Cmd.readNeeded
    dsimp only
    split
    · exact (Keeps.readByteP (reached_of_reach h (by omega) (by omega))).bind hrest
    · exact (Keeps.pure _).bind hrest

theorem Keeps.readWhere {a n : Nat} (need : Nat → Bool) (h : reach s a n = true) : Keeps (Calm s tag) (Cmd.readWhere a n need) :=
  Keeps.bind (Ends.modify fun _ henv => henv.of_state rfl rfl rfl) fun _ => Keeps.readNeeded need h

/-- A byte in reach may be written: its channel is not fenced. -/
theorem writable_ends {a : Nat} (ha : Reached s a) : Keeps (Calm s tag) (Cmd.writable a) := by
  unfold Cmd.writable
  refine Ends.bind (locate_ends ha) fun p => Ends.bind Ends.get fun e => ?_
  rintro env ⟨⟨henv, -, hgood⟩, rfl⟩
  refine ⟨p, e, ?_, henv⟩
  cases hregion : p.region with
  | hbm st =>
    have hfenced : fenced e.s st (p.key % 2 ^ 37) = false := by
      by_contra hne
      simp only [wordState, hregion, if_pos (Bool.not_eq_false _ ▸ hne)] at hgood
      cases hgood
    simp only [hfenced]
    rfl
  | _ => rfl

theorem Keeps.writeBytes : ∀ {l : List Byte} {a : Nat}, reach s a l.length = true → Keeps (Calm s tag) (Cmd.writeBytes a l)
  | [], _, _ => Keeps.pure _
  | b :: l, a, h => by
    rw [List.length_cons] at h
    refine (writable_ends (reached_of_reach h (by omega) (by omega))).bind fun p => Keeps.bind (Keeps.update fun env henv => ?_) fun _ =>
      Keeps.writeBytes (reach_iff.mpr fun _ hlow hhigh => reached_of_reach h (by omega) (by omega))
    exact henv.step (.of_eq rfl rfl rfl rfl) rfl rfl rfl

theorem Calm.errs {env : Env} (h : Calm s tag env) : env.s.errs = [] := h.map.errs h.clean

theorem Calm.undertow {env : Env} (h : Calm s tag env) : env.s.undertow = [] := h.map.undertow.trans h.unarmed

/-- A write within reach corrects nothing and is hit by no injected error. -/
theorem Keeps.write {a : Nat} {l : List Byte} (h : reach s a l.length = true) : Keeps (Calm s tag) (Cmd.write a l) := by
  unfold Cmd.write
  refine Keeps.bind (Ends.modify fun env henv => ?_) fun _ => Keeps.bind (Keeps.writeBytes h) fun _ => Ends.modify fun env henv => ?_
  · exact henv.of_state (by simp [settleWrite, henv.errs]) rfl (by simp [mergeCorrects, henv.errs])
  · exact henv.of_state (by simp [injectWrite, henv.undertow]) rfl rfl

theorem putUndef_mapStands (t : State) (lo hi : Nat) : MapStands t (putUndef t lo hi) := by
  unfold putUndef
  split
  · exact ⟨fun _ _ => rfl, rfl, fun h => congrArg (List.filter _) h, rfl⟩
  · exact .refl t

theorem putUndef_entries (t : State) (lo hi : Nat) : (putUndef t lo hi).entries = t.entries := by
  unfold putUndef
  split <;> rfl

theorem undefDevice_stands : ∀ (fuel : Nat) (t : State) (a n : Nat), MapStands t (undefDevice t a n fuel) ∧
    (undefDevice t a n fuel).entries = t.entries
  | 0, t, _, _ => ⟨.refl t, rfl⟩
  | fuel + 1, t, a, n => by
    unfold undefDevice
    split
    · exact ⟨.refl t, rfl⟩
    · simp only
      split
      · next p _ =>
        obtain ⟨hmap, hentries⟩ := undefDevice_stands fuel (putUndef t p.key (p.key + min n (2048 - a % 2048)))
          (a + min n (2048 - a % 2048)) (n - min n (2048 - a % 2048))
        exact ⟨(putUndef_mapStands ..).trans hmap, hentries.trans (putUndef_entries ..)⟩
      · exact undefDevice_stands fuel t _ _

theorem undefOutputs_stands (t : State) (l : List (Nat × Nat)) : MapStands t (undefOutputs t l) ∧ (undefOutputs t l).entries = t.entries :=
  List.foldlRecOn l _ (motive := fun u => MapStands t u ∧ u.entries = t.entries) ⟨.refl t, rfl⟩ fun _ hu _ _ =>
    ⟨hu.1.trans (undefDevice_stands ..).1, (undefDevice_stands ..).2.trans hu.2⟩

theorem Keeps.undefDevice (a n fuel : Nat) : Keeps (Calm s tag) (Cmd.update fun t => Machine.undefDevice t a n fuel) :=
  Keeps.update fun _ henv => henv.step (undefDevice_stands ..).1 (undefDevice_stands ..).2 rfl rfl

/-! ## Rows of plain tensors -/

/-- A row without scale records is decoded without a fault. -/
theorem Keeps.decodeRow {w : FmtWord} (hw : w.scale = 0) (cols : Nat) (bytes recs : List (Option Byte)) :
    Keeps (Calm s tag) (Cmd.decodeRow w cols bytes recs) := by
  simp only [Cmd.decodeRow, if_pos hw]
  exact Keeps.pure _

theorem Keeps.readRowWhere {w : FmtWord} {base stride row cols : Nat} (need : Nat → Bool) (hw : w.scale = 0)
    (h : reach s (base + row * stride) (rowBytes w.elem cols) = true) :
    Keeps (Calm s tag) (Cmd.readRowWhere w base stride row cols need) := by
  simp only [Cmd.readRowWhere, if_pos hw]
  exact (Keeps.readWhere _ h).bind fun _ => (Keeps.pure _).bind fun _ => Keeps.decodeRow hw _ _ _

theorem Keeps.readRow {w : FmtWord} {base stride row cols : Nat} (hw : w.scale = 0)
    (h : reach s (base + row * stride) (rowBytes w.elem cols) = true) : Keeps (Calm s tag) (Cmd.readRow w base stride row cols) := by
  simp only [Cmd.readRow, if_pos hw]
  exact (Keeps.readP h).bind fun _ => (Keeps.pure _).bind fun _ => Keeps.decodeRow hw _ _ _

/-- B without scale records is read row by row, in either layout. -/
theorem Keeps.readStationary {w : FmtWord} {base stride n k : Nat} {layout : Bool} (need : Nat → Nat → Bool) (hw : w.scale = 0)
    (h : ∀ r, r < (if layout then k else n) → reach s (base + r * stride) (rowBytes w.elem (if layout then n else k)) = true) :
    Keeps (Calm s tag) (Cmd.readStationary w base stride n k layout need) := by
  have hin {r m : Nat} (hr : r ∈ seqFrom 0 m) : r < m := by simpa using (mem_seqFrom.mp hr).2
  unfold Cmd.readStationary
  cases layout with
  | false => exact (Keeps.mapM fun r hr => Keeps.readRowWhere _ hw (h r (hin hr))).bind fun _ => Keeps.pure _
  | true =>
    simp only [if_pos hw]
    refine Keeps.bind (Keeps.mapM fun r hr => (Keeps.readWhere _ (h r (hin hr))).bind fun _ => Keeps.pure _) fun _ => ?_
    exact (Keeps.mapM fun _ _ => (Keeps.pure _).bind fun _ => Keeps.pure _).bind fun _ => Keeps.pure _

theorem length_padTo (n : Nat) (l : List Byte) : (padTo n l).length = n := by simp [padTo]

theorem Keeps.writeRow {w : FmtWord} {base stride row cols : Nat} {o : RowOut} (hw : w.scale = 0) (ho : o.bytes.length ≤ stride)
    (h : reach s (base + row * stride) stride = true) : Keeps (Calm s tag) (Cmd.writeRow w base stride row cols o) := by
  unfold Cmd.writeRow
  simp only [if_pos hw]
  refine Keeps.bind (Keeps.write ?_) fun _ => Keeps.pure _
  rwa [length_padTo, Nat.max_eq_left ho]

/-- A row of a plain tensor written; its poisoned elements may be left undefined. -/
theorem Keeps.writeCoded {w : FmtWord} {base stride row : Nat} {xs : List Val} {o : RowOut} (hw : w.scale = 0)
    (ho : o.bytes.length ≤ stride) (h : reach s (base + row * stride) stride = true) :
    Keeps (Calm s tag) (Cmd.writeCoded w base stride row xs o) := by
  unfold Cmd.writeCoded
  refine (Keeps.writeRow hw ho h).bind fun _ => Keeps.ite (fun _ => Keeps.pure _) fun _ => ?_
  refine Keeps.bind (Ends.modify fun _ henv => henv.of_state rfl rfl rfl) fun _ => Keeps.marks.bind fun marked =>
    Keeps.ite (fun _ => Keeps.pure _) fun _ => Keeps.forM fun i _ => (Keeps.undefDevice _ _ _).bind fun _ => ?_
  simp only [hw]
  exact Keeps.pure _

theorem Keeps.declareTensor {w : FmtWord} (base stride rows cols : Nat) (hw : w.scale = 0) :
    Keeps (Calm s tag) (Cmd.declareTensor w base stride rows cols) := by
  simp only [Cmd.declareTensor, if_pos hw]
  exact (Keeps.declare _ _).bind fun _ => Keeps.pure _

end

end Sys2Proof.Machine
end

section
/-! PROOFS. The rows that a matrix command of plain tensors computes fit its output (R122, R132, R152). -/

namespace Sys2Proof.Machine

open Sys2Proof

/-! ## How long rows are -/

theorem length_quantiseBlock (elem : Nat) (escEn : Bool) (zp : Nat) (xs : List Val) :
    (quantiseBlock elem 0 escEn zp xs).codes.length = xs.length := by
  unfold quantiseBlock
  simp only [ne_eq, not_true_eq_false, decide_false, Bool.false_and, Bool.false_eq_true, if_false]
  split <;> simp

theorem length_packRow (w : Nat) (xs : List Nat) : (packRow w xs).length = ceilDiv (xs.length * w) 8 := length_toLE ..

/-- A row without block scales takes the bytes of its elements. -/
theorem length_quantiseRow {w : FmtWord} (hw : w.scale = 0) (escEn : Bool) (xs : List Val) :
    (quantiseRow w escEn xs).bytes.length = rowBytes w.elem xs.length := by
  unfold quantiseRow
  split
  · simp [length_packRow, rowBytes]
  · simp [length_packRow, rowBytes, hw, length_quantiseBlock]

theorem rowBytes_mono (elem : Nat) {m n : Nat} (h : m ≤ n) : rowBytes elem m ≤ rowBytes elem n :=
  Nat.div_le_div_right (Nat.sub_le_sub_right (Nat.add_le_add_right (Nat.mul_le_mul_right _ h) 8) 1)

theorem length_hadamard : ∀ (k : Nat) (xs : List Val), (hadamard k xs).length ≤ xs.length
  | 0, _ => Nat.le_refl _
  | k + 1, xs => by
    have hsum := length_hadamard k (((xs.take (2 ^ k)).zip (xs.drop (2 ^ k))).map fun p => p.1.add p.2)
    have hdifference := length_hadamard k (((xs.take (2 ^ k)).zip (xs.drop (2 ^ k))).map fun p => p.1.sub p.2)
    simp only [List.length_map, List.length_zip, List.length_take, List.length_drop] at hsum hdifference
    rw [hadamard, List.length_append]
    omega

/-- The pieces of a list are together no longer than the list. -/
theorem length_flatMap_chunks {α β : Type} (n : Nat) {f : List α → List β} (h : ∀ l, (f l).length ≤ l.length) :
    ∀ (fuel : Nat) (l : List α), ((chunks n fuel l).flatMap f).length ≤ l.length
  | 0, _ => Nat.zero_le _
  | fuel + 1, l => by
    unfold chunks
    split
    · exact Nat.zero_le _
    · have hfirst := h (l.take n)
      have hrest := length_flatMap_chunks n h fuel (l.drop n)
      rw [List.length_take] at hfirst
      rw [List.length_drop] at hrest
      rw [List.flatMap_cons, List.length_append]
      omega

theorem length_rotateRow (code : Nat) (weight : Bool) (xs : List Val) : (rotateRow code weight xs).length ≤ xs.length := by
  unfold rotateRow
  split
  · exact Nat.le_refl _
  · exact length_flatMap_chunks _ (fun l => by simpa using length_hadamard (4 + code) l) _ _

/-- A group of columns of a row has no more sums than it started with. -/
theorem length_rowGroup (j : MatJob) (m n0 : Nat) (a : List Val) (stored : Option (List Bool)) (cols : List (List Val)) (init : List Val) :
    (j.rowGroup m n0 a stored cols init).1.length ≤ init.length := by
  unfold MatJob.rowGroup
  refine List.foldlRecOn (motive := fun acc : List Val × List Bool => acc.1.length ≤ init.length) _ _ (Nat.le_refl _) fun acc hacc s _ => ?_
  cases stored
  all_goals
    simp only
    split
    · exact hacc
    · exact Nat.le_trans (by simp) hacc

/-- The groups of a row, each of up to 8 columns of `n`, are together no longer than `n`. -/
theorem length_flatMap_groups {α β : Type} {n : Nat} {f : α × Nat → List β} : ∀ (l : List α) (i : Nat),
    (∀ p ∈ l.zipIdx i, (f p).length ≤ min 8 (n - 8 * p.2)) → ((l.zipIdx i).flatMap f).length ≤ n - 8 * i
  | [], _, _ => Nat.zero_le _
  | x :: l, i, h => by
    rw [List.zipIdx_cons] at h ⊢
    have hfirst := h (x, i) (.head _)
    have hrest := length_flatMap_groups l (i + 1) fun p hp => h p (.tail _ hp)
    simp only at hfirst
    rw [List.flatMap_cons, List.length_append]
    omega

theorem length_seqFrom : ∀ (n a : Nat), (seqFrom a n).length = n
  | 0, _ => rfl
  | n + 1, a => congrArg (· + 1) (length_seqFrom n (a + 1))

/-! ## Rows without a prediction -/

/-- The groups of a row, none of them under a prediction. -/
def exactGroups (j : MatJob) (m : Nat) (a : List Val × Option (List Bool)) (init : List Val) (groups : List (List (List Val))) :
    List GroupOut :=
  groups.zipIdx.map fun g => computeGroup j m (8 * g.2) a g.1 ((init.drop (8 * g.2)).take 8)

/-- The groups of the rows of an operand, from where each row starts. -/
def exactRows (j : MatJob) (avs : List (List Val × Option (List Bool))) (inits : List (List Val)) (groups : List (List (List Val)))
    (rows : Nat) : List (List GroupOut) :=
  (seqFrom 0 rows).map fun m => exactGroups j m ((avs[m]?).getD ([], none)) ((inits[m]?).getD []) groups

section

variable (j : MatJob) (avs : List (List Val × Option (List Bool))) (inits : List (List Val)) (groups : List (List (List Val))) (rows : Nat)

/-- Where no group is skipped, all are computed as they stand. -/
theorem mapM_groupOf (mode : Nat) (sh : Shadow) :
    (seqFrom 0 rows).mapM (fun m => groups.zipIdx.mapM fun g => Cmd.groupOf j mode m (8 * g.2) ((avs[m]?).getD ([], none)) g.1
      ((((inits[m]?).getD []).drop (8 * g.2)).take 8) false sh) = pure (exactRows j avs inits groups rows) := by
  have hrow (m : Nat) : groups.zipIdx.mapM (fun g => Cmd.groupOf j mode m (8 * g.2) ((avs[m]?).getD ([], none)) g.1
      ((((inits[m]?).getD []).drop (8 * g.2)).take 8) false sh) =
      pure (exactGroups j m ((avs[m]?).getD ([], none)) ((inits[m]?).getD []) groups) := List.mapM_pure ..
  simp only [hrow]
  exact List.mapM_pure ..

theorem exact_of_mem {g : GroupOut} (h : g ∈ (exactRows j avs inits groups rows).flatten) : g.misses = [] ∧ g.skipped = false := by
  obtain ⟨row, hrow, hg⟩ := List.mem_flatten.mp h
  obtain ⟨m, -, rfl⟩ := List.mem_map.mp hrow
  obtain ⟨cols, -, rfl⟩ := List.mem_map.mp hg
  exact ⟨rfl, rfl⟩

theorem skipped_exactRows : ((exactRows j avs inits groups rows).flatten.filter fun g => g.skipped).length = 0 := by
  rw [List.length_eq_zero_iff, List.filter_eq_nil_iff]
  exact fun g hg => by simp [(exact_of_mem j avs inits groups rows hg).2]

theorem misses_exactRows : (exactRows j avs inits groups rows).flatten.foldl (fun k g => k + g.misses.length) 0 = 0 :=
  List.foldlRecOn (motive := fun k => k = 0) _ _ rfl fun k hk g hg => by simp [hk, (exact_of_mem j avs inits groups rows hg).1]

theorem length_exactRows : (exactRows j avs inits groups rows).length = rows := by
  rw [exactRows, List.length_map, length_seqFrom]

/-- The sums of a group fit the columns that it stands for. -/
theorem sums_of_mem {n : Nat} (hinits : ∀ l ∈ inits, l.length ≤ n) {row : List GroupOut} (hrow : row ∈ exactRows j avs inits groups rows)
    {p : GroupOut × Nat} (hp : p ∈ row.zipIdx) : ∃ l, p.1.sums = some l ∧ l.length ≤ min 8 (n - 8 * p.2) := by
  obtain ⟨m, -, rfl⟩ := List.mem_map.mp hrow
  have hinit : ((inits[m]?).getD []).length ≤ n := by
    cases h : inits[m]? with
    | none => exact Nat.zero_le _
    | some l => exact hinits l (List.mem_of_getElem? h)
  have hget := List.mem_zipIdx_iff_getElem?.mp hp
  rw [exactGroups, List.getElem?_map, List.getElem?_zipIdx, Option.map_map] at hget
  obtain ⟨cols, -, hp1⟩ := Option.map_eq_some_iff.mp hget
  refine ⟨_, congrArg GroupOut.sums hp1.symm, Nat.le_trans (length_rowGroup ..) ?_⟩
  simp only [List.length_take, List.length_drop]
  omega

end

/-- The rows that a function makes of rows and their numbers, each with its number. -/
theorem mem_map_zipIdx {α β : Type} {f : α × Nat → β} {l : List α} {p : β × Nat} (h : p ∈ (l.zipIdx.map f).zipIdx) :
    ∃ x, l[p.2]? = some x ∧ p.1 = f (x, p.2) := by
  have hget := List.mem_zipIdx_iff_getElem?.mp h
  rw [List.getElem?_map, List.getElem?_zipIdx, Option.map_map] at hget
  obtain ⟨x, hx, hp⟩ := Option.map_eq_some_iff.mp hget
  exact ⟨x, hx, by simpa using hp.symm⟩

end Sys2Proof.Machine
end

section
/-! PROOFS. The body of a matrix command of plain tensors with nothing in its way (R53, R146, R153, R161, R355). -/

namespace Sys2Proof.Machine

open Sys2Proof

/-! ## Engine queues (R53, R153, R355) -/

/-- No other command stands in a queue. -/
theorem QueuesFree.inQueue_eq {s : State} {e : Entry} (h : QueuesFree s e) {c : Entry} (hc : c.tag = e.tag) (a : Nat) : inQueue s c a = [] := by
  obtain ⟨hothers, -⟩ := h
  refine List.filter_eq_nil_iff.mpr fun d hd => ?_
  by_cases hne : d.tag = e.tag
  · simp [hc, hne]
  · simp [hothers d hd hne]

/-- Calm goes on where the command's own tracking entry keeps its tag and its reruns. -/
theorem Calm.setEntry {s : State} {tag : Nat} {env : Env} (h : Calm s tag env) {f : Entry → Entry} (htag : ∀ c, (f c).tag = c.tag)
    (hreruns : ∀ c, (f c).reruns = c.reruns) : Calm s tag { env with s := Machine.setEntry env.s tag f } := by
  obtain ⟨hmap, hclean, hunarmed, hunpoisoned, huncorrected, c, hc, hzero⟩ := h
  refine ⟨hmap.trans (.of_eq rfl rfl rfl rfl), hclean, hunarmed, hunpoisoned, huncorrected, f c, ?_, (hreruns c).trans hzero⟩
  rw [entryOf_setEntry env.s tag fun d hd => (htag d).trans hd, hc]
  rfl

/-- The entry of a command once its operations have entered every queue that they had not. -/
def enqueued (s : State) (e : Entry) : Entry :=
  { e with queued := e.queued ++ (queuesLeft e).zipIdx.map (fun q => (q.1, s.readSeq + q.2)) }

/-- No queue is left then. -/
theorem queuesLeft_enqueued (s : State) (e : Entry) : queuesLeft (enqueued s e) = [] := by
  refine List.filter_eq_nil_iff.mpr fun a ha => ?_
  have hentered : (enqueued s e).queued.any (fun q => decide (q.1 = a)) = true := by
    by_cases hbefore : e.queued.any (fun q => decide (q.1 = a)) = true
    · rw [enqueued, List.any_append, hbefore, Bool.true_or]
    · have hleft : a ∈ queuesLeft e := List.mem_filter.mpr ⟨ha, by rw [Bool.eq_false_of_not_eq_true hbefore]; rfl⟩
      obtain ⟨i, hi⟩ := List.mem_iff_getElem?.mp hleft
      have hnow : (a, s.readSeq + i) ∈ (enqueued s e).queued :=
        List.mem_append_right _ (List.mem_map.mpr ⟨(a, i), List.mem_zipIdx_iff_getElem?.mpr hi, rfl⟩)
      exact List.any_eq_true.mpr ⟨_, hnow, decide_eq_true rfl⟩
  simp [hentered]

/-- The operations of a command whose queues are free all enter them, and none waits. -/
theorem enterQueues_ends (s : State) (e : Entry) (slots : List ModelSlot) :
    Ends (fun env => Calm s e.tag env ∧ QueuesFree env.s e ∧ env.s.slots = slots) (Cmd.enterQueues e) fun _ env =>
      Calm s e.tag env ∧ env.s.slots = slots := by
  unfold Cmd.enterQueues
  refine Ends.bind Ends.state fun t => Ends.assume (φ := QueuesFree t e) (fun env h => ?_) fun hfree => ?_
  · obtain ⟨⟨-, hfree, -⟩, rfl⟩ := h
    exact hfree
  have hroom : (queuesLeft e).filter (queueHasRoom t e) = queuesLeft e :=
    List.filter_eq_self.mpr fun a _ => by simp [queueHasRoom, hfree.inQueue_eq rfl]
  have hungated : (queuesOf e).any (fun a => tileGated t (a % 512)) = false := by
    obtain ⟨-, hall⟩ := hfree
    simpa using hall
  have hrows : rowsTaken t (enqueued t e) = false := by simp [rowsTaken, hfree.inQueue_eq (c := enqueued t e) rfl]
  simp only [hroom]
  refine Ends.bind (R := fun _ env => Calm s e.tag env ∧ env.s.slots = slots) (Ends.modify fun env h => ?_) fun _ => ?_
  · obtain ⟨⟨hcalm, -, hslots⟩, -⟩ := h
    exact ⟨(hcalm.setEntry (f := fun x => { x with queued := (enqueued t e).queued }) (fun _ => rfl) fun _ => rfl).step
      (.of_eq rfl rfl rfl rfl) rfl rfl rfl, hslots⟩
  · have hnone : (!(queuesLeft (enqueued t e)).isEmpty) = false := by rw [queuesLeft_enqueued]; rfl
    unfold enqueued at hrows hnone
    simp only [hrows, hnone, hungated]
    exact Ends.pure fun _ h => h

/-! ## Precision watch where no word names a layer (R138, R140) -/

theorem altWeight_plain (t : State) (tide : Nat) {w : FmtWord} (base : Nat) (hw : pwNames w = false) :
    altWeight t tide w base = (w, base, false) := by
  simp [altWeight, substitute, hw]

theorem substitutedWeight_plain {P : Env → Prop} (tide : Nat) {w : FmtWord} (base : Nat) (hw : pwNames w = false) :
    Ends P (Cmd.substitutedWeight tide w base) fun r env => P env ∧ r = (w, base) := by
  unfold Cmd.substitutedWeight
  simp only [altWeight_plain _ _ _ hw]
  exact Keeps.state.bind fun _ => Ends.pure fun _ h => ⟨h, rfl⟩

theorem Keeps.substitutedWeight {s : State} {tag : Nat} (tide : Nat) (w : FmtWord) (base : Nat) :
    Keeps (Calm s tag) (Cmd.substitutedWeight tide w base) := by
  unfold Cmd.substitutedWeight
  refine Keeps.state.bind fun t => ?_
  simp only
  split
  · exact (Keeps.note _).bind fun _ => Keeps.pure _
  · exact Keeps.pure _

theorem countWord_plain (s : State) {w : FmtWord} (tide : Nat) (ev : Events) (hw : pwNames w = false) : countWord s w tide ev = s := by
  simp [countWord, hw]

/-- Where there are no events, none is counted. -/
theorem countWord_none (s : State) (w : FmtWord) (tide : Nat) : countWord s w tide Events.none = s := by
  unfold countWord
  split <;> rfl

/-! ## The end of a command's body -/

/-- What the end of a command asks of its execution: nothing poisoned or corrected, no rule armed, the command tracked, never run again. -/
structure Quiet (tag : Nat) (env : Env) : Prop where
  unarmed : env.s.undertow = []
  unpoisoned : env.poison = none
  uncorrected : env.corrected = false
  tracked : ∃ c, entryOf env.s tag = some c ∧ c.reruns = 0

theorem Calm.quiet {s : State} {tag : Nat} {env : Env} (h : Calm s tag env) : Quiet tag env :=
  ⟨h.undertow, h.unpoisoned, h.uncorrected, h.tracked⟩

/-- Registers and free values change. -/
theorem Quiet.update {tag : Nat} {env : Env} (h : Quiet tag env) {t : State} (hentries : t.entries = env.s.entries)
    (hundertow : t.undertow = env.s.undertow) : Quiet tag { env with s := t } := by
  obtain ⟨hunarmed, hunpoisoned, huncorrected, c, hc, hreruns⟩ := h
  exact ⟨hundertow.trans hunarmed, hunpoisoned, huncorrected, c, (entryOf_congr hentries tag).trans hc, hreruns⟩

/-- A counter advanced. -/
theorem Quiet.count64 {tag : Nat} {env : Env} {t : State} (h : Quiet tag { env with s := t }) (off k : Nat) :
    Quiet tag { env with s := t.count64 off k } := h.update rfl rfl

/-- The steps of the groups counted row by row. -/
theorem Quiet.countRows {tag : Nat} {env : Env} (h : Quiet tag env) (array : Nat → Nat → Nat) (rows : List (List GroupOut)) :
    Quiet tag { env with s := rows.zipIdx.foldl (fun t r => r.1.zipIdx.foldl (fun t g =>
      countSteps t (array r.2 g.2) g.1.streamed) t) env.s } :=
  List.foldlRecOn (motive := fun t => Quiet tag { env with s := t }) _ _ h fun _ ht _ _ =>
    List.foldlRecOn (motive := fun t => Quiet tag { env with s := t }) _ _ ht fun _ hu _ _ => hu.count64 _ _

theorem Keeps.fresh {tag : Nat} : Keeps (Quiet tag) Cmd.fresh :=
  Keeps.state.bind fun _ => Keeps.bind (Keeps.update fun _ h => h.update rfl rfl) fun _ => Keeps.pure _

/-! ## The body -/

/-- A row of a plain tensor written within its stride. -/
theorem Keeps.writeTensorRow {s : State} {tag : Nat} {w : FmtWord} {base stride row n : Nat} (escEn : Bool) {xs : List Val}
    (hw : w.scale = 0) (hxs : xs.length ≤ n) (hstride : rowBytes w.elem n ≤ stride) (h : reach s (base + row * stride) stride = true) :
    Keeps (Calm s tag) (Cmd.writeTensorRow w base stride row escEn xs) :=
  (Keeps.writeCoded hw (by
    rw [length_quantiseRow hw]
    exact Nat.le_trans (rowBytes_mono _ hxs) hstride) h).bind fun _ => Keeps.pure _

/-- What a matrix command of three plain tensors leaves out, by name. -/
structure PlainMatrix (x : MatBody) : Prop where
  noEpilogue : x.epi = 0
  noSecondOutput : x.otBase = 0
  noPrediction : x.pred = false
  noPartialSums : x.accLoad = false
  notCompressed : x.compressed = false
  aScale : x.a.scale = 0
  bScale : x.b.scale = 0
  oScale : x.o.scale = 0
  aUnwatched : pwNames x.a = false
  bUnwatched : pwNames x.b = false
  oUnwatched : pwNames x.o = false

theorem plain_of_plainMatrix {x : MatBody} (h : plainMatrix x = true) : PlainMatrix x := by
  simp only [plainMatrix, Bool.and_eq_true, decide_eq_true_eq, Bool.not_eq_true'] at h
  obtain ⟨⟨⟨⟨⟨⟨hepi, hot, hpd, hmask, ha, hb, ho⟩, hacc⟩, hcomp⟩, hpa⟩, hpb⟩, hpo⟩ := h
  exact ⟨hepi, hot, by simp [MatBody.pred, hpd, hmask], hacc, hcomp, ha, hb, ho, hpa, hpb, hpo⟩

section

variable {s : State} {e : Entry} {x : MatBody} {off : Nat}

/-- The rows of A and of the output lie in reach. -/
theorem matrixReach_row (h : matrixReach s x off = true) {r : Nat} (hr : r < x.m) :
    reach s (x.aBase + r * x.aStride) (rowBytes x.a.elem x.k) = true ∧ reach s (x.oBase + r * x.oStride) x.oStride = true := by
  obtain ⟨hrows, -⟩ := Bool.and_eq_true_iff.mp h
  exact Bool.and_eq_true_iff.mp (List.all_eq_true.mp hrows r (mem_seqFrom.mpr ⟨Nat.zero_le r, by omega⟩))

/-- So do the rows of B, in its layout. -/
theorem matrixReach_column (h : matrixReach s x off = true) {r : Nat} (hr : r < if x.layout then x.k else x.n) :
    reach s (x.bBase + off + r * x.bStride) (rowBytes x.b.elem (if x.layout then x.n else x.k)) = true := by
  obtain ⟨-, hcolumns⟩ := Bool.and_eq_true_iff.mp h
  exact List.all_eq_true.mp hcolumns r (mem_seqFrom.mpr ⟨Nat.zero_le r, by omega⟩)

/-- The body of a matrix command of plain tensors, its queues free and its operands in reach, ends DONE; RESULT[31:0] is the tide that it
read. -/
theorem bodyMatrix_ends (slots : List ModelSlot) (hbody : matBody e = x) (hplain : PlainMatrix x)
    (hstride : rowBytes x.o.elem x.n ≤ x.oStride) (hreach : matrixReach s x off = true)
    (hoff : ∀ t : State, t.slots = slots → readOffset t e x = off) :
    Ends (fun env => Calm s e.tag env ∧ QueuesFree env.s e ∧ env.s.slots = slots) (bodyMatrix e) fun o env =>
      Quiet e.tag env ∧ DoneIn x.engineId o ∧
        o.result % 2 ^ 32 = (if e.reads.isEmpty || pktOp e.pkt = 0x32 then 0 else e.tide) % 2 ^ 32 := by
  unfold bodyMatrix
  simp only [hbody]
  obtain ⟨hepi, hot, hpred, hacc, hcomp, ha, hb, ho, hpa, hpb, hpo⟩ := hplain
  refine Ends.bind (enterQueues_ends s e slots) fun _ => Ends.bind Ends.state fun t => ?_
  refine Ends.assume (φ := readOffset t e x = off) (fun env h => ?_) fun hoffset => Ends.strengthen (P' := Calm s e.tag) (fun env h => ?_) ?_
  · obtain ⟨⟨-, hslots⟩, rfl⟩ := h
    exact hoff _ hslots
  · obtain ⟨⟨hcalm, -⟩, -⟩ := h
    exact hcalm
  simp only [hoffset, hpred, hcomp, hacc, hepi, hot, Bool.false_eq_true, if_false, if_true, ne_eq, not_true_eq_false, pure_bind,
    Option.isSome_none, Bool.false_and, List.mapM_pure, mapM_groupOf, misses_exactRows, skipped_exactRows]
  refine Keeps.bind (Ends.modify fun env h => h.of_state rfl rfl rfl) fun _ => ?_
  refine Ends.bind_of_eq (substitutedWeight_plain _ _ hpa) <| Ends.bind_of_eq (substitutedWeight_plain _ _ hpb) <|
    Ends.bind_of_eq (substitutedWeight_plain _ _ hpo) <| (Keeps.substitutedWeight _ _ _).bind fun ot => ?_
  refine (Keeps.declareTensor _ _ _ _ ho).bind fun _ => Keeps.bind (Keeps.mapM fun r hr => ?_) fun avs => ?_
  · obtain ⟨-, hlt⟩ := mem_seqFrom.mp hr
    simp only [Cmd.streamRow, hcomp]
    exact (Keeps.readRow ha (matrixReach_row hreach (by omega)).1).bind fun _ => Keeps.pure _
  refine Keeps.state.bind fun _ => (Keeps.readStationary _ (by exact hb) fun r hr => ?_).bind fun bs => ?_
  · exact matrixReach_column hreach hr
  refine Keeps.escEn.bind fun escEn => Keeps.marks.bind fun marked => Keeps.get.bind fun _ =>
    Keeps.bind (Keeps.foldlM fun p hp acc => ?_) fun ev => ?_
  · obtain ⟨row, hget, hp1⟩ := mem_map_zipIdx hp
    have hlt : p.2 < x.m := by
      have := (List.getElem?_eq_some_iff.mp hget).1
      rwa [length_exactRows] at this
    refine (Keeps.writeTensorRow (n := x.n) _ ho ?_ hstride (matrixReach_row hreach hlt).2).bind fun _ => Keeps.pure _
    rw [hp1]
    refine Nat.le_trans (length_rotateRow ..) (length_flatMap_groups row 0 fun g hg => ?_)
    obtain ⟨l, hl, hlength⟩ := sums_of_mem _ _ _ _ _ (n := x.n) (by simp) (List.mem_of_getElem? hget) hg
    simpa only [hl, List.length_map, List.length_zipIdx] using hlength
  simp only [countWord_plain _ _ _ hpa, countWord_plain _ _ _ hpb, countWord_plain _ _ _ hpo, countWord_none]
  refine Keeps.get.bind fun _ => Keeps.get.bind fun _ => (Keeps.note _).bind fun _ =>
    Keeps.bind (Keeps.update fun _ h => h) fun _ => Ends.strengthen (fun _ h => h.quiet) ?_
  refine Keeps.bind (Keeps.update fun env h => ?_) fun _ => Keeps.bind (Keeps.forM fun bay _ => ?_) fun _ =>
    Keeps.bind (Keeps.update fun env h => ?_) fun _ => Ends.pure fun env h => ?_
  · exact h.countRows (fun r g => x.arrayOf (r / x.accSpan * ceilDiv x.n x.colsOfBlock + 8 * g / x.colsOfBlock)) _
  · exact Keeps.fresh.bind fun _ => Keeps.update fun _ h => h.count64 _ _
  · exact (((h.count64 _ _).count64 _ _).count64 _ _).count64 _ _
  · refine ⟨h, ⟨by simp, rfl, rfl⟩, (Nat.add_mul_mod_self_left ..).trans ?_⟩
    split_ifs <;> rfl

end

end Sys2Proof.Machine
end

section
/-! PROOFS. Matrix commands of plain tensors whose wait for their queues is over (R43, R53, R153, R355). -/

namespace Sys2Proof.Machine

open Sys2Proof

/-! ## Runs that end quietly -/

/-- A quiet end of a body finishes its command with the body's own outcome. -/
theorem settleDone_of_quiet {c : Entry} {env : Env} (o : Done) (h : Quiet c.tag env) (hc : entryOf env.s c.tag = some c) :
    FinishedWith (settleDone c env o) c.tag o := by
  obtain ⟨hunarmed, hunpoisoned, huncorrected, d, hd, hreruns⟩ := h
  obtain rfl : d = c := Option.some.inj (hd.symm.trans hc)
  obtain ⟨hmap, hentries⟩ := undefOutputs_stands env.s (racingBytes env.s d env)
  have hundertow : (undefOutputs env.s (racingBytes env.s d env)).undertow = [] := hmap.undertow.trans hunarmed
  have hend : settleDone d env o = finishWith (noteUsed (undefOutputs env.s (racingBytes env.s d env)) d) d env o := by
    simp [settleDone, injectTiles, hundertow, hunpoisoned, huncorrected, hreruns]
  rw [hend]
  exact finishWith_finished env o ((entryOf_congr ((noteUsed_entries ..).trans hentries) _).trans hc)

/-- A run that ends quietly finishes its command, where nothing precedes its outcome. -/
theorem runEnds_of_quiet (s base : State) {e : Entry} {held : Bool} (b : State) {env : Env} (o : Done) (hheld : held = false)
    (h : Quiet e.tag env) : FinishedWith (runEnds s base e held none b env (.ok o)) e.tag o := by
  obtain ⟨-, -, -, c, hc, -⟩ := id h
  have htag : c.tag = e.tag := entryOf_tag hc
  rw [runEnds_ok none b env o hheld, hc]
  rw [← htag] at h hc ⊢
  exact settleDone_of_quiet o h hc

section

variable {s base : State} {job : Job} {e : Entry} {held : Bool} {P : Env → Prop} {p : Done → Prop}

/-- A prepared command whose body ends quietly. -/
theorem runFrom_prepared (hheld : held = false) (hprepared : e.prepared = true) (hstart : P (runEnv base e))
    (hbody : Ends P (job.body e) fun o env => Quiet e.tag env ∧ p o) :
    ∃ o, FinishedWith (runFrom s base job e (runEnds s base e held none)) e.tag o ∧ p o := by
  obtain ⟨o, env, hrun, hquiet, hp⟩ := hbody _ hstart
  have hbodyRun : runBody base job e = (env, .ok o) := by rw [runBody, hrun]
  refine ⟨o, ?_, hp⟩
  rw [runFrom, if_pos hprepared, hbodyRun]
  exact runEnds_of_quiet s base base o hheld hquiet

/-- A command to be prepared, whose preparation succeeds and whose body then ends quietly. -/
theorem runFrom_unprepared {env0 : Env} {e1 : Entry} (hheld : held = false) (hprepared : e.prepared = false)
    (hprep : (job.prep e).run.run (runEnv base e) = (.ok (), env0)) (hentry : entryOf (preparedState env0 e.tag) e.tag = some e1)
    (hstart : P (runEnv (preparedState env0 e.tag) e1)) (hbody : Ends P (job.body e1) fun o env => Quiet e.tag env ∧ p o) :
    ∃ o, FinishedWith (runFrom s base job e (runEnds s base e held none)) e.tag o ∧ p o := by
  obtain ⟨o, env, hrun, hquiet, hp⟩ := hbody _ hstart
  have hbodyRun : runBody (preparedState env0 e.tag) job e1 = (env, .ok o) := by rw [runBody, hrun]
  refine ⟨o, ?_, hp⟩
  rw [runFrom, if_neg (by simp [hprepared]), hprep]
  simp only [hentry, hbodyRun]
  exact runEnds_of_quiet s base _ o hheld hquiet

end

/-! ## What a run of a matrix command starts from -/

theorem matBody_congr {e d : Entry} (h : d.pkt = e.pkt) : matBody d = matBody e := by
  unfold matBody bodyAt
  rw [h]

theorem queuesOf_congr {e d : Entry} (h : d.pkt = e.pkt) : queuesOf d = queuesOf e := by
  unfold queuesOf bodyAt
  rw [h, matBody_congr h]

theorem tileGated_mapStands {s t : State} (h : MapStands s t) {n : Nat} (hn : n < 512) : tileGated t n = tileGated s n := by
  refine bitAt_congr (h.reg _ ?_) _
  have hblock : blockOf (Reg.TILE_GATED (n / 32)) = 4 := by unfold blockOf Reg.TILE_GATED; omega
  refine ⟨by simp [irqReg, hblock], by unfold Reg.ERRLOG_TAIL Reg.TILE_GATED; omega, by unfold Reg.ERRLOG_DROPPED Reg.TILE_GATED; omega,
    by unfold Reg.RAS_EVENT Reg.TILE_GATED; omega, ?_⟩
  rintro (h | ⟨st, -, h⟩)
  · unfold Reg.SKERRY_CE Reg.TILE_GATED at h; omega
  · unfold Reg.STACK_CE Reg.TILE_GATED at h; omega

/-- The queues of a command stay free while the other tracking entries stand. -/
theorem QueuesFree.stands {s t : State} {e d : Entry} (h : QueuesFree s e) (hmap : MapStands s t) (htag : d.tag = e.tag)
    (hpkt : d.pkt = e.pkt) (hentries : ∀ c ∈ t.entries, c.tag ≠ e.tag → c ∈ s.entries) : QueuesFree t d := by
  obtain ⟨hothers, htiles⟩ := h
  refine ⟨fun c hc hne => hothers c (hentries c hc (htag ▸ hne)) (htag ▸ hne), ?_⟩
  rw [queuesOf_congr hpkt]
  refine List.all_eq_true.mpr fun a ha => ?_
  rw [tileGated_mapStands hmap (Nat.mod_lt _ (by decide))]
  exact List.all_eq_true.mp htiles a ha

theorem setEntry_mapStands (s : State) (tag : Nat) (f : Entry → Entry) : MapStands s (setEntry s tag f) := .of_eq rfl rfl rfl rfl

/-- The other tracking entries stand where a command's own changes. -/
theorem QueuesFree.setEntry {s : State} {e d : Entry} (h : QueuesFree s e) (f : Entry → Entry) (hf : ∀ c, c.tag = e.tag → (f c).tag = e.tag)
    (htag : d.tag = e.tag) (hpkt : d.pkt = e.pkt) : QueuesFree (setEntry s e.tag f) d :=
  h.stands (setEntry_mapStands ..) htag hpkt fun _ hc hne =>
    (mem_setEntry hc).elim (fun ⟨d, _, hd, hcd⟩ => absurd (hcd ▸ hf d hd) hne) And.left

/-- A run starts calm from a state in which the command is tracked and what was in reach still is. -/
theorem calm_runEnv {s base : State} {e c : Entry} (hmap : MapStands s base) (hclean : s.errs = []) (hunarmed : s.undertow = [])
    (hc : entryOf base e.tag = some c) (hreruns : c.reruns = 0) : Calm s e.tag (runEnv base e) :=
  ⟨hmap, hclean, hunarmed, rfl, rfl, c, hc, hreruns⟩

/-- A command that reads no tide has no offset. -/
theorem readOffset_of_noReads (t : State) {e : Entry} (x : MatBody) (h : e.reads = []) : readOffset t e x = 0 := by
  unfold readOffset
  split
  · rfl
  · simp [h]

/-- A matrix command that passes its checks has an output stride that covers its rows. -/
theorem stride_of_matChecks {s : State} {e : Entry} (h : checksHold (matChecks s e) = true) :
    rowBytes (matBody e).o.elem (matBody e).n ≤ (matBody e).oStride := by
  obtain ⟨b, hmem, hstride⟩ : ∃ b, (b, 0x57) ∈ matChecks s e ∧
      (b = true → strideOk (matBody e).oStride (matBody e).o.elem (matBody e).n = true) := by
    unfold matChecks
    refine ⟨?_, List.mem_append_right _ ?listed, ?strides⟩
    case listed =>
      iterate 10 refine .tail _ ?_
      exact .head _
    case strides =>
      intro hb
      simp only [Bool.and_eq_true] at hb
      obtain ⟨⟨⟨⟨⟨-, hb⟩, -⟩, -⟩, -⟩, -⟩ := hb
      exact hb
  have := hstride (List.all_eq_true.mp h _ hmem)
  simp only [strideOk, Bool.and_eq_true, decide_eq_true_eq] at this
  exact this.2

theorem jobOf_matrix {op : Nat} (h : op ∈ [0x30, 0x31, 0x32]) : jobOf op = ⟨prepareMatrix, bodyMatrix⟩ := by
  simp only [List.mem_cons, List.not_mem_nil, or_false] at h
  obtain rfl | rfl | rfl := h
  all_goals rfl

/-- A prepared matrix command that reads no tide and whose wait is over. -/
theorem preparedMatrix_finishes {s : State} {tag : Nat} {w : Wait} {e : Entry} {x : MatBody} (hresumes : Resumes s tag w e)
    (hw : r64Wait e = false) (hprepared : e.prepared = true) (hop : pktOp e.pkt ∈ [0x30, 0x31, 0x32]) (hreads : e.reads = [])
    (hfree : QueuesFree s e) (hbody : matBody e = x) (hplain : PlainMatrix x) (hstride : rowBytes x.o.elem x.n ≤ x.oStride)
    (hreach : matrixReach s x 0 = true) : ∃ o, FinishedWith (resumeFrom s tag w) tag o ∧ DoneIn x.engineId o := by
  obtain ⟨hentry, hwait, hreruns, -, -, -, hgate, -, hclean, hunarmed⟩ := hresumes
  obtain rfl : e.tag = tag := entryOf_tag hentry
  have hnotReady : e.phase ≠ .ready := by simp [hwait]
  have hstart : startEntry s e = e := by rw [startEntry_of_waiting hnotReady, resumed, if_neg (by simp [hw])]
  have hbase : startState s e = setEntry s e.tag fun _ => e := by
    rw [startState_of_waiting hnotReady, resumed, if_neg (by simp [hw])]
  have hbaseEntry : entryOf (setEntry s e.tag fun _ => e) e.tag = some e := by
    rw [entryOf_setEntry s e.tag fun _ _ => rfl, hentry]
    rfl
  have hends := bodyMatrix_ends (s := s) s.slots hbody hplain hstride hreach fun t _ => readOffset_of_noReads t x hreads
  have hcalm := calm_runEnv (setEntry_mapStands s e.tag fun _ => e) hclean hunarmed hbaseEntry hreruns
  have hqueues : QueuesFree (setEntry s e.tag fun _ => e) e :=
    hfree.stands (setEntry_mapStands ..) rfl rfl fun c hc hne => (mem_setEntry hc).elim (fun ⟨_, _, _, h⟩ => absurd (h ▸ rfl) hne) And.left
  obtain ⟨o, hfinished, hdone, -⟩ := runFrom_prepared (s := s) (job := ⟨prepareMatrix, bodyMatrix⟩)
    (held := (decide (e.phase = .ready) || r64Wait e) && isApplying s 5) (by simp [hnotReady, hw]) hprepared ⟨hcalm, hqueues, rfl⟩ hends
  refine ⟨o, ?_, hdone⟩
  rw [resumeFrom_of_waiting hentry hwait hgate, jobOf_matrix hop, runEntry_eq, hstart, hbase, startFault_of_waiting hnotReady]
  exact hfinished

end Sys2Proof.Machine
end

section
/-! PROOFS. The preparation of a matrix command, and the tide that it takes (R210 to R217). -/

namespace Sys2Proof.Machine

open Sys2Proof

/-! ## Preparation (R211 to R217) -/

theorem lowest_of_checksHold : ∀ {l : List (Bool × Nat)}, checksHold l = true → lowest l = none
  | [], _ => rfl
  | (ok, d) :: l, h => by
    obtain ⟨hok, hrest⟩ : ok = true ∧ checksHold l = true := Bool.and_eq_true_iff.mp h
    simp [lowest, lowest_of_checksHold hrest, hok]

/-- The environment stands in a state, nothing poisoned or corrected. -/
structure At (t : State) (env : Env) : Prop where
  state : env.s = t
  unpoisoned : env.poison = none
  uncorrected : env.corrected = false

/-- The state that an execution reads where it stands. -/
theorem Ends.bind_state {α : Type} {t : State} {f : State → Cmd α} {Q : α → Env → Prop} (hf : Ends (At t) (f t) Q) :
    Ends (At t) (Cmd.state >>= f) Q :=
  Ends.bind_of_eq (Ends.state.weaken fun _ _ h => ⟨h.1, h.2.trans h.1.state⟩) hf

section

variable {t : State} {e : Entry} {x : MatBody}

/-- A matrix command without predictions and compressed operands is prepared by its checks and its tide alone. -/
theorem prepareMatrix_ends {Q : Unit → Env → Prop} (hbody : matBody e = x) (hplain : PlainMatrix x)
    (hchecks : checksHold (matChecks t e) = true) (hweights : Ends (At t) (Cmd.weightsOk e x none) fun _ => At t)
    (htide : Ends (At t) (Cmd.resolveTide e x none (x.words ++ [])) Q) : Ends (At t) (prepareMatrix e) Q := by
  unfold prepareMatrix
  refine Ends.bind_state ?_
  simp only [hbody, hplain.noPrediction, hplain.notCompressed, Cmd.checks, lowest_of_checksHold hchecks, Bool.false_and, Bool.false_eq_true, if_false, pure_bind]
  refine Ends.bind hweights fun _ => Ends.bind (R := fun _ => At t) (Ends.modify fun _ h => ?_) fun _ => htide
  exact ⟨h.state, h.unpoisoned, h.uncorrected⟩

/-- One that names no tide resolves none. -/
theorem prepareMatrix_untided (hbody : matBody e = x) (hplain : PlainMatrix x) (hchecks : checksHold (matChecks t e) = true)
    (hvalid : pktTideValid e.pkt = false) (hweight : pktOp e.pkt = 0x31 → weightEntryAt t e.slot x.bBase = none) :
    Ends (At t) (prepareMatrix e) fun _ => At t := by
  refine prepareMatrix_ends hbody hplain hchecks (Ends.bind_state ?_) (Ends.bind_state ?_)
  · have hnone : (decide (pktOp e.pkt = 0x31) && (weightEntryAt t e.slot x.bBase).isSome) = false := by
      by_cases hop : pktOp e.pkt = 0x31
      · simp [hweight hop]
      · simp [hop]
    simp only [hvalid, hnone]
    exact Keeps.pure _
  · simp only [hvalid]
    exact Keeps.pure _

theorem filter_pwNames_words (hplain : PlainMatrix x) : x.words.filter pwNames = [] := by
  simp [MatBody.words, hplain.noSecondOutput, hplain.aUnwatched, hplain.bUnwatched, hplain.oUnwatched]

/-- A MATMUL that names a tide takes the newest present one at or after it. -/
theorem prepareMatrix_tided {i v tau : Nat} {te : TideEntry} (hbody : matBody e = x) (hplain : PlainMatrix x)
    (hchecks : checksHold (matChecks t e) = true) (hvalid : pktTideValid e.pkt = true) (hop : pktOp e.pkt = 0x30)
    (hweight : weightEntry t e.slot [x.bBase] = some i) (hte : tideEntry t e.slot i = some te) (hpaired : te.paired = false)
    (hnewest : newestPresent te (fun tau => atOrAfter tau (pktTide e.pkt)) = some (v, tau)) :
    Ends (At t) (prepareMatrix e) fun _ => At (resolveTo t e i v tau false) := by
  have hwords := filter_pwNames_words hplain
  have haddresses : x.weights none = [x.bBase] := by simp [MatBody.weights, hplain.bScale]
  have hdecided (tau : Nat) : allDecided t (x.words ++ []) tau = true := by simp [allDecided, hwords]
  have hsubstituted (tau : Nat) : x.altWeights t tau = [] := by simp [MatBody.altWeights, altWeight_plain t tau x.bBase hplain.bUnwatched]
  refine prepareMatrix_ends hbody hplain hchecks (Ends.bind_state ?_) (Ends.bind_state ?_)
  · simp only [hvalid, hop, haddresses, hweight]
    exact Keeps.pure _
  · simp only [hvalid, hop, haddresses, hweight, hte, hdecided, Bool.and_true, hnewest, hpaired]
    have husers : Ends (At t) (Cmd.userTides e (x.words ++ []) (some (e.slot, i))) fun _ => At t := by
      refine Ends.bind_state ?_
      simp only [List.append_nil, hwords]
      exact Keeps.pure _
    have htaken : Ends (At t) (Cmd.takeTide e x i v tau false) fun _ => At (resolveTo t e i v tau false) := by
      refine Ends.bind_state ?_
      simp only [hsubstituted, List.all_nil, if_true]
      exact Ends.modify fun _ h => ⟨congrArg (resolveTo · e i v tau false) h.state, h.unpoisoned, h.uncorrected⟩
    refine Ends.bind husers fun _ => Ends.bind htaken fun _ => ?_
    split
    · exact Ends.modify fun _ h => ⟨h.state, h.unpoisoned, h.uncorrected⟩
    · exact Keeps.pure _

end

/-! ## A tide taken (R210, R217) -/

/-- What a write through to a tide table leaves: the address map, the tracking entries and the live tables. -/
structure TableWrite (s t : State) : Prop where
  map : MapStands s t
  entries : t.entries = s.entries
  slots : t.slots = s.slots

theorem TableWrite.trans {s t u : State} (first : TableWrite s t) (second : TableWrite t u) : TableWrite s u :=
  ⟨first.map.trans second.map, second.entries.trans first.entries, second.slots.trans first.slots⟩

theorem TableWrite.refl (s : State) : TableWrite s s := ⟨.refl s, rfl, rfl⟩

theorem storeBytes_tableWrite (s : State) (a : Nat) (l : List Byte) : TableWrite s (storeBytes s a l) := by
  have hmerge := storeBytes_merge s a l
  refine ⟨⟨fun off h => hmerge.reg_eq h, ?_, fun h => ?_, ?_⟩, ?_, ?_⟩
  case refine_2 => rwa [storeBytes_clean a l h, pokeBytes_eq]
  all_goals rw [hmerge.1]

theorem logEvent_tableWrite (s : State) (cls : Nat) (f : LogFields) : TableWrite s (logEvent s cls f) := by
  have honly := logEvent_only s cls f
  refine ⟨⟨fun off h => logEvent_reg s cls f h, ?_, fun h => (writeRecord_merged_clean _ h).1, ?_⟩, ?_, ?_⟩
  all_goals rw [honly.1]

theorem writeThrough_tableWrite (s : State) (a : Nat) (l : List Byte) : TableWrite s (writeThrough s a l) := by
  unfold writeThrough
  split
  · exact logEvent_tableWrite ..
  · exact storeBytes_tableWrite ..

/-- A tide-table entry changed in the live table, and written through. -/
theorem setTide_eq {s : State} {slot i : Nat} {m : ModelSlot} {te : TideEntry} (f : TideEntry → TideEntry)
    (hm : modelSlot s slot = some m) (hte : m.tides[i]? = some te) :
    TableWrite { s with slots := s.slots.map fun x => if x.slot = slot then { m with tides := m.tides.set i (f te) } else x }
      (setTide s slot i f) := by
  unfold setTide
  simp only [hm, hte]
  exact List.foldlRecOn (motive := TableWrite _) _ _ (.refl _) fun t ht w _ => ht.trans (writeThrough_tableWrite ..)

theorem setTide_modelSlot {s : State} {slot i : Nat} {m : ModelSlot} {te : TideEntry} (f : TideEntry → TideEntry)
    (hm : modelSlot s slot = some m) (hte : m.tides[i]? = some te) :
    modelSlot (setTide s slot i f) slot = some { m with tides := m.tides.set i (f te) } := by
  have hslot : m.slot = slot := by simpa using List.find?_some hm
  have hsame : (fun x : ModelSlot => decide (x.slot = slot)) ∘
      (fun x => if x.slot = slot then { m with tides := m.tides.set i (f te) } else x) = fun x => decide (x.slot = slot) := by
    funext x
    by_cases hx : x.slot = slot
    · simp [hx, hslot]
    · simp [hx]
  unfold modelSlot at hm ⊢
  rw [(setTide_eq f hm hte).slots]
  show (s.slots.map _).find? _ = _
  rw [List.find?_map, hsame, hm]
  simp [hslot]

/-- A version slot changed: the entry keeps its region and its stride, and the WEIGHT entries stand where they stood. -/
theorem setVslot_tideEntry {s : State} {slot i : Nat} {te : TideEntry} (v : Nat) (f : VersionSlot → VersionSlot)
    (hte : tideEntry s slot i = some te) : ∃ te', tideEntry (setVslot s slot i v f) slot i = some te' ∧ te'.vstride = te.vstride := by
  cases hm : modelSlot s slot with
  | none => simp [tideEntry, hm] at hte
  | some m =>
    have hget : m.tides[i]? = some te := by simpa [tideEntry, hm] using hte
    obtain ⟨hlt, -⟩ := List.getElem?_eq_some_iff.mp hget
    refine ⟨{ te with vslots := te.vslots.set v (f ((te.vslots[v]?).getD VersionSlot.empty)) }, ?_, rfl⟩
    unfold setVslot tideEntry
    rw [setTide_modelSlot _ hm hget]
    exact List.getElem?_set_self hlt

theorem setVslot_weightEntryAt {s : State} {slot i : Nat} {te : TideEntry} (v : Nat) (f : VersionSlot → VersionSlot)
    (hte : tideEntry s slot i = some te) (a : Nat) : weightEntryAt (setVslot s slot i v f) slot a = weightEntryAt s slot a := by
  cases hm : modelSlot s slot with
  | none => simp [tideEntry, hm] at hte
  | some m =>
    have hget : m.tides[i]? = some te := by simpa [tideEntry, hm] using hte
    obtain ⟨hlt, hget'⟩ := List.getElem?_eq_some_iff.mp hget
    have hregions (l : List TideEntry) : l.findIdx? (fun e => inRegion e a) = (l.map fun e => inRegion e a).findIdx? id := by
      rw [List.findIdx?_map]
      rfl
    unfold weightEntryAt setVslot
    rw [setTide_modelSlot _ hm hget, hm]
    simp only
    rw [hregions, hregions, List.map_set]
    refine congrArg (List.findIdx? id) ?_
    have hsame : inRegion { te with vslots := te.vslots.set v (f ((te.vslots[v]?).getD VersionSlot.empty)) } a =
        (m.tides.map fun e => inRegion e a)[i]'(by simpa using hlt) := by
      rw [List.getElem_map, hget']
      rfl
    rw [hsame, List.set_getElem_self]

/-! ## The tide of a waiting MATMUL (R211 to R217) -/

/-- A version slot with one reader more. -/
def oneReaderMore (x : VersionSlot) : VersionSlot := { x with readers := x.readers + 1 }

/-- The entry of a command that reads a version slot too. -/
def withRead (slot i v : Nat) (c : Entry) : Entry := { c with reads := c.reads ++ [⟨slot, i, v⟩] }

/-- The entry of a command whose tide is chosen. -/
def withTide (tau : Nat) (c : Entry) : Entry := { c with tide := tau }

theorem setVslot_stands {s : State} {slot i : Nat} {te : TideEntry} (v : Nat) (f : VersionSlot → VersionSlot)
    (hte : tideEntry s slot i = some te) : MapStands s (setVslot s slot i v f) ∧ (setVslot s slot i v f).entries = s.entries := by
  cases hm : modelSlot s slot with
  | none => simp [tideEntry, hm] at hte
  | some m =>
    have hget : m.tides[i]? = some te := by simpa [tideEntry, hm] using hte
    unfold setVslot
    obtain ⟨⟨hreg, hpci, herrs, hundertow⟩, hentries, -⟩ :=
      setTide_eq (fun e => { e with vslots := e.vslots.set v (f ((e.vslots[v]?).getD VersionSlot.empty)) }) hm hget
    exact ⟨⟨hreg, hpci, herrs, hundertow⟩, hentries⟩

section

variable {s : State} {e c : Entry} {i v tau : Nat} {te : TideEntry}

/-- A tide taken without a hold: a reader more in the table, and in the command's entry what it reads. -/
theorem resolveTo_eq (s : State) (e : Entry) (i v tau : Nat) : resolveTo s e i v tau false =
    setEntry (setEntry (setVslot s e.slot i v oneReaderMore) e.tag (withRead e.slot i v)) e.tag (withTide tau) := rfl

theorem resolveTo_mapStands (hte : tideEntry s e.slot i = some te) : MapStands s (resolveTo s e i v tau false) :=
  (setVslot_stands v _ hte).1.trans ((setEntry_mapStands ..).trans (setEntry_mapStands ..))

/-- The command that takes a tide reads it. -/
theorem resolveTo_entry (hte : tideEntry s e.slot i = some te) (hc : entryOf s e.tag = some c) :
    entryOf (resolveTo s e i v tau false) e.tag = some (withTide tau (withRead e.slot i v c)) := by
  rw [resolveTo_eq, entryOf_setEntry _ e.tag (f := withTide tau) fun _ h => h,
    entryOf_setEntry _ e.tag (f := withRead e.slot i v) fun _ h => h, entryOf_congr (setVslot_stands v _ hte).2, hc]
  rfl

theorem resolveTo_queuesFree (hte : tideEntry s e.slot i = some te) (h : QueuesFree s e) : QueuesFree (resolveTo s e i v tau false) e := by
  obtain ⟨hmap, hentries⟩ := setVslot_stands v oneReaderMore hte
  have hwritten : QueuesFree (setVslot s e.slot i v oneReaderMore) e := h.stands hmap rfl rfl fun c hc _ => hentries ▸ hc
  exact (hwritten.setEntry (withRead e.slot i v) (fun _ h => h) rfl rfl).setEntry (withTide tau) (fun _ h => h) rfl rfl

theorem weightEntryAt_of_weightEntry {slot a : Nat} (h : weightEntry s slot [a] = some i) : weightEntryAt s slot a = some i := by
  unfold weightEntry at h
  cases hat : weightEntryAt s slot a with
  | none => simp [hat] at h
  | some j => simpa [hat] using h

/-- The offset of the tide taken: its version slot times the entry's stride. -/
theorem readOffset_resolveTo {x : MatBody} (hweight : weightEntry s e.slot [x.bBase] = some i) (hte : tideEntry s e.slot i = some te)
    {u : State} {d : Entry} (hu : u.slots = (resolveTo s e i v tau false).slots) (hslot : d.slot = e.slot)
    (hreads : d.reads = [⟨e.slot, i, v⟩]) : readOffset u d x = v * te.vstride := by
  have hmodel : modelSlot u e.slot = modelSlot (setVslot s e.slot i v oneReaderMore) e.slot := by
    unfold modelSlot
    rw [hu]
    rfl
  have hat : weightEntryAt u e.slot x.bBase = some i := by
    have ht : weightEntryAt (setVslot s e.slot i v oneReaderMore) e.slot x.bBase = some i :=
      (setVslot_weightEntryAt v _ hte _).trans (weightEntryAt_of_weightEntry hweight)
    unfold weightEntryAt at ht ⊢
    rwa [hmodel]
  obtain ⟨te', hte', hstride⟩ := setVslot_tideEntry v oneReaderMore hte
  have hlive : tideEntry u e.slot i = some te' := by
    unfold tideEntry
    rw [hmodel]
    exact hte'
  unfold readOffset
  rw [hslot, hat, hreads]
  simp [hlive, hstride]

end

end Sys2Proof.Machine
end

section
/-! PROOFS. Matrix commands of plain tensors from their dispatch and from the wait for their tide (R43, R53, R161, R213, R214). -/

namespace Sys2Proof.Machine

open Sys2Proof

/-! ## Matrix commands from their preparation -/

/-- The entry of a command whose preparation has ended in `env`. -/
def preparedEntry (env : Env) (c : Entry) : Entry := { keepRun env c with prepared := true }

/-- A matrix command whose preparation ends in `t`, where it is tracked as `c`. -/
theorem unpreparedMatrix_finishes {s base t : State} {e c : Entry} {x : MatBody} {off : Nat} {held : Bool} (hheld : held = false)
    (hclean : s.errs = []) (hunarmed : s.undertow = []) (hprepared : e.prepared = false)
    (hprep : Ends (At base) (prepareMatrix e) fun _ => At t) (hmap : MapStands s t) (hc : entryOf t e.tag = some c)
    (hreruns : c.reruns = 0) (hpkt : c.pkt = e.pkt) (hfree : QueuesFree t e) (hbody : matBody e = x) (hplain : PlainMatrix x)
    (hstride : rowBytes x.o.elem x.n ≤ x.oStride) (hreach : matrixReach s x off = true)
    (hoff : ∀ u d, u.slots = t.slots → d.slot = c.slot → d.reads = c.reads → readOffset u d x = off) :
    ∃ o, FinishedWith (runFrom s base ⟨prepareMatrix, bodyMatrix⟩ e (runEnds s base e held none)) e.tag o ∧ DoneIn x.engineId o ∧
      o.result % 2 ^ 32 = (if c.reads.isEmpty || pktOp c.pkt = 0x32 then 0 else c.tide) % 2 ^ 32 := by
  obtain ⟨⟨⟩, env0, hrun, ⟨hstate, -, huncorrected⟩⟩ := hprep (runEnv base e) ⟨rfl, rfl, rfl⟩
  subst hstate
  have htag : c.tag = e.tag := entryOf_tag hc
  have hentry : entryOf (preparedState env0 e.tag) e.tag = some (preparedEntry env0 c) :=
    (entryOf_setEntry env0.s e.tag (f := preparedEntry env0) fun _ hd => hd).trans (congrArg (Option.map _) hc)
  have hends := bodyMatrix_ends (s := s) (e := preparedEntry env0 c) env0.s.slots ((matBody_congr hpkt).trans hbody) hplain hstride hreach
    fun u hu => hoff u _ hu rfl rfl
  have hcalm : Calm s (preparedEntry env0 c).tag (runEnv (preparedState env0 e.tag) (preparedEntry env0 c)) :=
    calm_runEnv (hmap.trans (setEntry_mapStands ..)) hclean hunarmed (c := preparedEntry env0 c) (htag ▸ hentry) (by
      simp [preparedEntry, keepRun, hreruns, huncorrected, b2n])
  have hqueues : QueuesFree (preparedState env0 e.tag) (preparedEntry env0 c) := hfree.setEntry (preparedEntry env0) (fun _ hd => hd) htag hpkt
  rw [show (preparedEntry env0 c).tag = e.tag from htag] at hends hcalm
  exact runFrom_unprepared hheld hprepared hrun hentry ⟨hcalm, hqueues, rfl⟩ hends

/-- A matrix command that is dispatched and names no tide. -/
theorem launchedMatrix_finishes {s : State} {tag op : Nat} {e : Entry} {x : MatBody} (hlaunch : Launch s tag op e)
    (hop : op ∈ [0x30, 0x31, 0x32]) (hvalid : pktTideValid e.pkt = false) (hweight : op = 0x31 → weightEntryAt s e.slot x.bBase = none)
    (hreads : e.reads = []) (hfree : QueuesFree s e) (hbody : matBody e = x) (hplain : PlainMatrix x)
    (hchecks : checksHold (matChecks s e) = true) (hreach : matrixReach s x 0 = true) :
    ∃ o, FinishedWith (runRow op ⟨prepareMatrix, bodyMatrix⟩ tag s) tag o ∧ DoneIn x.engineId o := by
  obtain ⟨hentry, hop', hready, hprepared, hreruns, -, -, hgate, hslot, hdead, hcommit, hclean, hunarmed⟩ := hlaunch
  obtain rfl : e.tag = tag := entryOf_tag hentry
  have hstride := hbody ▸ stride_of_matChecks hchecks
  have hfault : startFault s e = none := by
    have hslot' : slotLoaded s (dispatched s e).slot = true := hslot
    have hsmall : ¬ (0x60 ≤ pktOp (dispatched s e).pkt ∧ pktOp (dispatched s e).pkt ≤ 0x62 ∧ s.fieldAt Reg.SKERRY_STATUS 1 0 = 3) := by
      show ¬ (0x60 ≤ pktOp e.pkt ∧ _)
      simp only [List.mem_cons, List.not_mem_nil, or_false] at hop
      omega
    have halive : (tilesOf (dispatched s e)).find? s.power.deadTiles.contains = none :=
      List.find?_eq_none.mpr fun t ht => by
        have := List.all_eq_true.mp hdead t ht
        simpa using this
    rw [startFault_of_ready hready, dispatchFault]
    simp only [hslot', hsmall, halive]
    rfl
  have hbase : entryOf (dispatchedState s e) e.tag = some (dispatched s e) :=
    (entryOf_setEntry _ e.tag (f := fun _ => dispatched s e) fun _ _ => rfl).trans (congrArg (Option.map _) hentry)
  have hmap : MapStands s (dispatchedState s e) := .of_eq rfl rfl rfl rfl
  have hqueues : QueuesFree (dispatchedState s e) (dispatched s e) := by
    have hcounted : QueuesFree { s with readSeq := s.readSeq + 1 } e := hfree
    exact hcounted.setEntry _ (fun _ _ => rfl) rfl rfl
  have hprep : Ends (At (dispatchedState s e)) (prepareMatrix (dispatched s e)) fun _ => At (dispatchedState s e) :=
    prepareMatrix_untided ((matBody_congr rfl).trans hbody) hplain hchecks hvalid fun h => hweight (hop'.symm.trans h)
  obtain ⟨o, hfinished, hdone, -⟩ := unpreparedMatrix_finishes (s := s) (base := dispatchedState s e) (e := dispatched s e)
    (held := (decide (e.phase = .ready) || r64Wait e) && isApplying s 5) (off := 0) (by simp [hcommit]) hclean hunarmed hprepared hprep hmap
    hbase hreruns rfl hqueues ((matBody_congr rfl).trans hbody) hplain hstride hreach fun u d _ _ hd => readOffset_of_noReads u x (hd.trans hreads)
  refine ⟨o, ?_, hdone⟩
  rw [runRow_of_ready _ hentry hready hop' hgate, runEntry_eq, startEntry_of_ready hready, startState_of_ready hready, hfault]
  exact hfinished

/-- A MATMUL that waited for its tide and goes on with the newest present one at or after it. -/
theorem tidedMatrix_finishes {s : State} {tag i v tau : Nat} {e : Entry} {x : MatBody} {te : TideEntry} (hresumes : Resumes s tag .tide e)
    (hprepared : e.prepared = false) (hop : pktOp e.pkt = 0x30) (hvalid : pktTideValid e.pkt = true) (hreads : e.reads = [])
    (hfree : QueuesFree s e) (hbody : matBody e = x) (hplain : PlainMatrix x) (hchecks : checksHold (matChecks s e) = true)
    (hweight : weightEntry s e.slot [x.bBase] = some i) (hte : tideEntry s e.slot i = some te) (hpaired : te.paired = false)
    (hnewest : newestPresent te (fun tau => atOrAfter tau (pktTide e.pkt)) = some (v, tau))
    (hreach : matrixReach s x (v * te.vstride) = true) :
    ∃ o, FinishedWith (resumeFrom s tag .tide) tag o ∧ DoneIn x.engineId o ∧ o.result % 2 ^ 32 = tau % 2 ^ 32 := by
  obtain ⟨hentry, hwait, hreruns, -, -, -, hgate, hcommit, hclean, hunarmed⟩ := hresumes
  obtain rfl : e.tag = tag := entryOf_tag hentry
  have hnotReady : e.phase ≠ .ready := by simp [hwait]
  have hresumed : resumed s e = { e with policy := s.reg Reg.RAS_POLICY } := by rw [resumed, if_pos (by simp [r64Wait, hwait])]
  let d : Entry := { e with policy := s.reg Reg.RAS_POLICY }
  let base := setEntry s e.tag fun _ => d
  have hd : entryOf base e.tag = some d :=
    (entryOf_setEntry s e.tag (f := fun _ => d) fun _ _ => rfl).trans (congrArg (Option.map _) hentry)
  have hte' : tideEntry base d.slot i = some te := hte
  have hprep : Ends (At base) (prepareMatrix d) fun _ => At (resolveTo base d i v tau false) :=
    prepareMatrix_tided ((matBody_congr rfl).trans hbody) hplain hchecks hvalid hop hweight hte' hpaired hnewest
  obtain ⟨o, hfinished, hdone, hresult⟩ := unpreparedMatrix_finishes (s := s) (e := d)
    (held := (decide (e.phase = .ready) || r64Wait e) && isApplying s 5) (by simp [hcommit]) hclean hunarmed hprepared hprep
    ((setEntry_mapStands ..).trans (resolveTo_mapStands hte')) (resolveTo_entry hte' hd) hreruns rfl
    (resolveTo_queuesFree hte' (hfree.setEntry _ (fun _ _ => rfl) rfl rfl)) ((matBody_congr rfl).trans hbody) hplain
    (hbody ▸ stride_of_matChecks hchecks) hreach fun u c hu hslot hc =>
      readOffset_resolveTo (s := base) (e := d) hweight hte' hu hslot (hc.trans (congrArg (· ++ _) hreads))
  refine ⟨o, ?_, hdone, ?_⟩
  · rw [resumeFrom_of_waiting hentry hwait hgate, hop, jobOf_matrix (by simp), runEntry_eq, startEntry_of_waiting hnotReady,
      startState_of_waiting hnotReady, startFault_of_waiting hnotReady, hresumed]
    exact hfinished
  · rw [hresult, if_neg (by simp [withTide, withRead, d, hop])]
    rfl

/-- A row that finishes its command executes it. -/
theorem executes_of_row {s : State} {i : Instr} {row : State → State} {tag : Nat} {p : Done → Prop} (hexec : exec i s = act row s)
    (h : ∃ o, FinishedWith (row s) tag o ∧ p o) : Executes s i tag fun _ o => p o := by
  obtain ⟨o, hfinished, hp⟩ := h
  obtain ⟨t, hnext, -, -, -, hentries, -⟩ := act_leaves (rfl : row s = row s)
  exact ⟨t, o, hexec.trans hnext, hfinished.congr hentries, hp⟩

/-- Settles O56: each row runs its command, whose preparation and body go through with nothing in their way. -/
theorem matrixCommandsComplete : Obligations.MatrixCommandsComplete := by
  unfold Obligations.MatrixCommandsComplete
  rintro s tag e x rfl hplain hchecks
  replace hplain := plain_of_plainMatrix hplain
  refine ⟨fun r hr hlaunch hvalid hweight hreads _ hfree hreach => ?_, fun r hr hresumes hprepared hop hreads hfree hreach => ?_,
    fun tile hgated hon hnext hwaits hresumes hprepared hop hreads hfree hreach => ?_,
    fun i te v tau hresumes hprepared hop hvalid hreads _ hfree hweight hte hpaired hnewest hreach => ?_⟩
  · have hrow : (r.1, r.2, ⟨prepareMatrix, bodyMatrix⟩) ∈ unitRows tag [] := by
      simp only [List.mem_cons, List.not_mem_nil, or_false] at hr
      obtain rfl | rfl | rfl := hr
      all_goals simp [unitRows]
    have hop : r.2 ∈ [0x30, 0x31, 0x32] := by
      simp only [List.mem_cons, List.not_mem_nil, or_false] at hr ⊢
      exact hr.imp (congrArg Prod.snd) (Or.imp (congrArg Prod.snd) (congrArg Prod.snd))
    exact executes_of_row (exec_unitRow hrow s)
      (launchedMatrix_finishes hlaunch hop hvalid hweight hreads hfree rfl hplain hchecks hreach)
  · have hfinishes (hw : r64Wait e = false) :=
      preparedMatrix_finishes hresumes hw hprepared hop hreads hfree rfl hplain (stride_of_matChecks hchecks) hreach
    obtain ⟨-, hwait, -⟩ := hresumes
    simp only [List.mem_cons, List.not_mem_nil, or_false] at hr
    obtain rfl | rfl := hr
    · exact executes_of_row (exec_operationEnqueue tag s) (hfinishes (by simp [r64Wait, hwait]))
    · exact executes_of_row (exec_serialisedOperationStart tag s) (hfinishes (by simp [r64Wait, hwait]))
  · have hfinishes (hw : r64Wait e = false) :=
      preparedMatrix_finishes hresumes hw hprepared hop hreads hfree rfl hplain (stride_of_matChecks hchecks) hreach
    obtain ⟨hentry, hwait, -⟩ := hresumes
    refine executes_of_row (exec_tileWake tile s) ?_
    rw [powered_wakeTile hon hgated hnext hwaits, entryOf_tag hentry]
    exact hfinishes (by simp [r64Wait, hwait])
  · exact executes_of_row (exec_tideWaitExit tag s)
      (tidedMatrix_finishes hresumes hprepared hop hvalid hreads hfree rfl hplain hchecks hweight hte hpaired hnewest hreach)

end Sys2Proof.Machine
end

section
/-! PROOFS. Answers of other modules: replies and redirects reach the command that asked (R82, R95, R113, R273). -/

namespace Sys2Proof.Machine

open Sys2Proof

theorem exec_expandReply (h : MsgHead) (sender : Nat) (q : Ask) (a : Answer) (s : State) :
    exec (.expandReply h sender q a) s = act (tryMessage h 6 (takeReply sender q a)) s := rfl

theorem exec_gatherReply (h : MsgHead) (sender : Nat) (answers : List (Ask × Answer)) (s : State) :
    exec (.gatherReply h sender answers) s = act (onMessage h 2 (fun s => recordAnswers s sender answers)) s := rfl

theorem exec_redirect (h : MsgHead) (sender : Nat) (q : Ask) (owner index tide : Nat) (s : State) :
    exec (.redirect h sender q owner index tide) s = act (onMessage h 2 (takeRedirect h.peer sender q owner index tide)) s := rfl

/-! ## Replies (R82, R95) -/

theorem takeAnswer_tag (e : Entry) (q : Ask) (a : Answer) : (takeAnswer e q a).tag = e.tag := by
  unfold takeAnswer
  split <;> rfl

/-- An answer to a question asked and not yet answered whole is recorded. -/
theorem takeAnswer_of_asked {e : Entry} {q : Ask} (a : Answer) (hflight : inFlight e = true)
    (hasked : e.asked.any (fun x => decide (x.1 = q)) = true) (hopen : ∀ p ∈ e.answers, p.1 = q → p.2.last = false) :
    takeAnswer e q a = { e with answers := e.answers ++ [(q, a)] } := by
  have hnotLast : (e.answers.filter (fun p => decide (p.1 = q))).any (fun p => p.2.last) = false := by
    refine List.any_eq_false.mpr fun p hp => ?_
    obtain ⟨hmem, hq⟩ := List.mem_filter.mp hp
    simp [hopen p hmem (of_decide_eq_true hq)]
  rw [takeAnswer, hflight, hasked, hnotLast]
  rfl

/-- The entry of a tag after an answer is recorded for it. -/
theorem entryOf_recordAnswers {s : State} {tag : Nat} {e : Entry} (q : Ask) (a : Answer) (hentry : entryOf s tag = some e) :
    entryOf (recordAnswers s tag [(q, a)]) tag = some (takeAnswer e q a) :=
  (entryOf_setEntry s tag fun c hc => (takeAnswer_tag c q a).trans hc).trans (congrArg (Option.map _) hentry)

/-- A row that takes a message up and then changes tracking entries only. -/
theorem act_takes_setEntry {row : State → State} {s : State} {h : MsgHead} {tag : Nat} {f : Entry → Entry}
    (hrow : row s = setEntry (takeMessage s h) tag f) : ∃ t, act row s = .next t ∧ TakenUp t h ∧
      t.entries = (setEntry (takeMessage s h) tag f).entries ∧ t = { s with entries := t.entries, fab := t.fab } := by
  have htaken := (takeMessage_takesUp s h).fab_only
  refine ⟨_, act_eq_of_eq hrow ?_ ?_ ?_, takenUp_of_accepted (s := s) rfl, rfl, ?_⟩
  all_goals
    rw [htaken]
    rfl

/-- A row that takes a message up and records its answer. -/
theorem answer_recorded {row : State → State} {s : State} {h : MsgHead} {tag : Nat} {q : Ask} {e : Entry} {a : Answer}
    (hrow : row s = recordAnswers (takeMessage s h) tag [(q, a)]) (hentry : entryOf s tag = some e) (hflight : inFlight e = true)
    (hasked : e.asked.any (fun x => decide (x.1 = q)) = true) (hopen : ∀ p ∈ e.answers, p.1 = q → p.2.last = false) :
    ∃ t, act row s = .next t ∧ TakenUp t h ∧ entryOf t tag = some { e with answers := e.answers ++ [(q, a)] } ∧
      t = { s with entries := t.entries, fab := t.fab } := by
  obtain ⟨t, hnext, htaken, hentries, hframe⟩ := act_takes_setEntry hrow
  have hbefore : entryOf (takeMessage s h) tag = some e := (entryOf_congr (takeMessage_takesUp s h).entries_eq tag).trans hentry
  refine ⟨t, hnext, htaken, ?_, hframe⟩
  rw [entryOf_congr hentries, ← takeAnswer_of_asked a hflight hasked hopen]
  exact entryOf_recordAnswers q a hbefore

/-! ## Redirects (R113) -/

/-- An update of the owner directory is one write, or none. -/
theorem updateDirectory_stores (s : State) (table : Nat) (x : DirEntry) :
    updateDirectory s table x = s ∨ ∃ a l, updateDirectory s table x = storeBytes s a l := by
  unfold updateDirectory dirWrite
  simp only
  split
  · split
    · split
      · exact .inr ⟨_, _, rfl⟩
      · exact .inl rfl
    · exact .inl rfl
  · exact .inl rfl

theorem updateDirectory_merge (s : State) (table : Nat) (x : DirEntry) : MergeOnly s (updateDirectory s table x) := by
  obtain h | ⟨a, l, h⟩ := updateDirectory_stores s table x
  · rw [h]
    exact .refl s
  · rw [h]
    exact storeBytes_merge s a l

/-- Where no word has an error, it leaves the registers. -/
theorem updateDirectory_regs {s : State} (table : Nat) (x : DirEntry) (hclean : s.errs = []) : (updateDirectory s table x).regs = s.regs := by
  obtain h | ⟨a, l, h⟩ := updateDirectory_stores s table x
  · rw [h]
  · rw [h, storeBytes_clean a l hclean, pokeBytes_eq]

/-- What a redirect makes of the entry of the command that asked. -/
def redirected (q : Ask) (table row owner index : Nat) (e : Entry) : Entry :=
  { e with asked := e.asked.filter (fun x => decide (x.1 ≠ q)), notes := e.notes ||| 2 ^ 23,
           answers := (.takeRow table row, { plainAnswer with nums := [owner, index] }) :: e.answers }

theorem takeRedirect_of_asked {s : State} {tag table row : Nat} {q : Ask} {e : Entry} (peer owner index tide : Nat)
    (hentry : entryOf s tag = some e) (hflight : inFlight e = true) (hasked : e.asked.any (fun x => decide (x.1 = q)) = true)
    (hrow : askRow q = some (table, row)) : takeRedirect peer tag q owner index tide s =
      setEntry (updateDirectory s table ⟨row, tide, owner, peer, index⟩) tag (redirected q table row owner index) := by
  simp only [takeRedirect, hentry, hrow, hflight, hasked]
  rfl

/-- Settles O30: each row changes the entry of its tag, by one `setEntry` after the message is taken up. -/
theorem answersReachTheirCommand : Obligations.AnswersReachTheirCommand := by
  unfold Obligations.AnswersReachTheirCommand
  intro s h tag q e hentry hflight hasked
  refine ⟨fun a hopen => ⟨fun hfresh hsteps => ?_, fun hfresh => ?_⟩, fun table row owner index tide hrow hfresh => ?_⟩
  · have hnone : (takeMessage s h).steps.find? (fun x => decide (stepSender x.number = tag)) = none := by
      rw [(takeMessage_takesUp s h).fab_only]
      exact List.find?_eq_none.mpr fun x hx => by simpa using hsteps x hx
    exact exec_expandReply .. ▸ answer_recorded (tryMessage_of_fresh hfresh (by rw [takeReply, hnone])) hentry hflight hasked hopen
  · exact exec_gatherReply .. ▸ answer_recorded (onMessage_of_fresh _ hfresh) hentry hflight hasked hopen
  · have htaken := takeMessage_takesUp s h
    have hbefore : entryOf (takeMessage s h) tag = some e := (entryOf_congr htaken.entries_eq tag).trans hentry
    have heffect := (onMessage_of_fresh (takeRedirect h.peer tag q owner index tide) hfresh).trans
      (takeRedirect_of_asked h.peer owner index tide hbefore hflight hasked hrow)
    have hmerge := updateDirectory_merge (takeMessage s h) table ⟨row, tide, owner, h.peer, index⟩
    obtain ⟨t, hnext, hregs, -, -, hentries, hfab⟩ := act_leaves heffect
    refine ⟨t, (exec_redirect ..).trans hnext, takenUp_of_accepted (s := s) ?_, ?_, fun hclean => ?_⟩
    · rw [hfab]
      exact congrArg (fun u => u.fab.accepted) hmerge.1
    · have hdirectory : entryOf (updateDirectory (takeMessage s h) table ⟨row, tide, owner, h.peer, index⟩) tag = some e :=
        (entryOf_congr (by rw [hmerge.1]) tag).trans hbefore
      rw [entryOf_congr hentries, entryOf_setEntry _ tag (f := redirected q table row owner index) fun _ hc => hc, hdirectory]
      rfl
    · rw [hregs]
      exact (updateDirectory_regs table _ (by rw [htaken.fab_only]; exact hclean)).trans htaken.regs_eq

end Sys2Proof.Machine
end

section
/-! PROOFS. Executions whose state is known as they go: what they read in reach is what stands there, what they write stands there then, and
nothing is poisoned or corrected (R49, R229, R242, R371, R421). -/

namespace Sys2Proof.Machine

open Sys2Proof

/-! ## Executions from a known state -/

/-- An execution stands in state `t`, in the unit `k`, with nothing poisoned or corrected. -/
structure Stays (t : State) (k : Nat) (env : Env) : Prop where
  state : env.s = t
  engine : env.engine = k
  unpoisoned : env.poison = none
  uncorrected : env.corrected = false

section

variable {t : State} {k : Nat}

theorem stays_start (t : State) : Stays t 0 (Env.start t) := ⟨rfl, rfl, rfl, rfl⟩

theorem stays_runEnv (t : State) (e : Entry) : Stays t 0 (runEnv t e) := ⟨rfl, rfl, rfl, rfl⟩

/-- What only the environment's other records change. -/
theorem Stays.congr {env env' : Env} (h : Stays t k env) (hs : env'.s = env.s) (hengine : env'.engine = env.engine)
    (hpoison : env'.poison = env.poison) (hcorrected : env'.corrected = env.corrected) : Stays t k env' :=
  ⟨hs.trans h.state, hengine.trans h.engine, hpoison.trans h.unpoisoned, hcorrected.trans h.uncorrected⟩

/-- A command's execution in such a state, without armed rules, whose command is tracked. -/
theorem Stays.quiet {env : Env} {tag : Nat} {c : Entry} (h : Stays t k env) (hunarmed : t.undertow = []) (hc : entryOf t tag = some c)
    (hreruns : c.reruns = 0) : Quiet tag env := by
  obtain ⟨rfl, -, hpoison, hcorrected⟩ := h
  exact ⟨hunarmed, hpoison, hcorrected, c, hc, hreruns⟩

theorem Stays.readState : Ends (Stays t k) Cmd.state fun u env => Stays t k env ∧ u = t :=
  Ends.state.weaken fun _ _ h => ⟨h.1, h.2.trans h.1.state⟩

theorem Stays.update (f : State → State) : Ends (Stays t k) (Cmd.update f) fun _ => Stays (f t) k :=
  Ends.modify fun _ h => ⟨congrArg f h.state, h.engine, h.unpoisoned, h.uncorrected⟩

theorem Stays.declare (a n : Nat) : Keeps (Stays t k) (Cmd.declare a n) := Ends.modify fun _ h => h.congr rfl rfl rfl rfl

theorem Stays.note (b : Nat) : Keeps (Stays t k) (Cmd.note b) := Ends.modify fun _ h => h.congr rfl rfl rfl rfl

theorem Stays.enter (n : Nat) : Ends (Stays t k) (modify fun env => { env with engine := n }) fun _ => Stays t n :=
  Ends.modify fun _ h => ⟨h.state, rfl, h.unpoisoned, h.uncorrected⟩

theorem Stays.readEngine : Ends (Stays t k) (MonadState.get : Cmd Env) fun e env => Stays t k env ∧ e.engine = k :=
  Ends.get.weaken fun _ _ h => ⟨h.1, h.2 ▸ h.1.engine⟩

/-! ## Reads -/

theorem Stays.locate {a : Nat} {p : Located} (hp : Machine.locate t a = .ok p) (hheld : heldRegion t p.region = false) (hhost : p.region ≠ .host) :
    Ends (Stays t k) (Cmd.locate a) fun r env => Stays t k env ∧ r = p := by
  unfold Cmd.locate
  refine Ends.bind Ends.get fun e => ?_
  rintro env ⟨henv, rfl⟩
  obtain ⟨rfl, -⟩ := id henv
  refine ⟨p, { e with touched := e.touched || memoryUser p.region }, ?_, henv.congr rfl rfl rfl rfl, rfl⟩
  simp only [hp, hheld, hhost]
  rfl

theorem readByte_of_locate {a : Nat} {p : Located} (hp : Machine.locate t a = .ok p) : t.readByte a = byteAt t p.key := by
  rw [State.readByte, hp]

theorem Stays.readByteP {a : Nat} (ha : Reached t a) : Ends (Stays t k) (Cmd.readByteP a) fun b env => Stays t k env ∧ b = some (t.readByte a) := by
  obtain ⟨p, hp, hheld, hhost, hgood⟩ := ha
  unfold Cmd.readByteP
  refine Ends.bind_of_eq (Stays.locate hp hheld hhost) (Ends.bind Ends.get fun e => ?_)
  rintro env ⟨henv, rfl⟩
  refine ⟨some (byteAt t p.key), e, ?_, henv, congrArg some (readByte_of_locate hp).symm⟩
  rw [henv.state, hgood]
  rfl

theorem Stays.readBytesP : ∀ {n a : Nat}, reach t a n = true →
    Ends (Stays t k) (Cmd.readBytesP a n) fun l env => Stays t k env ∧ l = (peekBytes t a n).map some
  | 0, _, _ => Ends.pure fun _ h => ⟨h, rfl⟩
  | n + 1, a, h =>
    Ends.bind_of_eq (Stays.readByteP (reached_of_reach h (by omega) (by omega))) <|
      Ends.bind_of_eq (Stays.readBytesP (reach_iff.mpr fun _ hlow hhigh => reached_of_reach h (by omega) (by omega))) <|
        Ends.pure fun _ h => ⟨h, rfl⟩

theorem Stays.readP {a n : Nat} (h : reach t a n = true) :
    Ends (Stays t k) (Cmd.readP a n) fun l env => Stays t k env ∧ l = (peekBytes t a n).map some :=
  Keeps.bind (Ends.modify fun _ henv => henv.congr rfl rfl rfl rfl) fun _ => Stays.readBytesP h

theorem plainBytes_map_some : ∀ l : List Byte, plainBytes (l.map some) = some l
  | [] => rfl
  | b :: l => by simp [plainBytes, plainBytes_map_some l]

theorem Stays.read {a n : Nat} (h : reach t a n = true) :
    Ends (Stays t k) (Cmd.read a n) fun l env => Stays t k env ∧ l = peekBytes t a n := by
  unfold Cmd.read
  refine Ends.bind_of_eq (Stays.readP h) ?_
  simp only [plainBytes_map_some]
  exact Ends.pure fun _ h => ⟨h, rfl⟩

theorem Stays.readNat {a n : Nat} (h : reach t a n = true) :
    Ends (Stays t k) (Cmd.readNat a n) fun r env => Stays t k env ∧ r = leNat (peekBytes t a n) :=
  Ends.bind_of_eq (Stays.read h) (Ends.pure fun _ h => ⟨h, rfl⟩)

/-! ## Writes -/

/-- A location in reach is not in a fenced channel. -/
theorem not_fenced_of_good {p : Located} {st : Nat} (hgood : wordState t p = .good) (hregion : p.region = .hbm st) :
    fenced t st (p.key % 2 ^ 37) = false := by
  by_contra hne
  simp only [wordState, hregion, if_pos (Bool.not_eq_false _ ▸ hne)] at hgood
  cases hgood

theorem Stays.writable {a : Nat} {p : Located} (hp : Machine.locate t a = .ok p) (hheld : heldRegion t p.region = false)
    (hhost : p.region ≠ .host) (hgood : wordState t p = .good) : Ends (Stays t k) (Cmd.writable a) fun r env => Stays t k env ∧ r = p := by
  unfold Cmd.writable
  refine Ends.bind_of_eq (Stays.locate hp hheld hhost) (Ends.bind Ends.get fun e => ?_)
  rintro env ⟨henv, rfl⟩
  refine ⟨p, e, ?_, henv, rfl⟩
  cases hregion : p.region with
  | hbm st =>
    simp only [henv.state, not_fenced_of_good hgood hregion]
    rfl
  | _ => rfl

/-- What is in reach stays so where no word has an error pattern and the address map stands. -/
theorem reach_mapStands {u : State} (h : MapStands t u) (hclean : t.errs = []) {a n : Nat} (hreach : reach t a n = true) : reach u a n = true :=
  reach_iff.mpr fun _ hlow hhigh => h.reached hclean (reached_of_reach hreach hlow hhigh)

theorem pokeBytes_mapStands (t : State) (a : Nat) (l : List Byte) : MapStands t (pokeBytes t a l) := by
  rw [pokeBytes_eq]
  exact .of_eq rfl rfl rfl rfl

theorem Stays.writeBytes : ∀ {l : List Byte} {t : State} {a : Nat}, t.errs = [] → reach t a l.length = true →
    Ends (Stays t k) (Cmd.writeBytes a l) fun _ => Stays (pokeBytes t a l) k
  | [], _, _, _, _ => Ends.pure fun _ h => h
  | b :: l, t, a, hclean, h => by
    rw [List.length_cons] at h
    obtain ⟨p, hp, hheld, hhost, hgood⟩ := reached_of_reach h (Nat.le_refl a) (by omega)
    have hrest : reach (putByte t p.key b) (a + 1) l.length = true :=
      reach_mapStands (.of_eq rfl rfl rfl rfl) hclean (reach_iff.mpr fun _ hlow hhigh => reached_of_reach h (by omega) (by omega))
    rw [pokeBytes, hp]
    exact Ends.bind_of_eq (Stays.writable hp hheld hhost hgood) <|
      Ends.bind (Stays.update fun s => putByte s p.key b) fun _ => Stays.writeBytes hclean hrest

/-- Bytes written in reach, where no word has an error pattern and no rule is armed: they are stored and nothing else happens. -/
theorem Stays.write {a : Nat} {l : List Byte} (hclean : t.errs = []) (hunarmed : t.undertow = []) (h : reach t a l.length = true) :
    Ends (Stays t k) (Cmd.write a l) fun _ => Stays (pokeBytes t a l) k := by
  have hpoked : (pokeBytes t a l).undertow = [] := (pokeBytes_mapStands t a l).undertow.trans hunarmed
  unfold Cmd.write
  refine Keeps.bind (Ends.modify fun env henv => ?_) fun _ => Ends.bind (Stays.writeBytes hclean h) fun _ => Ends.modify fun env henv => ?_
  · obtain ⟨rfl, -⟩ := id henv
    exact henv.congr (by simp [settleWrite, hclean]) rfl rfl (by simp [mergeCorrects, hclean])
  · exact henv.congr (by simp [injectWrite, henv.state, hpoked]) rfl rfl rfl

end

/-! ## Lists of executions -/

/-- Each execution of a list of its own result. -/
theorem Ends.mapM {γ β : Type} {P : Env → Prop} {g : γ → Cmd β} {R : γ → β → Prop} : ∀ {l : List γ},
    (∀ x ∈ l, Ends P (g x) fun y env => P env ∧ R x y) → Ends P (l.mapM g) fun r env => P env ∧ List.Forall₂ R l r
  | [], _ => by
    rw [List.mapM_nil]
    exact Ends.pure fun _ h => ⟨h, .nil⟩
  | x :: l, h => by
    rw [List.mapM_cons]
    refine Ends.bind (h x (.head _)) fun y env henv => ?_
    obtain ⟨henv, hy⟩ := henv
    refine Ends.bind (Ends.mapM fun z hz => h z (.tail _ hz)) (fun r => Ends.pure fun _ hr => ?_) env henv
    exact ⟨hr.1, .cons hy hr.2⟩

/-- The results of a list of executions are as many. -/
theorem Keeps.mapM_length {γ β : Type} {P : Env → Prop} {g : γ → Cmd β} {l : List γ} (h : ∀ x ∈ l, Keeps P (g x)) :
    Ends P (l.mapM g) fun r env => P env ∧ r.length = l.length :=
  (Ends.mapM (R := fun _ _ => True) fun x hx => (h x hx).weaken fun _ _ h => ⟨h, trivial⟩).weaken fun _ _ h => ⟨h.1, h.2.length_eq.symm⟩

end Sys2Proof.Machine
end

section
/-! PROOFS. What a bay's sampler changes while it works: its registers (block 8), its cache, and what it leaves undefined of a deduplication
table; what is in reach stays so and what stands in HBM and skerry memory is read as before (R75, R88, R229). -/

namespace Sys2Proof.Machine

open Sys2Proof

/-! ## The state beside the samplers -/

/-- Outside block 8 the registers stand, with the address map, the commands, the graphs and the bytes of HBM and skerry memory. -/
structure SamplerStands (s t : State) : Prop where
  reg : ∀ off, blockOf off ≠ 8 → t.reg off = s.reg off
  pci : t.pci = s.pci
  errs : s.errs = [] → t.errs = []
  undertow : t.undertow = s.undertow
  entries : t.entries = s.entries
  graphs : t.graphs = s.graphs
  bytes : ∀ key, key < 0x400000000000 → byteAt t key = byteAt s key

theorem SamplerStands.refl (s : State) : SamplerStands s s := ⟨fun _ _ => rfl, rfl, id, rfl, rfl, rfl, fun _ _ => rfl⟩

theorem SamplerStands.trans {s t u : State} (first : SamplerStands s t) (second : SamplerStands t u) : SamplerStands s u :=
  ⟨fun off h => (second.reg off h).trans (first.reg off h), second.pci.trans first.pci, fun h => second.errs (first.errs h),
    second.undertow.trans first.undertow, second.entries.trans first.entries, second.graphs.trans first.graphs,
    fun key h => (second.bytes key h).trans (first.bytes key h)⟩

section

variable {s t : State} (h : SamplerStands s t)
include h

/-- The registers of memory stand. -/
theorem SamplerStands.memory_reg {off : Nat} (hlow : 0x50000 ≤ off) (hhigh : off < 0x60000) : t.reg off = s.reg off :=
  h.reg off (by unfold blockOf; omega)

theorem SamplerStands.windowOf_eq (a : Nat) : windowOf t a = windowOf s a := by
  refine List.find?_congr fun w hw => ?_
  obtain ⟨-, hlt⟩ := mem_seqFrom.mp hw
  have hpair {off : Nat} (hlow : 0x50000 ≤ off) (hhigh : off < 0x50010) : t.pair (off + 0x20 * w) = s.pair (off + 0x20 * w) := by
    unfold State.pair
    rw [h.memory_reg (by omega) (by omega), h.memory_reg (by omega) (by omega)]
  have hbase : t.pair (Reg.PLACE_WIN_BASE_LO w) = s.pair (Reg.PLACE_WIN_BASE_LO w) := hpair (by decide) (by decide)
  have hlimit : t.pair (Reg.PLACE_WIN_LIMIT_LO w) = s.pair (Reg.PLACE_WIN_LIMIT_LO w) := hpair (by decide) (by decide)
  unfold winLoaded winBase winEnd
  rw [hbase, hlimit, bitAt_congr (h.memory_reg (by decide) (by decide))]

/-- Where a window places an address. -/
theorem SamplerStands.place_eq {w : Nat} (a : Nat) (hw : w < 16) :
    place (a - winBase t w) (winMode t w) (winStack t w) (winPbase t w) =
      place (a - winBase s w) (winMode s w) (winStack s w) (winPbase s w) := by
  have hreg {off : Nat} (hlow : 0x50000 ≤ off) (hhigh : off < 0x50020) : t.reg (off + 0x20 * w) = s.reg (off + 0x20 * w) :=
    h.memory_reg (by omega) (by omega)
  have hpair {off : Nat} (hlow : 0x50000 ≤ off) (hhigh : off + 4 < 0x50020) : t.pair (off + 0x20 * w) = s.pair (off + 0x20 * w) := by
    rw [State.pair, State.pair, hreg hlow (by omega), Nat.add_right_comm off, hreg (by omega) hhigh]
  simp only [winBase, winMode, winStack, winPbase, State.fieldAt, hpair (off := 0x50000) (by decide) (by decide),
    hpair (off := 0x50010) (by decide) (by decide), hreg (off := 0x50018) (by decide) (by decide),
    hreg (off := 0x5001c) (by decide) (by decide)]

theorem SamplerStands.locate_eq (a : Nat) : locate t a = locate s a := by
  by_cases hhbm : a < 0x009000000000
  · simp only [locate, if_pos hhbm, h.windowOf_eq]
    cases hw : windowOf s a with
    | none => rfl
    | some w =>
      obtain ⟨-, hlt⟩ := mem_seqFrom.mp (List.mem_of_find?_eq_some hw)
      have hstack : (place (a - winBase s w) (winMode s w) (winStack s w) (winPbase s w)).1 ≤ 8 := place_le _ _ _ _ (fld_lt _ _ _)
      simp only [h.place_eq a (by omega : w < 16)]
      generalize place (a - winBase s w) (winMode s w) (winStack s w) (winPbase s w) = p at hstack
      have hcapacity : stackCapacity t p.1 = stackCapacity s p.1 :=
        congrArg (fld · 16 0 * 2 ^ 20) (h.memory_reg (by unfold Reg.STACK_CAPACITY; omega) (by unfold Reg.STACK_CAPACITY; omega))
      rw [hcapacity]
  · have hbay (b : Nat) : bayEnabled t b = bayEnabled s b := bitAt_congr (h.reg Reg.BAY_ENABLE_MASK (by decide)) b
    simp only [locate, if_neg hhbm, hbay, h.pci]

theorem SamplerStands.fenced_eq {st : Nat} (hst : st ≤ 8) (l : Nat) : fenced t st l = fenced s st l := by
  have hstate : t.fieldAt (Reg.STACK_STATE st) 2 0 = s.fieldAt (Reg.STACK_STATE st) 2 0 :=
    congrArg (fld · 2 0) (h.memory_reg (by unfold Reg.STACK_STATE; omega) (by unfold Reg.STACK_STATE; omega))
  have hchannels (i : Nat) : t.bitAt (Reg.STACK_CHANNELS st) i = s.bitAt (Reg.STACK_CHANNELS st) i :=
    bitAt_congr (h.memory_reg (by unfold Reg.STACK_CHANNELS; omega) (by unfold Reg.STACK_CHANNELS; omega)) i
  simp only [fenced, channelOf, liveChannels, hstate, hchannels]

theorem SamplerStands.wordState_eq (hclean : s.errs = []) {a : Nat} {p : Located} (hp : locate s a = .ok p) : wordState t p = wordState s p := by
  obtain ⟨key, r⟩ := p
  cases r with
  | hbm st =>
    simp only [wordState, errorsAt_clean hclean, errorsAt_clean (h.errs hclean), h.fenced_eq (locate_stack hp rfl),
      bitAt_congr (h.memory_reg (off := Reg.HBM_ECC_MODE) (by decide) (by decide))]
  | skerry => rw [wordState_skerry hclean, wordState_skerry (h.errs hclean)]
  | scratchpad n => simp only [wordState, errorsAt_clean hclean, errorsAt_clean (h.errs hclean)]
  | shelf b => simp only [wordState, errorsAt_clean hclean, errorsAt_clean (h.errs hclean)]
  | host => simp only [wordState, errorsAt_clean hclean, errorsAt_clean (h.errs hclean)]

theorem SamplerStands.reach_of (hclean : s.errs = []) {a n : Nat} (hreach : reach s a n = true) : reach t a n = true := by
  refine reach_iff.mpr fun x hlow hhigh => ?_
  obtain ⟨p, hp, hheld, hhost, hgood⟩ := reached_of_reach hreach hlow hhigh
  refine ⟨p, (h.locate_eq x).trans hp, ?_, hhost, (h.wordState_eq hclean hp).trans hgood⟩
  cases hregion : p.region with
  | hbm st => exact (bitAt_congr (h.memory_reg (off := Reg.HBM_HOLD) (by decide) (by decide)) st).trans (by rwa [hregion] at hheld)
  | _ => rfl

omit h in
/-- The locations of HBM and skerry memory. -/
theorem key_lt_of_store {a : Nat} {p : Located} (ha : a < 0x020000000000) (hp : locate s a = .ok p) : p.key < 0x400000000000 := by
  by_cases hhbm : a < 0x009000000000
  · simp only [locate, if_pos hhbm] at hp
    split at hp
    · cases hp
    · next w _ =>
      have hstack : (place (a - winBase s w) (winMode s w) (winStack s w) (winPbase s w)).1 ≤ 8 := place_le _ _ _ _ (fld_lt _ _ _)
      split at hp
      · next hcapacity =>
        have hfield := fld_lt (s.reg (Reg.STACK_CAPACITY (place (a - winBase s w) (winMode s w) (winStack s w) (winPbase s w)).1)) 16 0
        rw [← Except.ok.inj hp]
        unfold stackCapacity State.fieldAt at hcapacity
        dsimp only
        omega
      · cases hp
  · by_cases hgap : a < 0x010000000000
    · simp [locate, hhbm, hgap] at hp
    · rw [locate_skerry s (by omega) ha] at hp
      rw [← Except.ok.inj hp]
      dsimp only
      omega

theorem SamplerStands.readByte_eq {a : Nat} (ha : a < 0x020000000000) : t.readByte a = s.readByte a := by
  unfold State.readByte
  rw [h.locate_eq]
  cases hp : locate s a with
  | error d => rfl
  | ok p => exact h.bytes p.key (key_lt_of_store ha hp)

theorem SamplerStands.peekBytes_eq : ∀ {n a : Nat}, a + n ≤ 0x020000000000 → peekBytes t a n = peekBytes s a n
  | 0, _, _ => rfl
  | n + 1, a, ha => by rw [peekBytes, peekBytes, h.readByte_eq (by omega), SamplerStands.peekBytes_eq (by omega)]

theorem SamplerStands.ownId_eq : ownId t = ownId s := congrArg (fld · 11 0) (h.reg _ (by decide))

theorem SamplerStands.graphDesc_eq (graph : Nat) : graphDesc t graph = graphDesc s graph := by unfold graphDesc; rw [h.graphs]

end

/-! ## What the sampler does -/

theorem setReg_samplerStands (s : State) {off : Nat} (w : Word) (hoff : blockOf off = 8) : SamplerStands s (s.setReg off w) :=
  ⟨fun _ h => reg_setReg_ne s w fun heq => h (heq ▸ hoff), rfl, id, rfl, rfl, rfl, fun _ _ => rfl⟩

theorem count64_samplerStands (s : State) {off : Nat} (n : Nat) (hlow : 0x80000 ≤ off) (hhigh : off + 4 < 0x90000) :
    SamplerStands s (s.count64 off n) :=
  (setReg_samplerStands s _ (by unfold blockOf; omega)).trans (setReg_samplerStands _ _ (by unfold blockOf; omega))

theorem fillCache_samplerStands (s : State) (bay graph node : Nat) (g : List Byte) (d : Nat) :
    SamplerStands s (fillCache s bay graph node g d) := by
  unfold fillCache
  simp only
  split
  · exact ⟨fun _ _ => rfl, rfl, id, rfl, rfl, rfl, fun _ _ => rfl⟩
  · split
    · exact ⟨fun _ _ => rfl, rfl, id, rfl, rfl, rfl, fun _ _ => rfl⟩
    · exact .refl s

theorem noteRow_samplerStands (s : State) {bay : Nat} (graph node : Nat) (g : List Byte) (d : Nat) (hbay : bay ≤ 8) :
    SamplerStands s (noteRow s bay graph node g d) := by
  refine SamplerStands.trans ?_ (fillCache_samplerStands ..)
  refine setReg_samplerStands s _ ?_
  unfold blockOf Reg.SAMPLE_BAY_CTR_ROW_HITS Reg.SAMPLE_BAY_CTR_ROW_MISSES
  split <;> omega

/-- Where an address lies: in HBM or skerry memory, or, from the scratchpads up, at its own location. -/
theorem locate_cases {s : State} {a : Nat} {p : Located} (h : locate s a = .ok p) :
    (a < 0x020000000000 ∧ ((∃ st, p.region = .hbm st) ∨ p.region = .skerry)) ∨
    (0x400000000000 ≤ a ∧ p.key = a ∧ ((∃ n, n < 512 ∧ p.region = .scratchpad n) ∨ (∃ b, b < 8 ∧ p.region = .shelf b) ∨ p.region = .host)) := by
  unfold locate at h
  simp only at h
  repeat' split at h
  all_goals cases h
  · exact .inl ⟨by omega, .inl ⟨_, rfl⟩⟩
  · exact .inl ⟨by omega, .inr rfl⟩
  · exact .inr ⟨by omega, rfl, .inl ⟨_, by omega, rfl⟩⟩
  · exact .inr ⟨by omega, rfl, .inr (.inl ⟨_, by omega, rfl⟩)⟩
  · exact .inr ⟨by omega, rfl, .inr (.inr rfl)⟩

/-- The bay of an address is one of nine numbers. -/
theorem bayOfAddr_le (s : State) (a : Nat) : bayOfAddr s a ≤ 8 := by
  unfold bayOfAddr
  split
  · next st h => exact locate_stack h rfl
  · next n h =>
    obtain ⟨-, -, hn⟩ : 0x400000000000 ≤ a ∧ _ = a ∧ n < 512 := by simpa using locate_cases h
    omega
  · next b h =>
    obtain ⟨-, -, hb⟩ : 0x400000000000 ≤ a ∧ _ = a ∧ b < 8 := by simpa using locate_cases h
    omega
  · omega

/-! ## The deduplication table (R75) -/

/-- A key that a filter by keys keeps reads as before. -/
theorem Sparse.get_filter {β : Type} (d : Nat → β) (q : Nat → Bool) {key : Nat} (hkey : q key = true) : ∀ l : List (Nat × β),
    Sparse.get d (l.filter fun p => q p.1) key = Sparse.get d l key
  | [] => rfl
  | (a, v) :: l => by
    have ih := Sparse.get_filter d q hkey l
    by_cases ha : q a = true
    · simp only [List.filter_cons, ha, if_true, Sparse.get, ih]
    · have hne : key ≠ a := fun heq => ha (heq ▸ hkey)
      simp only [List.filter_cons, ha, Sparse.get, hne, if_false]
      exact ih

theorem byteAt_putUndef {s : State} {lo hi key : Nat} (h : key < lo ∨ hi ≤ key) : byteAt (putUndef s lo hi) key = byteAt s key := by
  unfold putUndef
  split
  · have hkept := Sparse.get_filter memDefault (fun a => decide (a < lo) || decide (hi ≤ a)) (by simpa using h) s.mem
    rw [byteAt_seed, byteAt_seed]
    simp only [undefSeed_cons, undefSeed_cut, if_neg (show ¬ (lo ≤ key ∧ key < hi) by omega), hkept]
  · rfl

theorem putUndef_samplerStands (s : State) {lo : Nat} (hi : Nat) (hlo : 0x400000000000 ≤ lo) : SamplerStands s (putUndef s lo hi) := by
  obtain ⟨-, hpci, herrs, hundertow⟩ := putUndef_mapStands s lo hi
  refine ⟨fun off _ => ?_, hpci, herrs, hundertow, putUndef_entries s lo hi, ?_, fun key hkey => byteAt_putUndef (by omega)⟩
  all_goals
    unfold putUndef
    split <;> rfl

/-- Device locations in the scratchpads or shelves left undefined. -/
theorem undefDevice_samplerStands : ∀ (fuel : Nat) (s : State) (a n : Nat), 0x400000000000 ≤ a → SamplerStands s (undefDevice s a n fuel)
  | 0, s, _, _, _ => .refl s
  | fuel + 1, s, a, n, ha => by
    unfold undefDevice
    split
    · exact .refl s
    · refine SamplerStands.trans ?_ (undefDevice_samplerStands fuel _ _ _ (by omega))
      split
      · next p hp =>
        obtain ⟨hlow, -⟩ | ⟨-, hkey, -⟩ := locate_cases hp
        · omega
        · exact putUndef_samplerStands s _ (by omega)
      · exact .refl s

/-- A deduplication table lies in the scratchpads or the shelves. -/
theorem dedupOk_low {s : State} {a n : Nat} (h : dedupOk s a n = true) : 0x400000000000 ≤ a := by
  unfold dedupOk at h
  split at h
  · next hp => exact ((locate_cases hp).resolve_left (by simp)).1
  · next hp => exact ((locate_cases hp).resolve_left (by simp)).1
  · cases h

end Sys2Proof.Machine
end

section
/-! PROOFS. The sampler's work on a node of this shard whose row is well formed and in reach: the row read, positions selected in it, a step of
an unbiased walk (R68, R71 to R73, R75, R82, R84, R88). -/

namespace Sys2Proof.Machine

open Sys2Proof

/-! ## Draws (R72, R166) -/

/-- The words of a generator's state from which an index is drawn, with those that they depend on, are words of 32 bits. -/
structure GenWords (g : GenState) : Prop where
  c0 : g.c0 < 2 ^ 32
  c1 : g.c1 < 2 ^ 32
  k0 : g.k0 < 2 ^ 32
  k1 : g.k1 < 2 ^ 32

theorem genRound_words {g : GenState} (h : GenWords g) : GenWords (genRound g) :=
  have hmod (n : Nat) : n % 2 ^ 32 < 2 ^ 32 := Nat.mod_lt n (by decide)
  ⟨Nat.xor_lt_two_pow (hmod _) h.k1, Nat.xor_lt_two_pow (hmod _) h.k0, hmod _, hmod _⟩

theorem genRounds_words : ∀ (n : Nat) {g : GenState}, GenWords g → GenWords (genRounds n g)
  | 0, _, h => h
  | n + 1, _, h => genRounds_words n (genRound_words h)

theorem tideGen_words (k0 k1 c0 c1 c2 c3 : Nat) : GenWords (tideGen k0 k1 c0 c1 c2 c3) :=
  have hmod (n : Nat) : n % 2 ^ 32 < 2 ^ 32 := Nat.mod_lt n (by decide)
  genRounds_words 10 ⟨hmod _, hmod _, hmod _, hmod _⟩

/-- An index drawn in [0, n). -/
theorem drawIndex_lt {g : GenState} (h : GenWords g) {n : Nat} (hn : 0 < n) : drawIndex g n < n := by
  obtain ⟨h0, h1, -, -⟩ := h
  refine Nat.div_lt_of_lt_mul ?_
  exact Nat.mul_lt_mul_of_pos_right (by omega) hn

theorem sampleDraw_words (k0 k1 field node c0 : Nat) : GenWords (sampleDraw k0 k1 field node c0) := tideGen_words ..

/-! ## Selections (R73) -/

theorem mem_insertAsc {x y : Nat} : ∀ {l : List Nat}, y ∈ insertAsc x l → y = x ∨ y ∈ l
  | [], h => .inl (List.mem_singleton.mp h)
  | z :: l, h => by
    unfold insertAsc at h
    split at h
    · exact List.mem_cons.mp h
    · obtain rfl | h := List.mem_cons.mp h
      · exact .inr (.head _)
      · exact (mem_insertAsc h).imp_right (.tail _)

theorem length_insertAsc (x : Nat) : ∀ l : List Nat, (insertAsc x l).length = l.length + 1
  | [] => rfl
  | y :: l => by
    unfold insertAsc
    split
    · rfl
    · rw [List.length_cons, length_insertAsc x l, List.length_cons]

/-- One draw of Floyd's algorithm, for the position `j` of a row whose last positions begin at `base`. -/
def floydStep (base : Nat) (draw : Nat → GenState) (chosen : List Nat) (j : Nat) : List Nat :=
  let t := drawIndex (draw (j - base)) (j + 1)
  insertAsc (if chosen.contains t then j else t) chosen

theorem floyd_eq (d f : Nat) (draw : Nat → GenState) : floyd d f draw = (seqFrom (d - f) f).foldl (floydStep (d - f) draw) [] := rfl

theorem length_floydStep (base : Nat) (draw : Nat → GenState) (chosen : List Nat) (j : Nat) :
    (floydStep base draw chosen j).length = chosen.length + 1 := length_insertAsc ..

/-- A draw adds a position up to `j`. -/
theorem mem_floydStep {base j p : Nat} {draw : Nat → GenState} {chosen : List Nat} (hdraw : ∀ i, GenWords (draw i))
    (h : p ∈ floydStep base draw chosen j) : p ≤ j ∨ p ∈ chosen := by
  have hdrawn : drawIndex (draw (j - base)) (j + 1) < j + 1 := drawIndex_lt (hdraw _) (Nat.succ_pos j)
  refine (mem_insertAsc h).imp_left fun heq => ?_
  split at heq <;> omega

/-- Floyd's algorithm selects as many positions as it is asked for, all in the row. -/
theorem floyd_positions {d f : Nat} {draw : Nat → GenState} (hdraw : ∀ i, GenWords (draw i)) (hfd : f ≤ d) :
    (floyd d f draw).length = f ∧ ∀ p ∈ floyd d f draw, p < d := by
  have hfold (base : Nat) : ∀ (l chosen : List Nat), (∀ j ∈ l, j < d) → (∀ p ∈ chosen, p < d) →
      (l.foldl (floydStep base draw) chosen).length = chosen.length + l.length ∧ ∀ p ∈ l.foldl (floydStep base draw) chosen, p < d := by
    intro l
    induction l with
    | nil => exact fun chosen _ h => ⟨rfl, h⟩
    | cons j l ih =>
      intro chosen hl hchosen
      obtain ⟨hlength, hmem⟩ := ih (floydStep base draw chosen j) (fun i hi => hl i (.tail _ hi)) fun p hp =>
        (mem_floydStep hdraw hp).elim (fun h => h.trans_lt (hl j (.head _))) (hchosen p)
      refine ⟨?_, hmem⟩
      rw [List.foldl_cons, hlength, length_floydStep, List.length_cons]
      omega
  obtain ⟨hlength, hmem⟩ := hfold (d - f) (seqFrom (d - f) f) [] (fun j hj => by have := mem_seqFrom.mp hj; omega) nofun
  rw [floyd_eq]
  exact ⟨by simpa [length_seqFrom] using hlength, hmem⟩

/-- The modes without weights select at most the fanout, in the row, and read nothing. -/
theorem select_ends {P : Env → Prop} {draw : Nat → GenState} (g : List Byte) (lo d : Nat) {mode : Nat} (f : Nat) (capRule : Bool)
    (hmode : mode ∈ [0, 1, 4]) (hdraw : ∀ i, GenWords (draw i)) :
    Ends P (Cmd.select g lo d mode f capRule draw) fun r env => P env ∧ r.1.length ≤ f ∧ ∀ p ∈ r.1, p < d := by
  have hall (n : Nat) : (seqFrom 0 n).length ≤ n ∧ ∀ p ∈ seqFrom 0 n, p < n :=
    ⟨(length_seqFrom n 0).le, fun p hp => by simpa using (mem_seqFrom.mp hp).2⟩
  have hends {l : List Nat} {flags : Nat} (hl : l.length ≤ f ∧ ∀ p ∈ l, p < d) :
      Ends P (pure (l, flags) : Cmd (List Nat × Nat)) fun r env => P env ∧ r.1.length ≤ f ∧ ∀ p ∈ r.1, p < d :=
    Ends.pure fun _ h => ⟨h, hl⟩
  have hwhole (hdf : d ≤ f) : (seqFrom 0 d).length ≤ f ∧ ∀ p ∈ seqFrom 0 d, p < d := ⟨(hall d).1.trans hdf, (hall d).2⟩
  have hfloyd (hdf : ¬ d ≤ f) : (floyd d f draw).length ≤ f ∧ ∀ p ∈ floyd d f draw, p < d := by
    obtain ⟨hlength, hmem⟩ := floyd_positions hdraw (show f ≤ d by omega)
    exact ⟨hlength.le, hmem⟩
  simp only [List.mem_cons, List.not_mem_nil, or_false] at hmode
  obtain rfl | rfl | rfl := hmode
  · refine hends ?_
    split
    · exact ⟨Nat.zero_le _, nofun⟩
    · refine ⟨by simp [length_seqFrom], fun p hp => ?_⟩
      obtain ⟨i, -, rfl⟩ := List.mem_map.mp hp
      exact drawIndex_lt (hdraw i) (by omega)
  · refine hends ?_
    split
    · exact hwhole ‹_›
    · exact hfloyd ‹_›
  · show Ends P (if d ≤ f then pure (seqFrom 0 d, 0) else pure (if capRule then floyd d f draw else seqFrom 0 f, 1)) _
    split
    · exact hends (hwhole ‹_›)
    · refine hends ?_
      split
      · exact hfloyd ‹_›
      · exact ⟨(hall f).1, fun p hp => by have := (hall f).2 p hp; omega⟩

/-! ## Rows (R68) -/

/-- A node of this shard whose row is well formed and lies in reach, by name. -/
structure NodeReady (t : State) (g : List Byte) (node : Nat) : Prop where
  own : shardOf node = ownId t
  inside : localOf node < leAt g 32 8
  pointersReach : reach t (leAt g 0 8 + 8 * localOf node) 16 = true
  pointersStore : leAt g 0 8 + 8 * localOf node + 16 ≤ 0x020000000000
  ordered : (rowBounds t g node).1 ≤ (rowBounds t g node).2
  degree : degreeOf t g node < 2 ^ 32
  edges : (rowBounds t g node).2 ≤ leAt g 40 8
  columnsReach : reach t (leAt g 8 8 + 6 * (rowBounds t g node).1) (6 * degreeOf t g node) = true

theorem nodeReady_of {t : State} {g : List Byte} {node : Nat} (h : nodeReady t g node = true) : NodeReady t g node := by
  simp only [nodeReady, storeReach, Bool.and_eq_true, decide_eq_true_eq] at h
  obtain ⟨⟨⟨⟨⟨⟨hown, hinside⟩, hpointers, hstore⟩, hordered⟩, hdegree⟩, hedges⟩, hcolumns, -⟩ := h
  exact ⟨hown, hinside, hpointers, hstore, hordered, hdegree, hedges, hcolumns⟩

theorem SamplerStands.rowBounds_eq {s t : State} (h : SamplerStands s t) {g : List Byte} {node : Nat} (hnode : NodeReady s g node) :
    rowBounds t g node = rowBounds s g node := by
  have hstore := hnode.pointersStore
  rw [rowBounds, rowBounds, h.peekBytes_eq (by omega), h.peekBytes_eq (by omega)]

theorem SamplerStands.degreeOf_eq {s t : State} (h : SamplerStands s t) {g : List Byte} {node : Nat} (hnode : NodeReady s g node) :
    degreeOf t g node = degreeOf s g node := by rw [degreeOf, degreeOf, h.rowBounds_eq hnode]

theorem NodeReady.stands {s t : State} {g : List Byte} {node : Nat} (hnode : NodeReady s g node) (h : SamplerStands s t)
    (hclean : s.errs = []) : NodeReady t g node where
  own := hnode.own.trans h.ownId_eq.symm
  inside := hnode.inside
  pointersReach := h.reach_of hclean hnode.pointersReach
  pointersStore := hnode.pointersStore
  ordered := by rw [h.rowBounds_eq hnode]; exact hnode.ordered
  degree := by rw [h.degreeOf_eq hnode]; exact hnode.degree
  edges := by rw [h.rowBounds_eq hnode]; exact hnode.edges
  columnsReach := by rw [h.rowBounds_eq hnode, h.degreeOf_eq hnode]; exact h.reach_of hclean hnode.columnsReach

theorem reach_part {t : State} {a n b m : Nat} (h : reach t a n = true) (hlow : a ≤ b) (hhigh : b + m ≤ a + n) : reach t b m = true :=
  reach_iff.mpr fun _ _ _ => reached_of_reach h (by omega) (by omega)

section

variable {t : State} {k : Nat} {g : List Byte} {node : Nat} (hnode : NodeReady t g node)
include hnode

theorem rowOf_ends : Ends (Stays t k) (Cmd.rowOf g node) fun r env =>
    Stays t k env ∧ r = ((rowBounds t g node).1, degreeOf t g node) := by
  have hordered := hnode.ordered
  have hdegree := hnode.degree
  have hedges := hnode.edges
  simp only [degreeOf, rowBounds] at hordered hdegree hedges
  unfold Cmd.rowOf
  rw [if_neg (Nat.not_le.mpr hnode.inside)]
  refine Ends.bind_of_eq (Stays.readNat (reach_part hnode.pointersReach (by omega) (by omega))) ?_
  refine Ends.bind_of_eq (Stays.readNat (reach_part hnode.pointersReach (by omega) (by omega))) ?_
  rw [if_neg (Nat.not_lt.mpr hordered), if_neg (Nat.not_le.mpr hdegree), if_neg (Nat.not_lt.mpr hedges)]
  exact Ends.pure fun _ h => ⟨h, rfl⟩

theorem column_ends {p : Nat} (hp : p < degreeOf t g node) : Keeps (Stays t k) (Cmd.column g ((rowBounds t g node).1 + p)) :=
  (Stays.readNat (reach_part hnode.columnsReach (by omega) (by omega))).weaken fun _ _ h => h.1

end

/-! ## Nodes expanded and steps taken -/

section

variable {t : State} {k graph : Nat} {g : List Byte} {node : Nat} (hgraph : graphDesc t graph = some g) (hnode : NodeReady t g node)
include hgraph hnode

/-- A node expanded: at most the fanout of neighbours, without weights, and its row and edges counted. -/
theorem expandLocal_ends (bay k0 k1 hop : Nat) {mode : Nat} (f : Nat) (capRule : Bool) (hmode : mode ∈ [0, 1, 4]) :
    Ends (Stays t k) (Cmd.expandLocal bay graph k0 k1 hop mode f capRule false node) fun a env =>
      (∃ n, Stays ((noteRow t bay graph node g (degreeOf t g node)).count64 (Reg.SAMPLE_BAY_CTR_EDGES_LO bay) n) k env) ∧
      a.nums.length ≤ f ∧ a.weights = [] := by
  unfold Cmd.expandLocal
  refine Ends.bind_of_eq Stays.readState ?_
  simp only [hgraph]
  refine Ends.bind_of_eq (rowOf_ends hnode) ?_
  refine Ends.bind (select_ends g _ _ f capRule hmode (sampleDraw_words k0 k1 (hop * 16) node)) fun r => ?_
  obtain ⟨pos, flags⟩ := r
  refine Ends.assume (φ := pos.length ≤ f ∧ ∀ p ∈ pos, p < degreeOf t g node) (fun _ h => h.2) fun hpos => ?_
  refine Ends.strengthen (fun _ h => h.1) ?_
  refine Ends.bind (Keeps.mapM_length fun p hp => column_ends hnode (hpos.2 p hp)) fun ids => ?_
  refine Ends.assume (φ := ids.length = pos.length) (fun _ h => h.2) fun hids => Ends.strengthen (fun _ h => h.1) ?_
  refine Ends.bind_of_eq (a := []) (Ends.pure fun _ h => ⟨h, rfl⟩) ?_
  refine Ends.bind (Stays.update fun s => (noteRow s bay graph node g (degreeOf t g node)).count64 _ pos.length) fun _ => ?_
  exact Ends.pure fun _ h => ⟨⟨_, h⟩, by rw [hids]; exact hpos.1, rfl⟩

/-- A step of an unbiased walk at a node with neighbours: the first attempt is taken. -/
theorem stepLocal_ends {bay : Nat} (hbay : bay ≤ 8) (hclean : t.errs = []) (hdegree : 0 < degreeOf t g node) (k0 k1 walk start n p q : Nat) :
    Ends (Stays t k) (Cmd.stepLocal bay graph k0 k1 walk start n node none p q) fun a env =>
      Stays ((noteRow t bay graph node g (degreeOf t g node)).count64 (Reg.SAMPLE_BAY_CTR_EDGES_LO bay) 1) k env ∧ ∃ x, a.nums = [x, 0] := by
  have hstands := noteRow_samplerStands t graph node g (degreeOf t g node) hbay
  unfold Cmd.stepLocal
  refine Ends.bind_of_eq Stays.readState ?_
  simp only [hgraph]
  refine Ends.bind_of_eq (rowOf_ends hnode) ?_
  refine Ends.bind (Stays.update fun s => noteRow s bay graph node g (degreeOf t g node)) fun _ => ?_
  rw [if_neg (by omega)]
  simp only [Cmd.attempts, pure_bind, bind_assoc]
  have hdraw := drawIndex_lt (sampleDraw_words k0 k1 (0xF0 + walk) start (n * 256 + 0)) hdegree
  have hcolumn := column_ends (k := k) (hnode.stands hstands hclean)
    (p := drawIndex (sampleDraw k0 k1 (0xF0 + walk) start (n * 256 + 0)) (degreeOf t g node)) (by rwa [hstands.degreeOf_eq hnode])
  rw [hstands.rowBounds_eq hnode] at hcolumn
  refine hcolumn.bind fun x => ?_
  refine Ends.bind (Stays.update fun s => s.count64 (Reg.SAMPLE_BAY_CTR_EDGES_LO bay) 1) fun _ => ?_
  exact Ends.pure fun _ h => ⟨h, x, rfl⟩

end

end Sys2Proof.Machine
end

section
/-! PROOFS. Executions that serve a request of another module, and what one leaves that only counts (R82, R95, R108, R274). -/

namespace Sys2Proof.Machine

open Sys2Proof

/-! ## States that read alike -/

section

variable {s t : State} (h : ReadAlike s t)
include h

theorem ReadAlike.reach_eq (a n : Nat) : reach t a n = reach s a n := by
  have hheld (r : Region) : heldRegion t r = heldRegion s r := by
    cases r with
    | hbm st => exact h.bitAt_eq _ st
    | _ => rfl
  simp only [reach, h.locate_eq, hheld, h.wordState_eq]

theorem ReadAlike.rowBounds_eq (g : List Byte) (node : Nat) : rowBounds t g node = rowBounds s g node := by
  simp only [rowBounds, h.peekBytes_eq]

theorem ReadAlike.ownId_eq : ownId t = ownId s := h.fieldAt_eq ..

theorem ReadAlike.nodeReady_eq (g : List Byte) (node : Nat) : nodeReady t g node = nodeReady s g node := by
  simp only [nodeReady, storeReach, h.rowBounds_eq, h.reach_eq, h.ownId_eq]

theorem ReadAlike.mapEntry_eq (d : List Byte) (i : Nat) : mapEntry t d i = mapEntry s d i := by
  simp only [mapEntry, h.peekBytes_eq]

theorem ReadAlike.rowReady_eq (d : List Byte) (row : Nat) : rowReady t d row = rowReady s d row := by
  unfold rowReady storeReach rowAddr
  dsimp only
  rw [h.ownId_eq, h.mapEntry_eq, h.reach_eq, h.reach_eq]

end

theorem TakesUp.readAlike {s t : State} (h : TakesUp s t) : ReadAlike s t :=
  ⟨h.regs_eq, h.pci_eq, h.mem_eq, h.undef_eq, by rw [h]⟩

/-! ## An answer served -/

/-- An execution from a state that reaches its end gives its answer; the replay records of what it wrote end. -/
theorem serveAnswer_of_ends {s : State} {c : Cmd Answer} {Q : Answer → Env → Prop} (h : Ends (Stays s 0) c Q) :
    ∃ a env, serveAnswer c s = some (a, dropRecords env.s env.outs) ∧ Q a env := by
  obtain ⟨a, env, hrun, hQ⟩ := h _ (stays_start s)
  refine ⟨a, env, ?_, hQ⟩
  have hrun' : c.run.run { Env.start s with answers := [] } = (.ok a, env) := hrun
  simp only [serveAnswer, serveWith, hrun']

theorem serveWith_of_serveAnswer {s s1 : State} {c : Cmd Answer} {a : Answer} (h : serveAnswer c s = some (a, s1)) :
    serveWith [] c s = .done a s1 := by
  unfold serveAnswer at h
  split at h
  · next heq =>
    cases h
    exact heq
  · cases h

/-- Memory, the commands and the fabric stand: only counters, caches and the like change. -/
structure OnlyCounts (s t : State) : Prop where
  mem : t.mem = s.mem
  entries : t.entries = s.entries
  fab : t.fab = s.fab

theorem OnlyCounts.refl (s : State) : OnlyCounts s s := ⟨rfl, rfl, rfl⟩

theorem OnlyCounts.trans {s t u : State} (first : OnlyCounts s t) (second : OnlyCounts t u) : OnlyCounts s u :=
  ⟨second.mem.trans first.mem, second.entries.trans first.entries, second.fab.trans first.fab⟩

theorem dropRecords_onlyCounts (s : State) (outs : List (Nat × Nat)) : OnlyCounts s (dropRecords s outs) := by
  rw [dropRecords_eq]
  exact ⟨rfl, rfl, rfl⟩

theorem count64_onlyCounts (s : State) (off k : Nat) : OnlyCounts s (s.count64 off k) := ⟨rfl, rfl, rfl⟩

theorem fillCache_onlyCounts (s : State) (bay graph node : Nat) (g : List Byte) (d : Nat) : OnlyCounts s (fillCache s bay graph node g d) := by
  unfold fillCache
  simp only
  split
  · exact ⟨rfl, rfl, rfl⟩
  · split <;> exact ⟨rfl, rfl, rfl⟩

theorem noteRow_onlyCounts (s : State) (bay graph node : Nat) (g : List Byte) (d : Nat) : OnlyCounts s (noteRow s bay graph node g d) := by
  refine OnlyCounts.trans ?_ (fillCache_onlyCounts ..)
  exact ⟨rfl, rfl, rfl⟩

theorem measureRow_onlyCounts (s : State) (bay table row : Nat) : OnlyCounts s (measureRow s bay table row) := by
  unfold measureRow
  split <;> exact ⟨rfl, rfl, rfl⟩

/-- A row that takes a message up and, with what else it does, sends one message. -/
theorem act_sends {row : State → State} {s u : State} {h : MsgHead} {dest : Nat} {c : Content} (hrow : row s = (sendMessage u dest c).2)
    (hfab : u.fab = (takeMessage s h).fab) : ∃ t, act row s = .next t ∧ TakenUp t h ∧ t.mem = u.mem ∧ t.undef = u.undef ∧
      t.entries = u.entries ∧ nextMsgOf t dest (classOf c.what) = (nextMsgOf s dest (classOf c.what) + 1) % 2 ^ 14 := by
  obtain ⟨t, hnext, -, hmem, hundef, hentries, htfab⟩ := act_leaves hrow
  have hsent := sendMessage_only u dest c
  refine ⟨t, hnext, takenUp_of_accepted (s := s) ?_, hmem.trans (by rw [hsent.1]), hundef.trans (by rw [hsent.1]),
    hentries.trans (by rw [hsent.1]), ?_⟩
  · rw [htfab, hsent.accepted_eq, hfab]
  · rw [nextMsgOf_congr (s := (sendMessage u dest c).2) (by rw [htfab]), nextMsgOf_sendMessage,
      nextMsgOf_congr (s := s) (by rw [hfab, (takeMessage_takesUp s h).nextMsg_eq])]

end Sys2Proof.Machine
end

section
/-! PROOFS. Expansion requests of other modules (R82, R84). -/

namespace Sys2Proof.Machine

open Sys2Proof

theorem exec_expandRequest (h : MsgHead) (sender : Nat) (q : Ask) (s : State) :
    exec (.expandRequest h sender q) s = act (whenReady (tryMessage h 6 (serveExpand h sender q))) s := rfl

theorem serveExpand_of_answer {s s1 : State} {h : MsgHead} {sender : Nat} {q : Ask} {c : Cmd Answer} {a : Answer}
    (hc : answerExpand s q = some c) (ha : serveAnswer c s = some (a, s1)) : serveExpand h sender q s = some (sendReply s1 h.peer sender a) := by
  simp only [serveExpand, hc, serveWith_of_serveAnswer ha]

/-- What an expansion request comes to at this module, where its answer is known. -/
theorem expandRequest_of_answer {s s1 : State} {h : MsgHead} {sender : Nat} {q : Ask} {c : Cmd Answer} {a : Answer}
    (hready : solocReady s = true) (hfresh : Fresh s h 6) (hc : answerExpand (takeMessage s h) q = some c)
    (ha : serveAnswer c (takeMessage s h) = some (a, s1)) :
    whenReady (tryMessage h 6 (serveExpand h sender q)) s = sendReply s1 h.peer sender a :=
  (whenReady_true hready).trans (tryMessage_of_fresh hfresh (serveExpand_of_answer hc ha))

/-- An answer of at most 40 neighbours without weights is one message (Remote expansion). -/
theorem sendReply_of_short (s : State) (peer sender : Nat) {a : Answer} (hnums : a.nums.length ≤ 40) (hweights : a.weights = []) :
    sendReply s peer sender a = (sendMessage s peer ⟨.expandReply, sender :: answerArgs a, []⟩).2 := by
  have hone : replyParts a = [a] := by
    simp only [replyParts, hweights, List.isEmpty_nil, if_true, ceilDiv]
    exact if_pos (by omega)
  simp [sendReply, hone]

/-- The row of a graph that is not loaded, or of a node whose row is ready, is answered in one message. -/
theorem expandLocal_answers {s : State} {graph node mode f : Nat} (bay k0 k1 hop : Nat) (capRule : Bool)
    (hgraph : graphDesc s graph = none ∨ ∃ g, graphDesc s graph = some g ∧ nodeReady s g node = true ∧ mode ∈ [0, 1, 4] ∧ f ≤ 40) :
    ∃ a s1, serveAnswer (Cmd.expandLocal bay graph k0 k1 hop mode f capRule false node) s = some (a, s1) ∧ OnlyCounts s s1 ∧
      a.nums.length ≤ 40 ∧ a.weights = [] := by
  obtain hnone | ⟨g, hgraph, hnode, hmode, hf⟩ := hgraph
  · have hrun : (Cmd.expandLocal bay graph k0 k1 hop mode f capRule false node).run.run { Env.start s with answers := [] } =
        (.error (.fail 0x12 0x10 0), Env.start s) := by
      unfold Cmd.expandLocal
      rw [ExceptT.run_bind, StateT.run_bind]
      simp only [show (Cmd.state.run.run { Env.start s with answers := [] }) = (.ok s, Env.start s) from rfl]
      show StateT.run (ExceptT.run (match graphDesc s graph with | none => _ | some g => _)) _ = _
      rw [hnone]
      rfl
    exact ⟨{ plainAnswer with status := 0x12, detail := 0x10 }, dropRecords s [], by simp only [serveAnswer, serveWith, hrun]; rfl,
      dropRecords_onlyCounts .., Nat.zero_le _, rfl⟩
  · obtain ⟨a, env, hserve, ⟨n, hstays⟩, hlength, hweights⟩ :=
      serveAnswer_of_ends (expandLocal_ends hgraph (nodeReady_of hnode) bay k0 k1 hop f capRule hmode)
    refine ⟨a, _, hserve, ?_, by omega, hweights⟩
    rw [hstays.state]
    exact ((noteRow_onlyCounts ..).trans (count64_onlyCounts ..)).trans (dropRecords_onlyCounts ..)

end Sys2Proof.Machine
end

section
/-! PROOFS. Rows of tables read and contributions added for other modules (R94, R95, R101, R103, R274). -/

namespace Sys2Proof.Machine

open Sys2Proof

/-! ## Bytes -/

theorem leNat_toLE : ∀ n v : Nat, leNat (toLE n v) = v % 256 ^ n
  | 0, v => (Nat.mod_one v).symm
  | n + 1, v => by
    rw [toLE, leNat, leNat_toLE n, BitVec.toNat_ofNat, Nat.pow_succ' (m := 256), Nat.mod_mul (a := 256)]

/-- A list of whole pieces has as many. -/
theorem length_chunks {α : Type} {n : Nat} (hn : 0 < n) : ∀ {fuel k : Nat} {l : List α}, l.length = n * k → k < fuel →
    (chunks n fuel l).length = k
  | fuel + 1, 0, l, hl, _ => by
    obtain rfl : l = [] := List.length_eq_zero_iff.mp hl
    rfl
  | fuel + 1, k + 1, l, hl, hk => by
    rw [Nat.mul_succ] at hl
    have hne : l.isEmpty = false := by
      cases l with
      | nil => simp at hl; omega
      | cons => rfl
    rw [chunks, if_neg (by simp [hne]), List.length_cons, length_chunks (k := k) hn (by rw [List.length_drop]; omega) (by omega)]

/-- Bytes read of skerry memory where others were stored. -/
theorem peekBytes_pokeBytes_disjoint (s : State) {a b n : Nat} (l : List Byte) (hlow : 0x010000000000 ≤ a) (hhigh : a + n ≤ 0x020000000000)
    (hlow' : 0x010000000000 ≤ b) (hhigh' : b + l.length ≤ 0x020000000000) (h : a + n ≤ b ∨ b + l.length ≤ a) :
    peekBytes (pokeBytes s b l) a n = peekBytes s a n := by
  induction n generalizing a with
  | zero => rfl
  | succ n ih =>
    rw [peekBytes, peekBytes, ih (by omega) (by omega) (by omega), State.readByte, State.readByte, locate_skerry _ hlow (by omega),
      locate_skerry _ hlow (by omega)]
    refine congrArg (· :: _) (byteAt_pokeBytes_ne l s b a fun i p hi hp => ?_)
    rw [locate_skerry _ (by omega) (by omega)] at hp
    cases hp
    dsimp only
    omega

/-- What the module reads for itself of memory in reach is what is stored. -/
theorem unitBytes_of_reach {s : State} {a n : Nat} (h : reach s a n = true) : unitBytes s a n = peekBytes s a n := by
  have hbyte {x : Nat} (hx : Reached s x) : unitByte s x = s.readByte x := by
    obtain ⟨p, hp, -, -, hgood⟩ := hx
    simp only [unitByte, hp, hgood, readByte_of_locate hp]
  have hbytes : (seqFrom a n).map (unitByte s) = peekBytes s a n := by
    induction n generalizing a with
    | zero => rfl
    | succ n ih =>
      rw [seqFrom, List.map_cons, hbyte (reached_of_reach h (Nat.le_refl a) (by omega)), ih (reach_part h (by omega) (by omega)), peekBytes]
  unfold unitBytes
  split
  · rfl
  · exact hbytes

/-! ## Rows met -/

/-- A row of this shard whose map entry is VALID and lies, with its slot, in reach, by name. -/
structure RowReady (t : State) (d : List Byte) (row : Nat) : Prop where
  plain : tMigratable d = false
  own : shardOf row = ownId t
  inside : localOf row < tRows d
  mapReach : reach t (tRowmap d + 8 * localOf row) 8 = true
  valid : eState (mapEntry t d (localOf row)) = 1
  slot : slotInside d (mapEntry t d (localOf row)) = true
  slotReach : reach t (rowAddr t d (localOf row)) (tBytes d) = true

theorem rowReady_named {t : State} {d : List Byte} {row : Nat} (h : rowReady t d row = true) : RowReady t d row := by
  simp only [rowReady, storeReach, Bool.and_eq_true, Bool.not_eq_true', decide_eq_true_eq] at h
  obtain ⟨⟨⟨⟨⟨⟨hplain, hown⟩, hinside⟩, hmap, -⟩, hvalid⟩, hslot⟩, hreach, -⟩ := h
  exact ⟨hplain, hown, hinside, hmap, hvalid, hslot, hreach⟩

/-- Such a row, where nothing migrates, is served from its entry. -/
theorem meets_of_rowReady {s : State} {d : List Byte} {table row : Nat} (htable : tableDesc s table = some d) (hrow : RowReady s d row)
    (hstill : NoMigration s) : meets s table row = .row (localOf row) (.serve (mapEntry s d (localOf row))) := by
  obtain ⟨hguests, hmigrations⟩ := hstill
  have hlookup : dirLookup s d row = none := if_neg (by simp [hrow.plain])
  have hindex : ownedIndex s table d row = some (localOf row) := by
    simp only [ownedIndex, guestIndex, hguests, hlookup, List.find?_nil, Option.bind_none, hrow.own, if_true]
  have hentry : storedEntry s d (localOf row) = mapEntry s d (localOf row) := by
    rw [storedEntry, unitBytes_of_reach hrow.mapReach]
    rfl
  have hturn : rowTurn s table d row (localOf row) (mapEntry s d (localOf row)) = .serve (mapEntry s d (localOf row)) := by
    simp [rowTurn, hrow.valid, hrow.slot, migrationOf, hmigrations]
  have hinside : ¬ (shardOf row = ownId s ∧ tRows d ≤ localOf row) := fun h => by have := hrow.inside; omega
  simp only [meets, htable, if_neg hinside, hindex, hentry, hturn]

theorem serveBatch_single (s : State) (q : Ask) : serveBatch s [q] = serveOne ⟨s, [], [], []⟩ q := rfl

/-- A request for a row of a table that is not loaded. -/
theorem serveBatch_of_fault {s : State} {q : Ask} {table row st d : Nat} (hq : askRow q = some (table, row))
    (hmeets : meets s table row = .fault st d) :
    serveBatch s [q] = some ⟨s, [(q, { plainAnswer with status := st, detail := d })], [], []⟩ := by
  simp only [serveBatch_single, serveOne, hq, hmeets, List.nil_append]

/-- A request for a row that is served here. -/
theorem serveBatch_of_read {s s1 : State} {table row tide i e : Nat} {a : Answer} (hmeets : meets s table row = .row i (.serve e))
    (ha : serveAnswer (readForOther s table row tide e) s = some (a, s1)) :
    serveBatch s [.tableRow table row tide] = some ⟨s1, [(.tableRow table row tide, a)], [], []⟩ := by
  simp only [serveBatch_single, serveOne, askRow, hmeets, ha, Option.bind_some, List.nil_append]

/-- A contribution to a row that is here. -/
theorem serveBatch_of_add {s s1 : State} {table row tide k i e : Nat} {codes : List Nat} {a : Answer}
    (hmeets : meets s table row = .row i (.serve e)) (ha : serveAnswer (addForOther s table row tide i codes) s = some (a, s1)) :
    serveBatch s [.contribute table row tide k codes] = some ⟨s1, [(.contribute table row tide k codes, a)], [], []⟩ := by
  simp only [serveBatch_single, serveOne, askRow, hmeets, ha, Option.bind_some, List.nil_append]

/-- An update that only counts. -/
theorem Keeps.counts {s : State} {f : State → State} (hf : ∀ t, OnlyCounts t (f t)) : Keeps (fun env => OnlyCounts s env.s) (Cmd.update f) :=
  Keeps.update fun env h => h.trans (hf env.s)

/-- A row read for another module is only counted. -/
theorem readForOther_ends {s : State} {d : List Byte} {table row tide : Nat} (htable : tableDesc s table = some d) (hrow : RowReady s d row) :
    Ends (Stays s 0) (readForOther s table row tide (mapEntry s d (localOf row))) fun _ env => OnlyCounts s env.s := by
  have hgranules (bay : Nat) : Keeps (fun env => OnlyCounts s env.s) (Cmd.countGranules bay d 1) := by
    unfold Cmd.countGranules
    refine Keeps.ite (fun _ => Keeps.pure _) fun _ => Keeps.bind ?_ fun x => Keeps.counts fun t => count64_onlyCounts ..
    exact Keeps.state.bind fun u => Keeps.bind (Keeps.counts fun t => ⟨rfl, rfl, rfl⟩) fun _ => Keeps.pure _
  simp only [readForOther, htable, Option.getD_some, Cmd.readSlotRow, bind_assoc, pure_bind]
  refine Ends.bind_of_eq (Stays.readP hrow.slotReach) ?_
  refine Ends.strengthen (P' := fun env => OnlyCounts s env.s) (fun env h => h.state ▸ OnlyCounts.refl _) ?_
  refine Keeps.bind (Keeps.counts fun t => measureRow_onlyCounts ..) fun _ => ?_
  refine Keeps.bind (Keeps.counts fun t => count64_onlyCounts ..) fun _ => ?_
  exact Keeps.bind (hgranules _) fun _ => Keeps.pure _

/-- A gather request for a row of a table that is not loaded, or of a row that is here, is answered. -/
theorem serveBatch_answers {s : State} {table row : Nat} (tide : Nat)
    (h : tableDesc s table = none ∨ ∃ d, tableDesc s table = some d ∧ rowReady s d row = true ∧ NoMigration s) :
    ∃ s1 p, serveBatch s [.tableRow table row tide] = some ⟨s1, [p], [], []⟩ ∧ OnlyCounts s s1 := by
  obtain hnone | ⟨d, htable, hrow, hstill⟩ := h
  · exact ⟨_, _, serveBatch_of_fault (st := 0x12) (d := 0x32) rfl (by simp only [meets, hnone]), .refl s⟩
  · have hready := rowReady_named hrow
    obtain ⟨a, env, ha, hcounts⟩ := serveAnswer_of_ends (readForOther_ends (tide := tide) htable hready)
    exact ⟨_, _, serveBatch_of_read (meets_of_rowReady htable hready hstill) ha, hcounts.trans (dropRecords_onlyCounts ..)⟩

end Sys2Proof.Machine
end

section
/-! PROOFS. Contributions added for other modules, and the requests that this module serves (R82, R95, R101, R103, R274; log entry 42). -/

namespace Sys2Proof.Machine

open Sys2Proof

/-- The state in which a contribution's count and its `l` accumulators are stored in the gradient buffer at `x`. -/
def contributed (s : State) (x : Nat) (l : List Byte) : State :=
  pokeBytes (pokeBytes s x (toLE 4 (satAdd32 (leNat (peekBytes s x 4)) 1))) (x + 8) l

/-- The count stored is the count before and one more. -/
theorem count_contributed (s : State) {x : Nat} {l : List Byte} (hlow : 0x010000000000 ≤ x) (hhigh : x + 8 + l.length ≤ 0x020000000000) :
    leNat (peekBytes (contributed s x l) x 4) = satAdd32 (leNat (peekBytes s x 4)) 1 := by
  have hstored := peekBytes_pokeBytes_skerry s x (toLE 4 (satAdd32 (leNat (peekBytes s x 4)) 1)) hlow (by rw [length_toLE]; omega)
  have hsmall : satAdd32 (leNat (peekBytes s x 4)) 1 < 256 ^ 4 := by unfold satAdd32; split <;> omega
  rw [length_toLE] at hstored
  rw [contributed, peekBytes_pokeBytes_disjoint _ _ hlow (by omega) (by omega) (by omega) (.inl (by omega)), hstored, leNat_toLE,
    Nat.mod_eq_of_lt hsmall]

/-- Bytes of skerry memory beside the gradient buffer stand. -/
theorem peekBytes_contributed (s : State) {x a n : Nat} {l : List Byte} (hlow : 0x010000000000 ≤ x)
    (hhigh : x + 8 + l.length ≤ 0x020000000000) (hlow' : 0x010000000000 ≤ a) (hhigh' : a + n ≤ 0x020000000000)
    (h : x + 8 + l.length ≤ a ∨ a + n ≤ x) : peekBytes (contributed s x l) a n = peekBytes s a n := by
  rw [contributed, peekBytes_pokeBytes_disjoint _ _ hlow' hhigh' (by omega) (by omega) (by omega),
    peekBytes_pokeBytes_disjoint _ _ hlow' hhigh' hlow (by rw [length_toLE]; omega) (by rw [length_toLE]; omega)]

/-- The gradient row of a row-map index lies in skerry memory, beside the index's map entry, which is TOUCHED. -/
structure GradReady (s : State) (d : List Byte) (i : Nat) : Prop where
  touched : eTouched (mapEntry s d i) = true
  grad : skerryRange (tGrad d + i * (8 + 8 * tElems d)) (8 + 8 * tElems d) = true
  map : skerryRange (tRowmap d + 8 * i) 8 = true
  beside : tGrad d + i * (8 + 8 * tElems d) + 8 + 8 * tElems d ≤ tRowmap d + 8 * i ∨
    tRowmap d + 8 * i + 8 ≤ tGrad d + i * (8 + 8 * tElems d)

/-- A row that is TOUCHED already is not entered again. -/
theorem enterTouched_ends {u : State} {d : List Byte} {i : Nat} (c : Nat → Cmd Unit) (hreach : reach u (tRowmap d + 8 * i) 8 = true)
    (htouched : eTouched (mapEntry u d i) = true) :
    Keeps (Stays u 0) (Cmd.rowEntry d i >>= fun e => if eTouched e then pure () else c e) := by
  refine Ends.bind_of_eq (Stays.readNat hreach) ?_
  rw [mapEntry] at htouched
  rw [if_pos htouched]
  exact Keeps.pure _

/-- A contribution added to such a row. -/
theorem addContribution_ends {s : State} {d : List Byte} {i : Nat} (codes : List Nat) (hclean : s.errs = []) (hunarmed : s.undertow = [])
    (h : GradReady s d i) : Ends (Stays s 0) (Cmd.addContribution d i codes) fun _ env =>
      ∃ l, l.length ≤ 8 * tElems d ∧ Stays (contributed s (tGrad d + i * (8 + 8 * tElems d)) l) 0 env := by
  obtain ⟨htouched, hgrad, hmap, hbeside⟩ := h
  have hgradReach := reach_skerry hclean hgrad
  obtain ⟨hlow, hhigh⟩ : 0x010000000000 ≤ tGrad d + i * (8 + 8 * tElems d) ∧
      tGrad d + i * (8 + 8 * tElems d) + (8 + 8 * tElems d) ≤ 0x020000000000 := by simpa [skerryRange] using hgrad
  obtain ⟨hmapLow, hmapHigh⟩ : 0x010000000000 ≤ tRowmap d + 8 * i ∧ tRowmap d + 8 * i + 8 ≤ 0x020000000000 := by
    simpa [skerryRange] using hmap
  unfold Cmd.addContribution
  dsimp only
  generalize hx : tGrad d + i * (8 + 8 * tElems d) = x at *
  refine Ends.bind_of_eq (Stays.readNat (reach_part hgradReach (by omega) (by omega))) ?_
  generalize hcount : satAdd32 (leNat (peekBytes s x 4)) 1 = count
  have hstands := pokeBytes_mapStands s x (toLE 4 count)
  have hrest : reach (pokeBytes s x (toLE 4 count)) (x + 8) (8 * tElems d) = true :=
    reach_mapStands hstands hclean (reach_part hgradReach (by omega) (by omega))
  refine Ends.bind (Stays.write hclean hunarmed (reach_part hgradReach (by omega) (by rw [length_toLE]; omega))) fun _ => ?_
  refine Ends.bind (Stays.read hrest) fun old => ?_
  refine Ends.assume (φ := old.length = 8 * tElems d) (fun _ h => by rw [h.2, length_peekBytes]) fun hold => ?_
  refine Ends.strengthen (fun _ h => h.1) ?_
  have haccs : ((chunks 8 (tElems d + 1) old).map leNat).length = tElems d := by
    rw [List.length_map, length_chunks (by decide) hold (Nat.lt_succ_self _)]
  have hwrite {l : List Byte} (c : Nat → Cmd Unit) (hl : l.length ≤ 8 * tElems d) : Ends (Stays (pokeBytes s x (toLE 4 count)) 0)
      (Cmd.write (x + 8) l >>= fun _ => Cmd.rowEntry d i >>= fun e => if eTouched e then pure () else c e)
      fun _ env => ∃ l, l.length ≤ 8 * tElems d ∧ Stays (contributed s x l) 0 env := by
    refine Ends.bind (Stays.write (hstands.errs hclean) (hstands.undertow.trans hunarmed) (reach_part hrest (Nat.le_refl _) (by omega)))
      fun _ => ?_
    have hclean' : (contributed s x l).errs = [] := (pokeBytes_mapStands _ _ l).errs ((pokeBytes_mapStands ..).errs hclean)
    have hentry : mapEntry (contributed s x l) d i = mapEntry s d i := by
      rw [mapEntry, mapEntry, peekBytes_contributed s hlow (by omega) hmapLow hmapHigh (by omega)]
    subst hcount
    exact (enterTouched_ends c (reach_skerry hclean' hmap) ((congrArg eTouched hentry).trans htouched)).weaken fun _ _ h => ⟨l, hl, h⟩
  split
  · refine Keeps.bind (Stays.note _) fun _ => hwrite _ ?_
    simp only [List.length_flatMap, length_toLE, List.map_const', List.sum_replicate_nat, haccs]
    omega
  · refine hwrite _ ?_
    simp only [List.length_flatMap, length_toLE, List.map_const', List.sum_replicate_nat, List.length_zip, haccs]
    omega

end Sys2Proof.Machine
end

section
/-! PROOFS. Requests of other modules served (R82, R95, R101, R103, R274; log entries 42, 76). -/

namespace Sys2Proof.Machine

open Sys2Proof

/-- A contribution of another module added to such a row. -/
theorem addForOther_ends {s : State} {d : List Byte} {table row tide i : Nat} (codes : List Nat) (htable : tableDesc s table = some d)
    (hclean : s.errs = []) (hunarmed : s.undertow = []) (h : GradReady s d i) :
    Ends (Stays s 0) (addForOther s table row tide i codes) fun _ env =>
      ∃ l, l.length ≤ 8 * tElems d ∧ env.s = contributed s (tGrad d + i * (8 + 8 * tElems d)) l := by
  unfold addForOther
  rw [htable, Option.getD_some]
  refine Ends.bind (addContribution_ends codes hclean hunarmed h) fun _ => Keeps.get.bind fun _ => Ends.pure fun env henv => ?_
  obtain ⟨l, hl, henv⟩ := henv
  exact ⟨l, hl, henv.state⟩

theorem exec_gatherRequest (h : MsgHead) (requester sender : Nat) (asks : List Ask) (s : State) :
    exec (.gatherRequest h requester sender asks) s = act (whenReady (tryMessage h 2 (serveGather requester sender asks))) s := rfl

theorem exec_contributionReceive (h : MsgHead) (requester sender : Nat) (asks : List Ask) (s : State) :
    exec (.contributionReceive h requester sender asks) s = act (whenReady (tryMessage h 2 (serveContributions h requester sender asks))) s := rfl

/-- A message that cannot be served yet stays where it is. -/
theorem tryMessage_of_none {s : State} {h : MsgHead} {kind : Nat} {f : State → Option State} (hfresh : Fresh s h kind)
    (hf : f (takeMessage s h) = none) : tryMessage h kind f s = s := by
  obtain ⟨hdelivered, haccepts⟩ := hfresh
  simp [tryMessage, hdelivered, haccepts, hf]

section

variable {s : State} {h : MsgHead} {requester sender : Nat} {asks : List Ask} {b : Batch}

/-- A batch of which nothing goes elsewhere sends nothing on. -/
theorem sendOnward_here (what : MsgWhat) (honward : b.onward = []) (hredirects : b.redirects = []) :
    sendOnward b what requester sender = b.s := by
  simp [sendOnward, honward, hredirects]

variable (hready : solocReady s = true) (hfresh : Fresh s h 2)
include hready hfresh

/-- A batch that is held leaves the state as it was. -/
theorem request_held {f : State → Option State} (hf : f (takeMessage s h) = none) : act (whenReady (tryMessage h 2 f)) s = .next s :=
  act_eq_of_eq ((whenReady_true hready).trans (tryMessage_of_none hfresh hf)) rfl rfl rfl

variable (hbatch : serveBatch (takeMessage s h) asks = some b) (honward : b.onward = []) (hredirects : b.redirects = [])
include hbatch honward hredirects

/-- A batch of rows read here is answered to the module that asked. -/
theorem gatherRequest_served (hanswers : b.answers ≠ []) : whenReady (tryMessage h 2 (serveGather requester sender asks)) s =
    (sendMessage b.s requester ⟨.gatherReply, sender :: b.answers.flatMap (fun a => answerArgs a.2), []⟩).2 := by
  refine (whenReady_true hready).trans (tryMessage_of_fresh hfresh ?_)
  simp [serveGather, hbatch, sendOnward_here _ honward hredirects, hanswers]

/-- A batch of contributions added here is acknowledged to its sender. -/
theorem contributions_acked : whenReady (tryMessage h 2 (serveContributions h h.peer sender asks)) s =
    (sendMessage b.s h.peer ⟨.ack, [h.tc, h.msg, sender] ++ b.answers.flatMap (fun a => answerArgs a.2), []⟩).2 := by
  refine (whenReady_true hready).trans (tryMessage_of_fresh hfresh ?_)
  simp [serveContributions, hbatch, sendOnward_here _ honward hredirects]

/-- A batch of contributions that another module forwarded is acknowledged to that module and answered to the one that asked (log entry 76). -/
theorem contributions_answered (hforwarded : requester ≠ h.peer) : whenReady (tryMessage h 2 (serveContributions h requester sender asks)) s =
    (sendMessage (sendAck b.s h) requester ⟨.gatherReply, sender :: b.answers.flatMap (fun a => answerArgs a.2), []⟩).2 := by
  refine (whenReady_true hready).trans (tryMessage_of_fresh hfresh ?_)
  simp [serveContributions, hbatch, sendOnward_here _ honward hredirects, hforwarded]

end

section

variable {s : State} {h : MsgHead} {sender : Nat} (hready : solocReady s = true)
include hready

/-- EXPAND_REQUEST of a graph that is not loaded, or of a node whose row is ready. -/
theorem expandRequest_answered {graph node mode f : Nat} (k0 k1 hop : Nat) (cap : Bool) (hfresh : Fresh s h 6)
    (hgraph : graphDesc s graph = none ∨ ∃ g, graphDesc s graph = some g ∧ nodeReady s g node = true ∧ mode ∈ [0, 1, 4] ∧ f ≤ 40) :
    ∃ t, exec (.expandRequest h sender (.row graph k0 k1 hop mode f cap false node)) s = .next t ∧ TakenUp t h ∧ t.mem = s.mem ∧
      t.entries = s.entries ∧ nextMsgOf t h.peer 0 = (nextMsgOf s h.peer 0 + 1) % 2 ^ 14 := by
  have htakes := takeMessage_takesUp s h
  have hgraph' : graphDesc (takeMessage s h) graph = none ∨ ∃ g, graphDesc (takeMessage s h) graph = some g ∧
      nodeReady (takeMessage s h) g node = true ∧ mode ∈ [0, 1, 4] ∧ f ≤ 40 := by
    simp only [htakes.readAlike.nodeReady_eq, show graphDesc (takeMessage s h) graph = graphDesc s graph by rw [htakes]; rfl]
    exact hgraph
  obtain ⟨a, s1, hserve, hcounts, hshort, hweights⟩ :=
    expandLocal_answers (graphBay (takeMessage s h) graph) k0 k1 hop cap hgraph'
  have hrow := (expandRequest_of_answer (sender := sender) (q := .row graph k0 k1 hop mode f cap false node) hready hfresh rfl hserve).trans
    (sendReply_of_short s1 h.peer sender hshort hweights)
  obtain ⟨t, hnext, htaken, hmem, -, hentries, hmessage⟩ := act_sends hrow hcounts.fab
  exact ⟨t, (exec_expandRequest ..).trans hnext, htaken,
    hmem.trans (hcounts.mem.trans htakes.mem_eq), hentries.trans (hcounts.entries.trans (by rw [htakes])), hmessage⟩

/-- GATHER_REQUEST of a table that is not loaded, or of a row that is ready. -/
theorem gatherRequest_answered {table row : Nat} (requester tide : Nat) (hfresh : Fresh s h 2)
    (htable : tableDesc s table = none ∨ ∃ d, tableDesc s table = some d ∧ rowReady s d row = true ∧ NoMigration s) :
    ∃ t, exec (.gatherRequest h requester sender [.tableRow table row tide]) s = .next t ∧ TakenUp t h ∧ t.mem = s.mem ∧
      t.entries = s.entries ∧ nextMsgOf t requester 2 = (nextMsgOf s requester 2 + 1) % 2 ^ 14 := by
  have htakes := takeMessage_takesUp s h
  have htable' : tableDesc (takeMessage s h) table = none ∨ ∃ d, tableDesc (takeMessage s h) table = some d ∧
      rowReady (takeMessage s h) d row = true ∧ NoMigration (takeMessage s h) := by
    simp only [htakes.readAlike.rowReady_eq, show tableDesc (takeMessage s h) table = tableDesc s table by rw [htakes]; rfl,
      show NoMigration (takeMessage s h) = NoMigration s by rw [htakes]; rfl]
    exact htable
  obtain ⟨s1, p, hbatch, hcounts⟩ := serveBatch_answers tide htable'
  obtain ⟨t, hnext, htaken, hmem, -, hentries, hmessage⟩ :=
    act_sends (gatherRequest_served (requester := requester) (sender := sender) hready hfresh hbatch rfl rfl (by simp)) hcounts.fab
  exact ⟨t, (exec_gatherRequest ..).trans hnext, htaken,
    hmem.trans (hcounts.mem.trans htakes.mem_eq), hentries.trans (hcounts.entries.trans (by rw [htakes])), hmessage⟩

/-- CONTRIBUTION_RECEIVE for a row that is TOUCHED already. -/
theorem contribution_counted {table row : Nat} {d : List Byte} (tide k : Nat) (codes : List Nat) (hfresh : Fresh s h 2) (hclean : s.errs = [])
    (hunarmed : s.undertow = []) (htable : tableDesc s table = some d) (hrow : rowReady s d row = true) (hstill : NoMigration s)
    (hgrad : GradReady s d (localOf row)) :
    ∃ t, exec (.contributionReceive h h.peer sender [.contribute table row tide k codes]) s = .next t ∧ TakenUp t h ∧
      leNat (peekBytes t (tGrad d + localOf row * (8 + 8 * tElems d)) 4) =
        satAdd32 (leNat (peekBytes s (tGrad d + localOf row * (8 + 8 * tElems d)) 4)) 1 ∧
      nextMsgOf t h.peer 0 = (nextMsgOf s h.peer 0 + 1) % 2 ^ 14 := by
  have htakes := takeMessage_takesUp s h
  obtain ⟨htouched, hskerry, hmap, hbeside⟩ := hgrad
  have hgrad : GradReady (takeMessage s h) d (localOf row) := ⟨by rwa [htakes.readAlike.mapEntry_eq], hskerry, hmap, hbeside⟩
  have htable : tableDesc (takeMessage s h) table = some d := by rw [htakes]; exact htable
  have hstill : NoMigration (takeMessage s h) := by rw [htakes]; exact hstill
  rw [← htakes.readAlike.rowReady_eq] at hrow
  obtain ⟨a, env, ha, l, hl, henv⟩ := serveAnswer_of_ends (addForOther_ends (row := row) (tide := tide) codes htable
    (htakes.readAlike.errs.trans hclean) (by rw [htakes]; exact hunarmed) hgrad)
  have hbatch := serveBatch_of_add (tide := tide) (k := k) (meets_of_rowReady htable (rowReady_named hrow) hstill) ha
  have hdropped := dropRecords_eq env.s env.outs
  have hstored : (dropRecords env.s env.outs).fab = (takeMessage s h).fab := by
    rw [hdropped, henv, contributed, pokeBytes_eq, pokeBytes_eq]
  obtain ⟨t, hnext, htaken, hmem, hundef, -, hmessage⟩ := act_sends (contributions_acked (sender := sender) hready hfresh hbatch rfl rfl) hstored
  have hpeek := htakes.readAlike.peekBytes_eq 4 (tGrad d + localOf row * (8 + 8 * tElems d))
  obtain ⟨hlow, hhigh⟩ : 0x010000000000 ≤ tGrad d + localOf row * (8 + 8 * tElems d) ∧
      tGrad d + localOf row * (8 + 8 * tElems d) + (8 + 8 * tElems d) ≤ 0x020000000000 := by simpa [skerryRange] using hskerry
  refine ⟨t, (exec_contributionReceive ..).trans hnext, htaken, ?_, hmessage⟩
  rw [peekBytes_skerry_congr (s := env.s) (hmem.trans (by rw [hdropped])) (hundef.trans (by rw [hdropped])) _ _ hlow (by omega), henv,
    count_contributed _ hlow (by omega), hpeek]

end

/-- Settles O31: a batch, or a node's row, is served on the state with the message taken up; what the serving leaves of the fabric stands
until its one answer is sent. -/
theorem requestsOfOtherModulesAreServed : Obligations.RequestsOfOtherModulesAreServed := by
  unfold Obligations.RequestsOfOtherModulesAreServed
  refine fun s h sender hready => ⟨?_, ?_, ?_, ?_, ?_, ?_⟩
  · intro q c a s1 hfresh hc ha
    exact (exec_expandRequest ..).trans (act_next_of (expandRequest_of_answer hready hfresh hc ha))
  · intro requester asks b hfresh hbatch honward hredirects
    refine ⟨fun hanswers => ?_, fun hown => ?_, fun hforwarded => ?_⟩
    · exact (exec_gatherRequest ..).trans (act_next_of (gatherRequest_served hready hfresh hbatch honward hredirects hanswers))
    · subst hown
      exact (exec_contributionReceive ..).trans (act_next_of (contributions_acked hready hfresh hbatch honward hredirects))
    · exact (exec_contributionReceive ..).trans (act_next_of (contributions_answered hready hfresh hbatch honward hredirects hforwarded))
  · intro requester asks hfresh hbatch
    exact ⟨(exec_gatherRequest ..).trans (request_held hready hfresh (by rw [serveGather, hbatch]; rfl)),
      (exec_contributionReceive ..).trans (request_held hready hfresh (by rw [serveContributions, hbatch]; rfl))⟩
  · intro graph k0 k1 hop mode f cap node hfresh _ hgraph
    exact expandRequest_answered hready k0 k1 hop cap hfresh hgraph
  · intro requester table row tide hfresh _ htable
    exact gatherRequest_answered hready requester tide hfresh htable
  · intro table row tide k codes d x hfresh hclean hunarmed htable hrow hstill htouched hx hskerry hmap hbeside
    subst hx
    exact contribution_counted hready tide k codes hfresh hclean hunarmed htable hrow hstill ⟨htouched, hskerry, hmap, hbeside⟩

end Sys2Proof.Machine
end

section
/-! PROOFS. What a check reads of memory in reach: the word of a byte in reach is delivered, and no access to it faults (R68, R228, R242). -/

namespace Sys2Proof.Machine

open Sys2Proof

/-- A word is placed whole. -/
theorem place_word (o mode stack : Nat) {pbase : Nat} (hbase : pbase % 64 = 0) :
    place (o / 64 * 64) mode stack pbase = ((place o mode stack pbase).1, (place o mode stack pbase).2 / 64 * 64) := by
  have hdiv (k : Nat) : o / 64 * 64 / 2 ^ (k + 6) = o / 2 ^ (k + 6) := by
    rw [Nat.pow_add, Nat.mul_comm (2 ^ k), ← Nat.div_div_eq_div_mul, ← Nat.div_div_eq_div_mul, Nat.mul_div_cancel _ (by decide)]
  have h11 := hdiv 5
  have h12 := hdiv 6
  have h15 := hdiv 9
  have h18 := hdiv 12
  unfold place
  simp only [Nat.shiftRight_eq_div_pow, Nat.shiftLeft_eq] at *
  simp only [h11, h12, h15, h18]
  split
  · exact Prod.ext rfl (by dsimp only; omega)
  · split
    · exact Prod.ext rfl (by dsimp only; omega)
    · exact Prod.ext rfl (by dsimp only; omega)

/-- Where windows begin and end, words are whole: a word lies in the window of each of its bytes. -/
theorem windowOf_word (s : State) (a : Nat) : windowOf s (a / 64 * 64) = windowOf s a := by
  refine List.find?_congr fun w _ => ?_
  have hbase : winBase s w ≤ a / 64 * 64 ↔ winBase s w ≤ a := by unfold winBase; omega
  have hend : a / 64 * 64 ≤ winEnd s w ↔ a ≤ winEnd s w := by unfold winEnd; omega
  simp only [hbase, hend]

/-- Whether a location is fenced depends on its word alone. -/
theorem fenced_word (s : State) (st l : Nat) : fenced s st (l / 64 * 64) = fenced s st l := by
  have hrow : (l / 64 * 64) >>> 11 = l >>> 11 := by simp only [Nat.shiftRight_eq_div_pow]; omega
  simp only [fenced, channelOf, hrow]

/-- Where an address of HBM is located. -/
theorem locate_hbm {s : State} {a : Nat} {p : Located} {st : Nat} (hp : locate s a = .ok p) (hregion : p.region = .hbm st) :
    a < 0x009000000000 ∧ ∃ w, windowOf s a = some w ∧
      p = ⟨(place (a - winBase s w) (winMode s w) (winStack s w) (winPbase s w)).1 * 2 ^ 37 +
        (place (a - winBase s w) (winMode s w) (winStack s w) (winPbase s w)).2,
        .hbm (place (a - winBase s w) (winMode s w) (winStack s w) (winPbase s w)).1⟩ := by
  by_cases ha : a < 0x009000000000
  · refine ⟨ha, ?_⟩
    simp only [locate, if_pos ha] at hp
    split at hp
    · cases hp
    · next w hw =>
      split at hp
      · exact ⟨w, hw, (Except.ok.inj hp).symm⟩
      · cases hp
  · simp only [locate, if_neg ha] at hp
    repeat' split at hp
    all_goals cases hp
    all_goals cases hregion

/-- Where no word has an error pattern, the word of a byte in reach is delivered. -/
theorem delivered_of_reached {s : State} (hclean : s.errs = []) {a : Nat} (ha : Reached s a) {p : Located}
    (hp : locate s (a / 64 * 64) = .ok p) : wordState s p = .good := by
  obtain ⟨q, hq, -, -, hgood⟩ := ha
  obtain ⟨key, r⟩ := p
  cases r with
  | hbm st =>
    obtain ⟨hlow, w, hw, heq⟩ := locate_hbm hp rfl
    have hlow : a < 0x009000000000 := by omega
    have hoffset : a / 64 * 64 - winBase s w = (a - winBase s w) / 64 * 64 := by unfold winBase; omega
    rw [hoffset, place_word _ _ _ (by unfold winPbase; omega)] at heq
    rw [windowOf_word] at hw
    simp only [locate, if_pos hlow, hw] at hq
    split at hq
    · have hfenced := not_fenced_of_good hgood (congrArg Located.region (Except.ok.inj hq).symm)
      rw [← Except.ok.inj hq] at hfenced
      obtain ⟨rfl, hst⟩ := Located.mk.inj heq
      obtain rfl := Region.hbm.inj hst
      have hsame (st l : Nat) : (st * 2 ^ 37 + l / 64 * 64) % 2 ^ 37 = (st * 2 ^ 37 + l) % 2 ^ 37 / 64 * 64 := by omega
      simp only [wordState, errorsAt_clean hclean, rsDecode_clean, hsame, fenced_word, hfenced]
      rfl
    · cases hq
  | skerry => exact wordState_skerry hclean key
  | scratchpad n => simp only [wordState, errorsAt_clean hclean, sramDecode_clean]
  | shelf b => simp only [wordState, errorsAt_clean hclean, sramDecode_clean]
  | host => simp only [wordState, errorsAt_clean hclean, if_true]

/-- Memory in reach is delivered. -/
theorem deliverable_of_reach {s : State} (hclean : s.errs = []) {a n : Nat} (hn : 0 < n) (h : reach s a n = true) :
    deliverable s a n = true := by
  refine List.all_eq_true.mpr fun w hw => ?_
  have hw := mem_seqFrom.mp hw
  have hbyte := reached_of_reach h (x := max a (64 * w)) (by omega) (by omega)
  cases hp : locate s (64 * w) with
  | error d => rfl
  | ok p =>
    have hgood := delivered_of_reached hclean hbyte (p := p) (by rw [show max a (64 * w) / 64 * 64 = 64 * w by omega, hp])
    simp [hgood]

/-- No access to memory in reach faults. -/
theorem faultIn_of_reach {s : State} (write : Bool) : ∀ {n a : Nat}, reach s a n = true → faultIn s write a n = none
  | 0, _, _ => rfl
  | n + 1, a, h => by
    have hrest : faultIn s write (a + 1) n = none := faultIn_of_reach write (reach_part h (by omega) (by omega))
    obtain ⟨p, hp, -, -, hgood⟩ := reached_of_reach h (Nat.le_refl a) (by omega)
    rw [faultIn, hp]
    cases hregion : p.region with
    | hbm st => simp only [hregion, not_fenced_of_good hgood hregion, hrest]; rfl
    | _ => simp only [hregion, hrest]

/-- A check reads memory in reach as it is stored. -/
theorem tryRead_of_reach {s : State} (hclean : s.errs = []) {a n : Nat} (hn : 0 < n) (h : reach s a n = true) :
    tryRead s a n = some (peekBytes s a n) := by
  rw [tryRead, faultIn_of_reach false h]
  exact if_pos (deliverable_of_reach hclean hn h)

/-- The seeds that a check reads of memory in reach. -/
theorem trySeeds_of_reach {s : State} (hclean : s.errs = []) {a n : Nat} (hn : 0 < n) (h : reach s a (8 * n) = true) :
    trySeeds s a n = (chunks 8 (n + 1) (peekBytes s a (8 * n))).map leNat := by
  rw [trySeeds, tryRead_of_reach hclean (by omega) h]

end Sys2Proof.Machine
end

section
/-! PROOFS. Commands of the sampler that are dispatched: what their body finds of the state they were launched in (R43, R53, R76, R79, R84). -/

namespace Sys2Proof.Machine

open Sys2Proof

/-- A state in which a command's body starts, with the command's entry there: what it was launched in, but for the tracking of commands. -/
structure Launched (s : State) (e : Entry) (t : State) (c : Entry) : Prop where
  alike : ReadAlike s t
  graphs : t.graphs = s.graphs
  conts : t.conts = s.conts
  undertow : t.undertow = s.undertow
  tracked : entryOf t e.tag = some c
  reruns : c.reruns = e.reruns
  pkt : c.pkt = e.pkt

/-- A command without preparation that is dispatched, from its body's execution. -/
theorem launchedPlain_finishes {s : State} {tag op : Nat} {e : Entry} {body : Entry → Cmd Done} {p : Done → Prop} (hlaunch : Launch s tag op e)
    (hop : op < 0x60 ∨ 0x62 < op)
    (hbody : ∀ t c, Launched s e t c → Ends (Stays t 0) (body c) fun o env => Quiet e.tag env ∧ p o) :
    ∃ o, FinishedWith (runRow op (.plain body) tag s) tag o ∧ p o := by
  obtain ⟨hentry, hop', hready, hprepared, -, -, -, hgate, hslot, hdead, hcommit, -, -⟩ := hlaunch
  obtain rfl : e.tag = tag := entryOf_tag hentry
  have hfault : startFault s e = none := by
    have hslot' : slotLoaded s (dispatched s e).slot = true := hslot
    have hother : ¬ (0x60 ≤ pktOp (dispatched s e).pkt ∧ pktOp (dispatched s e).pkt ≤ 0x62 ∧ s.fieldAt Reg.SKERRY_STATUS 1 0 = 3) := by
      show ¬ (0x60 ≤ pktOp e.pkt ∧ pktOp e.pkt ≤ 0x62 ∧ _)
      omega
    have halive : (tilesOf (dispatched s e)).find? s.power.deadTiles.contains = none :=
      List.find?_eq_none.mpr fun t ht => by simpa using List.all_eq_true.mp hdead t ht
    rw [startFault_of_ready hready, dispatchFault]
    simp only [hslot', hother, halive]
    rfl
  have hbase : entryOf (dispatchedState s e) e.tag = some (dispatched s e) :=
    (entryOf_setEntry _ e.tag (f := fun _ => dispatched s e) fun _ _ => rfl).trans (congrArg (Option.map _) hentry)
  let env0 := runEnv (dispatchedState s e) (dispatched s e)
  have htracked : entryOf (preparedState env0 e.tag) e.tag = some (preparedEntry env0 (dispatched s e)) :=
    (entryOf_setEntry env0.s e.tag (f := preparedEntry env0) fun _ hd => hd).trans (congrArg (Option.map _) hbase)
  rw [runRow_of_ready _ hentry hready hop' hgate, runEntry_eq, startEntry_of_ready hready, startState_of_ready hready, hfault]
  exact runFrom_unprepared (job := .plain body) (by simp [hcommit]) hprepared rfl htracked (stays_runEnv ..)
    (hbody _ _ ⟨⟨rfl, rfl, rfl, rfl, rfl⟩, rfl, rfl, rfl, htracked, rfl, rfl⟩)

/-- The row of such a command executes it. -/
theorem launchedPlain_executes {s : State} {tag : Fin 1024} {op : Nat} {e : Entry} {i : Instr} {body : Entry → Cmd Done} {p : Done → Prop}
    (hrow : (i, op, .plain body) ∈ unitRows tag []) (hlaunch : Launch s tag.val op e) (hop : op < 0x60 ∨ 0x62 < op)
    (hbody : ∀ t c, Launched s e t c → Ends (Stays t 0) (body c) fun o env => Quiet e.tag env ∧ p o) :
    Executes s i tag.val fun _ o => p o :=
  executes_of_row (exec_unitRow hrow s) (launchedPlain_finishes hlaunch hop hbody)

section

variable {s t : State} {e c : Entry} (h : Launched s e t c)
include h

theorem Launched.bodyAt_eq : bodyAt c = bodyAt e := by
  funext off size
  rw [bodyAt, bodyAt, h.pkt]

theorem Launched.graphDesc_eq : graphDesc t = graphDesc s := by
  funext graph
  rw [graphDesc, graphDesc, h.graphs]

theorem Launched.fieldAt_eq : t.fieldAt = s.fieldAt := by
  funext off hi lo
  exact h.alike.fieldAt_eq off hi lo

theorem Launched.bayOfAddr_eq : bayOfAddr t = bayOfAddr s := by
  funext a
  rw [bayOfAddr, bayOfAddr, h.alike.locate_eq]

theorem Launched.faultIn_eq (a n : Nat) : faultIn t false a n = faultIn s false a n := faultIn_congr h.alike.regs h.alike.pci ..

theorem Launched.trySeeds_eq : trySeeds t = trySeeds s := by
  funext a n
  have hdeliverable : deliverable t a (8 * n) = deliverable s a (8 * n) := by
    simp only [deliverable, h.alike.locate_eq, h.alike.wordState_eq]
  simp only [trySeeds, tryRead, h.faultIn_eq, hdeliverable, h.alike.peekBytes_eq]

theorem Launched.seedsOk_eq : seedsOk t = seedsOk s := by
  funext g seeds
  rw [seedsOk, seedsOk, h.alike.ownId_eq]

theorem Launched.dedupOk_eq : dedupOk t = dedupOk s := by
  funext a n
  rw [dedupOk, dedupOk, h.alike.locate_eq, h.fieldAt_eq]

theorem Launched.bodyZero_eq : bodyZero c = bodyZero e := by
  funext a b
  rw [bodyZero, bodyZero, h.pkt]

theorem Launched.sampleChecks_eq : sampleChecks t c = sampleChecks s e := by
  unfold sampleChecks
  rw [h.bodyAt_eq, h.graphDesc_eq, h.fieldAt_eq, h.trySeeds_eq, h.seedsOk_eq, h.dedupOk_eq, h.bodyZero_eq, h.conts, h.pkt]

theorem Launched.walkChecks_eq : walkChecks t c = walkChecks s e := by
  unfold walkChecks
  rw [h.bodyAt_eq, h.graphDesc_eq, h.trySeeds_eq, h.seedsOk_eq, h.bodyZero_eq]

end

end Sys2Proof.Machine
end

section
/-! PROOFS. RANDOM_WALK of one unbiased step (R68, R79, R84). -/

namespace Sys2Proof.Machine

open Sys2Proof

/-- The execution of a command at a bay's sampler: the state differs from one only in what the sampler changes. -/
def Sampling (t : State) (k : Nat) (env : Env) : Prop := SamplerStands t env.s ∧ Stays env.s k env

section

variable {t : State} {k : Nat}

theorem Stays.sampling {u : State} {env : Env} (h : Stays u k env) (hu : SamplerStands t u) : Sampling t k env := by
  obtain ⟨rfl, hengine, hpoison, hcorrected⟩ := h
  exact ⟨hu, rfl, hengine, hpoison, hcorrected⟩

/-- What ends in each state the sampler may leave. -/
theorem Sampling.ends {α : Type} {c : Cmd α} {Q : α → Env → Prop} (h : ∀ u, SamplerStands t u → Ends (Stays u k) c Q) :
    Ends (Sampling t k) c Q := fun env henv => h env.s henv.1 env henv.2

end

/-- The state after a row of a bay's sampler and its edges are counted. -/
theorem countedRow_samplerStands (s : State) {bay : Nat} (graph node : Nat) (g : List Byte) (d n : Nat) (hbay : bay ≤ 8) :
    SamplerStands s ((noteRow s bay graph node g d).count64 (Reg.SAMPLE_BAY_CTR_EDGES_LO bay) n) :=
  (noteRow_samplerStands s graph node g d hbay).trans
    (count64_samplerStands _ n (by unfold Reg.SAMPLE_BAY_CTR_EDGES_LO; omega) (by unfold Reg.SAMPLE_BAY_CTR_EDGES_LO; omega))

/-- A node and the node after it: no early end, no step at attempt 31. -/
def OneStep (r : List Nat × Bool × Nat) : Prop := r.1.length = 2 ∧ r.2.1 = false ∧ r.2.2 = 0

section

variable {t : State} {k bay graph : Nat} {g : List Byte} (hgraph : graphDesc t graph = some g) (hbay : bay ≤ 8) (hclean : t.errs = [])
include hgraph hbay hclean

/-- A walk of one unbiased step from a node of this shard with neighbours. -/
theorem walk_ends {x : Nat} (hnode : NodeReady t g x) (hdegree : 0 < degreeOf t g x) (k0 k1 r p q : Nat) :
    Ends (Sampling t k) (Cmd.walk bay graph k0 k1 r x false p q 1 1 none x) fun a env => Sampling t k env ∧ ∃ y, a = ([y], false, 0) := by
  refine Sampling.ends fun u hu => ?_
  have hstep := stepLocal_ends (k := k) ((hu.graphDesc_eq graph).trans hgraph) (hnode.stands hu hclean) hbay (hu.errs hclean)
    (by rwa [hu.degreeOf_eq hnode]) k0 k1 r x 1 p q
  unfold Cmd.walk Cmd.walkStep
  simp only [bind_assoc]
  refine Ends.bind_of_eq Stays.readState ?_
  rw [if_pos (hnode.own.trans hu.ownId_eq.symm)]
  refine Ends.bind (R := fun a env => Sampling t k env ∧ ∃ y, a.nums = [y, 0]) (hstep.weaken fun a env h => ?_) fun a => ?_
  · exact ⟨h.1.sampling (hu.trans (countedRow_samplerStands _ _ _ _ _ _ hbay)), h.2⟩
  · refine Ends.assume (φ := ∃ y, a.nums = [y, 0]) (fun _ h => h.2) fun ⟨y, hy⟩ => ?_
    simp only [hy, Cmd.walk, pure_bind]
    exact Ends.pure fun _ h => ⟨h.1, y, rfl⟩

end

/-- The walks of a list of starts, a number from each. -/
def walksFrom (bay graph k0 k1 w p q : Nat) (starts : List Nat) : Cmd (List (List (List Nat × Bool × Nat))) :=
  starts.mapM fun x => (seqFrom 0 w).mapM fun r => do
    let (nodes, early, caps) ← Cmd.walk bay graph k0 k1 r x false p q 1 1 none x
    return (x :: nodes, early, caps)

theorem flatten_oneSteps {w : Nat} : ∀ {starts : List Nat} {walks : List (List (List Nat × Bool × Nat))},
    List.Forall₂ (fun _ l => l.length = w ∧ ∀ r ∈ l, OneStep r) starts walks →
      walks.flatten.length = starts.length * w ∧ ∀ r ∈ walks.flatten, OneStep r
  | [], [], _ => ⟨(Nat.zero_mul w).symm, nofun⟩
  | x :: starts, l :: walks, .cons h hrest => by
    obtain ⟨hlength, hall⟩ := flatten_oneSteps hrest
    refine ⟨by rw [List.flatten_cons, List.length_append, h.1, hlength, List.length_cons, Nat.succ_mul, Nat.add_comm], fun r hr => ?_⟩
    rw [List.flatten_cons] at hr
    exact (List.mem_append.mp hr).elim (h.2 r) (hall r)

section

variable {flat : List (List Nat × Bool × Nat)} (h : ∀ r ∈ flat, OneStep r)
include h

/-- The record of a walk of one step is two node IDs. -/
theorem length_walkRecords : (flat.flatMap fun r => r.1.flatMap (toLE 8)).length = flat.length * 16 := by
  induction flat with
  | nil => rfl
  | cons r flat ih =>
    obtain ⟨hlength, -, -⟩ := h r (.head _)
    rw [List.flatMap_cons, List.length_append, ih fun r hr => h r (.tail _ hr), List.length_cons, List.length_flatMap]
    simp only [length_toLE, List.map_const', List.sum_replicate_nat, hlength]
    omega

theorem early_oneSteps : flat.filter (fun r => r.2.1) = [] :=
  List.filter_eq_nil_iff.mpr fun r hr => by simp [(h r hr).2.1]

theorem caps_oneSteps : flat.foldl (fun k r => k + r.2.2) 0 = 0 :=
  List.foldlRecOn flat _ (motive := (· = 0)) rfl fun n hn r hr => by rw [hn, (h r hr).2.2]

end

section

variable {t : State} {k bay graph : Nat} {g : List Byte} (hgraph : graphDesc t graph = some g) (hbay : bay ≤ 8) (hclean : t.errs = [])
include hgraph hbay hclean

theorem walksFrom_ends {starts : List Nat} (hnodes : ∀ x ∈ starts, NodeReady t g x ∧ 0 < degreeOf t g x) (k0 k1 w p q : Nat) :
    Ends (Sampling t k) (walksFrom bay graph k0 k1 w p q starts) fun walks env => Sampling t k env ∧
      walks.flatten.length = starts.length * w ∧ ∀ r ∈ walks.flatten, OneStep r := by
  have hwalk {x : Nat} (hx : x ∈ starts) (r : Nat) : Ends (Sampling t k) (do
      let (nodes, early, caps) ← Cmd.walk bay graph k0 k1 r x false p q 1 1 none x
      return (x :: nodes, early, caps)) fun a env => Sampling t k env ∧ OneStep a := by
    obtain ⟨hnode, hdegree⟩ := hnodes x hx
    refine Ends.bind (walk_ends hgraph hbay hclean hnode hdegree k0 k1 r p q) fun a => ?_
    refine Ends.assume (φ := ∃ y, a = ([y], false, 0)) (fun _ h => h.2) fun ⟨y, hy⟩ => ?_
    subst hy
    exact Ends.pure fun _ h => ⟨h.1, rfl, rfl, rfl⟩
  refine (Ends.mapM (R := fun _ l => l.length = w ∧ ∀ r ∈ l, OneStep r) fun x hx => ?_).weaken fun walks env h =>
    ⟨h.1, flatten_oneSteps h.2⟩
  refine (Ends.mapM (R := fun _ a => OneStep a) fun r _ => hwalk hx r).weaken fun l env h => ⟨h.1, ?_, ?_⟩
  · rw [← h.2.length_eq, length_seqFrom]
  · exact ((List.forall₂_and_left (R := fun _ _ => True) _ _).mp (h.2.flip.imp fun _ _ h => ⟨h, trivial⟩)).1

end

/-! ## The end of a body -/

/-- The execution of a command that has written to memory since a state. -/
def Written (u : State) (k : Nat) (env : Env) : Prop := MapStands u env.s ∧ env.s.entries = u.entries ∧ Stays env.s k env

section

variable {u : State} {k : Nat}

theorem Stays.written {env : Env} (h : Stays u k env) : Written u k env := by
  obtain ⟨rfl, hengine, hpoison, hcorrected⟩ := h
  exact ⟨.of_eq rfl rfl rfl rfl, rfl, rfl, hengine, hpoison, hcorrected⟩

/-- Bytes written in reach, where no word has an error pattern and no rule is armed. -/
theorem Written.write {a : Nat} {l : List Byte} (hclean : u.errs = []) (hunarmed : u.undertow = []) (h : reach u a l.length = true) :
    Keeps (Written u k) (Cmd.write a l) := fun env henv => by
  obtain ⟨hmap, hentries, hstays⟩ := henv
  obtain ⟨x, env', hrun, hend⟩ :=
    Stays.write (hmap.errs hclean) (hmap.undertow.trans hunarmed) (reach_mapStands hmap hclean h) env hstays
  have hend' := hend.written
  refine ⟨x, env', hrun, (hmap.trans (pokeBytes_mapStands ..)).trans hend'.1, hend'.2.1.trans ?_, hend'.2.2⟩
  rw [pokeBytes_eq]
  exact hentries

theorem Written.quiet {env : Env} {tag : Nat} (h : Written u k env) (hunarmed : u.undertow = [])
    (htracked : ∃ d, entryOf u tag = some d ∧ d.reruns = 0) : Quiet tag env := by
  obtain ⟨hmap, hentries, hstays⟩ := h
  obtain ⟨d, hd, hreruns⟩ := htracked
  exact hstays.quiet (hmap.undertow.trans hunarmed) ((entryOf_congr hentries _).trans hd) hreruns

theorem Written.readEngine : Ends (Written u k) (MonadState.get : Cmd Env) fun e env => Written u k env ∧ e.engine = k :=
  Ends.get.weaken fun _ _ h => ⟨h.1, h.2 ▸ h.1.2.2.engine⟩

end

/-- Checks that all hold stop nothing. -/
theorem Keeps.checks {P : Env → Prop} {l : List (Bool × Nat)} (h : checksHold l = true) : Keeps P (Cmd.checks l) := by
  unfold Cmd.checks
  rw [lowest_of_checksHold h]
  exact Keeps.pure _

/-- A state in which a sampler's command can start: its graph loaded, nothing armed, no word with an error pattern, its seeds in reach. -/
structure SamplerReady (t : State) (tag : Nat) (c : Entry) (g : List Byte) : Prop where
  graph : graphDesc t (bodyAt c 0 2 % 256) = some g
  clean : t.errs = []
  unarmed : t.undertow = []
  tracked : ∃ d, entryOf t tag = some d ∧ d.reruns = 0
  seeds : reach t (bodyAt c 24 8) (8 * bodyAt c 4 2) = true

/-- The seeds that the body reads. -/
def seedsAt (t : State) (c : Entry) : List Nat := (chunks 8 (bodyAt c 4 2 + 1) (peekBytes t (bodyAt c 24 8) (8 * bodyAt c 4 2))).map leNat

theorem length_seedsAt (t : State) (c : Entry) : (seedsAt t c).length = bodyAt c 4 2 := by
  rw [seedsAt, List.length_map, length_chunks (by decide) (length_peekBytes ..) (Nat.lt_succ_self _)]

/-- RANDOM_WALK of one unbiased step from starts of this shard with neighbours. -/
theorem bodyRandomWalk_ends {t : State} {tag : Nat} {c : Entry} {g : List Byte} (hready : SamplerReady t tag c g)
    (hchecks : checksHold (walkChecks t c) = true) (hsteps : bodyAt c 2 1 = 1) (hunbiased : bit (bodyAt c 6 2) 0 = false)
    (hnodes : ∀ x ∈ seedsAt t c, NodeReady t g x ∧ 0 < degreeOf t g x)
    (hout : reach t (bodyAt c 32 8) (bodyAt c 4 2 * bodyAt c 3 1 * 16) = true) :
    Ends (Stays t 0) (bodyRandomWalk c) fun o env => Quiet tag env ∧ o = ⟨0, 0, 0x5000 + bayOfAddr t (bodyAt c 32 8), 0, 0⟩ := by
  obtain ⟨hgraph, hclean, hunarmed, htracked, hseeds⟩ := hready
  unfold bodyRandomWalk
  refine Ends.bind_of_eq Stays.readState (Keeps.bind (Keeps.checks hchecks) fun _ => ?_)
  rw [hsteps, hunbiased]
  dsimp only
  refine Ends.bind (Stays.enter _) fun _ => Keeps.bind (Stays.declare _ _) fun _ => Ends.bind_of_eq (Stays.read hseeds) ?_
  refine Ends.strengthen (fun env h => h.sampling (.refl t)) ?_
  refine Ends.bind (walksFrom_ends hgraph (bayOfAddr_le ..) hclean hnodes _ _ _ _ _) fun walks => ?_
  refine Ends.assume (fun _ h => h.2) fun ⟨hlength, hone⟩ => Ends.strengthen (fun _ h => h.1) (Sampling.ends fun u hu => ?_)
  rw [length_seedsAt] at hlength
  have hbytes := length_walkRecords hone
  have hunarmed' : u.undertow = [] := hu.undertow.trans hunarmed
  have htracked' : ∃ d, entryOf u tag = some d ∧ d.reruns = 0 := by rwa [entryOf_congr hu.entries]
  refine Ends.strengthen (fun _ h => h.written) ?_
  refine Keeps.bind (Written.write (hu.errs hclean) hunarmed' ?_) fun _ => Ends.bind Written.readEngine fun e => ?_
  · rw [hbytes, hlength]
    exact hu.reach_of hclean hout
  · refine Ends.assume (fun _ h => h.2) fun hengine => Ends.pure fun env h => ⟨h.1.quiet hunarmed' htracked', ?_⟩
    simp only [early_oneSteps hone, caps_oneSteps hone, hengine]
    rfl

end Sys2Proof.Machine
end

section
/-! PROOFS. The block of a SAMPLE of one hop that fits the deduplication table (R77, R80, R81). -/

namespace Sys2Proof.Machine

open Sys2Proof

/-! ## Rows entered in a block -/

/-- One selection of a row entered in the block. -/
def enterStep (cap hop : Nat) (a : Answer) (acc : List (Nat × Nat) × BlockRow × Bool) (p : Nat × Nat) : List (Nat × Nat) × BlockRow × Bool :=
  let w := if a.weights.isEmpty then [] else [(a.weights[p.2]?).getD 0]
  match acc.1.findIdx? (fun n => n.1 = p.1) with
  | some i => (acc.1, ⟨acc.2.1.cols ++ [i], acc.2.1.weights ++ w⟩, acc.2.2)
  | none =>
    if acc.1.length < cap then (acc.1 ++ [(p.1, hop)], ⟨acc.2.1.cols ++ [acc.1.length], acc.2.1.weights ++ w⟩, acc.2.2)
    else (acc.1, acc.2.1, true)

theorem enterRow_eq (cap hop : Nat) (a : Answer) (nodes : List (Nat × Nat)) :
    enterRow cap hop a nodes = a.nums.zipIdx.foldl (enterStep cap hop a) (nodes, ⟨[], []⟩, false) := rfl

/-- A row of a block without weights, of a number of columns at most. -/
def Thin (f : Nat) (r : BlockRow) : Prop := r.cols.length ≤ f ∧ r.weights = []

/-- A row being entered without weights, nothing dropped, in a block of a number of nodes at most. -/
structure Entered (n f : Nat) (acc : List (Nat × Nat) × BlockRow × Bool) : Prop where
  nodes : acc.1.length ≤ n
  thin : Thin f acc.2.1
  kept : acc.2.2 = false

theorem enterStep_entered {cap hop n f : Nat} {a : Answer} {acc : List (Nat × Nat) × BlockRow × Bool} (p : Nat × Nat) (hweights : a.weights = [])
    (hn : n < cap) (h : Entered n f acc) : Entered (n + 1) (f + 1) (enterStep cap hop a acc p) := by
  obtain ⟨hnodes, ⟨hcols, hnone⟩, hkept⟩ := h
  unfold enterStep
  simp only [hweights, List.isEmpty_nil, if_true, List.append_nil]
  split
  · exact ⟨Nat.le_succ_of_le hnodes, ⟨by simp; omega, hnone⟩, hkept⟩
  · rw [if_pos (by omega)]
    exact ⟨by simp; omega, ⟨by simp; omega, hnone⟩, hkept⟩

/-- A row whose selections all find a place is entered whole. -/
theorem enterRow_entered {cap hop n : Nat} {a : Answer} {nodes : List (Nat × Nat)} (hweights : a.weights = []) (hnodes : nodes.length ≤ n)
    (hcap : n + a.nums.length ≤ cap) : Entered (n + a.nums.length) a.nums.length (enterRow cap hop a nodes) := by
  have hfold : ∀ (l : List (Nat × Nat)) (m f : Nat) (acc : List (Nat × Nat) × BlockRow × Bool), Entered m f acc → m + l.length ≤ cap →
      Entered (m + l.length) (f + l.length) (l.foldl (enterStep cap hop a) acc) := by
    intro l
    induction l with
    | nil => exact fun m f acc h _ => h
    | cons p l ih =>
      intro m f acc h hm
      rw [List.length_cons] at hm
      have hrest := ih (m + 1) (f + 1) (enterStep cap hop a acc p) (enterStep_entered p hweights (by omega) h) (by omega)
      rwa [List.length_cons, Nat.add_comm l.length, ← Nat.add_assoc, ← Nat.add_assoc]
  have h := hfold a.nums.zipIdx n 0 (nodes, ⟨[], []⟩, false) ⟨hnodes, ⟨Nat.zero_le _, rfl⟩, rfl⟩ (by simpa using hcap)
  rw [enterRow_eq]
  simpa using h

/-! ## The hop -/

/-- What a hop that fits the table has made of a block of `n` nodes: `rows` thin rows, nothing dropped. -/
structure HopFits (n rows f : Nat) (r : Block × List BlockRow) : Prop where
  full : r.1.full = false
  nodes : r.1.nodes.length ≤ n
  rows : r.2.length = rows
  thin : ∀ row ∈ r.2, Thin f row

section

variable {P : Env → Prop} {expand : Nat → Cmd Answer} {cap f : Nat}

/-- The rows of a hop, where each node expanded gives at most the fanout and the table has room for them all. -/
theorem hopRows_ends (hop : Nat) (trunc : Bool) : ∀ {ns : List Nat} {b : Block} {rows : List BlockRow} {n m : Nat},
    (∀ x ∈ ns, Ends P (expand x) fun a env => P env ∧ a.nums.length ≤ f ∧ a.weights = []) → HopFits n m f (b, rows) →
    n + ns.length * f ≤ cap →
    Ends P (Cmd.hopRows expand cap hop trunc ns b rows) fun r env => P env ∧ HopFits (n + ns.length * f) (m + ns.length) f r
  | [], b, rows, n, m, _, hfits, _ => Ends.pure fun _ h => ⟨h, by simpa using hfits⟩
  | x :: ns, b, rows, n, m, hexpand, hfits, hcap => by
    obtain ⟨hfull, hnodes, hrows, hthin⟩ := hfits
    simp only at hfull hnodes hrows hthin
    rw [List.length_cons, Nat.succ_mul] at hcap ⊢
    unfold Cmd.hopRows
    rw [hfull]
    refine Ends.bind (hexpand x (.head _)) fun a => Ends.assume (fun _ h => h.2) fun ⟨hshort, hweights⟩ => ?_
    refine Ends.strengthen (fun _ h => h.1) ?_
    obtain ⟨hnodes', ⟨hcols, hnone⟩, hkept⟩ := enterRow_entered (cap := cap) (hop := hop) hweights hnodes (by omega)
    have hgrown : ∀ row ∈ rows ++ [(enterRow cap hop a b.nodes).2.1], Thin f row := fun row hrow =>
      (List.mem_append.mp hrow).elim (hthin row) fun h => by
        rw [List.mem_singleton.mp h]
        exact ⟨hcols.trans hshort, hnone⟩
    have hrest := hopRows_ends hop trunc (b := { b with
        nodes := (enterRow cap hop a b.nodes).1, flags := b.flags ||| a.flags, full := b.full || (enterRow cap hop a b.nodes).2.2 })
      (rows := rows ++ [(enterRow cap hop a b.nodes).2.1]) (n := n + f) (m := m + 1) (fun x hx => hexpand x (.tail _ hx))
      ⟨by simp [hfull, hkept], by dsimp only; omega, by simp [hrows], hgrown⟩ (by omega)
    rw [Nat.add_assoc n, Nat.add_comm f, Nat.add_assoc m, Nat.add_comm 1] at hrest
    rw [hfull] at hrest
    exact hrest

end

/-- A block of one hop that holds all the rows of `n` seeds. -/
structure OneHop (n f : Nat) (b : Block) : Prop where
  full : b.full = false
  nodes : b.nodes.length ≤ n * (1 + f)
  hops : ∃ rows, b.hops = [rows] ∧ rows.length = n ∧ ∀ row ∈ rows, Thin f row

/-- Seeds whose block fits the table are all covered at the first attempt. -/
theorem fitBlock_ends {P : Env → Prop} {expand : Nat → Nat → Cmd Answer} {cap f n : Nat} {seeds : List Nat} (hn : seeds.length = n)
    (hexpand : ∀ x ∈ seeds, Ends P (expand 1 x) fun a env => P env ∧ a.nums.length ≤ f ∧ a.weights = []) (hsome : 1 ≤ n)
    (hcap : n * (1 + f) ≤ cap) :
    Ends P (Cmd.fitBlock expand cap 1 seeds n) fun r env => P env ∧ r.2 = n ∧ OneHop n f r.1 := by
  rw [Nat.mul_add, Nat.mul_one, ← hn] at hcap
  obtain ⟨m, rfl⟩ : ∃ m, n = m + 1 := ⟨n - 1, by omega⟩
  have hall : seeds.take (m + 1) = seeds := List.take_of_length_le hn.le
  have hids : (seeds.map fun x => (x, 0)).map (fun n : Nat × Nat => n.1) = seeds := by
    rw [List.map_map]
    exact List.map_id _
  have hrows := hopRows_ends (cap := cap) 1 (decide (m = 0)) (b := ⟨seeds.map fun x => (x, 0), [], [m + 1], 0, false⟩) (rows := [])
    (n := seeds.length) (m := 0) hexpand ⟨rfl, by simp, rfl, nofun⟩ hcap
  rw [hn] at hrows
  unfold Cmd.fitBlock
  rw [hall, show seqFrom 1 1 = [1] from rfl]
  simp only [Cmd.buildBlock, Bool.false_and, Bool.false_eq_true, if_false, hids, bind_assoc, pure_bind]
  refine Ends.bind hrows fun r => Ends.assume (fun _ h => h.2) fun ⟨hfull, hnodes, hlength, hthin⟩ => ?_
  refine Ends.strengthen (fun _ h => h.1) ?_
  rw [hfull]
  refine Ends.pure fun _ h => ⟨h, rfl, rfl, ?_, r.2, rfl, by omega, hthin⟩
  rw [Nat.mul_add, Nat.mul_one]
  exact hnodes

/-! ## The sizes of the output (R76) -/

theorem length_rowPtrs : ∀ (start : Nat) (rows : List BlockRow), (rowPtrs start rows).length = rows.length + 1
  | _, [] => rfl
  | start, r :: rows => by rw [rowPtrs, List.length_cons, length_rowPtrs, List.length_cons]

theorem length_words (n : Nat) (l : List Nat) : (l.flatMap (toLE n)).length = n * l.length := by
  simp [List.length_flatMap, length_toLE, Nat.mul_comm]

/-- The section of a hop of thin rows. -/
theorem length_hopSection {f : Nat} {rows : List BlockRow} (h : ∀ row ∈ rows, Thin f row) :
    (hopSection rows).length ≤ up64 (4 * (rows.length + 1) + 4 * rows.length * f) := by
  have hcols : (rows.flatMap fun r => r.cols.flatMap (toLE 4)).length ≤ 4 * rows.length * f := by
    induction rows with
    | nil => exact Nat.zero_le _
    | cons r rows ih =>
      obtain ⟨hr, -⟩ := h r (.head _)
      have hrest := ih fun row hrow => h row (.tail _ hrow)
      rw [List.flatMap_cons, List.length_append, length_words, List.length_cons, Nat.mul_succ, Nat.add_mul]
      omega
  have hweights : (rows.flatMap fun r => r.weights.flatMap (toLE 4)) = [] :=
    List.flatMap_eq_nil_iff.mpr fun r hr => by rw [(h r hr).2]; rfl
  unfold hopSection pad64 up64 ceilDiv
  rw [length_padTo, hweights, List.append_nil, List.length_append, length_words, length_rowPtrs]
  omega

end Sys2Proof.Machine
end

section
/-! PROOFS. SAMPLE of one hop and RANDOM_WALK of one step as commands (R77, R79 to R81, R84, R87). -/

namespace Sys2Proof.Machine

open Sys2Proof

/-- A node of this shard expanded for a SAMPLE. -/
theorem expand_ends {t : State} {k bay graph : Nat} {g : List Byte} (hgraph : graphDesc t graph = some g) (hbay : bay ≤ 8)
    (hclean : t.errs = []) {x : Nat} (hnode : NodeReady t g x) (k0 k1 hop : Nat) {mode : Nat} (f : Nat) (capRule : Bool)
    (hmode : mode ∈ [0, 1, 4]) : Ends (Sampling t k) (Cmd.expand bay graph k0 k1 hop mode f capRule false x) fun a env =>
      Sampling t k env ∧ a.nums.length ≤ f ∧ a.weights = [] := by
  refine Sampling.ends fun u hu => ?_
  have hnode' := hnode.stands hu hclean
  unfold Cmd.expand
  refine Ends.bind_of_eq Stays.readState ?_
  rw [if_pos hnode'.own]
  refine (expandLocal_ends ((hu.graphDesc_eq graph).trans hgraph) hnode' bay k0 k1 hop f capRule hmode).weaken fun a env h => ?_
  obtain ⟨⟨n, hstays⟩, hshort, hweights⟩ := h
  exact ⟨hstays.sampling (hu.trans (countedRow_samplerStands _ _ _ _ _ _ hbay)), hshort, hweights⟩

/-- What the checks of a SAMPLE of one hop without edge weights say (R75, R76, R87). -/
theorem sampleChecks_facts {s : State} {e : Entry} (h : checksHold (sampleChecks s e) = true) (hhops : bodyAt e 2 1 = 1)
    (hplain : bit (bodyAt e 6 2) 0 = false) :
    (1 ≤ bodyAt e 4 2 ∧ bodyAt e 4 2 ≤ 4096) ∧ 0x400000000000 ≤ bodyAt e 48 8 ∧
      up64 (4 * (bodyAt e 4 2 + 1) + 4 * bodyAt e 4 2 * bodyAt e 8 2) +
        (64 + 8 * min (s.fieldAt Reg.DEDUP_CAP 16 0) (bodyAt e 4 2 * (1 + bodyAt e 8 2))) ≤ bodyAt e 40 4 := by
  simp only [sampleChecks, checksHold, List.all_cons, Bool.and_eq_true, decide_eq_true_eq, hhops, hplain] at h
  obtain ⟨-, -, -, ⟨hlow, hhigh, -⟩, -, -, -, -, hdedup, -, hroom, -⟩ := h
  exact ⟨⟨hlow, hhigh⟩, dedupOk_low hdedup, hroom⟩

/-- The nodes of a block, as its output lists them. -/
def nodeList (b : Block) : List Byte := b.nodes.flatMap fun p => toLE 8 (p.1 + 2 ^ 48 * p.2)

/-- The node list and the section of a block of one hop are no longer than the minimum of OUT_BYTES, but for the list's padding (R76). -/
theorem output_fits {n f cap room : Nat} {b : Block} (hone : OneHop n f b) (hfits : n * (1 + f) ≤ cap)
    (hroom : up64 (4 * (n + 1) + 4 * n * f) + (64 + 8 * min cap (n * (1 + f))) ≤ room) :
    64 ≤ up64 (64 + (nodeList b).length) ∧ up64 (64 + (nodeList b).length) + (b.hops.flatMap hopSection).length ≤ room + 64 := by
  obtain ⟨-, hnodes, rows, hhops, rfl, hthin⟩ := hone
  have hsection := length_hopSection hthin
  have hlist : (nodeList b).length = 8 * b.nodes.length := by simp [nodeList, List.length_flatMap, length_toLE, Nat.mul_comm]
  rw [Nat.min_eq_right hfits] at hroom
  rw [hlist, hhops, List.flatMap_singleton]
  have hpadded : up64 (64 + 8 * b.nodes.length) ≤ 64 + 8 * b.nodes.length + 63 := by unfold up64 ceilDiv; omega
  have hlow : 64 ≤ up64 (64 + 8 * b.nodes.length) := by unfold up64 ceilDiv; omega
  omega

theorem length_four (fill : Nat) (l : List Nat) : (four fill l).length = 4 := by simp [four]

/-- SAMPLE of one hop whose block fits the table. -/
theorem bodySample_ends {t : State} {tag : Nat} {c : Entry} {g : List Byte} (hready : SamplerReady t tag c g)
    (hchecks : checksHold (sampleChecks t c) = true) (hhops : bodyAt c 2 1 = 1) (hmode : bodyAt c 3 1 ∈ [0, 1, 4])
    (hplain : bit (bodyAt c 6 2) 0 = false) (hfits : bodyAt c 4 2 * (1 + bodyAt c 8 2) ≤ t.fieldAt Reg.DEDUP_CAP 16 0)
    (hnodes : ∀ x ∈ seedsAt t c, NodeReady t g x) (hout : reach t (bodyAt c 32 8) (bodyAt c 40 4 + 64) = true) :
    Ends (Stays t 0) (bodySample c) fun o env => Quiet tag env ∧
      DoneIn (0x5000 + bayOfAddr t (bodyAt c 48 8)) o ∧ o.result % 2 ^ 16 = bodyAt c 4 2 := by
  obtain ⟨hgraph, hclean, hunarmed, htracked, hseeds⟩ := hready
  obtain ⟨⟨hsome, hfew⟩, hdedup, hroom⟩ := sampleChecks_facts hchecks hhops hplain
  unfold bodySample
  refine Ends.bind_of_eq Stays.readState (Keeps.bind (Keeps.checks hchecks) fun _ => ?_)
  rw [hhops, hplain]
  dsimp only
  refine Ends.bind (Stays.enter _) fun _ => Keeps.bind (Stays.declare _ _) fun _ => Keeps.bind (Stays.declare _ _) fun _ => ?_
  refine Ends.bind_of_eq (Stays.read hseeds) (Ends.bind (Stays.update _) fun _ => ?_)
  refine Ends.strengthen (fun env h => h.sampling (undefDevice_samplerStands _ t _ _ hdedup)) ?_
  refine Ends.bind (fitBlock_ends (length_seedsAt t c) (fun x hx =>
    expand_ends hgraph (bayOfAddr_le ..) hclean (hnodes x hx) _ _ 1 _ _ hmode) hsome hfits) fun r => ?_
  refine Ends.assume (fun _ h => h.2) fun ⟨hcovered, hone⟩ => Ends.strengthen (fun _ h => h.1) (Sampling.ends fun u hu => ?_)
  obtain ⟨hlow, hhigh⟩ := output_fits hone hfits hroom
  have hwhole : (decide (r.2 < bodyAt c 4 2) || r.1.full && decide (1 < bodyAt c 4 2)) = false := by simp [hcovered, hone.full]
  simp only [nodeList] at hlow hhigh
  have hout' := hu.reach_of hclean hout
  have hclean' := hu.errs hclean
  have hunarmed' : u.undertow = [] := hu.undertow.trans hunarmed
  have htracked' : ∃ d, entryOf u tag = some d ∧ d.reruns = 0 := by rwa [entryOf_congr hu.entries]
  refine Ends.strengthen (fun _ h => h.written) ?_
  refine Keeps.bind (Written.write hclean' hunarmed' (reach_part hout' (by omega) (by rw [length_padTo]; omega))) fun _ => ?_
  refine Keeps.bind (Written.write hclean' hunarmed' (reach_part hout' (by omega) (by omega))) fun _ => ?_
  rw [hwhole, Bool.false_and, Bool.false_and, if_neg Bool.false_ne_true]
  refine Keeps.bind (Written.write hclean' hunarmed' (reach_part hout' (Nat.le_refl _) ?_)) fun _ => Ends.bind Written.readEngine fun x => ?_
  · simp only [List.length_append, length_toLE, length_words, length_four]
    omega
  · refine Ends.assume (fun _ h => h.2) fun hengine => Ends.pure fun env h => ⟨h.1.quiet hunarmed' htracked', ⟨rfl, rfl, hengine⟩, ?_⟩
    dsimp only
    omega

section

variable {s t : State} {e c : Entry} {g : List Byte} (h : Launched s e t c) (hclean : s.errs = [])
  (hseeds : reach s (bodyAt e 24 8) (8 * bodyAt e 4 2) = true)
include h hclean hseeds

theorem Launched.samplerReady (hgraph : graphDesc s (bodyAt e 0 2 % 256) = some g) (hunarmed : s.undertow = []) (hreruns : e.reruns = 0) :
    SamplerReady t e.tag c g where
  graph := by rw [h.bodyAt_eq, h.graphDesc_eq, hgraph]
  clean := h.alike.errs.trans hclean
  unarmed := h.undertow.trans hunarmed
  tracked := ⟨c, h.tracked, h.reruns.trans hreruns⟩
  seeds := by rw [h.bodyAt_eq, h.alike.reach_eq, hseeds]

/-- The body reads the seeds that the checks read. -/
theorem Launched.seedsAt_eq (hsome : 1 ≤ bodyAt e 4 2) : seedsAt t c = trySeeds s (bodyAt e 24 8) (bodyAt e 4 2) := by
  rw [trySeeds_of_reach hclean hsome hseeds, seedsAt, h.bodyAt_eq, h.alike.peekBytes_eq]

end

theorem Launched.nodeReady {s t : State} {e c : Entry} {g : List Byte} {x : Nat} (h : Launched s e t c) (hx : nodeReady s g x = true) :
    NodeReady t g x := nodeReady_of (by rw [h.alike.nodeReady_eq, hx])

/-- What the checks of a RANDOM_WALK say of its number of starts (R87). -/
theorem walkChecks_some {s : State} {e : Entry} (h : checksHold (walkChecks s e) = true) : 1 ≤ bodyAt e 4 2 := by
  simp only [walkChecks, checksHold, List.all_cons, Bool.and_eq_true, decide_eq_true_eq] at h
  obtain ⟨-, -, ⟨hsome, -⟩, -⟩ := h
  exact hsome

/-- Settles O54: the command is dispatched, and its body finds the seeds that its checks read, expands each of them here and writes what it
has made. -/
theorem samplingCommandsComplete : Obligations.SamplingCommandsComplete := by
  unfold Obligations.SamplingCommandsComplete
  intro s tag e g n hgraph hn hseeds
  subst hn
  refine ⟨fun hlaunch hchecks hhops hmode hplain hfits hnodes hout => ?_, fun hlaunch hchecks hsteps hunbiased hnodes hout => ?_⟩
  · obtain ⟨-, -, -, -, hreruns, -, -, -, -, -, -, hclean, hunarmed⟩ := id hlaunch
    obtain ⟨⟨hsome, -⟩, -, -⟩ := sampleChecks_facts hchecks hhops hplain
    refine launchedPlain_executes (body := bodySample) (by simp [unitRows]) hlaunch (by decide) fun t c h => ?_
    have hends := bodySample_ends (h.samplerReady hclean hseeds hgraph hunarmed hreruns) (by rwa [h.sampleChecks_eq])
    rw [h.seedsAt_eq hclean hseeds hsome, h.bodyAt_eq, h.fieldAt_eq, h.alike.reach_eq, h.bayOfAddr_eq] at hends
    exact hends hhops hmode hplain hfits (fun x hx => h.nodeReady (hnodes x hx)) hout
  · obtain ⟨-, -, -, -, hreruns, -, -, -, -, -, -, hclean, hunarmed⟩ := id hlaunch
    refine launchedPlain_executes (body := bodyRandomWalk) (by simp [unitRows]) hlaunch (by decide) fun t c h => ?_
    have hends := bodyRandomWalk_ends (h.samplerReady hclean hseeds hgraph hunarmed hreruns) (by rwa [h.walkChecks_eq])
    rw [h.seedsAt_eq hclean hseeds (walkChecks_some hchecks), h.bodyAt_eq, h.alike.reach_eq, h.bayOfAddr_eq] at hends
    refine hends hsteps hunbiased (fun x hx => ?_) hout
    obtain ⟨hnode, hdegree⟩ := hnodes x hx
    exact ⟨h.nodeReady hnode, by rwa [degreeOf, h.alike.rowBounds_eq]⟩

end Sys2Proof.Machine
end

section
/-! PROOFS. A migrated row's copy that finds no table, received while no port is UP: its answer waits for a route and FAB_NOROUTE counts it
(R110, R111, R280, R282). -/

namespace Sys2Proof.Machine

open Sys2Proof

theorem exec_migrationCopyReceive (h : MsgHead) (table row tide : Nat) (switch : Bool) (im : RowImage) (s : State) :
    exec (.migrationCopyReceive h table row tide switch im) s =
      act (whenReady (onMessage h 1 (migrationArrives h table row tide switch im))) s := rfl

/-! ## Messages without a route (R280, R282) -/

/-- No port is UP. -/
def Unlinked (s : State) : Prop := ∀ p, p < 8 → portUp s p = false

theorem Unlinked.routePort_eq {s : State} (h : Unlinked s) (dest : Nat) : routePort s dest = none :=
  List.find?_eq_none.mpr fun p _ => by
    by_cases hp : p < 8
    · simp [h p hp]
    · simp [hp]

/-- A flit that no port can take waits, and is counted. -/
theorem Unlinked.routeFlit_eq {s : State} (h : Unlinked s) (q : QFlit) : routeFlit s q =
    { s.count Reg.FAB_NOROUTE 1 with fab := { (s.count Reg.FAB_NOROUTE 1).fab with noRoute := s.fab.noRoute ++ [q] } } := by
  unfold routeFlit
  simp only [h.routePort_eq]
  cases s.fab.routes.find? fun r => r.1 = routeKey q with
  | none => rfl
  | some r => simp only [h _ (Nat.mod_lt _ (by decide)), Bool.false_eq_true, if_false]

theorem Unlinked.routeFlit {s : State} (h : Unlinked s) (q : QFlit) : Unlinked (routeFlit s q) := fun p hp => by
  have hstatus : (Machine.routeFlit s q).reg (Reg.PORT_STATUS p) = s.reg (Reg.PORT_STATUS p) :=
    (routeFlit_only s q).2 _ (by unfold Reg.PORT_STATUS Reg.FAB_NOROUTE; omega)
  have hup := h p hp
  unfold portUp portState State.fieldAt at hup ⊢
  rwa [hstatus]

/-- A message that no port can take leaves FAB_NOROUTE above 0. -/
theorem Unlinked.noRoute_counted {s : State} (h : Unlinked s) {dest : Nat} (hdest : dest ≠ ownId s) (c : Content) :
    (sendMessage s dest c).2.reg Reg.FAB_NOROUTE ≠ 0 := by
  have hparts : ∀ fuel bytes, cutPayload bytes fuel ≠ [] := fun fuel bytes => by
    cases fuel with
    | zero => simp [cutPayload]
    | succ fuel => unfold cutPayload; split <;> simp
  obtain ⟨flits, q, hflits⟩ : ∃ flits q, messageFlits s dest (numberMessage s dest c).1 c = flits ++ [q] := by
    have hsome : messageFlits s dest (numberMessage s dest c).1 c ≠ [] := by simp [messageFlits, hparts]
    exact ⟨_, _, (List.dropLast_append_getLast hsome).symm⟩
  have hlast : Unlinked (flits.foldl Machine.routeFlit (numberMessage s dest c).2) :=
    List.foldlRecOn flits _ (motive := Unlinked) h fun _ ht q _ => ht.routeFlit q
  have hsent : (sendMessage s dest c).2 = Machine.routeFlit (flits.foldl Machine.routeFlit (numberMessage s dest c).2) q := by
    show (if dest = ownId s then _ else (_, (messageFlits s dest (numberMessage s dest c).1 c).foldl _ _)).2 = _
    rw [if_neg hdest, hflits, List.foldl_append]
    rfl
  intro hzero
  have hcount := toNat_count (flits.foldl Machine.routeFlit (numberMessage s dest c).2) Reg.FAB_NOROUTE 1
  rw [hsent, hlast.routeFlit_eq q] at hzero
  rw [show State.reg (State.count _ _ _) _ = 0 from hzero] at hcount
  unfold satAdd32 at hcount
  split at hcount <;> simp at hcount

/-! ## A copy for a module without the table -/

/-- The head of a copy from module 2. -/
def copyHead : MsgHead := ⟨2, 1, 5, false⟩

/-- A READY module, its ports DOWN, that has received a copy for a table it has not loaded. -/
def copyUnrouted : State :=
  let s := State.reset.setReg Reg.BOOT_STATUS 0x80000000
  { s with fab := { s.fab with inbox := [⟨copyHead, 1, [], []⟩] } }

theorem copyUnrouted_unlinked : Unlinked (takeMessage copyUnrouted copyHead) := by
  unfold Unlinked
  decide +kernel

/-- Refutes O32: a copy that finds no table changes more than what the fabric holds where no port is UP, for FAB_NOROUTE counts its answer. -/
theorem not_migrationMovesARow : ¬ Obligations.MigrationMovesARow := by
  unfold Obligations.MigrationMovesARow
  intro h
  obtain ⟨-, -, hnoRoom, -⟩ := h copyUnrouted copyHead 0 0 0 ⟨0, [], [], []⟩
  have hready : solocReady copyUnrouted = true := by decide +kernel
  have hfresh : Fresh copyUnrouted copyHead 1 := by unfold Fresh; decide +kernel
  obtain ⟨t, hnext, -, hframe, -⟩ := hnoRoom hready hfresh rfl
  obtain ⟨u, hnext', hregs, -⟩ := act_leaves ((whenReady_true hready).trans (onMessage_of_fresh _ hfresh))
  obtain rfl : t = u := Host.Outcome.next.inj (hnext.symm.trans ((exec_migrationCopyReceive ..).trans hnext'))
  have hcounted := copyUnrouted_unlinked.noRoute_counted (dest := 2) (by decide +kernel) ⟨.ack, [1, 5, 1], []⟩
  refine hcounted ?_
  have hstands : t.reg Reg.FAB_NOROUTE = 0 := by rw [hframe]; rfl
  exact (reg_congr hregs Reg.FAB_NOROUTE).symm.trans hstands

end Sys2Proof.Machine
end

section
/-! PROOFS. Housekeeping of the gather units: old slots released, migrations ended, hot rows measured (R105, R109, R111, R343). -/

namespace Sys2Proof.Machine

open Sys2Proof

theorem exec_slotRelease (table slot : Nat) (s : State) : exec (.slotRelease table slot) s = act (releaseSlot table slot) s := rfl

theorem exec_migrateGraceExpiry (table row time : Nat) (s : State) :
    exec (.migrateGraceExpiry table row time) s = actAt time (fun s => releaseMigrated s table row s.now) s := rfl

theorem exec_hotrowSnapshot (time : Nat) (s : State) : exec (.hotrowSnapshot time) s =
    actAt time (fun s => if solocReady s && snapshotDue s s.now then hotrowPolicy (snapshotAll s) else s) s := rfl

/-! ## Slots returned (R105) -/

theorem returnSlot_merge (s : State) (d : List Byte) (tier slot : Nat) : MergeOnly s (returnSlot s d tier slot) :=
  (storeBytes_merge s _ _).trans (storeBytes_merge _ _ _)

/-- Where no word has an error, a slot returned is two writes: the entry at the tail, and the tail. -/
theorem returnSlot_clean {s : State} (d : List Byte) (tier slot : Nat) (hclean : s.errs = []) : returnSlot s d tier slot =
    pokeBytes (pokeBytes s (tRing d + 64 + 8 * (leNat (unitBytes s (tRing d + 4) 4) % tRingSize d)) (toLE 8 (slot % 2 ^ 40 + 2 ^ 63 * tier)))
      (tRing d + 4) (toLE 4 ((leNat (unitBytes s (tRing d + 4) 4) + 1) % tRingSize d)) := by
  unfold returnSlot
  dsimp only
  rw [storeBytes_clean _ _ hclean, storeBytes_clean _ _ ((pokeBytes_mapStands ..).errs hclean)]

/-- The free ring of a table lies in skerry memory and has entries. -/
structure RingReady (d : List Byte) : Prop where
  low : 0x010000000000 ≤ tRing d
  some : 0 < tRingSize d
  high : tRing d + 64 + 8 * tRingSize d ≤ 0x020000000000

/-- The slot returned stands at the old tail, and the tail is one further. -/
theorem returnSlot_stored {s : State} {d : List Byte} (tier slot : Nat) (hclean : s.errs = []) (h : RingReady d) {tail : Nat}
    (htail : tail = leNat (peekBytes s (tRing d + 4) 4)) :
    leNat (peekBytes (returnSlot s d tier slot) (tRing d + 4) 4) = (tail + 1) % tRingSize d % 2 ^ 32 ∧
      leNat (peekBytes (returnSlot s d tier slot) (tRing d + 64 + 8 * (tail % tRingSize d)) 8) = (slot % 2 ^ 40 + 2 ^ 63 * tier) % 2 ^ 64 := by
  obtain ⟨hlow, hsome, hhigh⟩ := h
  have hreach : reach s (tRing d + 4) 4 = true := reach_skerry hclean (by simp only [skerryRange, Bool.and_eq_true, decide_eq_true_eq]; omega)
  have hslot : tail % tRingSize d < tRingSize d := Nat.mod_lt _ hsome
  rw [returnSlot_clean d tier slot hclean, unitBytes_of_reach hreach, ← htail]
  generalize tail % tRingSize d = k at hslot
  constructor
  · have hstored := peekBytes_pokeBytes_skerry (pokeBytes s (tRing d + 64 + 8 * k) (toLE 8 (slot % 2 ^ 40 + 2 ^ 63 * tier))) (tRing d + 4)
      (toLE 4 ((tail + 1) % tRingSize d)) (by omega) (by rw [length_toLE]; omega)
    rw [length_toLE] at hstored
    rw [hstored, leNat_toLE]
    rfl
  · have hstored := peekBytes_pokeBytes_skerry s (tRing d + 64 + 8 * k) (toLE 8 (slot % 2 ^ 40 + 2 ^ 63 * tier)) (by omega)
      (by rw [length_toLE]; omega)
    rw [length_toLE] at hstored
    rw [peekBytes_pokeBytes_disjoint _ _ (by omega) (by omega) (by omega) (by rw [length_toLE]; omega) (.inr (by rw [length_toLE]; omega)),
      hstored, leNat_toLE]
    rfl

section

variable {s : State} {table slot : Nat} {r : Release} {d : List Byte}
  (hfound : s.gath.releases.find? (fun r => decide (r.table = table) && decide (r.slot = slot)) = some r) (htable : tableDesc s table = some d)
include hfound htable

/-- A slot that readers or a drain still need is not returned. -/
theorem releaseSlot_of_needed (hneeded : releaseReady s r = false ∨ drainsSlot s table slot = true) : releaseSlot table slot s = s := by
  have hwaits : (releaseReady s r && !drainsSlot s table slot) = false := by
    obtain h | h := hneeded <;> simp [h]
  simp only [releaseSlot, hfound, htable, hwaits, Bool.false_eq_true, if_false]

theorem releaseSlot_of_ready (hready : releaseReady s r = true) (hdrained : drainsSlot s table slot = false) :
    releaseSlot table slot s = returnSlot (dropRelease s r) d (slot / 2 ^ 63) (slot % 2 ^ 63) := by
  simp only [releaseSlot, hfound, htable, hready, hdrained, Bool.not_false, Bool.and_self, if_true]

end

/-- A release dropped leaves the rest of the state. -/
theorem dropRelease_readAlike (s : State) (r : Release) : ReadAlike s (dropRelease s r) := ⟨rfl, rfl, rfl, rfl, rfl⟩

/-- SLOT_RELEASE of a slot that nothing needs any more. -/
theorem slotRelease_returns {s : State} {table slot : Nat} {r : Release} {d : List Byte}
    (hrow : releaseSlot table slot s = returnSlot (dropRelease s r) d (slot / 2 ^ 63) (slot % 2 ^ 63)) :
    ∃ t, exec (.slotRelease table slot) s = .next t ∧ t.gath = { s.gath with releases := s.gath.releases.erase r } ∧ t.entries = s.entries ∧
      (s.errs = [] → t = { s with gath := t.gath, mem := t.mem, undef := t.undef } ∧
        ∀ tail, tail = leNat (peekBytes s (tRing d + 4) 4) → 0x010000000000 ≤ tRing d → 0 < tRingSize d →
          tRing d + 64 + 8 * tRingSize d ≤ 0x020000000000 →
          leNat (peekBytes t (tRing d + 4) 4) = (tail + 1) % tRingSize d % 2 ^ 32 ∧
          leNat (peekBytes t (tRing d + 64 + 8 * (tail % tRingSize d)) 8) =
            (slot % 2 ^ 63 % 2 ^ 40 + 2 ^ 63 * (slot / 2 ^ 63)) % 2 ^ 64) := by
  obtain ⟨hframe, -⟩ := returnSlot_merge (dropRelease s r) d (slot / 2 ^ 63) (slot % 2 ^ 63)
  refine ⟨_, (exec_slotRelease ..).trans (act_eq_of_eq hrow (by rw [hframe]; rfl) (by rw [hframe]; rfl) (by rw [hframe]; rfl)),
    by rw [hframe]; rfl, by rw [hframe]; rfl, fun hclean => ⟨?_, fun tail htail hlow hsome hhigh => ?_⟩⟩
  · rw [returnSlot_clean d _ _ (show (dropRelease s r).errs = [] from hclean), pokeBytes_eq, pokeBytes_eq]
    rfl
  · exact returnSlot_stored _ _ (show (dropRelease s r).errs = [] from hclean) ⟨hlow, hsome, hhigh⟩
      (htail.trans (congrArg leNat ((dropRelease_readAlike s r).peekBytes_eq ..).symm))

/-! ## Memory while time passes (R420) -/

/-- The two states agree in memory and its errors, and in the registers that the address map and the codewords depend on. -/
structure MapAlike (s t : State) : Prop where
  reg : ∀ off, 0x50000 ≤ off → t.reg off = s.reg off
  bays : t.reg Reg.BAY_ENABLE_MASK = s.reg Reg.BAY_ENABLE_MASK
  pci : t.pci = s.pci
  mem : t.mem = s.mem
  undef : t.undef = s.undef
  errs : t.errs = s.errs

theorem passTime_mapAlike (s : State) (time : Nat) : MapAlike s (passTime s time) :=
  ⟨fun off h => passTime_reg s time off (by unfold Reg.CMD_STALL_COUNT; omega) (by unfold Reg.FLOOR_TIME; omega),
    passTime_reg s time _ (by decide) (by decide), rfl, rfl, rfl, rfl⟩

section

variable {s t : State} (h : MapAlike s t)
include h

theorem MapAlike.fieldAt_eq {off : Nat} (hoff : 0x50000 ≤ off) (hi lo : Nat) : t.fieldAt off hi lo = s.fieldAt off hi lo :=
  congrArg (fld · hi lo) (h.reg off hoff)

theorem MapAlike.bitAt_eq {off : Nat} (hoff : 0x50000 ≤ off) (i : Nat) : t.bitAt off i = s.bitAt off i := bitAt_congr (h.reg off hoff) i

theorem MapAlike.pair_eq {off : Nat} (hoff : 0x50000 ≤ off) : t.pair off = s.pair off := by
  rw [State.pair, State.pair, h.reg off hoff, h.reg (off + 4) (by omega)]

theorem MapAlike.locate_eq (a : Nat) : locate t a = locate s a := by
  have hbay (b : Nat) : bayEnabled t b = bayEnabled s b := bitAt_congr h.bays b
  have hloaded (w : Nat) : winLoaded t w = winLoaded s w := h.bitAt_eq (by decide) w
  have hbase (w : Nat) : winBase t w = winBase s w := by rw [winBase, winBase, h.pair_eq (Nat.le_add_right ..)]
  have hend (w : Nat) : winEnd t w = winEnd s w := by rw [winEnd, winEnd, h.pair_eq (by unfold Reg.PLACE_WIN_LIMIT_LO; omega)]
  have hpbase (w : Nat) : winPbase t w = winPbase s w := by rw [winPbase, winPbase, h.pair_eq (by unfold Reg.PLACE_WIN_PBASE_LO; omega)]
  have hmode (w : Nat) : winMode t w = winMode s w := h.fieldAt_eq (by unfold Reg.PLACE_WIN_MODE; omega) 1 0
  have hstack (w : Nat) : winStack t w = winStack s w := h.fieldAt_eq (by unfold Reg.PLACE_WIN_STACK; omega) 2 0
  have hcapacity (st : Nat) : stackCapacity t st = stackCapacity s st := by
    rw [stackCapacity, stackCapacity, h.fieldAt_eq (by unfold Reg.STACK_CAPACITY; omega)]
  unfold locate windowOf
  simp only [hbay, hloaded, hbase, hend, hpbase, hmode, hstack, hcapacity, h.pci]

theorem MapAlike.wordState_eq (p : Located) : wordState t p = wordState s p := by
  have herrors (k : Nat) : errorsAt t k = errorsAt s k := by unfold errorsAt; rw [h.errs]
  have hstate (st : Nat) : t.fieldAt (Reg.STACK_STATE st) = s.fieldAt (Reg.STACK_STATE st) := by
    funext hi lo
    exact h.fieldAt_eq (by unfold Reg.STACK_STATE; omega) hi lo
  have hchannels (st : Nat) : t.bitAt (Reg.STACK_CHANNELS st) = s.bitAt (Reg.STACK_CHANNELS st) := by
    funext i
    exact h.bitAt_eq (by unfold Reg.STACK_CHANNELS; omega) i
  unfold wordState fenced channelOf liveChannels erasedPackage
  simp only [herrors, hstate, hchannels, h.bitAt_eq (off := Reg.HBM_ECC_MODE) (by decide), h.bitAt_eq (off := Reg.SKERRY_ECC) (by decide),
    h.fieldAt_eq (off := Reg.SKERRY_ECC) (by decide)]

theorem MapAlike.unitBytes_eq (a n : Nat) : unitBytes t a n = unitBytes s a n := by
  have herrors (k : Nat) : errorsAt t k = errorsAt s k := by unfold errorsAt; rw [h.errs]
  have hbyte (k : Nat) : byteAt t k = byteAt s k := byteAt_congr h.mem h.undef k
  have hpeek : ∀ n a, peekBytes t a n = peekBytes s a n := fun n => by
    induction n with
    | zero => exact fun _ => rfl
    | succ n ih => exact fun a => by simp only [peekBytes, ih, State.readByte, h.locate_eq, hbyte]
  have hunit : unitByte t = unitByte s := by
    funext a
    simp only [unitByte, undetectedByte, h.locate_eq, h.wordState_eq, herrors, hbyte]
  unfold unitBytes deliverable
  simp only [h.errs, h.locate_eq, h.wordState_eq, hpeek, hunit]

end

end Sys2Proof.Machine
end

section
/-! PROOFS. Migrations that end, and snapshots of hot rows (R109, R111, R343). -/

namespace Sys2Proof.Machine

open Sys2Proof

/-! ## Migrations that end (R111) -/

/-- The end of a migration: its slot is returned, and the migration and the row's guest entry are dropped. -/
theorem releaseMigrated_gath {s : State} {table row time : Nat} {m : Migration} {d : List Byte} {r : Release}
    (hfound : s.gath.migrations.find? (fun m => m.table = table && m.row = row && m.phase = 3) = some m) (htable : tableDesc s table = some d)
    (hrelease : s.gath.releases.find? (fun r => r.table = table &&
      r.slot = eSlot (storedEntry s d m.index) + 2 ^ 63 * eTier (storedEntry s d m.index)) = some r)
    (hready : releaseReady s r = true) (hgrace : m.time + 1000 * s.fieldAt Reg.MIGRATE_GRACE 15 0 ≤ time) :
    (releaseMigrated s table row time).gath = { s.gath with
      releases := s.gath.releases.erase r, guests := s.gath.guests.filter (fun g => !(g.table = table && g.row = row)),
      migrations := s.gath.migrations.filter (fun m => !(m.table = table && m.row = row)) } := by
  have hmerge := (returnSlot_merge (dropRelease s r) d (eTier (storedEntry s d m.index)) (eSlot (storedEntry s d m.index))).trans
    (storeBytes_merge _ (tRowmap d + 8 * m.index) (toLE 8 (withState (storedEntry s d m.index) 0)))
  simp only [releaseMigrated, hfound, htable, hrelease, hgrace, hready, decide_true, Bool.and_self, if_true]
  simp only [settleMigration, setEntry_gath, dropMigration, putEntry]
  obtain ⟨hframe, -⟩ := hmerge
  rw [hframe]
  rfl

/-! ## Hot rows (R109, R343) -/

/-- Hot rows whose counters and estimates are halved. -/
def halvedRows (x : HotRows) : HotRows :=
  ⟨(x.sketch.map (fun p => (p.1, p.2 / 2))).filter (fun p => p.2 ≠ 0), x.rows.map (fun p => (p.1, p.2 / 2))⟩

theorem MergeOnly.setGath {s t : State} (h : MergeOnly s t) (f : GatherState → GatherState) :
    MergeOnly { s with gath := f s.gath } { t with gath := f t.gath } := by
  obtain ⟨hframe, hregs, hwf⟩ := h
  exact ⟨by rw [hframe], hregs, hwf⟩

/-- What a bay's snapshot changes beside memory: its area is marked, its counters and estimates are halved. -/
def snapshotTaken (s : State) (b : Nat) (g : GatherState) : GatherState :=
  { g with hot := g.hot.set b (halvedRows ((s.gath.hot[b]?).getD ⟨[], []⟩)), snaps := g.snaps ||| 2 ^ b }

theorem snapshotBay_merge (s : State) (b : Nat) : MergeOnly { s with gath := snapshotTaken s b s.gath } (snapshotBay s b) :=
  (((storeBytes_merge s _ _).trans (storeBytes_merge _ _ _)).trans (storeBytes_merge _ _ _)).setGath (snapshotTaken s b)

theorem snapshotBay_gath (s : State) (b : Nat) : (snapshotBay s b).gath = snapshotTaken s b s.gath := by
  obtain ⟨hframe, -⟩ := snapshotBay_merge s b
  rw [hframe]

/-- A bay that is not among those whose snapshots are taken. -/
theorem snapshots_hot_other {b : Nat} : ∀ {l : List Nat} (s : State), b ∉ l → (l.foldl snapshotBay s).gath.hot[b]? = s.gath.hot[b]?
  | [], _, _ => rfl
  | c :: l, s, hb => by
    obtain ⟨hc, hl⟩ := not_or.mp (hb ∘ List.mem_cons.mpr)
    rw [List.foldl_cons, snapshots_hot_other _ hl, snapshotBay_gath, snapshotTaken, List.getElem?_set_ne (Ne.symm hc)]

/-- The snapshot of a bay halves its hot rows once. -/
theorem snapshots_hot {b : Nat} {x : HotRows} {l : List Nat} (hnodup : l.Nodup) (hb : b ∈ l) {s : State} (hx : s.gath.hot[b]? = some x) :
    (l.foldl snapshotBay s).gath.hot[b]? = some (halvedRows x) := by
  induction l generalizing s with
  | nil => cases hb
  | cons c l ih =>
    obtain ⟨hc, hl⟩ := List.nodup_cons.mp hnodup
    rw [List.foldl_cons]
    by_cases h : b = c
    · subst h
      obtain ⟨hlength, -⟩ := List.getElem?_eq_some_iff.mp hx
      rw [snapshots_hot_other _ hc, snapshotBay_gath, snapshotTaken, List.getElem?_set_self hlength, hx]
      rfl
    · refine ih hl ((List.mem_cons.mp hb).resolve_left h) ?_
      rw [snapshotBay_gath, snapshotTaken, List.getElem?_set_ne (Ne.symm h), hx]

/-- The areas marked are those written and those marked before. -/
theorem snapshots_marked {b : Nat} : ∀ {l : List Nat} {s : State}, b ∈ l ∨ bit s.gath.snaps b = true →
    bit (l.foldl snapshotBay s).gath.snaps b = true
  | [], _, h => h.resolve_left (List.not_mem_nil)
  | c :: l, s, h => by
    refine snapshots_marked (l := l) (s := snapshotBay s c) ?_
    rw [snapshotBay_gath, snapshotTaken, bit, Nat.testBit_or, Bool.or_eq_true, Nat.testBit_two_pow]
    obtain h | h := h
    · exact (List.mem_cons.mp h).elim (fun h => .inr (.inr (by simp [h]))) .inl
    · exact .inr (.inl h)

/-- Beside memory and the counters of corrected words, snapshots leave the registers. -/
theorem snapshots_reg {off : Nat} (hoff : ¬ ceReg off) (l : List Nat) (s : State) : (l.foldl snapshotBay s).reg off = s.reg off :=
  List.foldlRecOn l _ (motive := fun t : State => t.reg off = s.reg off) rfl fun t ht b _ => by
    obtain ⟨-, hregs, -⟩ := snapshotBay_merge t b
    exact (hregs off hoff).trans ht

theorem not_ceReg_of_lt {off : Nat} (h : off < 0x50000) : ¬ ceReg off := by
  rintro (h1 | ⟨st, -, h1⟩)
  · unfold Reg.SKERRY_CE at h1; omega
  · unfold Reg.STACK_CE at h1; omega

/-- Where the firmware has no policy for hot rows, it does nothing after a snapshot. -/
theorem hotrowPolicy_of_none {s : State} (h : mgmtRunning s = false ∨ s.bitAt Reg.MGMT_POLICY 31 = false) :
    hotrowPolicy (snapshotAll s) = snapshotAll s := by
  have hstatus : mgmtRunning (snapshotAll s) = mgmtRunning s :=
    congrArg (fun w => decide (fld w 2 0 = 2)) (snapshots_reg (off := Reg.MGMT_STATUS) (not_ceReg_of_lt (by decide)) _ s)
  have hpolicy : (snapshotAll s).bitAt Reg.MGMT_POLICY 31 = s.bitAt Reg.MGMT_POLICY 31 :=
    bitAt_congr (snapshots_reg (off := Reg.MGMT_POLICY) (not_ceReg_of_lt (by decide)) _ s) 31
  have hnone : (mgmtRunning s && s.bitAt Reg.MGMT_POLICY 31) = false := by
    obtain h | h := h <;> simp [h]
  simp only [hotrowPolicy, hstatus, hpolicy, hnone, Bool.false_eq_true, if_false]

section

variable (s : State) (time : Nat)

/-- Time that passes leaves whether a snapshot is due. -/
theorem snapshotDue_passTime : snapshotDue (passTime s time) (timeAt s time) = snapshotDue s (timeAt s time) := by
  have halike := passTime_mapAlike s time
  rw [snapshotDue, snapshotDue, halike.bitAt_eq (by decide), halike.pair_eq (by decide), halike.fieldAt_eq (by decide)]
  rfl

theorem solocReady_passTime : solocReady (passTime s time) = solocReady s := bitAt_congr (passTime_reg s time _ (by decide) (by decide)) 31

variable {s time}

/-- HOTROW_SNAPSHOT that is not due lets time pass. -/
theorem hotrowSnapshot_early (hdue : snapshotDue s (timeAt s time) = false) :
    exec (.hotrowSnapshot time) s = .next { passTime s time with pending := s.pending, pci := s.pci } := by
  have hdue' : snapshotDue (passTime s time) (passTime s time).now = false := (snapshotDue_passTime s time).trans hdue
  rw [exec_hotrowSnapshot, actAt]
  simp only [hdue', Bool.and_false, Bool.false_eq_true, if_false]
  rfl

variable (hready : solocReady s = true) (hpolicy : mgmtRunning s = false ∨ s.bitAt Reg.MGMT_POLICY 31 = false)
include hready hpolicy

/-- HOTROW_SNAPSHOT that is due. -/
theorem hotrowSnapshot_taken (hdue : snapshotDue s (timeAt s time) = true) : ∃ t, exec (.hotrowSnapshot time) s = .next t ∧
    t.gath = (snapshotAll (passTime s time)).gath ∧ t.now = timeAt s time := by
  have hpolicy' : mgmtRunning (passTime s time) = false ∨ (passTime s time).bitAt Reg.MGMT_POLICY 31 = false :=
    hpolicy.imp (fun h => (congrArg (fun w => decide (fld w 2 0 = 2)) (passTime_reg s time Reg.MGMT_STATUS (by decide) (by decide))).trans h)
      (fun h => (bitAt_congr (passTime_reg s time _ (by decide) (by decide)) 31).trans h)
  have hdue' : (solocReady (passTime s time) && snapshotDue (passTime s time) (passTime s time).now) = true := by
    rw [solocReady_passTime, hready]
    exact (snapshotDue_passTime s time).trans hdue
  refine ⟨_, rfl, ?_, rfl⟩
  dsimp only
  rw [if_pos hdue', hotrowPolicy_of_none hpolicy']

end

/-- Settles O33: a slot is returned by two writes; a migration's end and a snapshot change what the gather units keep, whatever they write to
memory; the time that passes before leaves the entries of the row map. -/
theorem gatherHousekeeping : Obligations.GatherHousekeeping := by
  unfold Obligations.GatherHousekeeping
  refine fun s => ⟨fun table slot r d hfound htable => ⟨fun hneeded => ?_, fun hready hdrained => ?_⟩,
    fun table row time m d r hfound htable hrelease hready hgrace => ?_, fun time hready hpolicy => ⟨fun hdue => ?_, fun hdue => ?_⟩⟩
  · exact (exec_slotRelease ..).trans (act_eq_of_eq (releaseSlot_of_needed hfound htable hneeded) rfl rfl rfl)
  · exact slotRelease_returns (releaseSlot_of_ready hfound htable hready hdrained)
  · have halike := passTime_mapAlike s time
    have hentry : storedEntry (passTime s time) d m.index = storedEntry s d m.index := congrArg leNat (halike.unitBytes_eq ..)
    have hgath := releaseMigrated_gath (s := passTime s time) (time := timeAt s time) hfound htable (by rw [hentry]; exact hrelease) hready
      (by rw [halike.fieldAt_eq (by decide)]; exact hgrace)
    refine ⟨_, rfl, rfl, congrArg GatherState.migrations hgath, congrArg GatherState.releases hgath, fun g hg => ?_⟩
    obtain ⟨-, hkept⟩ := List.mem_filter.mp (congrArg GatherState.guests hgath ▸ hg)
    simpa [or_iff_not_imp_left] using hkept
  · obtain ⟨t, hnext, hgath, hnow⟩ := hotrowSnapshot_taken hready hpolicy hdue
    refine ⟨t, hnext, by rw [hgath]; rfl, hnow, fun b x hb henabled hx => ?_⟩
    have hbay : b ∈ (seqFrom 0 8).filter (bayEnabled (passTime s time)) :=
      List.mem_filter.mpr ⟨mem_seqFrom.mpr ⟨Nat.zero_le _, by omega⟩, (bitAt_congr (passTime_mapAlike s time).bays b).trans henabled⟩
    rw [hgath]
    exact ⟨snapshots_marked (.inl hbay), snapshots_hot ((by decide : (seqFrom 0 8).Nodup).filter _) hbay hx⟩
  · exact hotrowSnapshot_early hdue

end Sys2Proof.Machine
end

section
/-! PROOFS. What an execution leaves of the answers that its command has: it takes them as they are (R95, R113). -/

namespace Sys2Proof.Machine

open Sys2Proof

/-- The execution leaves the answers of its command as they are. -/
def Unasked {α : Type} (c : Cmd α) : Prop := ∀ env, (c.run.run env).2.answers = env.answers

section

variable {α β : Type}

theorem Unasked.pure (a : α) : Unasked (Pure.pure a) := fun _ => rfl

theorem Unasked.stop (x : Stop) : Unasked (MonadExcept.throw x : Cmd α) := fun _ => rfl

theorem Unasked.get : Unasked (MonadState.get : Cmd Env) := fun _ => rfl

theorem Unasked.change {g : Env → Env} (h : ∀ env, (g env).answers = env.answers) : Unasked (modify g : Cmd PUnit) := h

theorem Unasked.bind {c : Cmd α} {f : α → Cmd β} (hc : Unasked c) (hf : ∀ a, Unasked (f a)) : Unasked (c >>= f) := fun env => by
  have hfirst := hc env
  rw [ExceptT.run_bind, StateT.run_bind]
  generalize c.run.run env = r at hfirst
  obtain ⟨_ | a, env1⟩ := r
  · exact hfirst
  · exact (hf a env1).trans hfirst

theorem Unasked.fail (st d : Nat) : Unasked (Cmd.fail st d : Cmd α) := Unasked.get.bind fun _ => Unasked.stop _

theorem Unasked.locate (a : Nat) : Unasked (Cmd.locate a) := by
  unfold Cmd.locate
  refine Unasked.get.bind fun env => ?_
  cases Machine.locate env.s a with
  | error d => exact Unasked.fail _ _
  | ok p =>
    dsimp only
    split
    · exact Unasked.stop _
    · split
      · exact Unasked.stop _
      · exact Unasked.bind (Unasked.change fun _ => rfl) fun _ => Unasked.pure _

theorem Unasked.readByteP (a : Nat) : Unasked (Cmd.readByteP a) := by
  unfold Cmd.readByteP
  refine (Unasked.locate a).bind fun p => Unasked.get.bind fun env => ?_
  split
  · exact Unasked.pure _
  · exact Unasked.pure _
  · exact Unasked.bind (Unasked.change fun _ => rfl) fun _ => Unasked.pure _
  · exact Unasked.bind (Unasked.change fun _ => rfl) fun _ => Unasked.pure _
  · cases env.overlay.find? fun o => o.1 = p.key with
    | some o => exact Unasked.pure _
    | none =>
      have hplan : Unasked (match env.plan a with
          | none => throw (.recover a)
          | some d =>
            if d = masterLost then Cmd.fail 0x30 0x01
            else do
              modify (fun env => { env with poison := some (env.poison.getD (d, a)) })
              return none : Cmd (Option Byte)) := by
        cases env.plan a with
        | none => exact Unasked.stop _
        | some d =>
          dsimp only
          split
          · exact Unasked.fail _ _
          · exact Unasked.bind (Unasked.change fun _ => rfl) fun _ => Unasked.pure _
      dsimp only
      split
      · exact hplan
      · exact Unasked.bind (Unasked.change fun _ => rfl) fun _ => hplan

theorem Unasked.readBytesP : ∀ n a : Nat, Unasked (Cmd.readBytesP a n)
  | 0, _ => Unasked.pure _
  | n + 1, a => (Unasked.readByteP a).bind fun _ => (Unasked.readBytesP n (a + 1)).bind fun _ => Unasked.pure _

theorem Unasked.readP (a n : Nat) : Unasked (Cmd.readP a n) :=
  Unasked.bind (Unasked.change fun _ => rfl) fun _ => Unasked.readBytesP n a

theorem Unasked.read (a n : Nat) : Unasked (Cmd.read a n) := by
  unfold Cmd.read
  refine (Unasked.readP a n).bind fun l => ?_
  cases plainBytes l with
  | some bs => exact Unasked.pure _
  | none => exact Unasked.get.bind fun _ => Unasked.stop _

theorem Unasked.readNat (a n : Nat) : Unasked (Cmd.readNat a n) := (Unasked.read a n).bind fun _ => Unasked.pure _

end

/-- An execution stands in state `t`, in the unit `k`, with nothing poisoned or corrected, and its command has no answer. -/
def Alone (t : State) (k : Nat) (env : Env) : Prop := Stays t k env ∧ env.answers = []

section

variable {t : State} {k : Nat} {α : Type} {c : Cmd α}

/-- What is read of a known state without an answer is read without one. -/
theorem Ends.alone {a : α} (h : Ends (Stays t k) c fun r env => Stays t k env ∧ r = a) (hc : Unasked c) :
    Ends (Alone t k) c fun r env => Alone t k env ∧ r = a := fun env henv => by
  obtain ⟨hstays, hanswers⟩ := henv
  obtain ⟨r, env', hrun, hend, hr⟩ := h env hstays
  have hkept := hc env
  rw [hrun] at hkept
  exact ⟨r, env', hrun, ⟨hend, hkept.trans hanswers⟩, hr⟩

theorem Alone.readState : Ends (Alone t k) Cmd.state fun u env => Alone t k env ∧ u = t := Stays.readState.alone fun _ => rfl

theorem Alone.read {a n : Nat} (h : reach t a n = true) : Ends (Alone t k) (Cmd.read a n) fun l env => Alone t k env ∧ l = peekBytes t a n :=
  (Stays.read h).alone (Unasked.read a n)

theorem Alone.readP {a n : Nat} (h : reach t a n = true) :
    Ends (Alone t k) (Cmd.readP a n) fun l env => Alone t k env ∧ l = (peekBytes t a n).map some := (Stays.readP h).alone (Unasked.readP a n)

theorem Alone.readNat {a n : Nat} (h : reach t a n = true) :
    Ends (Alone t k) (Cmd.readNat a n) fun r env => Alone t k env ∧ r = leNat (peekBytes t a n) := (Stays.readNat h).alone (Unasked.readNat a n)

theorem Alone.enter (n : Nat) : Ends (Alone t k) (modify fun env => { env with engine := n }) fun _ => Alone t n :=
  Ends.modify fun _ ⟨h, hanswers⟩ => ⟨⟨h.state, rfl, h.unpoisoned, h.uncorrected⟩, hanswers⟩

theorem Alone.declare (a n : Nat) : Keeps (Alone t k) (Cmd.declare a n) :=
  Ends.modify fun _ ⟨h, hanswers⟩ => ⟨h.congr rfl rfl rfl rfl, hanswers⟩

theorem Alone.stays {env : Env} (h : Alone t k env) : Stays t k env := by
  obtain ⟨h, -⟩ := h
  exact h

end

end Sys2Proof.Machine
end

section
/-! PROOFS. Rows of this shard as the gather unit finds and reads them, where nothing migrates (R93 to R95, R108, R113, R114). -/

namespace Sys2Proof.Machine

open Sys2Proof

/-! ## Where a row is -/

/-- A row of this shard that is VALID and in reach, its map entry and slot in HBM or skerry memory. -/
structure RowHere (t : State) (d : List Byte) (row : Nat) : Prop extends RowReady t d row where
  mapStored : tRowmap d + 8 * localOf row + 8 ≤ 0x020000000000
  slotStored : rowAddr t d (localOf row) + tBytes d ≤ 0x020000000000

theorem rowHere_of {t : State} {d : List Byte} {row : Nat} (h : rowReady t d row = true) : RowHere t d row := by
  have hready := rowReady_named h
  simp only [rowReady, storeReach, Bool.and_eq_true, decide_eq_true_eq] at h
  obtain ⟨⟨⟨⟨-, -, hmap⟩, -⟩, -⟩, -, hslot⟩ := h
  exact ⟨hready, hmap, hslot⟩

theorem dirLookup_of_plain (s : State) {d : List Byte} (h : tMigratable d = false) (row : Nat) : dirLookup s d row = none := if_neg (by simp [h])

section

variable {t : State} {d : List Byte} {row : Nat} (table : Nat) (hrow : RowReady t d row)
include hrow

theorem RowReady.storedEntry_eq : storedEntry t d (localOf row) = mapEntry t d (localOf row) := by
  rw [storedEntry, unitBytes_of_reach hrow.mapReach]
  rfl

variable (hstill : NoMigration t)
include hstill

theorem RowReady.turn : rowTurn t table d row (localOf row) (mapEntry t d (localOf row)) = .serve (mapEntry t d (localOf row)) := by
  obtain ⟨-, hmigrations⟩ := hstill
  simp [rowTurn, hrow.valid, hrow.slot, migrationOf, hmigrations]

theorem RowReady.ownedIndex_eq : ownedIndex t table d row = some (localOf row) := by
  obtain ⟨hguests, -⟩ := hstill
  simp only [ownedIndex, guestIndex, hguests, dirLookup_of_plain t hrow.plain, List.find?_nil, Option.bind_none, hrow.own, if_true]

/-- Nothing stops a ROW_REPLACE of such a row (R115). -/
theorem RowReady.noFault (refused : Nat) : ownedFault t table d refused row = none := by
  have hinside : ¬ (shardOf row = ownId t ∧ tRows d ≤ localOf row) := fun h => by have := hrow.inside; omega
  have hindex := hrow.ownedIndex_eq table hstill
  have hturn := hrow.turn table hstill
  obtain ⟨-, hmigrations⟩ := hstill
  simp only [ownedFault, hindex, if_neg hinside, hrow.storedEntry_eq, hturn, migrationOf, hmigrations, List.find?_nil, Option.isSome_none,
    Bool.false_eq_true, if_false]

end

/-- A row that stands here is found here. -/
theorem placeRow_ends {t : State} {k : Nat} {d : List Byte} {row : Nat} (table tide : Nat) (hrow : RowReady t d row) (hstill : NoMigration t) :
    Ends (Alone t k) (Cmd.placeRow table d row tide) fun p env => Alone t k env ∧ p = .here (localOf row) := by
  have hlookup := dirLookup_of_plain t hrow.plain row
  have hroute : rowRoute t table d row tide = .here (localOf row) := by simp only [rowRoute, hlookup, hrow.own, if_true]
  have hinside := hrow.inside
  have hlate : lateAt t table d row tide = false := by
    obtain ⟨hguests, -⟩ := hstill
    simp [lateAt, hguests, hlookup]
  have hplace : Ends (Alone t k) (Cmd.placeHere table d row tide (localOf row)) fun p env => Alone t k env ∧ p = .here (localOf row) := by
    unfold Cmd.placeHere
    refine Ends.bind_of_eq Alone.readState ?_
    rw [hlate]
    exact Ends.pure fun _ h => ⟨h, rfl⟩
  unfold Cmd.placeRow
  refine Ends.bind Ends.get fun e => ?_
  rintro env ⟨henv, rfl⟩
  obtain ⟨hstays, hanswers⟩ := id henv
  simp only [hanswers, List.find?_nil, hstays.state, hroute]
  rw [if_neg (by omega)]
  refine Ends.bind (R := fun _ => Alone t k) ?_ (fun _ => ?_) e henv
  · unfold Cmd.checkIndex
    rw [if_neg (by omega)]
    exact Keeps.pure _
  · refine Ends.bind_of_eq (Alone.readNat hrow.mapReach) ?_
    rw [show leNat (peekBytes t (tRowmap d + 8 * localOf row) 8) = mapEntry t d (localOf row) from rfl, hrow.turn table hstill]
    exact hplace

/-- An execution whose result is known, and what holds after it. -/
theorem Ends.bind_known {α β : Type} {P R : Env → Prop} {x : Cmd α} {a : α} {f : α → Cmd β} {Q : β → Env → Prop}
    (hx : Ends P x fun r env => R env ∧ r = a) (hf : Ends R (f a) Q) : Ends P (x >>= f) Q :=
  Ends.bind hx fun _ env h => by
    obtain ⟨henv, rfl⟩ := h
    exact hf env henv

theorem eq_map_of_forall₂ {γ β : Type} {f : γ → β} {l : List γ} {r : List β} (h : List.Forall₂ (fun x y => y = f x) l r) :
    r = l.map f := by
  induction h with
  | nil => rfl
  | cons hy _ ih => rw [List.map_cons, hy, ih]

/-- Each execution of a list of its own known result. -/
theorem Ends.mapM_eq {γ β : Type} {P : Env → Prop} {g : γ → Cmd β} {f : γ → β} {l : List γ}
    (h : ∀ x ∈ l, Ends P (g x) fun y env => P env ∧ y = f x) : Ends P (l.mapM g) fun r env => P env ∧ r = l.map f :=
  (Ends.mapM h).weaken fun _ _ ⟨henv, hr⟩ => ⟨henv, eq_map_of_forall₂ hr⟩

/-- The places found for rows that stand here. -/
def placesHere (rows : List Nat) : List (Nat × RowPlace) := rows.map fun r => (r, .here (localOf r))

theorem placeIn_placesHere {rows : List Nat} {r : Nat} (hr : r ∈ rows) : placeIn (placesHere rows) r = some (.here (localOf r)) := by
  induction rows with
  | nil => cases hr
  | cons x rows ih =>
    by_cases hx : x = r
    · simp [placeIn, placesHere, hx]
    · have hrest := ih ((List.mem_cons.mp hr).resolve_left (Ne.symm hx))
      simpa [placeIn, placesHere, hx] using hrest

/-- Of rows that stand here, nothing is chosen by what chooses other modules' rows. -/
theorem filterMap_placesHere {β : Type} {f : Nat × RowPlace → Option β} (h : ∀ r i, f (r, .here i) = none) (rows : List Nat) :
    (placesHere rows).filterMap f = [] := List.filterMap_eq_nil_iff.mpr fun p hp => by
  obtain ⟨r, -, rfl⟩ := List.mem_map.mp hp
  exact h r _

/-- The rows of a list, each once, are found here. -/
theorem placeRows_ends {t : State} {k : Nat} {d : List Byte} {rows : List Nat} (table tide : Nat) (hrows : ∀ r ∈ rows, RowHere t d r)
    (hstill : NoMigration t) : Ends (Alone t k) (rows.dedup.mapM fun r => do
      let p ← Cmd.placeRow table d r tide
      return (r, p)) fun places env => Alone t k env ∧ places = placesHere rows.dedup :=
  Ends.mapM_eq fun r hr => Ends.bind_of_eq (placeRow_ends table tide (hrows r (List.mem_dedup.mp hr)).toRowReady hstill) <|
    Ends.pure fun _ h => ⟨h, rfl⟩

/-- Nothing is asked of other modules. -/
theorem Keeps.askNone {P : Env → Prop} : Keeps P (Cmd.askAll []) := Keeps.get.bind fun _ => Keeps.pure _

/-! ## Rows read -/

/-- The execution of a command of the gather unit: the state differs from one only in what the unit counts and measures, and nothing migrates. -/
structure Gathering (t : State) (k : Nat) (env : Env) : Prop where
  stands : SamplerStands t env.s
  still : NoMigration env.s
  stays : Stays env.s k env

section

variable {t : State} {k : Nat}

theorem Stays.gathering {u : State} {env : Env} (h : Stays u k env) (hu : SamplerStands t u) (hstill : NoMigration u) : Gathering t k env := by
  obtain ⟨rfl, hengine, hpoison, hcorrected⟩ := h
  exact ⟨hu, hstill, rfl, hengine, hpoison, hcorrected⟩

/-- What ends in each state the gather unit may leave. -/
theorem Gathering.ends {α : Type} {c : Cmd α} {Q : α → Env → Prop}
    (h : ∀ u, SamplerStands t u → NoMigration u → Ends (Stays u k) c Q) : Ends (Gathering t k) c Q :=
  fun env ⟨hstands, hstill, hstays⟩ => h env.s hstands hstill env hstays

theorem Gathering.count {off : Nat} (n : Nat) (hlow : 0x80000 ≤ off) (hhigh : off + 4 < 0x90000) :
    Keeps (Gathering t k) (Cmd.update fun s => s.count64 off n) :=
  Gathering.ends fun u hu hstill => (Stays.update fun s => s.count64 off n).weaken fun _ _ h =>
    h.gathering (hu.trans (count64_samplerStands u n hlow hhigh)) hstill

theorem Gathering.measure (bay table row : Nat) : Keeps (Gathering t k) (Cmd.update fun s => measureRow s bay table row) := by
  refine Gathering.ends fun u hu hstill => (Stays.update fun s => measureRow s bay table row).weaken fun _ _ h => ?_
  obtain ⟨g, hg, hguests, hmigrations⟩ : ∃ g, measureRow u bay table row = { u with gath := g } ∧ g.guests = u.gath.guests ∧
      g.migrations = u.gath.migrations := by
    unfold measureRow
    split
    · exact ⟨_, rfl, rfl, rfl⟩
    · exact ⟨_, rfl, rfl, rfl⟩
  rw [hg] at h
  obtain ⟨hnoGuests, hnoMigrations⟩ := hstill
  exact h.gathering (hu.trans ⟨fun _ _ => rfl, rfl, id, rfl, rfl, rfl, fun _ _ => rfl⟩)
    ⟨hguests.trans hnoGuests, hmigrations.trans hnoMigrations⟩

section

variable {d : List Byte} {row : Nat} (hrow : RowHere t d row)
include hrow

theorem RowHere.mapEntry_eq {u : State} (hu : SamplerStands t u) : mapEntry u d (localOf row) = mapEntry t d (localOf row) := by
  rw [mapEntry, hu.peekBytes_eq hrow.mapStored]
  rfl

theorem RowHere.stands {u : State} (hu : SamplerStands t u) (hclean : t.errs = []) : RowHere u d row := by
  have hentry := hrow.mapEntry_eq hu
  have haddr : rowAddr u d (localOf row) = rowAddr t d (localOf row) := by rw [rowAddr, rowAddr, hentry]
  obtain ⟨⟨hplain, hown, hinside, hmap, hvalid, hslot, hreach⟩, hmapStored, hslotStored⟩ := hrow
  exact ⟨⟨hplain, hown.trans hu.ownId_eq.symm, hinside, hu.reach_of hclean hmap, by rwa [hentry], by rwa [hentry],
    by rw [haddr]; exact hu.reach_of hclean hreach⟩, hmapStored, by rwa [haddr]⟩

end

/-- A row as the gather unit reads it. -/
def fetched (t : State) (d : List Byte) (row : Nat) : Fetched :=
  ⟨false, eVersion (mapEntry t d (localOf row)), (peekBytes t (rowAddr t d (localOf row)) (tBytes d)).map some, false⟩

theorem fetchHere_ends {d : List Byte} {row bay : Nat} (table : Nat) (hclean : t.errs = []) (hbay : bay < 8) (hrow : RowHere t d row) :
    Ends (Gathering t k) (Cmd.fetchHere bay table d row (localOf row)) fun a env => Gathering t k env ∧ a = fetched t d row := by
  refine Gathering.ends fun u hu hstill => ?_
  have hentry := hrow.mapEntry_eq hu
  have hturn := (hrow.stands hu hclean).turn table hstill
  unfold Cmd.fetchHere
  refine Ends.bind_of_eq Stays.readState (Ends.bind_of_eq (Stays.readNat (hu.reach_of hclean hrow.mapReach)) ?_)
  rw [show leNat (peekBytes u (tRowmap d + 8 * localOf row) 8) = mapEntry u d (localOf row) from rfl, hturn, hentry]
  refine Ends.strengthen (fun _ h => h.gathering hu hstill) ?_
  refine Keeps.bind (Gathering.count 1 (by unfold Reg.GATHER_BAY_CTR_LOCAL_ROWS_LO; omega) (by unfold Reg.GATHER_BAY_CTR_LOCAL_ROWS_LO; omega))
    fun _ => ?_
  unfold Cmd.readSlotRow
  refine Ends.bind_of_eq (a := (peekBytes t (rowAddr t d (localOf row)) (tBytes d)).map some)
    (Gathering.ends fun v hv hstill' => (Stays.readP (hv.reach_of hclean hrow.slotReach)).weaken fun l _ h => ?_) ?_
  · obtain ⟨h, rfl⟩ := h
    exact ⟨h.gathering hv hstill', congrArg (List.map some) (hv.peekBytes_eq hrow.slotStored)⟩
  · exact Keeps.bind (Gathering.measure _ _ _) fun _ => Ends.pure fun _ h => ⟨h, rfl⟩

/-- The rows of a list that all stand here are read here. -/
theorem fetchRows_ends {d : List Byte} {rows : List Nat} {bay : Nat} (table tide : Nat) (hclean : t.errs = []) (hbay : bay < 8)
    (hrows : ∀ r ∈ rows, RowHere t d r) (hstill : NoMigration t) :
    Ends (Alone t k) (Cmd.fetchRows bay table d tide rows) fun got env => Gathering t k env ∧ got = rows.map (fetched t d) := by
  unfold Cmd.fetchRows
  refine Ends.bind_of_eq (placeRows_ends table tide hrows hstill) ?_
  dsimp only
  rw [filterMap_placesHere fun _ _ => rfl]
  refine Keeps.bind Keeps.askNone fun _ => Ends.strengthen (fun _ h => h.stays.gathering (.refl t) hstill) ?_
  refine Keeps.bind (Gathering.count _ (by unfold Reg.GATHER_BAY_CTR_REQUESTED_REMOTE_LO; omega)
    (by unfold Reg.GATHER_BAY_CTR_REQUESTED_REMOTE_LO; omega)) fun _ => Ends.mapM_eq fun r hr => ?_
  rw [placeIn_placesHere (List.mem_dedup.mpr hr)]
  exact fetchHere_ends table hclean hbay (hrows r hr)

/-- Rows that are all there stop nothing (R94). -/
theorem absentRows_ends {P : Env → Prop} (zero : Bool) (d : List Byte) (rows : List Nat) :
    Keeps P (Cmd.absentRows zero (rows.map (fetched t d))) := by
  have hnone : (rows.map (fetched t d)).any (fun g => g.absent) = false := by simp [fetched]
  rw [Cmd.absentRows, hnone]
  exact Keeps.pure _

theorem remoteRows_fetched (d : List Byte) (rows : List Nat) : remoteRows rows (rows.map (fetched t d)) = 0 := by
  have hnone : (rows.zip (rows.map (fetched t d))).filter (fun p => p.2.remote) = [] :=
    List.filter_eq_nil_iff.mpr fun p hp => by
      obtain ⟨r, -, hr⟩ := List.mem_map.mp (List.of_mem_zip hp).2
      simp [← hr, fetched]
  rw [remoteRows, hnone]
  rfl

end

end Sys2Proof.Machine
end

section
/-! PROOFS. Commands of the gather unit from their dispatch to their end (R43, R53, R198, R242). -/

namespace Sys2Proof.Machine

open Sys2Proof

/-- A state in which the body of a command of the gather unit starts, just dispatched. -/
structure GatherLaunched (s : State) (e : Entry) (t : State) (c : Entry) : Prop extends Launched s e t c where
  gath : t.gath = s.gath
  ready : c.phase = .ready
  unanswered : c.answers = []

/-- A condition on what is stored. -/
def OfStore (p : State → Prop) : Prop := ∀ u v, v.mem = u.mem → v.undef = u.undef → p u → p v

/-- The execution of a command that has done its work, begun in state `t`: nothing poisoned, corrected or armed, and what is stored meets a
condition. -/
structure Ending (t : State) (p : State → Prop) (env : Env) : Prop where
  entries : env.s.entries = t.entries
  unarmed : env.s.undertow = []
  unpoisoned : env.poison = none
  uncorrected : env.corrected = false
  stored : p env.s

/-- Nothing but a matrix command races with a VECTOR_RUN (R198). -/
theorem racingBytes_of_gather (s : State) {e : Entry} (env : Env) (hop : 0x22 ≤ pktOp e.pkt ∧ pktOp e.pkt ≤ 0x26) :
    racingBytes s e env = [] := by
  have hrace (b : Nat) : vectorAndMatrix (pktOp e.pkt) b = false := by
    have hvector : pktOp e.pkt ≠ 0x40 := by omega
    have hmatrix : ¬ (pktOp e.pkt = 0x30 ∨ pktOp e.pkt = 0x31 ∨ pktOp e.pkt = 0x32) := by omega
    simp [vectorAndMatrix, hvector, hmatrix]
  simp [racingBytes, hrace]

/-- A command of the gather unit that is dispatched runs its body from such a state. -/
theorem gather_runs {s : State} {tag op : Nat} {e : Entry} (body : Entry → Cmd Done) (hlaunch : Launch s tag op e) (hop : op < 0x60) :
    ∃ t c, GatherLaunched s e t c ∧ ∀ x env, (body c).run.run (runEnv t c) = (x, env) →
      runRow op (.plain body) tag s = runEnds s (dispatchedState s e) (dispatched s e) false none t env x := by
  obtain ⟨hentry, hop', hready, hprepared, -, hanswers, -, hgate, hslot, hdead, hcommit, -, -⟩ := hlaunch
  obtain rfl : e.tag = tag := entryOf_tag hentry
  have hfault : startFault s e = none := by
    have hslot' : slotLoaded s (dispatched s e).slot = true := hslot
    have hother : ¬ (0x60 ≤ pktOp (dispatched s e).pkt ∧ pktOp (dispatched s e).pkt ≤ 0x62 ∧ s.fieldAt Reg.SKERRY_STATUS 1 0 = 3) := by
      show ¬ (0x60 ≤ pktOp e.pkt ∧ _)
      omega
    have halive : (tilesOf (dispatched s e)).find? s.power.deadTiles.contains = none :=
      List.find?_eq_none.mpr fun t ht => by simpa using List.all_eq_true.mp hdead t ht
    rw [startFault_of_ready hready, dispatchFault]
    simp only [hslot', hother, halive]
    rfl
  have hbase : entryOf (dispatchedState s e) e.tag = some (dispatched s e) :=
    (entryOf_setEntry _ e.tag (f := fun _ => dispatched s e) fun _ _ => rfl).trans (congrArg (Option.map _) hentry)
  let env0 := runEnv (dispatchedState s e) (dispatched s e)
  have htracked : entryOf (preparedState env0 e.tag) e.tag = some (preparedEntry env0 (dispatched s e)) :=
    (entryOf_setEntry env0.s e.tag (f := preparedEntry env0) fun _ hd => hd).trans (congrArg (Option.map _) hbase)
  refine ⟨preparedState env0 e.tag, preparedEntry env0 (dispatched s e),
    ⟨⟨⟨rfl, rfl, rfl, rfl, rfl⟩, rfl, rfl, rfl, htracked, rfl, rfl⟩, rfl, hready, hanswers⟩, fun x env hrun => ?_⟩
  have hprep : ((Job.plain body).prep (dispatched s e)).run.run env0 = (.ok (), env0) := rfl
  have hbody : runBody (preparedState env0 e.tag) (.plain body) (preparedEntry env0 (dispatched s e)) = (env, x) := by
    rw [runBody]
    exact Prod.ext (congrArg Prod.snd hrun) (congrArg Prod.fst hrun)
  have hheld : ((decide (e.phase = .ready) || r64Wait e) && isApplying s 5) = false := by simp [hcommit]
  rw [runRow_of_ready _ hentry hready hop' hgate, runEntry_eq, startEntry_of_ready hready, startState_of_ready hready, hfault, hheld,
    runFrom, if_neg (by simp [show (dispatched s e).prepared = e.prepared from rfl, hprepared])]
  simp only [show runEnv (dispatchedState s e) (dispatched s e) = env0 from rfl, hprep, show (dispatched s e).tag = e.tag from rfl, htracked,
    hbody]

/-- The end of a body of the gather unit finishes its command with the body's outcome, and memory as the body left it. -/
theorem runEnds_of_ending {s base t : State} {e c : Entry} {env : Env} {p : State → Prop} (o : Done) (hc : entryOf t e.tag = some c)
    (hreruns : c.reruns = 0) (hop : 0x22 ≤ pktOp c.pkt ∧ pktOp c.pkt ≤ 0x26) (h : Ending t p env) :
    ∃ u, runEnds s base e false none t env (.ok o) = u ∧ FinishedWith u e.tag o ∧ u.mem = env.s.mem ∧ u.undef = env.s.undef := by
  obtain ⟨hentries, hunarmed, hunpoisoned, huncorrected, -⟩ := h
  have hc' : entryOf env.s e.tag = some c := (entryOf_congr hentries _).trans hc
  have htag : c.tag = e.tag := entryOf_tag hc
  have hsettled : settled c env o = o := by simp [settled, huncorrected, hreruns]
  refine ⟨_, rfl, ?_⟩
  rw [runEnds_ok none t env o rfl, hc']
  dsimp only [Option.getD_some]
  rw [settleDone_of_clean o hunpoisoned hunarmed (racingBytes_of_gather _ _ hop), hsettled]
  refine ⟨htag ▸ finishWith_finished (c := c) env o ((entryOf_congr (noteUsed_entries ..) _).trans (htag ▸ hc')), by simp, by simp⟩

/-- The row of a command of the gather unit executes it. -/
theorem gather_executes {s : State} {tag : Fin 1024} {op : Nat} {e : Entry} {i : Instr} {body : Entry → Cmd Done} {p : State → Done → Prop}
    (hrow : (i, op, .plain body) ∈ unitRows tag []) (hlaunch : Launch s tag.val op e) (hop : 0x22 ≤ op ∧ op ≤ 0x26)
    (hp : ∀ o, OfStore fun u => p u o)
    (hbody : ∀ t c, GatherLaunched s e t c → Ends (Alone t 0) (body c) fun o env => Ending t (fun u => p u o) env) :
    Executes s i tag.val p := by
  obtain ⟨t, c, hlaunched, hruns⟩ := gather_runs body hlaunch (by omega)
  obtain ⟨hentry, hopcode, -, -, hreruns, -⟩ := hlaunch
  have htag : e.tag = tag.val := entryOf_tag hentry
  obtain ⟨o, env, hrun, hending⟩ := hbody t c hlaunched (runEnv t c) ⟨stays_runEnv t c, hlaunched.unanswered⟩
  obtain ⟨u, hu, hfinished, hmem, hundef⟩ := runEnds_of_ending (s := s) (base := dispatchedState s e) (e := dispatched s e) o
    hlaunched.tracked (hlaunched.reruns.trans hreruns) (by rwa [hlaunched.pkt, hopcode]) hending
  obtain ⟨v, hnext, -, hmem', hundef', hentries', -⟩ := act_leaves ((hruns _ env hrun).trans hu)
  exact ⟨v, o, (exec_unitRow hrow s).trans hnext, htag ▸ hfinished.congr hentries',
    hp o env.s v (hmem'.trans hmem) (hundef'.trans hundef) hending.stored⟩

end Sys2Proof.Machine
end

section
/-! PROOFS. Elements written in reach, some of them lost, and the end of a command of the gather unit (R108, R242, R371). -/

namespace Sys2Proof.Machine

open Sys2Proof

/-! ## Lists cut into pieces -/

theorem chunks_map {α β : Type} (f : α → β) (n : Nat) : ∀ (fuel : Nat) (l : List α),
    chunks n fuel (l.map f) = (chunks n fuel l).map (List.map f)
  | 0, _ => rfl
  | fuel + 1, l => by
    rw [chunks, chunks, List.isEmpty_map]
    split
    · rfl
    · rw [List.map_cons, ← chunks_map f n fuel, List.map_take, List.map_drop]

/-- The pieces of a list are the list. -/
theorem flatten_chunks {α : Type} {n : Nat} (hn : 0 < n) : ∀ {fuel : Nat} {l : List α}, l.length ≤ fuel → (chunks n fuel l).flatten = l
  | 0, l, h => (List.length_eq_zero_iff.mp (Nat.le_zero.mp h)).symm
  | fuel + 1, l, h => by
    unfold chunks
    split
    · next hempty => exact (List.isEmpty_iff.mp hempty).symm
    · rw [List.flatten_cons, flatten_chunks hn (by rw [List.length_drop]; omega), List.take_append_drop]

/-- The pieces of bytes that are all there. -/
theorem plainBytes_chunks (n fuel : Nat) (l : List Byte) : (chunks n fuel (l.map some)).map plainBytes = (chunks n fuel l).map some := by
  rw [chunks_map, List.map_map]
  exact List.map_congr_left fun x _ => plainBytes_map_some x

/-! ## Elements written -/

/-- The bytes of an element as they are written. -/
def cellBytes (mark : Bool) (size code : Nat) (c : Option (List Byte)) : List (Option Byte) :=
  match c with
  | some bs => bs.map some
  | none => if mark then (toLE size code).map some else List.replicate size none

theorem writeCells_eq (a size code : Nat) (cells : List (Option (List Byte))) : Cmd.writeCells a size code cells = (do
    let mark ← Cmd.marks
    modify (fun env => { env with poisoned := env.poisoned + (cells.filter (fun c => c.isNone)).length })
    Cmd.writeP a (cells.flatMap (cellBytes mark size code))) := rfl

theorem flatMap_cellBytes_some (mark : Bool) (size code : Nat) (cells : List (List Byte)) :
    (cells.map some).flatMap (cellBytes mark size code) = cells.flatten.map some := by
  rw [List.flatMap_map, List.map_flatten]
  rfl

theorem length_cellBytes (mark : Bool) {size : Nat} (code : Nat) {cells : List (Option (List Byte))}
    (h : ∀ bs, some bs ∈ cells → bs.length = size) : (cells.flatMap (cellBytes mark size code)).length = cells.length * size := by
  induction cells with
  | nil => simp
  | cons c cells ih =>
    have hc : (cellBytes mark size code c).length = size := by
      cases c with
      | some bs => simp [cellBytes, h bs (.head _)]
      | none => unfold cellBytes; dsimp only; split <;> simp [length_toLE]
    rw [List.flatMap_cons, List.length_append, hc, ih fun bs hbs => h bs (.tail _ hbs), List.length_cons, Nat.succ_mul, Nat.add_comm]

theorem Keeps.writeRuns_nil {P : Env → Prop} (fuel a : Nat) : Keeps P (Cmd.writeRuns fuel a []) := by
  cases fuel with
  | zero => exact Keeps.pure _
  | succ => exact Keeps.pure _

section

variable {t : State} {k : Nat}

/-- Bytes that are all there are one write. -/
theorem Stays.writeP {a : Nat} {l : List Byte} (hclean : t.errs = []) (hunarmed : t.undertow = []) (h : reach t a l.length = true) :
    Ends (Stays t k) (Cmd.writeP a (l.map some)) fun _ => Stays (pokeBytes t a l) k := by
  unfold Cmd.writeP
  cases l with
  | nil => exact Keeps.writeRuns_nil _ _
  | cons b l =>
    have hgood : ((b :: l).map some).takeWhile (fun x => x.isSome) = (b :: l).map some := by simp [List.takeWhile_eq_self_iff]
    have hbytes : ((b :: l).map some).filterMap id = b :: l := by simp [List.filterMap_map]
    unfold Cmd.writeRuns
    rw [if_neg (by simp)]
    dsimp only
    rw [hgood, hbytes, List.drop_length, if_pos (by simp)]
    exact Ends.bind (Stays.write hclean hunarmed h) fun _ => Keeps.bind (Keeps.pure _) fun _ => Keeps.writeRuns_nil _ _

/-- Elements that are all there are one write. -/
theorem Stays.writeCells {a : Nat} {cells : List (List Byte)} (size code : Nat) (hclean : t.errs = []) (hunarmed : t.undertow = [])
    (h : reach t a cells.flatten.length = true) :
    Ends (Stays t k) (Cmd.writeCells a size code (cells.map some)) fun _ => Stays (pokeBytes t a cells.flatten) k := by
  rw [writeCells_eq]
  refine Keeps.bind Keeps.marks fun mark => Keeps.bind (Ends.modify fun _ h => h.congr rfl rfl rfl rfl) fun _ => ?_
  rw [flatMap_cellBytes_some]
  exact Stays.writeP hclean hunarmed h

/-- A row's bytes, element by element, are one write. -/
theorem Stays.writeRow {a size : Nat} {l : List Byte} (code : Nat) {fuel : Nat} (hsize : 0 < size) (hfuel : l.length ≤ fuel)
    (hclean : t.errs = []) (hunarmed : t.undertow = []) (h : reach t a l.length = true) :
    Ends (Stays t k) (Cmd.writeCells a size code ((chunks size fuel (l.map some)).map plainBytes)) fun _ => Stays (pokeBytes t a l) k := by
  have hflat := flatten_chunks hsize hfuel
  have hwrite := Stays.writeCells (k := k) (a := a) (cells := chunks size fuel l) size code hclean hunarmed (by rwa [hflat])
  rwa [hflat, ← plainBytes_chunks] at hwrite

end

section

variable {u : State} {k : Nat} (hclean : u.errs = []) (hunarmed : u.undertow = [])

/-- What ends in each state that writes may leave. -/
theorem Written.ends {α : Type} {c : Cmd α} {Q : α → Env → Prop}
    (h : ∀ v, MapStands u v → v.entries = u.entries → Ends (Stays v k) c Q) : Ends (Written u k) c Q :=
  fun env ⟨hmap, hentries, hstays⟩ => h env.s hmap hentries env hstays

theorem Stays.writtenOf {v : State} {env : Env} (h : Stays v k env) (hmap : MapStands u v) (hentries : v.entries = u.entries) :
    Written u k env := by
  obtain ⟨rfl, hengine, hpoison, hcorrected⟩ := h
  exact ⟨hmap, hentries, rfl, hengine, hpoison, hcorrected⟩

theorem pokeBytes_entries (v : State) (a : Nat) (l : List Byte) : (pokeBytes v a l).entries = v.entries := by rw [pokeBytes_eq]

/-- A write of known bytes is one that leaves the map and the commands. -/
theorem Stays.writtenPoke {v : State} {a : Nat} {l : List Byte} {env : Env} (h : Stays (pokeBytes v a l) k env) (hmap : MapStands u v)
    (hentries : v.entries = u.entries) : Written u k env :=
  h.writtenOf (hmap.trans (pokeBytes_mapStands ..)) ((pokeBytes_entries ..).trans hentries)

include hclean

theorem Written.readP {a n : Nat} (h : reach u a n = true) :
    Ends (Written u k) (Cmd.readP a n) fun l env => Written u k env ∧ ∃ bs : List Byte, bs.length = n ∧ l = bs.map some :=
  Written.ends fun _ hmap hentries => (Stays.readP (reach_mapStands hmap hclean h)).weaken fun _ _ h =>
    ⟨h.1.writtenOf hmap hentries, _, length_peekBytes .., h.2⟩

theorem Written.readNat {a n : Nat} (h : reach u a n = true) : Keeps (Written u k) (Cmd.readNat a n) :=
  Written.ends fun _ hmap hentries => (Stays.readNat (reach_mapStands hmap hclean h)).weaken fun _ _ h => h.1.writtenOf hmap hentries

theorem Written.writable {a : Nat} (h : Reached u a) : Keeps (Written u k) (Cmd.writable a) :=
  Written.ends fun _ hmap hentries => by
    obtain ⟨p, hp, hheld, hhost, hgood⟩ := hmap.reached hclean h
    exact (Stays.writable hp hheld hhost hgood).weaken fun _ _ h => h.1.writtenOf hmap hentries

theorem Written.leaveUndefined : ∀ {n a : Nat}, reach u a n = true → Keeps (Written u k) (Cmd.leaveUndefined a n)
  | 0, _, _ => Keeps.pure _
  | n + 1, a, h => by
    refine (Written.writable hclean (reached_of_reach h (Nat.le_refl a) (by omega))).bind fun _ => ?_
    refine Keeps.bind (Written.ends fun v hmap hentries => (Stays.update _).weaken fun _ _ h =>
      h.writtenOf (hmap.trans (undefDevice_stands ..).1) ((undefDevice_stands ..).2.trans hentries)) fun _ => ?_
    refine Keeps.bind (Ends.modify fun env h => ?_) fun _ => Written.leaveUndefined (reach_part h (by omega) (by omega))
    obtain ⟨hmap, hentries, hstays⟩ := h
    exact ⟨hmap, hentries, hstays.congr rfl rfl rfl rfl⟩

include hunarmed

/-- Bytes some of which are lost, written in reach. -/
theorem Written.writeRuns : ∀ {fuel a : Nat} {l : List (Option Byte)}, reach u a l.length = true →
    Keeps (Written u k) (Cmd.writeRuns fuel a l)
  | 0, _, _, _ => Keeps.pure _
  | fuel + 1, a, l, h => by
    have hgood := (List.takeWhile_sublist (l := l) fun b => b.isSome).length_le
    have hlost := (List.takeWhile_sublist (l := l.drop (l.takeWhile fun b => b.isSome).length) fun b => b.isNone).length_le
    have hbytes := List.length_filterMap_le id (l.takeWhile fun b => b.isSome)
    rw [List.length_drop] at hlost
    have hwrite : Keeps (Written u k) (Cmd.write a ((l.takeWhile fun b => b.isSome).filterMap id)) :=
      Written.write hclean hunarmed (reach_part h (Nat.le_refl a) (by omega))
    unfold Cmd.writeRuns
    refine Keeps.ite (fun _ => Keeps.pure _) fun _ => ?_
    dsimp only
    generalize l.takeWhile (fun b => b.isSome) = good at *
    generalize (l.drop good.length).takeWhile (fun b => b.isNone) = lost at *
    have hrest : Keeps (Written u k) (Cmd.leaveUndefined (a + good.length) lost.length >>= fun _ =>
        Cmd.writeRuns fuel (a + good.length + lost.length) ((l.drop good.length).drop lost.length)) :=
      (Written.leaveUndefined hclean (reach_part h (by omega) (by omega))).bind fun _ =>
        Written.writeRuns (reach_part h (by omega) (by simp only [List.length_drop]; omega))
    split
    · exact hwrite.bind fun _ => hrest
    · exact hrest

/-- Elements of one size, some of them lost, written in reach. -/
theorem Written.writeCells {a size : Nat} {cells : List (Option (List Byte))} (code : Nat)
    (hsize : ∀ bs, some bs ∈ cells → bs.length = size) (h : reach u a (cells.length * size) = true) :
    Keeps (Written u k) (Cmd.writeCells a size code cells) := by
  rw [writeCells_eq]
  refine Keeps.bind Keeps.marks fun mark => Keeps.bind (Ends.modify fun env h => ?_) fun _ => ?_
  · obtain ⟨hmap, hentries, hstays⟩ := h
    exact ⟨hmap, hentries, hstays.congr rfl rfl rfl rfl⟩
  · unfold Cmd.writeP
    exact Written.writeRuns hclean hunarmed (by rwa [length_cellBytes mark code hsize])

/-- A row's bytes written in reach, element by element. -/
theorem Written.writeRow {a size fuel : Nat} {l : List Byte} (code : Nat) (hsize : 0 < size) (hfuel : l.length ≤ fuel)
    (h : reach u a l.length = true) :
    Keeps (Written u k) (Cmd.writeCells a size code ((chunks size fuel (l.map some)).map plainBytes)) :=
  Written.ends fun _ hmap hentries => (Stays.writeRow code hsize hfuel (hmap.errs hclean) (hmap.undertow.trans hunarmed)
    (reach_mapStands hmap hclean h)).weaken fun _ _ h => h.writtenPoke hmap hentries

theorem Written.writeNat {a n : Nat} (v : Nat) (h : reach u a n = true) : Keeps (Written u k) (Cmd.writeNat a n v) :=
  Written.write hclean hunarmed (by rwa [length_toLE])

end

/-! ## The end of a command of the gather unit -/

section

variable {t : State} {p : State → Prop}

theorem Ending.congr {env env' : Env} (h : Ending t p env) (hp : OfStore p) (hmem : env'.s.mem = env.s.mem) (hundef : env'.s.undef = env.s.undef)
    (hentries : env'.s.entries = env.s.entries) (hundertow : env'.s.undertow = env.s.undertow) (hpoison : env'.poison = env.poison)
    (hcorrected : env'.corrected = env.corrected) : Ending t p env' := by
  obtain ⟨htracked, hunarmed, hunpoisoned, huncorrected, hstored⟩ := h
  exact ⟨hentries.trans htracked, hundertow.trans hunarmed, hpoison.trans hunpoisoned, hcorrected.trans huncorrected,
    hp env.s env'.s hmem hundef hstored⟩

/-- The granules read are only counted. -/
theorem Ending.countGranules (hp : OfStore p) (bay : Nat) (d : List Byte) (rows : Nat) : Keeps (Ending t p) (Cmd.countGranules bay d rows) := by
  unfold Cmd.countGranules
  refine Keeps.ite (fun _ => Keeps.pure _) fun _ => ?_
  refine Keeps.bind (Keeps.state.bind fun _ => Keeps.bind (Keeps.update fun _ h => ?_) fun _ => Keeps.pure _) fun _ => Keeps.update fun _ h => ?_
  · exact h.congr hp rfl rfl rfl rfl rfl rfl
  · exact h.congr hp rfl rfl rfl rfl rfl rfl

theorem Stays.ending {u : State} {k : Nat} {env : Env} (h : Stays u k env) (hentries : u.entries = t.entries) (hunarmed : u.undertow = [])
    (hp : p u) : Ending t p env := by
  obtain ⟨rfl, -, hpoison, hcorrected⟩ := h
  exact ⟨hentries, hunarmed, hpoison, hcorrected, hp⟩

theorem Written.ending {u : State} {k : Nat} {env : Env} (h : Written u k env) (hentries : u.entries = t.entries) (hunarmed : u.undertow = [])
    (hp : ∀ v, p v) : Ending t p env := by
  obtain ⟨hmap, htracked, -, -, hpoison, hcorrected⟩ := h
  exact ⟨htracked.trans hentries, hmap.undertow.trans hunarmed, hpoison, hcorrected, hp _⟩

end

end Sys2Proof.Machine
end

section
/-! PROOFS. GATHER of rows of this shard (R94, R95, R112, R115). -/

namespace Sys2Proof.Machine

open Sys2Proof

/-! ## What the gather unit's commands start from -/

/-- A state in which a command of a table can start: the table loaded, nothing migrating, no word with an error pattern, nothing armed. -/
structure TableReady (s : State) (e : Entry) (d : List Byte) : Prop where
  index : bodyAt e 0 2 < 256
  table : tableDesc s (bodyAt e 0 2) = some d
  some : d ≠ []
  elem : tElem d ≤ 3
  still : NoMigration s
  clean : s.errs = []
  unarmed : s.undertow = []

theorem tableReady_of {s : State} {tag op : Nat} {e : Entry} {d : List Byte} (htable : TableOf s e d) (hstill : NoMigration s)
    (hlaunch : Launch s tag op e) : TableReady s e d := by
  obtain ⟨hindex, hdesc, hsome, helem⟩ := htable
  obtain ⟨-, -, -, -, -, -, -, -, -, -, -, hclean, hunarmed⟩ := hlaunch
  exact ⟨hindex, hdesc, hsome, helem, hstill, hclean, hunarmed⟩

theorem ReadAlike.rowIdsAt_eq {s t : State} (h : ReadAlike s t) (a n : Nat) : rowIdsAt t a n = rowIdsAt s a n := by
  rw [rowIdsAt, rowIdsAt, h.peekBytes_eq]

theorem ReadAlike.rowAddr_eq {s t : State} (h : ReadAlike s t) (d : List Byte) (i : Nat) : rowAddr t d i = rowAddr s d i := by
  rw [rowAddr, rowAddr, h.mapEntry_eq]

section

variable {s t : State} {e c : Entry} {d : List Byte} (h : GatherLaunched s e t c)
include h

theorem GatherLaunched.tableReady (hready : TableReady s e d) : TableReady t c d := by
  obtain ⟨hindex, hdesc, hsome, helem, hstill, hclean, hunarmed⟩ := hready
  refine ⟨by rwa [h.bodyAt_eq], ?_, hsome, helem, ?_, h.alike.errs.trans hclean, h.undertow.trans hunarmed⟩
  · rwa [h.bodyAt_eq, tableDesc, h.gath]
  · rwa [NoMigration, h.gath]

theorem GatherLaunched.bayOf (hbay : BayOf s e) : BayOf t c := by
  rw [BayOf, h.bodyAt_eq, bayEnabled, h.alike.bitAt_eq]
  exact hbay

end

/-- The checks that GATHER, GATHER_POOL and SCATTER_ADD share hold of a table that does not migrate and a bay that is enabled. -/
theorem gatherChecks_hold {t : State} {c : Entry} {d : List Byte} (hready : TableReady t c d) (hbay : BayOf t c) (hplain : tMigratable d = false)
    (l : List (Bool × Nat)) : checksHold (gatherChecks t c d ++ l) = checksHold l := by
  obtain ⟨hindex, -, hsome, -⟩ := hready
  obtain ⟨hlow, henabled⟩ := hbay
  simp [checksHold, gatherChecks, hindex, hsome, hlow, henabled, hplain]

theorem length_rowIdsAt (s : State) (a n : Nat) : (rowIdsAt s a n).length = n := by
  rw [rowIdsAt, List.length_map, length_chunks (by decide) (length_peekBytes ..) (Nat.lt_succ_self _)]

theorem Alone.rowIds {t : State} {k a n : Nat} (h : reach t a (8 * n) = true) :
    Ends (Alone t k) (Cmd.rowIds a n) fun l env => Alone t k env ∧ l = rowIdsAt t a n :=
  Ends.bind_of_eq (Alone.read h) (Ends.pure fun _ h => ⟨h, rfl⟩)

theorem tElemBytes_pos {d : List Byte} (h : tElem d ≤ 3) : 0 < tElemBytes d := by
  unfold tElemBytes
  generalize tElem d = x at h
  interval_cases x
  all_goals decide

/-! ## GATHER -/

theorem absent_fetched (t : State) (d : List Byte) (rows : List Nat) : (rows.map (fetched t d)).filter (fun g => g.absent) = [] := by
  simp [fetched]

/-- Something that may be done before the rest. -/
theorem Keeps.optional {α β : Type} {P : Env → Prop} {b : Prop} [Decidable b] {x : Cmd α} {f : Cmd β} {Q : β → Env → Prop}
    (hx : Keeps P x) (hf : Ends P f Q) : Ends P (if b then x >>= fun _ => f else f) Q := by
  split
  · exact hx.bind fun _ => hf
  · exact hf

/-- A GATHER whose rows are ready and whose places are in reach. -/
structure GatherFits (s : State) (e : Entry) (d : List Byte) : Prop where
  plain : tMigratable d = false
  flags : bodyAt e 3 1 < 2
  zero : bodyZero e 28 32 = true
  zeroEnd : bodyZero e 40 48 = true
  some : 1 ≤ bodyAt e 4 4
  few : bodyAt e 4 4 ≤ 65536
  stride : bodyAt e 24 4 % 16 = 0
  wide : tBytes d ≤ bodyAt e 24 4
  idsAligned : bodyAt e 8 8 % 8 = 0
  outAligned : bodyAt e 16 8 % 16 = 0
  ids : reach s (bodyAt e 8 8) (8 * bodyAt e 4 4) = true
  rows : ∀ r ∈ rowIdsAt s (bodyAt e 8 8) (bodyAt e 4 4), rowReady s d r = true
  out : ∀ k, k < bodyAt e 4 4 → reach s (bodyAt e 16 8 + k * bodyAt e 24 4) (tBytes d) = true
  versions : bodyAt e 32 8 = 0 ∨ reach s (bodyAt e 32 8) (2 * bodyAt e 4 4) = true

theorem GatherLaunched.gatherFits {s t : State} {e c : Entry} {d : List Byte} (h : GatherLaunched s e t c) (hfits : GatherFits s e d) :
    GatherFits t c d := by
  obtain ⟨hplain, hflags, hzero, hzeroEnd, hsome, hfew, hstride, hwide, hidsAligned, houtAligned, hids, hrows, hout, hversions⟩ := hfits
  constructor
  case plain => exact hplain
  all_goals
    simp only [h.bodyAt_eq, h.bodyZero_eq, h.alike.reach_eq, h.alike.rowIdsAt_eq, h.alike.rowReady_eq]
    assumption

/-- The one row gathered stands at its place. -/
def RowGathered (s : State) (e : Entry) (d : List Byte) (t : State) : Prop :=
  ∀ r, rowIdsAt s (bodyAt e 8 8) (bodyAt e 4 4) = [r] → bodyAt e 32 8 = 0 → skerryRange (bodyAt e 16 8) (tBytes d) = true →
    peekBytes t (bodyAt e 16 8) (tBytes d) = peekBytes s (rowAddr s d (localOf r)) (tBytes d)

theorem rowGathered_ofStore (s : State) (e : Entry) (d : List Byte) : OfStore (RowGathered s e d) := by
  intro u v hmem hundef h r hr hver hskerry
  have hrange := hskerry
  simp only [skerryRange, Bool.and_eq_true, decide_eq_true_eq] at hrange
  obtain ⟨hlow, hhigh⟩ := hrange
  rw [peekBytes_skerry_congr hmem hundef _ _ hlow hhigh]
  exact h r hr hver hskerry

section

variable {t : State} {k : Nat} {c : Entry} {d : List Byte}

/-- Rows read are written to their places. -/
theorem gatheredRows_ends (hready : TableReady t c d) (hfits : GatherFits t c d) (rows : List Nat)
    (hrows : rows = rowIdsAt t (bodyAt c 8 8) (bodyAt c 4 4)) : Ends (Gathering t k) ((rows.map (fetched t d)).zipIdx.forM fun p => do
      Cmd.writeCells (bodyAt c 16 8 + p.2 * bodyAt c 24 4) (tElemBytes d) (poisonCode (tElem d))
        ((chunks (tElemBytes d) (tBytes d + 1) p.1.bytes).map plainBytes)
      if bodyAt c 32 8 ≠ 0 then Cmd.writeNat (bodyAt c 32 8 + 2 * p.2) 2 p.1.version) fun _ => Ending t (RowGathered t c d) := by
  have hsize := tElemBytes_pos hready.elem
  have hlength : rows.length = bodyAt c 4 4 := by rw [hrows, length_rowIdsAt]
  have hbytes (r : Nat) : (peekBytes t (rowAddr t d (localOf r)) (tBytes d)).length = tBytes d := length_peekBytes ..
  refine Gathering.ends fun u hu _ => ?_
  have hclean := hu.errs hready.clean
  have hunarmed := hu.undertow.trans hready.unarmed
  by_cases hone : ∃ r, rows = [r] ∧ bodyAt c 32 8 = 0 ∧ skerryRange (bodyAt c 16 8) (tBytes d) = true
  · obtain ⟨r, rfl, hver, hskerry⟩ := hone
    have hout := hu.reach_of hready.clean (hfits.out 0 (by simpa using hlength ▸ Nat.one_pos))
    have hrange := hskerry
    simp only [skerryRange, Bool.and_eq_true, decide_eq_true_eq] at hrange
    obtain ⟨hlow, hhigh⟩ := hrange
    have hstored := peekBytes_pokeBytes_skerry u (bodyAt c 16 8) (peekBytes t (rowAddr t d (localOf r)) (tBytes d)) hlow (by rwa [hbytes])
    rw [hbytes] at hstored
    have hplace : bodyAt c 16 8 + 0 * bodyAt c 24 4 = bodyAt c 16 8 := by omega
    rw [hplace] at hout
    simp only [List.map_cons, List.map_nil, List.zipIdx_cons, List.zipIdx_nil, hver, ne_eq, not_true_eq_false, if_false]
    refine Ends.bind (Ends.bind (Stays.writeRow _ hsize (by rw [hbytes]; omega) hclean hunarmed (by rw [hbytes]; rwa [hplace]))
      fun _ => Keeps.pure _) fun _ => Ends.pure fun env h => ?_
    refine h.ending ((pokeBytes_entries ..).trans hu.entries) ((pokeBytes_mapStands ..).undertow.trans hunarmed) fun r' hr' _ _ => ?_
    rw [← hrows] at hr'
    cases hr'
    rw [hplace]
    exact hstored
  · refine Ends.strengthen (fun _ h => h.written) (Ends.weaken (Keeps.forM fun p hp => ?_) fun _ env h => ?_)
    · obtain ⟨hi, hg⟩ := List.mem_zipIdx' hp
      rw [List.length_map, hlength] at hi
      rw [List.getElem_map] at hg
      have hout := hu.reach_of hready.clean (hfits.out p.2 hi)
      rw [hg]
      refine (Written.writeRow hclean hunarmed _ hsize (by rw [hbytes]; omega) (by rwa [hbytes])).bind fun _ =>
        Keeps.ite (fun hver => ?_) fun _ => Keeps.pure _
      have hversions := hu.reach_of hready.clean (hfits.versions.resolve_left hver)
      exact Written.writeNat hclean hunarmed _ (reach_part hversions (by omega) (by omega))
    · obtain ⟨hmap, htracked, -, -, hpoison, hcorrected⟩ := h
      exact ⟨htracked.trans hu.entries, hmap.undertow.trans hunarmed, hpoison, hcorrected, fun r hr hver hskerry =>
        absurd ⟨r, hrows.trans hr, hver, hskerry⟩ hone⟩

theorem gather_checks (hready : TableReady t c d) (hbay : BayOf t c) (hfits : GatherFits t c d) :
    checksHold (gatherChecks t c d ++
      [(decide (bodyAt c 3 1 < 2) && bodyZero c 28 32 && bodyZero c 40 48, 0x30), (decide (1 ≤ bodyAt c 4 4 ∧ bodyAt c 4 4 ≤ 65536), 0x31),
       (d.isEmpty || (decide (bodyAt c 24 4 % 16 = 0) && decide (tBytes d ≤ bodyAt c 24 4)), 0x32),
       (decide (bodyAt c 8 8 % 8 = 0) && decide (bodyAt c 16 8 % 16 = 0), 0x36)]) = true := by
  rw [gatherChecks_hold hready hbay hfits.plain]
  simp [checksHold, hfits.flags, hfits.zero, hfits.zeroEnd, hfits.some, hfits.few, hfits.stride, hfits.wide, hfits.idsAligned, hfits.outAligned]

theorem bodyGather_ends (hready : TableReady t c d) (hbay : BayOf t c) (hfits : GatherFits t c d) :
    Ends (Alone t 0) (bodyGather c) fun o env =>
      Ending t (fun u => o = ⟨0, 0, 0x6000 + bodyAt c 2 1, 0, 0⟩ ∧ RowGathered t c d u) env := by
  have hstand (r : Nat) (hr : r ∈ rowIdsAt t (bodyAt c 8 8) (bodyAt c 4 4)) : RowHere t d r := rowHere_of (hfits.rows r hr)
  unfold bodyGather
  refine Ends.bind_of_eq Alone.readState ?_
  dsimp only
  rw [hready.table, Option.getD_some]
  refine Keeps.bind (Keeps.checks (gather_checks hready hbay hfits)) fun _ => Ends.bind (Alone.enter _) fun _ => ?_
  refine Keeps.bind (Keeps.forM fun _ _ => Alone.declare _ _) fun _ => ?_
  refine Keeps.optional (Alone.declare _ _) (Ends.bind_of_eq (Alone.rowIds hfits.ids) ?_)
  refine Ends.bind_known (fetchRows_ends _ _ hready.clean hbay.1 hstand hready.still) (Keeps.bind (absentRows_ends _ _ _) fun _ => ?_)
  refine Ends.bind (gatheredRows_ends hready hfits _ rfl) fun _ => ?_
  refine Keeps.bind (Ending.countGranules (rowGathered_ofStore t c d) _ _ _) fun _ => Ends.pure fun env h => ?_
  obtain ⟨hentries, hunarmed, hpoison, hcorrected, hstored⟩ := h
  refine ⟨hentries, hunarmed, hpoison, hcorrected, ?_, hstored⟩
  rw [remoteRows_fetched, absent_fetched]
  rfl

end

theorem GatherLaunched.rowGathered_eq {s t : State} {e c : Entry} (h : GatherLaunched s e t c) (d : List Byte) :
    RowGathered t c d = RowGathered s e d := by
  funext u
  simp only [RowGathered, h.bodyAt_eq, h.alike.rowIdsAt_eq, h.alike.rowAddr_eq, h.alike.peekBytes_eq]

/-- GATHER of rows of this shard. -/
theorem gather_completes {s : State} {tag : Fin 1024} {e : Entry} {d : List Byte} (hlaunch : Launch s tag.val 0x22 e) (hready : TableReady s e d)
    (hbay : BayOf s e) (hfits : GatherFits s e d) :
    Executes s (.gather tag) tag.val fun t o => o = ⟨0, 0, 0x6000 + bodyAt e 2 1, 0, 0⟩ ∧ RowGathered s e d t := by
  refine gather_executes (body := bodyGather) (by simp [unitRows]) hlaunch (by decide)
    (fun o u v hmem hundef h => ⟨h.1, rowGathered_ofStore s e d u v hmem hundef h.2⟩) fun t c h => ?_
  have hends := bodyGather_ends (h.tableReady hready) (h.bayOf hbay) (h.gatherFits hfits)
  rwa [h.rowGathered_eq, h.bodyAt_eq] at hends

end Sys2Proof.Machine
end

section
/-! PROOFS. GATHER_POOL of rows of this shard (R97, R98). -/

namespace Sys2Proof.Machine

open Sys2Proof

/-! ## Bags pooled -/

theorem length_addVals_le (a b : List Val) : (addVals a b).length ≤ a.length := by
  simp only [addVals, List.length_map, List.length_zip]
  omega

/-- What is added to lists of values is no longer than they are. -/
theorem length_foldl_addVals_le {α : Type} (f : α → List Val) {n : Nat} : ∀ (l : List α) {acc : List Val}, acc.length ≤ n →
    (l.foldl (fun acc x => addVals acc (f x)) acc).length ≤ n
  | [], _, h => h
  | _ :: l, _, h => length_foldl_addVals_le f l ((length_addVals_le ..).trans h)

theorem length_poolSegment_le (n : Nat) (rows : List (List Val × Option Val)) : (poolSegment n rows).length ≤ n :=
  length_foldl_addVals_le _ rows List.length_replicate.le

theorem length_poolBag_le (n split : Nat) (mean : Bool) (rows : List (List Val × Option Val)) : (poolBag n split mean rows).length ≤ n := by
  have hfirst : (((chunks split (rows.length + 1) rows).map (poolSegment n)).headD (List.replicate n (.zero false))).length ≤ n := by
    cases chunks split (rows.length + 1) rows with
    | nil => exact List.length_replicate.le
    | cons x l => exact length_poolSegment_le n x
  have htotal := length_foldl_addVals_le id ((chunks split (rows.length + 1) rows).map (poolSegment n)).tail hfirst
  unfold poolBag
  dsimp only
  split
  · rw [List.length_map]
    exact htotal
  · exact htotal

/-- An element of the pooled output has the size of its format. -/
theorem length_narrowCell {fmt : Nat} (hfmt : fmt = 1 ∨ fmt = 2) {l : List Val} {bs : List Byte} (h : some bs ∈ l.map (narrowCell fmt)) :
    bs.length = fmtBits fmt / 8 := by
  obtain ⟨v, -, hv⟩ := List.mem_map.mp h
  obtain ⟨f, hf⟩ : ∃ f, floatOf fmt = some f := by
    obtain rfl | rfl := hfmt
    · exact ⟨_, rfl⟩
    · exact ⟨_, rfl⟩
  unfold narrowCell at hv
  rw [hf] at hv
  split at hv
  · cases hv
  · rw [← Option.some.inj hv, length_toLE]

/-! ## GATHER_POOL -/

/-- The offsets of a command's bags in memory. -/
def offsetsAt (s : State) (a n : Nat) : List Nat := (chunks 4 (n + 2) (peekBytes s a (4 * (n + 1)))).map leNat

theorem length_offsetsAt (s : State) (a n : Nat) : (offsetsAt s a n).length = n + 1 := by
  rw [offsetsAt, List.length_map, length_chunks (by decide) (length_peekBytes ..) (Nat.lt_succ_self _)]

/-- A GATHER_POOL whose rows are ready and whose places are in reach, from its offsets. -/
structure PoolFits (s : State) (e : Entry) (d : List Byte) (offs : List Nat) : Prop where
  read : offs = offsetsAt s (bodyAt e 24 8) (bodyAt e 8 4)
  ordered : offsetsOk offs = true
  plain : tMigratable d = false
  numeric : tElem d ≠ 0
  flags : bodyAt e 3 1 < 2
  zero : bodyZero e 6 8 = true
  zeroMid : bodyZero e 12 16 = true
  zeroEnd : bodyZero e 52 64 = true
  some : 1 ≤ bodyAt e 8 4
  few : bodyAt e 8 4 ≤ 65536
  mode : bodyAt e 4 1 ≤ 1
  fmt : bodyAt e 5 1 = 1 ∨ bodyAt e 5 1 = 2
  stride : bodyAt e 48 4 % 16 = 0
  wide : tElems d * (fmtBits (bodyAt e 5 1) / 8) ≤ bodyAt e 48 4
  offsAligned : bodyAt e 24 8 % 4 = 0
  outAligned : bodyAt e 40 8 % 16 = 0
  offsReach : reach s (bodyAt e 24 8) (4 * (bodyAt e 8 4 + 1)) = true
  ids : reach s (bodyAt e 16 8) (8 * offs.getLastD 0) = true
  weights : bodyAt e 32 8 = 0 ∨ reach s (bodyAt e 32 8) (4 * offs.getLastD 0) = true
  rows : ∀ r ∈ rowIdsAt s (bodyAt e 16 8) (offs.getLastD 0), rowReady s d r = true
  out : ∀ k, k < bodyAt e 8 4 → reach s (bodyAt e 40 8 + k * bodyAt e 48 4) (tElems d * (fmtBits (bodyAt e 5 1) / 8)) = true

theorem ReadAlike.offsetsAt_eq {s t : State} (h : ReadAlike s t) (a n : Nat) : offsetsAt t a n = offsetsAt s a n := by
  rw [offsetsAt, offsetsAt, h.peekBytes_eq]

theorem GatherLaunched.poolFits {s t : State} {e c : Entry} {d : List Byte} {offs : List Nat} (h : GatherLaunched s e t c)
    (hfits : PoolFits s e d offs) : PoolFits t c d offs := by
  obtain ⟨hoffs, hordered, hplain, hnumeric, hflags, hzero, hzeroMid, hzeroEnd, hsome, hfew, hmode, hfmt, hstride, hwide, hoffsAligned,
    houtAligned, hoffsReach, hids, hweights, hrows, hout⟩ := hfits
  constructor
  case ordered => exact hordered
  case plain => exact hplain
  case numeric => exact hnumeric
  all_goals
    simp only [h.bodyAt_eq, h.bodyZero_eq, h.alike.reach_eq, h.alike.rowIdsAt_eq, h.alike.rowReady_eq, h.alike.offsetsAt_eq]
    assumption

section

variable {t : State} {k : Nat}

theorem Alone.offsets {a n : Nat} {offs : List Nat} (h : reach t a (4 * (n + 1)) = true) (hoffs : offs = offsetsAt t a n)
    (hordered : offsetsOk offs = true) : Ends (Alone t k) (Cmd.offsets a n) fun l env => Alone t k env ∧ l = offs := by
  unfold Cmd.offsets
  refine Ends.bind_of_eq (Alone.read h) ?_
  rw [show (chunks 4 (n + 2) (peekBytes t a (4 * (n + 1)))).map leNat = offs from hoffs.symm, if_pos hordered]
  exact Ends.pure fun _ h => ⟨h, rfl⟩

/-- There is a weight for each index entry, or none for any. -/
theorem Alone.weights {a n : Nat} (h : a = 0 ∨ reach t a (4 * n) = true) :
    Ends (Alone t k) (Cmd.weights a n) fun l env => Alone t k env ∧ l.length = n := by
  unfold Cmd.weights
  split
  · exact Ends.pure fun _ h => ⟨h, List.length_replicate⟩
  · next hsome =>
    refine Ends.bind_of_eq (Alone.readP (h.resolve_left hsome)) (Ends.pure fun _ h => ⟨h, ?_⟩)
    have hbytes : ((peekBytes t a (4 * n)).map some).length = 4 * n := by rw [List.length_map, length_peekBytes]
    rw [List.length_map, rowVals, List.length_map]
    exact length_chunks (by decide) hbytes (by rw [hbytes]; omega)

variable {c : Entry} {d : List Byte} {offs : List Nat}

/-- The pooled bags are written to their places. -/
theorem pooledBags_ends {u : State} (hu : SamplerStands t u) (hready : TableReady t c d) (hfits : PoolFits t c d offs) (split code : Nat)
    (mean : Bool) (items : List (List Val × Option Val)) : Keeps (Written u k) ((offs.zip offs.tail).zipIdx.forM fun p => do
      let bag := (items.drop p.1.1).take (p.1.2 - p.1.1)
      Cmd.writeCells (bodyAt c 40 8 + p.2 * bodyAt c 48 4) (fmtBits (bodyAt c 5 1) / 8) code
        ((poolBag (tElems d) split mean bag).map (narrowCell (bodyAt c 5 1)))) := by
  refine Keeps.forM fun p hp => ?_
  obtain ⟨hi, -⟩ := List.mem_zipIdx' hp
  have hlength : offs.length = bodyAt c 8 4 + 1 := by rw [hfits.read, length_offsetsAt]
  have hbag : p.2 < bodyAt c 8 4 := by
    rw [List.length_zip, List.length_tail, hlength] at hi
    omega
  refine Written.writeCells (hu.errs hready.clean) (hu.undertow.trans hready.unarmed) _ (fun bs hbs => length_narrowCell hfits.fmt hbs) ?_
  rw [List.length_map]
  exact reach_part (hu.reach_of hready.clean (hfits.out p.2 hbag)) (Nat.le_refl _)
    (Nat.add_le_add_left (Nat.mul_le_mul_right _ (length_poolBag_le ..)) _)

theorem pool_checks (hready : TableReady t c d) (hbay : BayOf t c) (hfits : PoolFits t c d offs) :
    checksHold (gatherChecks t c d ++
      [(decide (bodyAt c 3 1 < 2) && bodyZero c 6 8 && bodyZero c 12 16 && bodyZero c 52 64, 0x30),
       (decide (1 ≤ bodyAt c 8 4 ∧ bodyAt c 8 4 ≤ 65536), 0x31),
       (decide (bodyAt c 4 1 ≤ 1) && (decide (bodyAt c 5 1 = 1) || decide (bodyAt c 5 1 = 2)) && (d.isEmpty || decide (tElem d ≠ 0)), 0x33),
       (d.isEmpty || decide (tElem d = 0) ||
         (decide (bodyAt c 48 4 % 16 = 0) && decide (tElems d * (fmtBits (bodyAt c 5 1) / 8) ≤ bodyAt c 48 4)), 0x32),
       (decide (bodyAt c 24 8 % 4 = 0) && decide (bodyAt c 40 8 % 16 = 0), 0x36)]) = true := by
  rw [gatherChecks_hold hready hbay hfits.plain]
  simp [checksHold, hfits.flags, hfits.zero, hfits.zeroMid, hfits.zeroEnd, hfits.some, hfits.few, hfits.mode, hfits.fmt, hfits.numeric,
    hfits.stride, hfits.wide, hfits.offsAligned, hfits.outAligned]

/-- The empty bags are no more than the bags. -/
theorem length_emptyBags_le (hfits : PoolFits t c d offs) : ((offs.zip offs.tail).filter fun p => p.1 = p.2).length ≤ bodyAt c 8 4 := by
  refine (List.length_filter_le ..).trans ?_
  rw [List.length_zip, List.length_tail, hfits.read, length_offsetsAt]
  omega

theorem bodyGatherPool_ends (hready : TableReady t c d) (hbay : BayOf t c) (hfits : PoolFits t c d offs) :
    Ends (Alone t 0) (bodyGatherPool c) fun o env =>
      Ending t (fun _ => DoneIn (0x6000 + bodyAt c 2 1) o ∧ o.result < 2 ^ 32) env := by
  have hstand (r : Nat) (hr : r ∈ rowIdsAt t (bodyAt c 16 8) (offs.getLastD 0)) : RowHere t d r := rowHere_of (hfits.rows r hr)
  unfold bodyGatherPool
  refine Ends.bind_of_eq Alone.readState ?_
  dsimp only
  rw [hready.table, Option.getD_some]
  refine Keeps.bind (Keeps.checks (pool_checks hready hbay hfits)) fun _ => Ends.bind (Alone.enter _) fun _ => ?_
  refine Keeps.bind (Keeps.forM fun _ _ => Alone.declare _ _) fun _ => ?_
  refine Ends.bind_of_eq (Alone.offsets hfits.offsReach hfits.read hfits.ordered) (Ends.bind_of_eq (Alone.rowIds hfits.ids) ?_)
  refine Ends.bind (Alone.weights hfits.weights) fun ws => Ends.strengthen (fun _ h => h.1) ?_
  refine Ends.bind_known (fetchRows_ends _ _ hready.clean hbay.1 hstand hready.still) ?_
  refine Keeps.bind (absentRows_ends _ _ _) fun _ => Keeps.bind (Keeps.field _ _ _) fun split => ?_
  refine Gathering.ends fun u hu _ => Ends.strengthen (fun _ h => h.written) ?_
  refine Keeps.bind (pooledBags_ends hu hready hfits _ _ _ _) fun _ => ?_
  refine Ends.strengthen (fun _ h => h.ending (p := fun _ => True) hu.entries (hu.undertow.trans hready.unarmed) fun _ => trivial) ?_
  refine Keeps.bind (Ending.countGranules (fun _ _ _ _ _ => trivial) _ _ _) fun _ => Ends.pure fun env h => ?_
  obtain ⟨hentries, hunarmed, hpoison, hcorrected, -⟩ := h
  refine ⟨hentries, hunarmed, hpoison, hcorrected, ⟨rfl, rfl, rfl⟩, ?_⟩
  have hempty := length_emptyBags_le hfits
  have hfew := hfits.few
  rw [remoteRows_fetched]
  dsimp only
  omega

end

/-- GATHER_POOL of rows of this shard. -/
theorem gatherPool_completes {s : State} {tag : Fin 1024} {e : Entry} {d : List Byte} {offs : List Nat} (hlaunch : Launch s tag.val 0x23 e)
    (hready : TableReady s e d) (hbay : BayOf s e) (hfits : PoolFits s e d offs) :
    Executes s (.gatherPool tag) tag.val fun _ o => DoneIn (0x6000 + bodyAt e 2 1) o ∧ o.result < 2 ^ 32 := by
  refine gather_executes (body := bodyGatherPool) (by simp [unitRows]) hlaunch (by decide) (fun _ _ _ _ _ h => h) fun t c h => ?_
  have hends := bodyGatherPool_ends (h.tableReady hready) (h.bayOf hbay) (h.poolFits hfits)
  rwa [h.bodyAt_eq] at hends

end Sys2Proof.Machine
end

section
/-! PROOFS. SCATTER_ADD to a touched row of this shard (R100 to R102). -/

namespace Sys2Proof.Machine

open Sys2Proof

theorem length_flatMap_toLE {α : Type} (n : Nat) (f : α → Nat) (l : List α) : (l.flatMap fun x => toLE n (f x)).length = n * l.length := by
  simp [List.length_flatMap, length_toLE, Nat.mul_comm]

/-- The count of the gradient row at an address is that of a state, and one more. -/
def Counted (s : State) (x : Nat) (u : State) : Prop := leNat (peekBytes u x 4) = satAdd32 (leNat (peekBytes s x 4)) 1

/-- A contribution added to a touched row of the gradient buffer. -/
theorem touchedContribution_ends {s t : State} {k : Nat} {d : List Byte} {i x : Nat} (codes : List Nat) (hclean : s.errs = [])
    (hunarmed : s.undertow = []) (hentries : s.entries = t.entries) (h : GradReady s d i) (hx : x = tGrad d + i * (8 + 8 * tElems d)) :
    Ends (Stays s k) (Cmd.addContribution d i codes) fun _ => Ending t (Counted s x) := by
  obtain ⟨htouched, hgrad, hmap, hbeside⟩ := h
  rw [← hx] at hgrad hbeside
  have hreach := reach_skerry hclean hgrad
  simp only [skerryRange, Bool.and_eq_true, decide_eq_true_eq] at hgrad
  obtain ⟨hlow, hhigh⟩ := hgrad
  have hmapRange := hmap
  simp only [skerryRange, Bool.and_eq_true, decide_eq_true_eq] at hmapRange
  obtain ⟨hmapLow, hmapHigh⟩ := hmapRange
  let u := pokeBytes s x (toLE 4 (satAdd32 (leNat (peekBytes s x 4)) 1))
  have hstands : MapStands s u := pokeBytes_mapStands ..
  have hrest : reach u (x + 8) (8 * tElems d) = true := reach_mapStands hstands hclean (reach_part hreach (by omega) (by omega))
  have hstore {l : List Byte} (c : Nat → Cmd Unit) (hl : l.length ≤ 8 * tElems d) : Ends (Stays u k)
      (Cmd.write (x + 8) l >>= fun _ => Cmd.rowEntry d i >>= fun e => if eTouched e then pure () else c e)
      fun _ => Ending t (Counted s x) := by
    have hstands' : MapStands s (contributed s x l) := hstands.trans (pokeBytes_mapStands u (x + 8) l)
    have hentry : mapEntry (contributed s x l) d i = mapEntry s d i := by
      rw [mapEntry, mapEntry, peekBytes_contributed s hlow (by omega) hmapLow hmapHigh (by omega)]
    refine Ends.bind (Stays.write (hstands.errs hclean) (hstands.undertow.trans hunarmed) (reach_part hrest (Nat.le_refl _) (by omega)))
      fun _ => Ends.bind_of_eq (a := mapEntry (contributed s x l) d i) (Stays.readNat (reach_skerry (hstands'.errs hclean) hmap)) ?_
    rw [hentry, if_pos htouched]
    exact Ends.pure fun env henv => henv.ending (((pokeBytes_entries ..).trans (pokeBytes_entries ..)).trans hentries)
      (hstands'.undertow.trans hunarmed) (count_contributed s hlow (by omega))
  unfold Cmd.addContribution
  dsimp only
  rw [← hx]
  refine Ends.bind_of_eq (Stays.readNat (reach_part hreach (by omega) (by omega))) ?_
  refine Ends.bind (Stays.write hclean hunarmed (reach_part hreach (by omega) (by rw [length_toLE]; omega))) fun _ => ?_
  refine Ends.bind_of_eq (Stays.read hrest) ?_
  have haccs : ((chunks 8 (tElems d + 1) (peekBytes u (x + 8) (8 * tElems d))).map leNat).length = tElems d := by
    rw [List.length_map, length_chunks (by decide) (length_peekBytes ..) (Nat.lt_succ_self _)]
  split
  · refine Keeps.bind (Stays.note _) fun _ => hstore _ ?_
    rw [length_flatMap_toLE, haccs]
  · refine hstore _ ?_
    rw [length_flatMap_toLE, List.length_zip, haccs]
    omega

/-- A SCATTER_ADD of one gradient row to a touched row that is ready. -/
structure ScatterFits (s : State) (e : Entry) (d : List Byte) (r : Nat) : Prop where
  row : rowReady s d r = true
  ready : GradReady s d (localOf r)
  plain : tMigratable d = false
  numeric : tElem d ≠ 0
  grad : tGrad d ≠ 0
  mode : bodyAt e 3 1 = 0
  flags : bodyAt e 5 1 < 2
  zero : bodyZero e 48 64 = true
  unbagged : bodyAt e 24 8 = 0
  one : bodyAt e 8 4 = 1
  low : 1 ≤ bodyAt e 4 1
  high : bodyAt e 4 1 ≤ 3
  expLow : -256 ≤ signed 16 (bodyAt e 6 2)
  expHigh : signed 16 (bodyAt e 6 2) ≤ 127
  stride : bodyAt e 12 4 % 16 = 0
  wide : tElems d * (fmtBits (bodyAt e 4 1) / 8) ≤ bodyAt e 12 4
  idsReach : reach s (bodyAt e 16 8) 8 = true
  ids : rowIdsAt s (bodyAt e 16 8) 1 = [r]
  weights : bodyAt e 32 8 = 0 ∨ reach s (bodyAt e 32 8) 4 = true
  grads : reach s (bodyAt e 40 8) (tElems d * (fmtBits (bodyAt e 4 1) / 8)) = true

theorem ReadAlike.gradReady {s t : State} {d : List Byte} {i : Nat} (h : ReadAlike s t) (hgrad : GradReady s d i) : GradReady t d i := by
  obtain ⟨htouched, hgrad, hmap, hbeside⟩ := hgrad
  exact ⟨by rwa [h.mapEntry_eq], hgrad, hmap, hbeside⟩

theorem GatherLaunched.scatterFits {s t : State} {e c : Entry} {d : List Byte} {r : Nat} (h : GatherLaunched s e t c)
    (hfits : ScatterFits s e d r) : ScatterFits t c d r := by
  obtain ⟨hrow, hready, hplain, hnumeric, hgrad, hmode, hflags, hzero, hunbagged, hone, hlow, hhigh, hexpLow, hexpHigh, hstride, hwide,
    hidsReach, hids, hweights, hgrads⟩ := hfits
  constructor
  case ready => exact h.alike.gradReady hready
  case plain => exact hplain
  case numeric => exact hnumeric
  case grad => exact hgrad
  all_goals
    simp only [h.bodyAt_eq, h.bodyZero_eq, h.alike.reach_eq, h.alike.rowIdsAt_eq, h.alike.rowReady_eq]
    assumption

section

variable {t : State} {k : Nat} {c : Entry} {d : List Byte} {r : Nat}

theorem scatter_checks (hready : TableReady t c d) (hbay : BayOf t c) (hfits : ScatterFits t c d r) :
    checksHold (gatherChecks t c d ++
      [(decide (bodyAt c 5 1 < 2) && bodyZero c 48 64 && (decide (bodyAt c 3 1 = 1) || decide (bodyAt c 24 8 = 0)), 0x30),
       (decide (1 ≤ bodyAt c 8 4 ∧ bodyAt c 8 4 ≤ 65536), 0x31),
       (decide (bodyAt c 3 1 ≤ 1) && decide (1 ≤ bodyAt c 4 1 ∧ bodyAt c 4 1 ≤ 3) &&
         decide (-256 ≤ signed 16 (bodyAt c 6 2) ∧ signed 16 (bodyAt c 6 2) ≤ 127) &&
         (d.isEmpty || (decide (tElem d ≠ 0) && decide (tGrad d ≠ 0))), 0x33),
       (d.isEmpty || decide (tElem d = 0) ||
         (decide (bodyAt c 12 4 % 16 = 0) && decide (tElems d * (fmtBits (bodyAt c 4 1) / 8) ≤ bodyAt c 12 4)), 0x32),
       (decide (bodyAt c 24 8 % 4 = 0), 0x36)]) = true := by
  rw [gatherChecks_hold hready hbay hfits.plain]
  simp [checksHold, hfits.flags, hfits.zero, hfits.mode, hfits.unbagged, hfits.one, hfits.low, hfits.high, hfits.expLow, hfits.expHigh,
    hfits.numeric, hfits.grad, hfits.stride, hfits.wide]

theorem bodyScatterAdd_ends (hready : TableReady t c d) (hbay : BayOf t c) (hfits : ScatterFits t c d r) :
    Ends (Alone t 0) (bodyScatterAdd c) fun o env =>
      Ending t (fun u => DoneIn (0x6000 + bodyAt c 2 1) o ∧ Counted t (tGrad d + localOf r * (8 + 8 * tElems d)) u) env := by
  have hrow := rowHere_of hfits.row
  have hstand (x : Nat) (hx : x ∈ [r]) : RowHere t d x := List.mem_singleton.mp hx ▸ hrow
  unfold bodyScatterAdd
  refine Ends.bind_of_eq Alone.readState ?_
  dsimp only
  rw [hready.table, Option.getD_some]
  refine Keeps.bind (Keeps.checks (scatter_checks hready hbay hfits)) fun _ => Ends.bind (Alone.enter _) fun _ => ?_
  simp only [hfits.mode, hfits.one]
  have hitems : scatterItems (decide (0 = 1)) 1 [] = [(0, 0)] := rfl
  have hrange : seqFrom 0 1 = [0] := rfl
  have hplace : placeIn (placesHere [r].dedup) r = some (.here (localOf r)) := placeIn_placesHere (by simp)
  rw [if_neg (by decide)]
  simp only [pure_bind, hitems, hrange, List.length_singleton]
  refine Ends.bind_of_eq (Alone.rowIds hfits.idsReach) ?_
  rw [hfits.ids]
  refine Ends.bind (Alone.weights hfits.weights) fun ws => Ends.assume (fun _ h => h.2) fun hws => Ends.strengthen (fun _ h => h.1) ?_
  obtain ⟨w, rfl⟩ := List.length_eq_one_iff.mp hws
  refine Keeps.bind (Keeps.mapM fun x hx => ?_) fun grads => ?_
  · rw [List.mem_singleton.mp hx, Nat.zero_mul]
    exact Ends.bind_of_eq (Alone.readP hfits.grads) (Keeps.pure _)
  refine Ends.bind_of_eq (placeRows_ends _ _ hstand hready.still) ?_
  simp only [List.zip_cons_cons, List.zip_nil_left, List.map_cons, List.map_nil, List.zipIdx_cons, List.zipIdx_nil, List.filterMap_cons,
    List.filterMap_nil, hplace]
  refine Keeps.bind Keeps.askNone fun _ => Keeps.bind (Keeps.pure _) fun _ => ?_
  refine Ends.bind (R := fun _ => Ending t (Counted t (tGrad d + localOf r * (8 + 8 * tElems d)))) ?_ fun _ => Ends.pure fun env h => ?_
  · refine Ends.bind ?_ fun _ => Keeps.pure _
    simp only [hplace]
    refine Ends.strengthen (fun _ h => h.stays) (Ends.bind_of_eq Stays.readState (Ends.bind_of_eq (Stays.readNat hrow.mapReach) ?_))
    rw [show leNat (peekBytes t (tRowmap d + 8 * localOf r) 8) = mapEntry t d (localOf r) from rfl, hrow.turn _ hready.still]
    exact touchedContribution_ends _ hready.clean hready.unarmed rfl hfits.ready rfl
  · obtain ⟨hentries, hunarmed, hpoison, hcorrected, hcounted⟩ := h
    exact ⟨hentries, hunarmed, hpoison, hcorrected, ⟨rfl, rfl, rfl⟩, hcounted⟩

end

theorem counted_ofStore (s : State) {x : Nat} (hlow : 0x010000000000 ≤ x) (hhigh : x + 4 ≤ 0x020000000000) : OfStore (Counted s x) :=
  fun _ _ hmem hundef h => (congrArg leNat (peekBytes_skerry_congr hmem hundef 4 x hlow hhigh)).trans h

/-- SCATTER_ADD of one gradient row to a touched row of this shard. -/
theorem scatterAdd_completes {s : State} {tag : Fin 1024} {e : Entry} {d : List Byte} {r : Nat} (hlaunch : Launch s tag.val 0x24 e)
    (hready : TableReady s e d) (hbay : BayOf s e) (hfits : ScatterFits s e d r) :
    Executes s (.scatterAdd tag) tag.val fun t o => DoneIn (0x6000 + bodyAt e 2 1) o ∧
      Counted s (tGrad d + localOf r * (8 + 8 * tElems d)) t := by
  have hgrad := hfits.ready.grad
  simp only [skerryRange, Bool.and_eq_true, decide_eq_true_eq] at hgrad
  obtain ⟨hlow, hhigh⟩ := hgrad
  refine gather_executes (body := bodyScatterAdd) (by simp [unitRows]) hlaunch (by decide)
    (fun o u v hmem hundef h => ⟨h.1, counted_ofStore s hlow (by omega) u v hmem hundef h.2⟩) fun t c h => ?_
  have hends := bodyScatterAdd_ends (h.tableReady hready) (h.bayOf hbay) (h.scatterFits hfits)
  simp only [Counted, h.alike.peekBytes_eq, h.bodyAt_eq] at hends
  exact hends

end Sys2Proof.Machine
end

section
/-! PROOFS. ROW_REPLACE of one row of this shard (R104 to R106). -/

namespace Sys2Proof.Machine

open Sys2Proof

/-- The entry of a table's free ring `k` places after its head. -/
def ringEntry (s : State) (d : List Byte) (k : Nat) : Nat :=
  leNat (peekBytes s (tRing d + 64 + 8 * ((leNat (peekBytes s (tRing d) 4) + k) % tRingSize d)) 8)

theorem ringEntry_zero (s : State) (d : List Byte) :
    ringEntry s d 0 = leNat (peekBytes s (tRing d + 64 + 8 * (leNat (peekBytes s (tRing d) 4) % tRingSize d)) 8) := by
  simp only [ringEntry, Nat.add_zero]

/-- A free ring in reach that is not empty and begins with a slot of a tier. -/
structure RingOffers (s : State) (d : List Byte) (tier : Nat) : Prop where
  reach : reach s (tRing d) (64 + 8 * tRingSize d) = true
  some : 0 < tRingSize d
  used : leNat (peekBytes s (tRing d) 4) % tRingSize d ≠ leNat (peekBytes s (tRing d + 4) 4) % tRingSize d
  tier : bits (ringEntry s d 0) 63 63 = tier

/-- A ring whose head and tail differ holds entries. -/
theorem ring_used {n head tail : Nat} (hn : 0 < n) (h : head % n ≠ tail % n) : ∃ m, (tail + n - head % n) % n = m + 1 := by
  have hhead := Nat.mod_lt head hn
  refine ⟨(tail + n - head % n) % n - 1, ?_⟩
  have hne : (tail + n - head % n) % n ≠ 0 := fun h0 => by
    obtain ⟨q, hq⟩ := Nat.dvd_of_mod_eq_zero h0
    have htail : tail + n = head % n + n * q := by omega
    have hmod : tail % n = head % n := by
      rw [← Nat.add_mod_right tail n, htail, Nat.add_mul_mod_self_left, Nat.mod_mod]
    exact h hmod.symm
  omega

section

variable {t : State} {k : Nat} {d : List Byte} {tier : Nat}

/-- What changes neither the map nor the commands. -/
theorem Written.update {f : State → State} (hf : ∀ v, MapStands v (f v) ∧ (f v).entries = v.entries) : Keeps (Written t k) (Cmd.update f) :=
  Written.ends fun v hmap hentries => (Stays.update f).weaken fun _ _ h =>
    h.writtenOf (hmap.trans (hf v).1) ((hf v).2.trans hentries)

/-- The slot at the head of such a ring is taken. -/
theorem takeSlot_ends (hclean : t.errs = []) (hunarmed : t.undertow = []) (h : RingOffers t d tier) :
    Ends (Stays t k) (Cmd.takeSlot d tier) fun r env => Written t k env ∧ r = some (ringEntry t d 0 % 2 ^ 40) := by
  obtain ⟨hreach, hsome, hused, htier⟩ := h
  have hplace (j : Nat) : Machine.reach t (tRing d + 64 + 8 * (j % tRingSize d)) 8 = true := by
    have hj := Nat.mod_lt j hsome
    exact reach_part hreach (by omega) (by omega)
  obtain ⟨m, hm⟩ := ring_used hsome hused
  unfold Cmd.takeSlot
  refine Ends.bind_of_eq (Stays.readNat (reach_part hreach (by omega) (by omega))) ?_
  refine Ends.bind_of_eq (Stays.readNat (reach_part hreach (by omega) (by omega))) ?_
  dsimp only
  rw [hm]
  refine Ends.bind_of_eq (Ends.mapM_eq (f := ringEntry t d) fun j _ => Stays.readNat (hplace _)) ?_
  have hfirst : ((seqFrom 0 (m + 1)).map (ringEntry t d)) = ringEntry t d 0 :: (seqFrom 1 m).map (ringEntry t d) := rfl
  have hfind : (ringEntry t d 0 :: (seqFrom 1 m).map (ringEntry t d)).findIdx? (fun x => bits x 63 63 = tier) = some 0 := by
    simp [List.findIdx?_cons, htier]
  rw [hfirst, hfind]
  refine Ends.strengthen (fun _ h => h.written) (Keeps.bind (Written.writeNat hclean hunarmed _ (hplace _)) fun _ => ?_)
  refine Keeps.bind (Written.writeNat hclean hunarmed _ (reach_part hreach (by omega) (by omega))) fun _ => Ends.pure fun _ h => ⟨h, rfl⟩

theorem queueRelease_stands (v : State) (table tier slot : Nat) :
    MapStands v (queueRelease v table tier slot) ∧ (queueRelease v table tier slot).entries = v.entries := ⟨.of_eq rfl rfl rfl rfl, rfl⟩

/-- A row of this shard replaced in a slot that the free ring offers. -/
theorem replaceRow_ends {r table src : Nat} (hready : NoMigration t) (helem : tElem d ≤ 3) (hclean : t.errs = []) (hunarmed : t.undertow = [])
    (hrow : RowReady t d r) (hring : RingOffers t d tier) (hsrc : reach t src (tBytes d) = true)
    (hslot : reach t (slotAddr d tier (ringEntry t d 0 % 2 ^ 40)) (tBytes d) = true) :
    Ends (Stays t k) (Cmd.replaceRows table d tier false src [r] 0) fun _ => Written t k := by
  unfold Cmd.replaceRows
  refine Ends.bind_of_eq Stays.readState ?_
  dsimp only
  rw [hrow.ownedIndex_eq _ hready, Option.getD_some]
  refine Ends.bind_known (takeSlot_ends hclean hunarmed hring) ?_
  dsimp only
  refine Ends.bind (Written.readP hclean (by rwa [Nat.zero_mul, Nat.add_zero])) fun l => Ends.assume (fun _ h => h.2) fun hl => ?_
  obtain ⟨bs, hlength, rfl⟩ := hl
  refine Ends.strengthen (fun _ h => h.1) ?_
  refine Keeps.bind (Written.writeRow hclean hunarmed _ (tElemBytes_pos helem) (by omega) (by rwa [hlength])) fun _ => ?_
  unfold Cmd.flipRow
  simp only [Bool.false_eq_true, if_false, bind_assoc, Cmd.replaceRows]
  refine Keeps.bind (Written.readNat hclean hrow.mapReach) fun _ => ?_
  refine Keeps.bind (Written.writeNat hclean hunarmed _ hrow.mapReach) fun _ => ?_
  exact Keeps.bind (Written.update fun v => queueRelease_stands v _ _ _) fun _ => Keeps.pure _

end

/-- A ROW_REPLACE of one row that is ready, in a slot that the free ring offers. -/
structure ReplaceFits (s : State) (e : Entry) (d : List Byte) (r : Nat) : Prop where
  row : rowReady s d r = true
  ring : RingOffers s d (bodyAt e 2 1)
  tier : bodyAt e 2 1 < 2
  zero : bodyZero e 3 4 = true
  zeroEnd : bodyZero e 24 32 = true
  one : bodyAt e 4 4 = 1
  srcAligned : bodyAt e 16 8 % 16 = 0
  idsReach : reach s (bodyAt e 8 8) 8 = true
  ids : rowIdsAt s (bodyAt e 8 8) 1 = [r]
  src : reach s (bodyAt e 16 8) (tBytes d) = true
  slot : reach s (slotAddr d (bodyAt e 2 1) (ringEntry s d 0 % 2 ^ 40)) (tBytes d) = true

theorem ReadAlike.ringEntry_eq {s t : State} (h : ReadAlike s t) (d : List Byte) (k : Nat) : ringEntry t d k = ringEntry s d k := by
  simp only [ringEntry, h.peekBytes_eq]

theorem ReadAlike.ringOffers {s t : State} {d : List Byte} {tier : Nat} (h : ReadAlike s t) (hring : RingOffers s d tier) :
    RingOffers t d tier := by
  obtain ⟨hreach, hsome, hused, htier⟩ := hring
  exact ⟨by rwa [h.reach_eq], hsome, by simpa only [h.peekBytes_eq] using hused, by rwa [h.ringEntry_eq]⟩

theorem GatherLaunched.replaceFits {s t : State} {e c : Entry} {d : List Byte} {r : Nat} (h : GatherLaunched s e t c)
    (hfits : ReplaceFits s e d r) : ReplaceFits t c d r := by
  obtain ⟨hrow, hring, htier, hzero, hzeroEnd, hone, hsrcAligned, hidsReach, hids, hsrc, hslot⟩ := hfits
  constructor
  case ring => exact h.bodyAt_eq ▸ h.alike.ringOffers hring
  all_goals
    simp only [h.bodyAt_eq, h.bodyZero_eq, h.alike.reach_eq, h.alike.rowIdsAt_eq, h.alike.rowReady_eq, h.alike.ringEntry_eq]
    assumption

/-- A command just dispatched has done none of its rows. -/
theorem rowsDone_of_ready {e : Entry} (h : e.phase = .ready) : rowsDone e = 0 := by
  unfold rowsDone
  rw [h]

section

variable {t : State} {c : Entry} {d : List Byte} {r : Nat}

theorem replace_checks (hready : TableReady t c d) (hfits : ReplaceFits t c d r) : checksHold
    [(decide (bodyAt c 0 2 < 256) && !d.isEmpty && decide (bodyAt c 2 1 < 4) && bodyZero c 3 4 && bodyZero c 24 32, 0x30),
     (decide (1 ≤ bodyAt c 4 4 ∧ bodyAt c 4 4 ≤ 4096), 0x31), (decide (bodyAt c 16 8 % 16 = 0), 0x36)] = true := by
  have htier : bodyAt c 2 1 < 4 := by have := hfits.tier; omega
  simp [checksHold, hready.index, hready.some, htier, hfits.zero, hfits.zeroEnd, hfits.one, hfits.srcAligned]

theorem bodyRowReplace_ends (hready : TableReady t c d) (hphase : c.phase = .ready) (hfits : ReplaceFits t c d r) :
    Ends (Alone t 0) (bodyRowReplace c) fun o env => Ending t (fun _ => o = ⟨0, 0, 0x6000, 1, 0⟩) env := by
  have hrow := rowReady_named hfits.row
  have hreset : bit (bodyAt c 2 1) 1 = false := by
    have htier := hfits.tier
    generalize bodyAt c 2 1 = x at htier
    interval_cases x
    all_goals decide
  have hfault : [r].findSome? (ownedFault t (bodyAt c 0 2) d 0x31) = none := by simp [hrow.noFault _ hready.still]
  unfold bodyRowReplace
  refine Ends.bind_of_eq Alone.readState ?_
  dsimp only
  rw [hready.table, Option.getD_some]
  refine Keeps.bind (Keeps.checks (replace_checks hready hfits)) fun _ => Ends.bind (Alone.enter _) fun _ => ?_
  rw [hfits.one]
  refine Ends.bind_of_eq (Alone.rowIds hfits.idsReach) ?_
  rw [hfits.ids, rowsDone_of_ready hphase, List.drop_zero, hfault, hreset, Nat.mod_eq_of_lt hfits.tier]
  refine Ends.strengthen (fun _ h => h.stays) ?_
  refine Ends.bind (replaceRow_ends hready.still hready.elem hready.clean hready.unarmed hrow hfits.ring hfits.src hfits.slot) fun _ => ?_
  exact Ends.pure fun _ h => h.ending rfl hready.unarmed fun _ => rfl

end

/-- ROW_REPLACE of one row of this shard. -/
theorem rowReplace_completes {s : State} {tag : Fin 1024} {e : Entry} {d : List Byte} {r : Nat} (hlaunch : Launch s tag.val 0x25 e)
    (hready : TableReady s e d) (hfits : ReplaceFits s e d r) :
    Executes s (.rowReplace tag) tag.val fun _ o => o = ⟨0, 0, 0x6000, 1, 0⟩ :=
  gather_executes (body := bodyRowReplace) (by simp [unitRows]) hlaunch (by decide) (fun _ _ _ _ _ h => h) fun _ _ h =>
    bodyRowReplace_ends (h.tableReady hready) h.ready (h.replaceFits hfits)

end Sys2Proof.Machine
end

section
/-! PROOFS. ROW_MIGRATE to this module and to another (R110, R111). -/

namespace Sys2Proof.Machine

open Sys2Proof

/-! ## Executions that stop -/

/-- From every environment that meets `P` the execution stops, and the stop and the environment it leaves meet `Q`. -/
def Halts {α : Type} (P : Env → Prop) (c : Cmd α) (Q : Stop → Env → Prop) : Prop :=
  ∀ env, P env → ∃ x env', c.run.run env = (.error x, env') ∧ Q x env'

section

variable {α β : Type} {P R : Env → Prop} {c : Cmd α} {f : α → Cmd β} {Q : Stop → Env → Prop}

theorem Halts.bind {S : α → Env → Prop} (hc : Ends P c S) (hf : ∀ a, Halts (S a) (f a) Q) : Halts P (c >>= f) Q := fun env henv => by
  obtain ⟨a, env1, hrun, hS⟩ := hc env henv
  obtain ⟨x, env2, hrun2, hQ⟩ := hf a env1 hS
  refine ⟨x, env2, ?_, hQ⟩
  rw [ExceptT.run_bind, StateT.run_bind, hrun]
  exact hrun2

theorem Halts.bind_known {a : α} (hc : Ends P c fun r env => R env ∧ r = a) (hf : Halts R (f a) Q) : Halts P (c >>= f) Q :=
  Halts.bind hc fun _ env h => by
    obtain ⟨henv, rfl⟩ := h
    exact hf env henv

theorem Halts.throw (x : Stop) (h : ∀ env, P env → Q x env) : Halts P (MonadExcept.throw x : Cmd α) Q :=
  fun env henv => ⟨x, env, rfl, h env henv⟩

end

/-! ## States that find rows alike -/

section

variable {s t : State} (h : ReadAlike s t)
include h

theorem ReadAlike.dirEntries_eq (d : List Byte) : dirEntries t d = dirEntries s d := by simp only [dirEntries, h.unitBytes_eq]

theorem ReadAlike.dirLookup_eq (d : List Byte) (row : Nat) : dirLookup t d row = dirLookup s d row := by
  rw [dirLookup, dirLookup, h.dirEntries_eq]

theorem ReadAlike.ownedIndex_eq (hgath : t.gath = s.gath) (table : Nat) (d : List Byte) (row : Nat) :
    ownedIndex t table d row = ownedIndex s table d row := by
  simp only [ownedIndex, guestIndex, hgath, h.dirLookup_eq, h.ownId_eq]

theorem ReadAlike.ownedFault_eq (hgath : t.gath = s.gath) (table : Nat) (d : List Byte) (refused row : Nat) :
    ownedFault t table d refused row = ownedFault s table d refused row := by
  have hmigration (i : Nat) : migrationOf t table i = migrationOf s table i := by rw [migrationOf, migrationOf, hgath]
  have hturn (i e : Nat) : rowTurn t table d row i e = rowTurn s table d row i e := by
    simp only [rowTurn, hmigration, h.dirLookup_eq, h.ownId_eq]
  simp only [ownedFault, h.ownedIndex_eq hgath, h.ownId_eq, storedEntry, h.unitBytes_eq, hmigration, hturn]

end

/-! ## A row announced -/

/-- Where no word has an error pattern, the copy of a row reads and changes nothing. -/
theorem scanRow_clean {s : State} (hclean : s.errs = []) (table : Nat) (d : List Byte) (i : Nat) : scanRow s table d i = s := by
  have hscan (a n : Nat) : scanWords s a n = s := if_pos (by simp [hclean])
  simp only [scanRow, hscan]

/-- A row announced is EBBING, its migration begins, and its copy is sent. -/
theorem announceRow_clean {s : State} (hclean : s.errs = []) (tag table : Nat) (d : List Byte) (dest row : Nat) :
    (announceRow tag table d dest s row).entries = s.entries ∧ ∃ i im, (announceRow tag table d dest s row).gath.migrations =
      s.gath.migrations ++ [⟨table, row, i, dest, tag, 0, 0, 0, 0, im⟩] := by
  generalize hi : (ownedIndex s table d row).getD 0 = i
  have hstored : putEntry s d i (withState (storedEntry s d i) 2) =
      pokeBytes s (tRowmap d + 8 * i) (toLE 8 (withState (storedEntry s d i) 2)) := storeBytes_clean _ _ hclean
  have hscan : scanRow (putEntry s d i (withState (storedEntry s d i) 2)) table d i = putEntry s d i (withState (storedEntry s d i) 2) :=
    scanRow_clean (by rw [hstored]; exact (pokeBytes_mapStands ..).errs hclean) ..
  unfold announceRow
  dsimp only
  rw [hi, hscan, hstored]
  generalize rowImage _ table d i = im
  unfold sendRow
  have hsent (u : State) (content : Content) : (sendMessage u dest content).2.entries = u.entries ∧
      (sendMessage u dest content).2.gath = u.gath := by
    have hframe := (sendMessage_only u dest content).1
    exact ⟨by rw [hframe], by rw [hframe]⟩
  obtain ⟨hentries, hgath⟩ := hsent { pokeBytes s (tRowmap d + 8 * i) (toLE 8 (withState (storedEntry s d i) 2)) with
    gath := { (pokeBytes s (tRowmap d + 8 * i) (toLE 8 (withState (storedEntry s d i) 2))).gath with
      migrations := (pokeBytes s (tRowmap d + 8 * i) (toLE 8 (withState (storedEntry s d i) 2))).gath.migrations ++
        [⟨table, row, i, dest, tag, 0, 0, 0, 0, im⟩] } }
    ⟨.migrationCopy, [table, row, 0, b2n false, im.entry], im.slot ++ im.state ++ im.grad⟩
  refine ⟨hentries.trans (pokeBytes_entries ..), i, im, ?_⟩
  rw [hgath, pokeBytes_eq]

/-! ## ROW_MIGRATE -/

/-- A ROW_MIGRATE that passes its checks. -/
structure MigrateFits (s : State) (e : Entry) : Prop where
  zero : bodyZero e 16 32 = true
  some : 1 ≤ bodyAt e 4 4
  few : bodyAt e 4 4 ≤ 4096
  dest : bodyAt e 2 2 < 4096

/-- A migration of one row to another module that the gather unit accepts. -/
structure MigrateAway (s : State) (e : Entry) (d : List Byte) (r : Nat) : Prop where
  away : bodyAt e 2 2 ≠ ownId s
  migratable : tMigratable d = true
  one : bodyAt e 4 4 = 1
  idsReach : reach s (bodyAt e 8 8) 8 = true
  ids : rowIdsAt s (bodyAt e 8 8) 1 = [r]
  unfaulted : ownedFault s (bodyAt e 0 2) d 0x30 r = none
  room : 8 * dirUsed s d < 7 * tDirSize d

/-- A row under way to a module for a command. -/
def Announced (e : Entry) (r : Nat) (u : State) : Prop :=
  ∃ m ∈ u.gath.migrations, m.table = bodyAt e 0 2 ∧ m.row = r ∧ m.dest = bodyAt e 2 2 ∧ m.tag = e.tag ∧ m.phase = 0

section

variable {s t : State} {e c : Entry} {d : List Byte} {r : Nat} (h : GatherLaunched s e t c) (hready : TableReady s e d) (hfits : MigrateFits s e)
include h hready hfits

theorem migrate_checks : checksHold
    [(decide (bodyAt c 0 2 < 256) && !d.isEmpty && decide (bodyAt c 2 2 < 4096) && bodyZero c 16 32, 0x30),
     (decide (1 ≤ bodyAt c 4 4 ∧ bodyAt c 4 4 ≤ 4096), 0x31)] = true := by
  rw [h.bodyAt_eq, h.bodyZero_eq]
  simp [checksHold, hready.index, hready.some, hfits.zero, hfits.some, hfits.few, hfits.dest]

/-- A migration to this module itself moves nothing (R110). -/
theorem bodyRowMigrate_own (hown : bodyAt e 2 2 = ownId s) :
    Ends (Alone t 0) (bodyRowMigrate c) fun o env => Ending t (fun _ => o = ⟨0, 0, 0x6000, 0, 0⟩) env := by
  obtain ⟨-, htable, -, -, -, -, hunarmed⟩ := h.tableReady hready
  unfold bodyRowMigrate
  refine Ends.bind_of_eq Alone.readState ?_
  dsimp only
  rw [htable, Option.getD_some]
  refine Keeps.bind (Keeps.checks (migrate_checks h hready hfits)) fun _ => Ends.bind (Alone.enter _) fun _ => ?_
  rw [if_pos (by rw [h.bodyAt_eq, h.alike.ownId_eq, hown])]
  exact Ends.pure fun _ h => h.stays.ending rfl hunarmed rfl

/-- The row is announced, and the command pauses until its migration ends. -/
theorem bodyRowMigrate_away (haway : MigrateAway s e d r) : Halts (Alone t 0) (bodyRowMigrate c) fun x env =>
    x = .pause (.migration 0 0 0) ∧ env.s.entries = t.entries ∧ Announced e r env.s := by
  obtain ⟨-, htable, -, -, ⟨-, hmigrations⟩, hclean, -⟩ := h.tableReady hready
  obtain ⟨haway, hmigratable, hone, hidsReach, hids, hfault, hroom⟩ := haway
  have htag : c.tag = e.tag := entryOf_tag h.tracked
  have hfault' : [r].findSome? (ownedFault t (bodyAt e 0 2) d 0x30) = none := by simp [h.alike.ownedFault_eq h.gath, hfault]
  have hused : dirUsed t d = dirUsed s d := by rw [dirUsed, dirUsed, h.alike.dirEntries_eq]
  have hchecks := migrate_checks h hready hfits
  unfold bodyRowMigrate
  rw [h.bodyAt_eq] at htable hchecks ⊢
  refine Halts.bind_known Alone.readState ?_
  dsimp only
  rw [htable, Option.getD_some]
  refine Halts.bind (Keeps.checks hchecks) fun _ => Halts.bind (Alone.enter _) fun _ => ?_
  rw [if_neg (by rwa [h.alike.ownId_eq]), if_neg (by simp [hmigratable]), hone]
  refine Halts.bind_known (Alone.rowIds (by rwa [h.alike.reach_eq])) ?_
  rw [h.alike.rowIdsAt_eq, hids, hfault']
  dsimp only
  rw [if_neg (by simp [hasDup]), if_neg (by omega), if_neg (by simp [hmigrations])]
  refine Halts.bind (Ends.strengthen (fun _ h => h.stays) (Stays.update _)) fun _ => Halts.throw _ fun env henv => ⟨rfl, ?_⟩
  obtain ⟨hentries, i, im, hadded⟩ := announceRow_clean hclean c.tag (bodyAt e 0 2) d (bodyAt e 2 2) r
  rw [henv.state]
  exact ⟨hentries, _, by rw [List.foldl_cons, List.foldl_nil, hadded]; exact List.mem_append_right _ (.head _), rfl, rfl, rfl, htag, rfl⟩

end

/-! ## The command that pauses -/

/-- A command that pauses is tracked in its wait, and what the gather unit holds is what its body left. -/
theorem runEnds_of_pause (s base b : State) {e c : Entry} {env : Env} (w : Wait) (hc : entryOf env.s e.tag = some c) :
    ∃ u d, runEnds s base e false none b env (.error (.pause w)) = u ∧ entryOf u e.tag = some d ∧ d.phase = .running w ∧
      u.gath = env.s.gath := by
  have hdropped : entryOf (dropRecords env.s env.outs) e.tag = some c := (entryOf_congr (by rw [dropRecords_eq]) _).trans hc
  have hrunning := (entryOf_setEntry (dropRecords env.s env.outs) e.tag (f := fun c => { keepRun env c with phase := .running w })
    fun _ hd => hd).trans (congrArg (Option.map _) hdropped)
  have hpaused := (entryOf_setEntry _ e.tag (f := fun c => { c with ins := env.ins, outs := env.outs })
    fun _ hd => hd).trans (congrArg (Option.map _) hrunning)
  refine ⟨settleStop s b e env (.pause w), _, rfl, hpaused, rfl, ?_⟩
  show (dropRecords env.s env.outs).gath = env.s.gath
  rw [dropRecords_eq]

section

variable {s : State} {tag : Fin 1024} {e : Entry} {d : List Byte} (hlaunch : Launch s tag.val 0x26 e) (hready : TableReady s e d)
  (hfits : MigrateFits s e)
include hlaunch hready hfits

theorem rowMigrate_own (hown : bodyAt e 2 2 = ownId s) : Executes s (.rowMigrate tag) tag.val fun _ o => o = ⟨0, 0, 0x6000, 0, 0⟩ :=
  gather_executes (body := bodyRowMigrate) (by simp [unitRows]) hlaunch (by decide) (fun _ _ _ _ _ h => h) fun _ _ h =>
    bodyRowMigrate_own h hready hfits hown

theorem rowMigrate_away {r : Nat} (haway : MigrateAway s e d r) : ∃ t c, exec (.rowMigrate tag) s = .next t ∧ entryOf t tag.val = some c ∧
    c.phase = .running (.migration 0 0 0) ∧ Announced e r t := by
  obtain ⟨t, c, hlaunched, hruns⟩ := gather_runs bodyRowMigrate hlaunch (by decide)
  obtain ⟨hentry, -⟩ := hlaunch
  have htag : e.tag = tag.val := entryOf_tag hentry
  obtain ⟨x, env, hrun, rfl, hentries, hannounced⟩ :=
    bodyRowMigrate_away hlaunched hready hfits haway (runEnv t c) ⟨stays_runEnv t c, hlaunched.unanswered⟩
  obtain ⟨u, v, hu, hv, hphase, hgath⟩ := runEnds_of_pause s (dispatchedState s e) t (e := dispatched s e) (.migration 0 0 0)
    ((entryOf_congr hentries _).trans hlaunched.tracked)
  have hexec : exec (.rowMigrate tag) s = act (runRow 0x26 (.plain bodyRowMigrate) tag.val) s :=
    exec_unitRow (r := (.rowMigrate tag, 0x26, .plain bodyRowMigrate)) (failing := []) (by simp [unitRows]) s
  have hrow := (hruns _ env hrun).trans hu
  refine ⟨{ u with pending := s.pending, now := s.now, pci := s.pci }, v, ?_, htag ▸ hv, hphase, ?_⟩
  · rw [hexec, act, hrow]
  · obtain ⟨m, hm, hnamed⟩ := hannounced
    exact ⟨m, hgath ▸ hm, hnamed⟩

end

end Sys2Proof.Machine
end

section
/-! PROOFS. The gather unit's commands on rows of this shard (R94, R97, R101, R104, R110, R111). -/

namespace Sys2Proof.Machine

open Sys2Proof

/-- Settles O55: each command is dispatched, finds its rows here, and its body writes, counts or announces what its rule says. -/
theorem gatherCommandsComplete : Obligations.GatherCommandsComplete := by
  unfold Obligations.GatherCommandsComplete
  intro s tag e d htable hstill
  refine ⟨?_, ?_, ?_, ?_, ?_⟩
  · intro hlaunch hbay hplain hflags hzero hzeroEnd hsome hfew hstride hwide hidsAligned houtAligned hids hrows hout hversions
    exact gather_completes hlaunch (tableReady_of htable hstill hlaunch) hbay
      ⟨hplain, hflags, hzero, hzeroEnd, hsome, hfew, hstride, hwide, hidsAligned, houtAligned, hids, hrows, hout, hversions⟩
  · intro offs hlaunch hbay hplain hnumeric hflags hzero hzeroMid hzeroEnd hsome hfew hmode hfmt hstride hwide hoffsAligned houtAligned
      hoffsReach hoffs hordered hids hweights hrows hout
    exact gatherPool_completes hlaunch (tableReady_of htable hstill hlaunch) hbay
      ⟨hoffs, hordered, hplain, hnumeric, hflags, hzero, hzeroMid, hzeroEnd, hsome, hfew, hmode, hfmt, hstride, hwide, hoffsAligned,
        houtAligned, hoffsReach, hids, hweights, hrows, hout⟩
  · rintro r _ hlaunch hbay hplain hnumeric hgrad hmode hflags hzero hunbagged hone hlow hhigh hexpLow hexpHigh hstride hwide hidsReach hids
      hweights hgrads hrow htouched rfl hskerry hmap hbeside
    exact scatterAdd_completes hlaunch (tableReady_of htable hstill hlaunch) hbay
      ⟨hrow, ⟨htouched, hskerry, hmap, hbeside⟩, hplain, hnumeric, hgrad, hmode, hflags, hzero, hunbagged, hone, hlow, hhigh, hexpLow,
        hexpHigh, hstride, hwide, hidsReach, hids, hweights, hgrads⟩
  · intro r x tier head hlaunch _ htier htierIs hzero hzeroEnd hone hsrcAligned hidsReach hids hrow hring hsome hhead hused hx hoffered
      hsrc hslot
    rw [hhead] at hused hx
    rw [hx, ← ringEntry_zero, htierIs] at hoffered hslot
    exact rowReplace_completes hlaunch (tableReady_of htable hstill hlaunch)
      ⟨hrow, ⟨hring, hsome, hused, hoffered⟩, htier, hzero, hzeroEnd, hone, hsrcAligned, hidsReach, hids, hsrc, hslot⟩
  · intro hlaunch hzero hsome hfew hdest
    have hready := tableReady_of htable hstill hlaunch
    refine ⟨rowMigrate_own hlaunch hready ⟨hzero, hsome, hfew, hdest⟩, fun r haway hmigratable hone hidsReach hids hfault hroom => ?_⟩
    exact rowMigrate_away hlaunch hready ⟨hzero, hsome, hfew, hdest⟩ ⟨haway, hmigratable, hone, hidsReach, hids, hfault, hroom⟩

end Sys2Proof.Machine
end

section
/-! PROOFS. Registers of the units: the known-answer test, the holds of the stacks, precision watch (R141, R166, R169, R231, R320, R341, R421,
R422). -/

namespace Sys2Proof.Machine

open Sys2Proof

theorem exec_katGo (s : State) : exec .katGo s = act (whenReady katGo) s := rfl

theorem exec_hbmHoldWrite (v : Word) (s : State) : exec (.hbmHoldWrite v) s = act (whenReady (writeHold v)) s := rfl

theorem exec_hbmPhyTuneWrite (st : Fin 8) (v : Word) (s : State) :
    exec (.hbmPhyTuneWrite st v) s = act (whenReady (writeRw (Reg.HBM_PHY_TUNE st.val) v)) s := rfl

theorem exec_pwDemoteWrite (v : Word) (s : State) :
    exec (.pwDemoteWrite v) s = act (whenReady (fun s => demote s (fld v 9 0) (fld v 31 16))) s := rfl

theorem exec_pwEventService (s : State) : exec .pwEventService s = act servicePromotion s := rfl

/-! ## The known-answer test (R169) -/

theorem RegsOnly.setReg {offs : List Nat} {s t : State} {off : Nat} (w : Word) (h : RegsOnly offs s t) (hoff : off ∈ offs) :
    RegsOnly offs s (t.setReg off w) := by
  obtain ⟨heq, hregs⟩ := h
  refine ⟨by rw [heq]; rfl, fun j hj => ?_⟩
  rw [reg_setReg_ne t w fun heq : j = off => hj (heq ▸ hoff), hregs j hj]

/-- The registers of the known-answer test hold the generator's words, one each. -/
theorem katGo_eq {s : State} {g : GenState}
    (hg : g = tideGen (s.reg (Reg.KAT_KEY 0)).toNat (s.reg (Reg.KAT_KEY 1)).toNat (s.reg (Reg.KAT_CTR 0)).toNat
      (s.reg (Reg.KAT_CTR 1)).toNat (s.reg (Reg.KAT_CTR 2)).toNat (s.reg (Reg.KAT_CTR 3)).toNat) :
    katGo s = (((s.setReg (Reg.KAT_OUT 0) (BitVec.ofNat 32 g.c0)).setReg (Reg.KAT_OUT 1) (BitVec.ofNat 32 g.c1)).setReg
      (Reg.KAT_OUT 2) (BitVec.ofNat 32 g.c2)).setReg (Reg.KAT_OUT 3) (BitVec.ofNat 32 g.c3) := by
  subst hg
  rfl

/-! ## Holds (R421) -/

theorem bar2Held_congr {s t : State} (hregs : t.regs = s.regs) (hpci : t.pci = s.pci) (a : Nat) : bar2Held t a = bar2Held s a := by
  have hreg (off : Nat) : t.reg off = s.reg off := reg_congr hregs off
  have hfenced (st l : Nat) : fenced t st l = fenced s st l := by
    simp only [fenced, channelOf, liveChannels, State.fieldAt, State.bitAt, hreg]
    rfl
  have hheld (r : Region) : heldRegion t r = heldRegion s r := by
    cases r with
    | hbm st => exact bitAt_congr (hreg _) st
    | _ => rfl
  simp only [bar2Held, bar2Byte, locate_congr hregs hpci, hfenced, hheld]

/-- What the writes of the host that waited for a stack may change when they are taken again. -/
def DrainOnly (s t : State) : Prop := t = { s with mem := t.mem, undef := t.undef, posted := t.posted, replay := t.replay }

theorem DrainOnly.trans {s t u : State} (first : DrainOnly s t) (second : DrainOnly t u) : DrainOnly s u := by
  unfold DrainOnly at *
  rw [second, first]

section

variable {s : State} (hclean : s.errs = []) (hunarmed : s.undertow = [])
include hclean hunarmed

/-- A write of the host is stored, waits behind those that wait, or takes nothing. -/
theorem bar2Word_drainOnly (w : Nat × List Byte) : DrainOnly s (bar2Word s w) ∧
    ∀ x ∈ (bar2Word s w).posted, x ∈ s.posted ∨ x = w ∧ bar2Held s w.1 = true := by
  unfold bar2Word
  split
  · exact ⟨rfl, fun x hx => .inl hx⟩
  · split
    · next hheld => exact ⟨rfl, fun x hx => by simpa [hheld] using hx⟩
    · have hstored : injectWrite (storeBytes s w.1 w.2) w.1 w.2.length = pokeBytes s w.1 w.2 := by
        rw [storeBytes_clean _ _ hclean, injectWrite, (pokeBytes_mapStands ..).undertow, hunarmed]
        rfl
      rw [hstored, dropRecords_eq, pokeBytes_eq]
      exact ⟨rfl, fun x hx => .inl hx⟩

/-- The writes that still wait once all have been taken again are those whose stack is held. -/
theorem drainPosted_drainOnly : DrainOnly s (drainPosted s) ∧ ∀ w ∈ (drainPosted s).posted, w ∈ s.posted ∧ bar2Held s w.1 = true := by
  refine List.foldlRecOn (motive := fun t => DrainOnly s t ∧ ∀ w ∈ t.posted, w ∈ s.posted ∧ bar2Held s w.1 = true) s.posted bar2Word
    ⟨rfl, fun w hw => nomatch hw⟩ fun t ht w hw => ?_
  obtain ⟨hframe, hwaits⟩ := ht
  have hmap : t.errs = s.errs ∧ t.undertow = s.undertow ∧ t.regs = s.regs ∧ t.pci = s.pci := by
    rw [hframe]
    exact ⟨rfl, rfl, rfl, rfl⟩
  obtain ⟨herrs, hundertow, hregs, hpci⟩ := hmap
  obtain ⟨hstep, hposted⟩ := bar2Word_drainOnly (herrs.trans hclean) (hundertow.trans hunarmed) w
  refine ⟨hframe.trans hstep, fun x hx => ?_⟩
  obtain hbefore | ⟨rfl, hheld⟩ := hposted x hx
  · exact hwaits x hbefore
  · exact ⟨hw, bar2Held_congr hregs hpci x.1 ▸ hheld⟩

end

/-- Where no collective is under way, none moves on. -/
theorem resumeColl_idle {s : State} (hruns : s.coll.runs = []) (hreductions : s.coll.reductions = []) : resumeColl s = s := by
  simp [resumeColl, hruns, hreductions]

/-- A hold's write where no collective is under way: the register, and the writes of the host that waited. -/
theorem writeHold_takes {s : State} (v : Word) (hready : solocReady s = true) (hruns : s.coll.runs = []) (hreductions : s.coll.reductions = [])
    (hclean : s.errs = []) (hunarmed : s.undertow = []) :
    ∃ t, act (whenReady (writeHold v)) s = .next t ∧
      t.reg Reg.HBM_HOLD = writeFields .rw (fieldsOf Reg.HBM_HOLD) (s.reg Reg.HBM_HOLD) v ∧
      (∀ off, off ≠ Reg.HBM_HOLD → t.reg off = s.reg off) ∧
      t = { s with regs := t.regs, mem := t.mem, undef := t.undef, posted := t.posted, replay := t.replay } ∧
      (∀ w ∈ t.posted, w ∈ s.posted ∧ bar2Held t w.1 = true) ∧ (s.posted = [] → RegsOnly [Reg.HBM_HOLD] s t) := by
  let r := writeRw Reg.HBM_HOLD v s
  obtain ⟨hframe, hwaits⟩ := drainPosted_drainOnly (s := r) hclean hunarmed
  have hstands : (drainPosted r).coll = s.coll ∧ (drainPosted r).regs = r.regs ∧ (drainPosted r).pci = s.pci ∧
      (drainPosted r).pending = s.pending ∧ (drainPosted r).now = s.now := by
    rw [hframe]
    exact ⟨rfl, rfl, rfl, rfl, rfl⟩
  obtain ⟨hcoll, hregs, hpci, hpending, hnow⟩ := hstands
  have hheld : whenReady (writeHold v) s = drainPosted r :=
    (whenReady_true hready).trans (resumeColl_idle (hcoll ▸ hruns) (hcoll ▸ hreductions))
  refine ⟨drainPosted r, act_eq_of_eq hheld hpending hnow hpci, (reg_congr hregs _).trans (reg_writeRw ..),
    fun off hoff => (reg_congr hregs off).trans (writeRw_reg s _ v hoff), ?_, fun w hw => ?_, fun hnone => ?_⟩
  · rw [hregs]
    exact hframe
  · obtain ⟨hbefore, hstill⟩ := hwaits w hw
    have hsame : bar2Held (drainPosted r) w.1 = bar2Held r w.1 := bar2Held_congr hregs hpci w.1
    exact ⟨hbefore, hsame.trans hstill⟩
  · have hdrained : drainPosted r = r := by
      have hposted : r.posted = [] := hnone
      rw [drainPosted, hposted, List.foldl_nil, ← hposted]
    rw [hdrained]
    exact writeRw_regsOnly ..

/-! ## Precision watch (R141, R341) -/

/-- A layer's record with PROMOTED cleared, and what the module keeps of the layers replaced. -/
def demotedState (s : State) (layer : Nat) (pw : PwState) : State := { setPw s layer 68 1 0 with pw := pw }

/-- What a write to PW_DEMOTE of a layer that is promoted leaves. -/
theorem demote_of_promoted {s : State} {layer : Nat} (fromTide : Nat) (hloaded : pwLoaded s layer = true)
    (hpromoted : bit (pwField s layer 68 1) 0 = true) :
    ∃ pw, demote s layer fromTide = demotedState s layer pw ∧ pw.base = s.pw.base := by
  obtain ⟨hframe, -⟩ : MergeOnly s (setPw s layer 68 1 0) := storeBytes_merge ..
  unfold demote
  rw [hloaded, hpromoted]
  exact ⟨_, rfl, congrArg (fun t => t.pw.base) hframe⟩

/-- A field of a layer's record in skerry memory, read where no word has an error pattern, once it has been replaced. -/
theorem pwField_of_setPw {s t : State} {layer off size v : Nat} (hclean : s.errs = []) (hmem : t.mem = (setPw s layer off size v).mem)
    (hundef : t.undef = (setPw s layer off size v).undef) (herrs : t.errs = []) (hbase : t.pw.base = s.pw.base)
    (hlow : 0x010000000000 ≤ pwAddr s layer + off) (hhigh : pwAddr s layer + off + size ≤ 0x020000000000) :
    pwField t layer off size = v % 256 ^ size := by
  have haddr : pwAddr t layer = pwAddr s layer := by rw [pwAddr, pwAddr, hbase]
  have hrange : skerryRange (pwAddr s layer + off) size = true := by simp [skerryRange, hlow, hhigh]
  have hstored := peekBytes_pokeBytes_skerry s (pwAddr s layer + off) (toLE size v) hlow (by rwa [length_toLE])
  rw [length_toLE, ← storeBytes_clean _ _ hclean] at hstored
  rw [pwField, haddr, unitBytes_of_reach (reach_skerry herrs hrange), peekBytes_skerry_congr hmem hundef _ _ hlow hhigh]
  exact (congrArg leNat hstored).trans (leNat_toLE size v)

/-- Such a write keeps what a row keeps, and the tracking entries. -/
theorem demotedState_keeps (s : State) (layer : Nat) (pw : PwState) : (demotedState s layer pw).pending = s.pending ∧
    (demotedState s layer pw).now = s.now ∧ (demotedState s layer pw).pci = s.pci ∧ (demotedState s layer pw).entries = s.entries := by
  obtain ⟨hframe, -⟩ : MergeOnly s (setPw s layer 68 1 0) := storeBytes_merge ..
  have hpending := congrArg State.pending hframe
  have hnow := congrArg State.now hframe
  have hpci := congrArg State.pci hframe
  have hentries := congrArg State.entries hframe
  exact ⟨hpending, hnow, hpci, hentries⟩

/-- Where no word has an error pattern it changes memory and what the module keeps of the layers. -/
theorem demotedState_frame {s : State} (layer : Nat) (pw : PwState) (hclean : s.errs = []) : demotedState s layer pw =
    { s with mem := (demotedState s layer pw).mem, undef := (demotedState s layer pw).undef, pw := (demotedState s layer pw).pw } := by
  have hstored : setPw s layer 68 1 0 = pokeBytes s (pwAddr s layer + 68) (toLE 1 0) := storeBytes_clean _ _ hclean
  unfold demotedState
  rw [hstored, pokeBytes_eq]

/-- PW_DEMOTE_WRITE of a promoted layer. -/
theorem pwDemote_takes {s : State} {v : Word} {layer : Nat} (hready : solocReady s = true) (hlayer : layer = fld v 9 0)
    (hloaded : pwLoaded s layer = true) (hpromoted : bit (pwField s layer 68 1) 0 = true) :
    ∃ t, exec (.pwDemoteWrite v) s = .next t ∧ t.entries = s.entries ∧
      (s.errs = [] → t = { s with mem := t.mem, undef := t.undef, pw := t.pw } ∧
        (0x010000000000 ≤ pwAddr s layer → pwAddr s layer + 128 ≤ 0x020000000000 → pwField t layer 68 1 = 0)) := by
  subst hlayer
  obtain ⟨pw, heq, hbase⟩ := demote_of_promoted (fld v 31 16) hloaded hpromoted
  obtain ⟨hpending, hnow, hpci, hentries⟩ := demotedState_keeps s (fld v 9 0) pw
  refine ⟨demotedState s (fld v 9 0) pw, act_eq_of_eq ((whenReady_true hready).trans heq) hpending hnow hpci, hentries, fun hclean => ?_⟩
  have hframe := demotedState_frame (fld v 9 0) pw hclean
  refine ⟨hframe, fun hlow hhigh => ?_⟩
  have hfield : pwField (demotedState s (fld v 9 0) pw) (fld v 9 0) 68 1 = 0 % 256 ^ 1 :=
    pwField_of_setPw hclean rfl rfl ((congrArg State.errs hframe).trans hclean) hbase (by omega) (by omega)
  exact hfield.trans (Nat.zero_mod _)

/-- A layer that is not promoted is left as it is. -/
theorem demote_of_not_promoted {s : State} {layer : Nat} (fromTide : Nat) (h : (pwLoaded s layer && bit (pwField s layer 68 1) 0) = false) :
    demote s layer fromTide = s := by
  rw [demote, h]
  rfl

/-- The firmware's service of a promotion that is pending. -/
theorem servicePromotion_takes {s : State} (hrunning : mgmtRunning s = true) (hevent : s.bitAt Reg.PW_EVENT 31 = true) :
    ∃ t, act servicePromotion s = .next t ∧ t.bitAt Reg.PW_EVENT 31 = false ∧ t.mgmt.promotions = (s.mgmt.promotions + 1) % 2 ^ 16 ∧
      t.mgmt.layer = s.fieldAt Reg.PW_EVENT 9 0 ∧ t.mgmt.promoted = true ∧ t.entries = s.entries := by
  let s1 : State := { s with mgmt :=
    { s.mgmt with promotions := (s.mgmt.promotions + 1) % 2 ^ 16, layer := s.fieldAt Reg.PW_EVENT 9 0, promoted := true } }
  have hrow : servicePromotion s = (logEvent s1 0x0F (plainLog 0 0xB000 0)).setBit Reg.PW_EVENT 31 false := by
    rw [servicePromotion, hrunning, hevent]
    rfl
  have hlog : LogOnly s1 (logEvent s1 0x0F (plainLog 0 0xB000 0)) := logEvent_only ..
  have hcleared : ((logEvent s1 0x0F (plainLog 0 0xB000 0)).setBit Reg.PW_EVENT 31 false).bitAt Reg.PW_EVENT 31 = false := by
    simp [bitAt_setBit]
  obtain ⟨hframe, -⟩ := hlog
  have hpending := congrArg State.pending hframe
  have hnow := congrArg State.now hframe
  have hpci := congrArg State.pci hframe
  have hentries := congrArg State.entries hframe
  have hmgmt := congrArg State.mgmt hframe
  exact ⟨_, act_eq_of_eq hrow hpending hnow hpci, hcleared, congrArg MgmtState.promotions hmgmt, congrArg MgmtState.layer hmgmt,
    congrArg MgmtState.promoted hmgmt, hentries⟩

/-- Settles O34: each row changes the registers that it names, or goes through what stores a record and what logs an event. -/
theorem unitRegisterRowsTakeEffect : Obligations.UnitRegisterRowsTakeEffect := by
  unfold Obligations.UnitRegisterRowsTakeEffect
  intro s
  refine ⟨fun g hready hg => ?_, fun v hready => ⟨?_, writeHold_takes v hready⟩, fun st v hready => ?_, fun v layer hready hlayer => ⟨?_, ?_⟩,
    servicePromotion_takes⟩
  · have honly : RegsOnly [Reg.KAT_OUT 0, Reg.KAT_OUT 1, Reg.KAT_OUT 2, Reg.KAT_OUT 3] s (katGo s) := by
      rw [katGo_eq hg]
      exact ((((regsOnly_refl _ s).setReg _ (by simp)).setReg _ (by simp)).setReg _ (by simp)).setReg _ (by simp)
    refine ⟨katGo s, act_whenReady_of_regsOnly hready honly, honly, ?_⟩
    rw [katGo_eq hg]
    simp [reg_setReg]
  · rw [exec_hbmHoldWrite, act, whenReady_true hready]
    rfl
  · have honly := writeRw_regsOnly s (Reg.HBM_PHY_TUNE st.val) v
    exact ⟨_, act_whenReady_of_regsOnly hready honly, honly, reg_writeRw ..⟩
  · exact pwDemote_takes hready hlayer
  · intro hnot
    subst hlayer
    exact act_eq_of_eq ((whenReady_true hready).trans (demote_of_not_promoted _ hnot)) rfl rfl rfl

end Sys2Proof.Machine
end

section
/-! PROOFS. Commands without preparation from their dispatch to their end, and what writes in reach leave (R43, R49, R242, R371). -/

namespace Sys2Proof.Machine

open Sys2Proof

/-! ## From dispatch to completion -/

/-- The state in which the body of a command without preparation starts that is launched in a state. -/
def launchState (s : State) (e : Entry) : State := preparedState (runEnv (dispatchedState s e) (dispatched s e)) e.tag

/-- The command's entry there. -/
def launchEntry (s : State) (e : Entry) : Entry := preparedEntry (runEnv (dispatchedState s e) (dispatched s e)) (dispatched s e)

theorem launchState_alike (s : State) (e : Entry) : ReadAlike s (launchState s e) := ⟨rfl, rfl, rfl, rfl, rfl⟩

theorem launchState_tracked {s : State} {e : Entry} (hentry : entryOf s e.tag = some e) :
    entryOf (launchState s e) e.tag = some (launchEntry s e) := by
  have hbase : entryOf (dispatchedState s e) e.tag = some (dispatched s e) :=
    (entryOf_setEntry _ e.tag (f := fun _ => dispatched s e) fun _ _ => rfl).trans (congrArg (Option.map _) hentry)
  exact (entryOf_setEntry (dispatchedState s e) e.tag (f := preparedEntry (runEnv (dispatchedState s e) (dispatched s e))) fun _ hd => hd).trans
    (congrArg (Option.map _) hbase)

/-- Nothing but the packet's body goes before the work of a command that is launched, its tiles alive (R62, R395). -/
theorem dispatchFault_of_launch {s : State} {tag op : Nat} {e : Entry} (hlaunch : Launch s tag op e) (hop : op < 0x60) :
    dispatchFault s (dispatched s e) = none := by
  obtain ⟨-, hopcode, -, -, -, -, -, -, hslot, hdead, -⟩ := hlaunch
  have hslot' : slotLoaded s (dispatched s e).slot = true := hslot
  have hother : ¬ (0x60 ≤ pktOp (dispatched s e).pkt ∧ pktOp (dispatched s e).pkt ≤ 0x62 ∧ s.fieldAt Reg.SKERRY_STATUS 1 0 = 3) := by
    show ¬ (0x60 ≤ pktOp e.pkt ∧ _)
    omega
  have halive : (tilesOf (dispatched s e)).find? s.power.deadTiles.contains = none :=
    List.find?_eq_none.mpr fun t ht => by simpa using List.all_eq_true.mp hdead t ht
  rw [dispatchFault]
  simp only [hslot', hother, halive]
  rfl

/-- Only matrix commands and VECTOR_RUN race (R198). -/
theorem racingBytes_of_memory (s : State) {e : Entry} (env : Env) (hop : pktOp e.pkt < 0x30) : racingBytes s e env = [] := by
  have hrace (b : Nat) : vectorAndMatrix (pktOp e.pkt) b = false := by
    have hvector : pktOp e.pkt ≠ 0x40 := by omega
    have hmatrix : ¬ (pktOp e.pkt = 0x30 ∨ pktOp e.pkt = 0x31 ∨ pktOp e.pkt = 0x32) := by omega
    simp [vectorAndMatrix, hvector, hmatrix]
  simp [racingBytes, hrace]

/-- The row of a command without preparation that is launched executes it, where its body ends with nothing in its way. -/
theorem memory_executes {s : State} {tag : Fin 1024} {op : Nat} {e : Entry} {i : Instr} {body : Entry → Cmd Done} {p : State → Done → Prop}
    (hrow : (i, op, .plain body) ∈ unitRows tag []) (hlaunch : Launch s tag.val op e) (hop : op < 0x30) (hp : ∀ o, OfStore fun u => p u o)
    (hbody : Ends (Stays (launchState s e) 0) (body (launchEntry s e)) fun o env => Ending (launchState s e) (fun u => p u o) env) :
    Executes s i tag.val p := by
  have hfault := dispatchFault_of_launch hlaunch (by omega)
  obtain ⟨hentry, hopcode, hready, hprepared, hreruns, -, -, hgate, -, -, hcommit, -, -⟩ := hlaunch
  have htag : e.tag = tag.val := entryOf_tag hentry
  have htracked := launchState_tracked (htag ▸ hentry)
  obtain ⟨o, env, hrun, hending⟩ := hbody (runEnv (launchState s e) (launchEntry s e)) (stays_runEnv ..)
  obtain ⟨hentries, hunarmed, hunpoisoned, huncorrected, hstored⟩ := hending
  have hruns : runBody (launchState s e) (.plain body) (launchEntry s e) = (env, .ok o) := by
    rw [runBody]
    exact Prod.ext (congrArg Prod.snd hrun) (congrArg Prod.fst hrun)
  have hclean : RunsClean (dispatchedState s e) (.plain body) (dispatched s e) (launchEntry s e) env o := by
    refine ⟨?_, hunpoisoned, hunarmed, (entryOf_congr hentries _).trans htracked, racingBytes_of_memory _ _ ?_⟩
    · rw [if_neg (by simp [show (dispatched s e).prepared = e.prepared from rfl, hprepared])]
      exact ⟨_, _, rfl, htracked, hruns⟩
    · show pktOp e.pkt < 0x30
      omega
  obtain ⟨t, hnext, hfinished, hmem, hundef, -⟩ := unitCommandsExecute s tag [] e (launchEntry s e) env o (i, op, .plain body) hrow hentry
    hready hopcode hgate (.inl hcommit) hfault hclean
  have hsettled : settled (launchEntry s e) env o = o := by
    have hfresh : (launchEntry s e).reruns = 0 := hreruns
    simp [settled, huncorrected, hfresh]
  exact ⟨t, o, hnext, hsettled ▸ hfinished, hp o env.s t hmem hundef hstored⟩

theorem ofStore_const (q : Prop) : OfStore fun _ => q := fun _ _ _ _ h => h

/-! ## Executions that write -/

section

variable {u : State} {k : Nat}

theorem Written.step {env env' : Env} (h : Written u k env) (hmap : MapStands env.s env'.s) (hentries : env'.s.entries = env.s.entries)
    (hengine : env'.engine = env.engine) (hpoison : env'.poison = env.poison) (hcorrected : env'.corrected = env.corrected) :
    Written u k env' := by
  obtain ⟨hfirst, htracked, hstays⟩ := h
  exact ⟨hfirst.trans hmap, hentries.trans htracked, rfl, hengine.trans hstays.engine, hpoison.trans hstays.unpoisoned,
    hcorrected.trans hstays.uncorrected⟩

/-- What only the environment's own records change. -/
theorem Written.of_state {env env' : Env} (h : Written u k env) (hs : env'.s = env.s) (hengine : env'.engine = env.engine)
    (hpoison : env'.poison = env.poison) (hcorrected : env'.corrected = env.corrected) : Written u k env' :=
  h.step (hs ▸ .refl _) (by rw [hs]) hengine hpoison hcorrected

/-- Outputs that overlap what was read become undefined, and nothing else. -/
theorem Written.overlapped (o : Bool) : Keeps (Written u k) (Cmd.overlapped o) :=
  Keeps.ite (fun _ => Ends.modify fun env h => h.step (undefOutputs_stands env.s env.declared).1 (undefOutputs_stands env.s env.declared).2
    rfl rfl rfl) fun _ => Keeps.pure _

end

/-- The numbers from `a` on, one execution after another: what holds of the result before each holds after it of the next. -/
theorem Ends.foldlM_seqFrom {β : Type} {P : Env → Prop} {g : β → Nat → Cmd β} {I : Nat → β → Prop} : ∀ {n a : Nat} {b : β},
    (∀ r x, a ≤ r → r < a + n → I r x → Ends P (g x r) fun y env => P env ∧ I (r + 1) y) → I a b →
    Ends P ((seqFrom a n).foldlM g b) fun y env => P env ∧ I (a + n) y
  | 0, _, _, _, hb => Ends.pure fun _ h => ⟨h, hb⟩
  | n + 1, a, b, hstep, hb => by
    rw [seqFrom, List.foldlM_cons]
    refine Ends.bind (hstep a b (Nat.le_refl a) (by omega) hb) fun y => Ends.assume (fun _ h => h.2) fun hy => ?_
    have hrest := Ends.foldlM_seqFrom (n := n) (fun r x hlow hhigh => hstep r x (by omega) (by omega)) hy
    rw [Nat.add_right_comm] at hrest
    exact Ends.strengthen (fun _ h => h.1) hrest

end Sys2Proof.Machine
end

section
/-! PROOFS. QUERY and COPY (R249, R251, R339, R344). -/

namespace Sys2Proof.Machine

open Sys2Proof

/-! ## QUERY (R344) -/

theorem length_sensorBytes (s : State) : (sensorBytes s).length = 192 := by
  simp [sensorBytes, length_toLE, List.length_flatMap, length_seqFrom]

/-- The first of the bytes read. -/
theorem take_peekBytes (s : State) : ∀ {m n : Nat} (a : Nat), m ≤ n → (peekBytes s a n).take m = peekBytes s a m
  | 0, _, _, _ => rfl
  | m + 1, n + 1, a, h => by rw [peekBytes, peekBytes, List.take_succ_cons, take_peekBytes s (a + 1) (Nat.le_of_succ_le_succ h)]

/-- A read of memory in skerry memory depends on what is stored. -/
theorem ofStore_peekBytes {a n : Nat} {l : List Byte} {q : Prop} (hrange : q → skerryRange a n = true) :
    OfStore fun u => q → peekBytes u a n = l := fun u v hmem hundef h hq => by
  have hskerry := hrange hq
  simp only [skerryRange, Bool.and_eq_true, decide_eq_true_eq] at hskerry
  exact (peekBytes_skerry_congr hmem hundef _ _ hskerry.1 hskerry.2).trans (h hq)

section

variable {t : State} {k : Nat}

/-- Bytes written to skerry memory stand there; the first of them where only some are named. -/
theorem Stays.writeStands {a n : Nat} {l : List Byte} (hclean : t.errs = []) (hunarmed : t.undertow = []) (h : reach t a l.length = true)
    (hn : n ≤ l.length) : Ends (Stays t k) (Cmd.write a l) fun _ =>
      Ending t fun u => skerryRange a l.length = true → peekBytes u a n = l.take n := by
  refine (Stays.write hclean hunarmed h).weaken fun _ env henv => ?_
  refine henv.ending (pokeBytes_entries ..) ((pokeBytes_mapStands ..).undertow.trans hunarmed) fun hskerry => ?_
  simp only [skerryRange, Bool.and_eq_true, decide_eq_true_eq] at hskerry
  rw [← take_peekBytes _ a hn, peekBytes_pokeBytes_skerry t a l hskerry.1 hskerry.2]

end

/-- The last telemetry record stands where a QUERY asked for it. -/
def RecordTaken (s : State) (e : Entry) (u : State) : Prop :=
  s.mgmt.last.length = 240 → skerryRange (bodyAt e 8 8) 240 = true → peekBytes u (bodyAt e 8 8) 240 = s.mgmt.last

/-- A sensor dump that begins with the time of a state stands where a QUERY asked for it. -/
def SensorsTaken (s : State) (e : Entry) (u : State) : Prop :=
  skerryRange (bodyAt e 8 8) 192 = true → peekBytes u (bodyAt e 8 8) 8 = toLE 8 s.now

theorem recordTaken_ofStore (s : State) (e : Entry) : OfStore (RecordTaken s e) := fun u v hmem hundef h hlast =>
  ofStore_peekBytes (fun hskerry => hskerry) u v hmem hundef (h hlast)

theorem sensorsTaken_ofStore (s : State) (e : Entry) : OfStore (SensorsTaken s e) := by
  refine ofStore_peekBytes fun hskerry => ?_
  simp only [skerryRange, Bool.and_eq_true, decide_eq_true_eq] at hskerry ⊢
  omega

section

variable {t : State} {k : Nat} {c : Entry} (hclean : t.errs = []) (hunarmed : t.undertow = []) (hrunning : mgmtRunning t = true)
  (hzero : bodyZero c 1 8 = true) (haligned : bodyAt c 8 8 % 64 = 0)

theorem query_checks {c : Entry} (hzero : bodyZero c 1 8 = true) (hwhat : bodyAt c 0 1 ≤ 1) (haligned : bodyAt c 8 8 % 64 = 0) :
    checksHold [(bodyZero c 1 8, 0x01), (decide (bodyAt c 0 1 ≤ 1), 0xC0), (decide (bodyAt c 8 8 % 64 = 0), 0xC1)] = true := by
  simp [checksHold, hzero, hwhat, haligned]

include hclean hunarmed hrunning hzero haligned

/-- QUERY of the last record; where there is none yet, its bytes are left undefined. -/
theorem bodyQuery_record (hwhat : bodyAt c 0 1 = 0) (hlast : t.mgmt.last.length ≤ 240) (hreach : reach t (bodyAt c 8 8) 240 = true) :
    Ends (Stays t k) (bodyQuery c) fun o env => Ending t (fun u => o = ⟨0, 0, 0xB000, 240, 0⟩ ∧ RecordTaken t c u) env := by
  unfold bodyQuery
  refine Ends.bind (Stays.enter _) fun _ => Keeps.bind (Keeps.checks (query_checks hzero (by omega) haligned)) fun _ =>
    Ends.bind_of_eq Stays.readState ?_
  dsimp only
  rw [hrunning, hwhat, if_neg (by decide), if_pos rfl]
  split
  · next hempty =>
    refine Ends.strengthen (fun _ h => h.written) (Keeps.bind (Written.writeRuns hclean hunarmed (by rwa [List.length_replicate])) fun _ => ?_)
    refine Ends.pure fun env henv => henv.ending rfl hunarmed fun v => ⟨rfl, fun hlength => ?_⟩
    rw [List.isEmpty_iff.mp hempty] at hlength
    cases hlength
  · refine Ends.bind (Stays.writeStands hclean hunarmed (reach_part hreach (Nat.le_refl _) (by omega)) (Nat.le_refl _)) fun _ =>
      Ends.pure fun env henv => ?_
    obtain ⟨hentries, harmed, hpoison, hcorrected, hstands⟩ := henv
    refine ⟨hentries, harmed, hpoison, hcorrected, rfl, fun hlength hskerry => ?_⟩
    have hbytes := hstands (hlength ▸ hskerry)
    rwa [hlength, ← hlength, List.take_length, hlength] at hbytes

/-- QUERY of the sensors. -/
theorem bodyQuery_sensors (hwhat : bodyAt c 0 1 = 1) (hreach : reach t (bodyAt c 8 8) 192 = true) :
    Ends (Stays t k) (bodyQuery c) fun o env => Ending t (fun u => o = ⟨0, 0, 0xB000, 192, 0⟩ ∧ SensorsTaken t c u) env := by
  have hlength := length_sensorBytes t
  unfold bodyQuery
  refine Ends.bind (Stays.enter _) fun _ => Keeps.bind (Keeps.checks (query_checks hzero (by omega) haligned)) fun _ =>
    Ends.bind_of_eq Stays.readState ?_
  dsimp only
  rw [hrunning, hwhat, if_neg (by decide), if_neg (by decide)]
  refine Ends.bind (Stays.update _) fun _ => ?_
  refine Ends.bind (Stays.writeStands (n := 8) hclean hunarmed ?_ (by omega)) fun _ => Ends.pure fun env henv => ?_
  · rw [hlength]
    exact reach_mapStands (.of_eq rfl rfl rfl rfl) hclean hreach
  · obtain ⟨hentries, harmed, hpoison, hcorrected, hstands⟩ := henv
    exact ⟨hentries, harmed, hpoison, hcorrected, rfl, fun hskerry => hstands (hlength ▸ hskerry)⟩

end

/-- QUERY of the last record, launched. -/
theorem query_record {s : State} {tag : Fin 1024} {e : Entry} (hlaunch : Launch s tag.val 0x06 e) (hrunning : mgmtRunning s = true)
    (hzero : bodyZero e 1 8 = true) (haligned : bodyAt e 8 8 % 64 = 0) (hwhat : bodyAt e 0 1 = 0) (hlast : s.mgmt.last.length ≤ 240)
    (hreach : reach s (bodyAt e 8 8) 240 = true) :
    Executes s (.query tag) tag.val fun t o => o = ⟨0, 0, 0xB000, 240, 0⟩ ∧ RecordTaken s e t := by
  obtain ⟨-, -, -, -, -, -, -, -, -, -, -, hclean, hunarmed⟩ := id hlaunch
  refine memory_executes (body := bodyQuery) (by simp [unitRows]) hlaunch (by decide)
    (fun o u v hmem hundef h => ⟨h.1, recordTaken_ofStore s e u v hmem hundef h.2⟩) ?_
  have hreach' := (launchState_alike s e).reach_eq (bodyAt e 8 8) 240 |>.trans hreach
  exact bodyQuery_record (t := launchState s e) (c := launchEntry s e) hclean hunarmed hrunning hzero haligned hwhat hlast hreach'

/-- QUERY of the sensors, launched. -/
theorem query_sensors {s : State} {tag : Fin 1024} {e : Entry} (hlaunch : Launch s tag.val 0x06 e) (hrunning : mgmtRunning s = true)
    (hzero : bodyZero e 1 8 = true) (haligned : bodyAt e 8 8 % 64 = 0) (hwhat : bodyAt e 0 1 = 1)
    (hreach : reach s (bodyAt e 8 8) 192 = true) :
    Executes s (.query tag) tag.val fun t o => o = ⟨0, 0, 0xB000, 192, 0⟩ ∧ SensorsTaken s e t := by
  obtain ⟨-, -, -, -, -, -, -, -, -, -, -, hclean, hunarmed⟩ := id hlaunch
  refine memory_executes (body := bodyQuery) (by simp [unitRows]) hlaunch (by decide)
    (fun o u v hmem hundef h => ⟨h.1, sensorsTaken_ofStore s e u v hmem hundef h.2⟩) ?_
  have hreach' := (launchState_alike s e).reach_eq (bodyAt e 8 8) 192 |>.trans hreach
  exact bodyQuery_sensors (t := launchState s e) (c := launchEntry s e) hclean hunarmed hrunning hzero haligned hwhat hreach'

/-! ## COPY (R249, R251) -/

/-- The one row copied, which nothing it is written over is part of, stands at its place. -/
def RowCopied (s : State) (e : Entry) (u : State) : Prop :=
  bodyAt e 20 4 = 1 → bodyAt e 33 1 = 0 → skerryRange (bodyAt e 8 8) (bodyAt e 16 4) = true →
    skerryRange (bodyAt e 0 8) (bodyAt e 16 4) = true →
    bodyAt e 0 8 + bodyAt e 16 4 ≤ bodyAt e 8 8 ∨ bodyAt e 8 8 + bodyAt e 16 4 ≤ bodyAt e 0 8 →
    peekBytes u (bodyAt e 8 8) (bodyAt e 16 4) = peekBytes s (bodyAt e 0 8) (bodyAt e 16 4)

theorem rowCopied_ofStore (s : State) (e : Entry) : OfStore (RowCopied s e) := fun u v hmem hundef h hrows hflags hdst hsrc hbeside =>
  ofStore_peekBytes (fun _ : True => hdst) u v hmem hundef (fun _ => h hrows hflags hdst hsrc hbeside) trivial

/-- A row of a COPY: read, or filled with the pattern, and written. -/
def copyRow (c : Entry) (r : Nat) : Cmd Unit := do
  let bytes ← if bit (bodyAt c 33 1) 0 then pure ((patternRow ((c.pkt.drop 104).take 8) (bodyAt c 16 4)).map some)
    else Cmd.readP (bodyAt c 0 8 + r * bodyAt c 24 4) (bodyAt c 16 4)
  Cmd.writeCells (bodyAt c 8 8 + r * bodyAt c 28 4) 1 0 (bytes.map (fun b => b.map (fun x => [x])))

theorem length_patternRow (pattern : List Byte) (n : Nat) : (patternRow pattern n).length = n := by
  rw [patternRow, List.length_map, length_seqFrom]

section

variable {t : State} {k : Nat} {c : Entry} (hclean : t.errs = []) (hunarmed : t.undertow = [])
include hclean hunarmed

/-- The rows of a COPY that can be read and written are copied. -/
theorem Written.copyRow {r : Nat} (hsrc : bit (bodyAt c 33 1) 0 = true ∨ reach t (bodyAt c 0 8 + r * bodyAt c 24 4) (bodyAt c 16 4) = true)
    (hdst : reach t (bodyAt c 8 8 + r * bodyAt c 28 4) (bodyAt c 16 4) = true) : Keeps (Written t k) (Machine.copyRow c r) := by
  have hwritten {bs : List Byte} (hlength : bs.length = bodyAt c 16 4) : Keeps (Written t k)
      (Cmd.writeCells (bodyAt c 8 8 + r * bodyAt c 28 4) 1 0 ((bs.map some).map (fun b => b.map (fun x => [x])))) := by
    refine Written.writeCells hclean hunarmed 0 (fun cell hcell => ?_) (by simpa [hlength] using hdst)
    obtain ⟨x, -, rfl⟩ : ∃ x ∈ bs, [x] = cell := by simpa using hcell
    rfl
  unfold Machine.copyRow
  dsimp only
  split
  · exact Ends.bind_of_eq (Ends.pure fun _ h => ⟨h, rfl⟩) (hwritten (length_patternRow ..))
  · next hfill =>
    refine Ends.bind (Written.readP hclean (hsrc.resolve_left hfill)) fun l => Ends.assume (fun _ h => h.2) fun hl => ?_
    obtain ⟨bs, hlength, rfl⟩ := hl
    exact Ends.strengthen (fun _ h => h.1) (hwritten hlength)

/-- One row that is read and written elsewhere is copied as it stands. -/
theorem Stays.copyRow {r : Nat} (hfill : bit (bodyAt c 33 1) 0 = false)
    (hsrc : reach t (bodyAt c 0 8 + r * bodyAt c 24 4) (bodyAt c 16 4) = true)
    (hdst : reach t (bodyAt c 8 8 + r * bodyAt c 28 4) (bodyAt c 16 4) = true) :
    Ends (Stays t k) (Machine.copyRow c r) fun _ =>
      Stays (pokeBytes t (bodyAt c 8 8 + r * bodyAt c 28 4) (peekBytes t (bodyAt c 0 8 + r * bodyAt c 24 4) (bodyAt c 16 4))) k := by
  have hcells (bs : List Byte) : (bs.map some).map (fun b : Option Byte => b.map (fun x => [x])) = (bs.map fun x => [x]).map some := by
    rw [List.map_map, List.map_map]
    rfl
  have hflat (bs : List Byte) : (bs.map fun x => [x]).flatten = bs := by rw [← List.flatMap_def, List.flatMap_singleton']
  unfold Machine.copyRow
  simp only [hfill]
  refine Ends.bind_of_eq (Stays.readP hsrc) ?_
  rw [hcells]
  have hwrite := Stays.writeCells (k := k) (cells := (peekBytes t (bodyAt c 0 8 + r * bodyAt c 24 4) (bodyAt c 16 4)).map fun x => [x])
    1 0 hclean hunarmed (by rwa [hflat, length_peekBytes])
  rwa [hflat] at hwrite

/-- The rows of a COPY; the one row that is read and written elsewhere stands at its place. -/
theorem copyRows_ends (hrows : ∀ r, r < bodyAt c 20 4 →
      (bit (bodyAt c 33 1) 0 = true ∨ reach t (bodyAt c 0 8 + r * bodyAt c 24 4) (bodyAt c 16 4) = true) ∧
      reach t (bodyAt c 8 8 + r * bodyAt c 28 4) (bodyAt c 16 4) = true) :
    Ends (Stays t k) ((seqFrom 0 (bodyAt c 20 4)).forM (Machine.copyRow c)) fun _ env => Written t k env ∧ RowCopied t c env.s := by
  by_cases hone : bodyAt c 20 4 = 1 ∧ bodyAt c 33 1 = 0 ∧ skerryRange (bodyAt c 8 8) (bodyAt c 16 4) = true
  · obtain ⟨hsingle, hflags, hskerry⟩ := hone
    obtain ⟨hsrc, hdst⟩ := hrows 0 (by omega)
    have hfill : bit (bodyAt c 33 1) 0 = false := by rw [hflags]; rfl
    have hcopied := Stays.copyRow (k := k) hclean hunarmed hfill (hsrc.resolve_left (by simp [hfill])) hdst
    simp only [skerryRange, Bool.and_eq_true, decide_eq_true_eq] at hskerry
    rw [hsingle]
    refine Ends.bind hcopied fun _ => Ends.pure fun env h => ⟨h.writtenPoke (.refl t) rfl, fun _ _ _ _ _ => ?_⟩
    rw [h.state, Nat.zero_mul, Nat.zero_mul, Nat.add_zero, Nat.add_zero]
    have hstored := peekBytes_pokeBytes_skerry t (bodyAt c 8 8) (peekBytes t (bodyAt c 0 8) (bodyAt c 16 4)) hskerry.1
      (by rw [length_peekBytes]; exact hskerry.2)
    rwa [length_peekBytes] at hstored
  · refine Ends.strengthen (fun _ h => h.written) (Ends.weaken (Keeps.forM fun r hr => ?_) fun _ _ h =>
      ⟨h, fun hsingle hflags hskerry => absurd ⟨hsingle, hflags, hskerry⟩ hone⟩)
    obtain ⟨hsrc, hdst⟩ := hrows r (by simpa using (mem_seqFrom.mp hr).2)
    exact Written.copyRow hclean hunarmed hsrc hdst

omit hclean hunarmed in
/-- One row that is read and written elsewhere does not overlap itself. -/
theorem overlapped_rowCopied : Keeps (fun env => Written t k env ∧ RowCopied t c env.s) (Cmd.overlapped
    (!bit (bodyAt c 33 1) 0 && rangesOverlap (bodyAt c 0 8) ((bodyAt c 20 4 - 1) * bodyAt c 24 4 + bodyAt c 16 4) (bodyAt c 8 8)
      ((bodyAt c 20 4 - 1) * bodyAt c 28 4 + bodyAt c 16 4))) := by
  generalize ho : (!bit (bodyAt c 33 1) 0 && rangesOverlap _ _ _ _) = o
  cases o with
  | false => exact Keeps.pure _
  | true =>
    refine Ends.strengthen (fun _ h => h.1) ((Written.overlapped true).weaken fun _ _ h => ⟨h, fun hsingle _ _ _ hbeside => ?_⟩)
    simp only [hsingle, rangesOverlap, overlap, Bool.and_eq_true, decide_eq_true_eq] at ho
    omega

/-- COPY of rows that can be read and written. -/
theorem bodyCopy_ends (hchecks : checksHold (copyChecks t c) = true) (hrows : ∀ r, r < bodyAt c 20 4 →
      (bit (bodyAt c 33 1) 0 = true ∨ reach t (bodyAt c 0 8 + r * bodyAt c 24 4) (bodyAt c 16 4) = true) ∧
      reach t (bodyAt c 8 8 + r * bodyAt c 28 4) (bodyAt c 16 4) = true) :
    Ends (Stays t k) (bodyCopy c) fun o env =>
      Ending t (fun u => o = ⟨0, 0, 0x7000 + bodyAt c 32 1, bodyAt c 16 4 * bodyAt c 20 4, 0⟩ ∧ RowCopied t c u) env := by
  unfold bodyCopy
  refine Ends.bind_of_eq Stays.readState (Keeps.bind (Keeps.checks hchecks) fun _ => ?_)
  dsimp only
  refine Ends.bind (Stays.enter _) fun _ => Keeps.bind (Keeps.forM fun _ _ => Stays.declare _ _) fun _ => ?_
  refine Ends.bind (copyRows_ends hclean hunarmed hrows) fun _ => ?_
  refine Keeps.bind overlapped_rowCopied fun _ => Ends.bind (Ends.get) fun x => Ends.pure fun env h => ?_
  obtain ⟨⟨⟨hmap, hentries, hstays⟩, hcopied⟩, rfl⟩ := h
  exact ⟨hentries, hmap.undertow.trans hunarmed, hstays.unpoisoned, hstays.uncorrected, by rw [hstays.engine], hcopied⟩

end

theorem rowCopied_launch (s : State) (e : Entry) : RowCopied (launchState s e) (launchEntry s e) = RowCopied s e := by
  funext u
  simp only [RowCopied, (launchState_alike s e).peekBytes_eq]
  rfl

/-- A COPY that can be read and written, launched. -/
theorem copy_completes {s : State} {tag : Fin 1024} {e : Entry} (hlaunch : Launch s tag.val 0x10 e) (hruns : copyRuns s e = true) :
    Executes s (.copy tag) tag.val fun t o =>
      o = ⟨0, 0, 0x7000 + bodyAt e 32 1, bodyAt e 16 4 * bodyAt e 20 4, 0⟩ ∧ RowCopied s e t := by
  obtain ⟨-, -, -, -, -, -, -, -, -, -, -, hclean, hunarmed⟩ := id hlaunch
  obtain ⟨hchecks, hrows⟩ := Bool.and_eq_true_iff.mp hruns
  refine memory_executes (body := bodyCopy) (by simp [unitRows]) hlaunch (by decide)
    (fun o u v hmem hundef h => ⟨h.1, rowCopied_ofStore s e u v hmem hundef h.2⟩) ?_
  rw [← rowCopied_launch]
  refine bodyCopy_ends (t := launchState s e) (c := launchEntry s e) hclean hunarmed hchecks fun r hr => ?_
  have hrow := List.all_eq_true.mp hrows r (mem_seqFrom.mpr ⟨Nat.zero_le r, by rwa [Nat.zero_add]⟩)
  obtain ⟨hsrc, hdst⟩ := Bool.and_eq_true_iff.mp hrow
  have halike := launchState_alike s e
  rw [halike.reach_eq, halike.reach_eq]
  exact ⟨Bool.or_eq_true_iff.mp hsrc, hdst⟩

end Sys2Proof.Machine
end

section
/-! PROOFS. TRANSPOSE_COPY (R250, R251). -/

namespace Sys2Proof.Machine

open Sys2Proof

/-- A column of a TRANSPOSE_COPY as a row of bytes: its elements packed, the lost ones as 0 or left out, and zeros up to the stride. -/
def columnBytes (mark : Bool) (w stride : Nat) (col : List (Option Nat)) : List (Option Byte) :=
  let bytes := if mark then (packRow w (col.map (fun x => x.getD 0))).map some else packP w col
  bytes ++ List.replicate (stride - bytes.length) (some 0)

theorem length_packP (w : Nat) (xs : List (Option Nat)) : (packP w xs).length = packedBytes w xs.length := by
  simp [packP, length_packRow, packedBytes]

/-- A column that fits its stride fills it. -/
theorem length_columnBytes (mark : Bool) {w stride : Nat} {col : List (Option Nat)} (h : packedBytes w col.length ≤ stride) :
    (columnBytes mark w stride col).length = stride := by
  have hpacked : (packRow w (col.map fun x => x.getD 0)).length = packedBytes w col.length := by
    rw [length_packRow, List.length_map, packedBytes]
  cases mark with
  | false => simp [columnBytes, length_packP, h]
  | true => simp [columnBytes, hpacked, h]

/-- The columns of a TRANSPOSE_COPY fit the stride of its output. -/
theorem stride_of_transposeChecks {t : State} {c : Entry} (h : checksHold (transposeChecks t c) = true) :
    packedBytes (bodyAt c 32 1) (bodyAt c 16 4) ≤ bodyAt c 28 4 := by
  simp only [checksHold, transposeChecks, List.all_cons, List.all_nil, Bool.and_eq_true] at h
  obtain ⟨-, -, ⟨-, hstrides⟩, -, hknown, -⟩ := h
  rw [hknown] at hstrides
  simp only [Bool.not_true, Bool.false_or, Bool.and_eq_true, decide_eq_true_eq] at hstrides
  exact hstrides.2

/-- TRANSPOSE_COPY of rows in reach. -/
theorem bodyTransposeCopy_ends {t : State} {k : Nat} {c : Entry} (hclean : t.errs = []) (hunarmed : t.undertow = [])
    (hchecks : checksHold (transposeChecks t c) = true)
    (hsrc : ∀ r, r < bodyAt c 16 4 → reach t (bodyAt c 0 8 + r * bodyAt c 24 4) (packedBytes (bodyAt c 32 1) (bodyAt c 20 4)) = true)
    (hdst : reach t (bodyAt c 8 8) (bodyAt c 20 4 * bodyAt c 28 4) = true) :
    Ends (Stays t k) (bodyTransposeCopy c) fun o env =>
      Ending t (fun _ => o = ⟨0, 0, 0x7000 + bodyAt c 33 1, bodyAt c 20 4 * bodyAt c 28 4, 0⟩) env := by
  unfold bodyTransposeCopy
  refine Ends.bind_of_eq Stays.readState (Keeps.bind (Keeps.checks hchecks) fun _ => ?_)
  dsimp only
  refine Ends.bind (Stays.enter _) fun _ => Keeps.bind (Stays.declare _ _) fun _ => Ends.strengthen (fun _ h => h.written) ?_
  refine Ends.bind (Keeps.mapM_length fun r hr => ?_) fun m => Ends.assume (fun _ h => h.2) fun hrows => Ends.strengthen (fun _ h => h.1) ?_
  · have hrow := hsrc r (by simpa using (mem_seqFrom.mp hr).2)
    exact Ends.bind (Written.readP hclean hrow) fun _ => Ends.strengthen (fun _ h => h.1) (Keeps.pure _)
  rw [length_seqFrom] at hrows
  refine Keeps.marks.bind fun mark => Keeps.bind (Keeps.forM fun j hj => ?_) fun _ => ?_
  · have hj : j < bodyAt c 20 4 := by simpa using (mem_seqFrom.mp hj).2
    have hcolumn : packedBytes (bodyAt c 32 1) (m.map fun row => (row[j]?).getD (some 0)).length ≤ bodyAt c 28 4 := by
      rw [List.length_map, hrows]
      exact stride_of_transposeChecks hchecks
    have hplace : (j + 1) * bodyAt c 28 4 ≤ bodyAt c 20 4 * bodyAt c 28 4 := Nat.mul_le_mul_right _ hj
    rw [Nat.succ_mul] at hplace
    refine Keeps.bind (Ends.modify fun _ h => h.of_state rfl rfl rfl rfl) fun _ => ?_
    have hwrite : Keeps (Written t (0x7000 + bodyAt c 33 1)) (Cmd.writeP (bodyAt c 8 8 + j * bodyAt c 28 4)
        (columnBytes mark (bodyAt c 32 1) (bodyAt c 28 4) (m.map fun row => (row[j]?).getD (some 0)))) :=
      Written.writeRuns hclean hunarmed (by
        rw [length_columnBytes mark hcolumn]
        exact reach_part hdst (by omega) (by omega))
    exact hwrite
  · refine Keeps.bind (Written.overlapped _) fun _ => Ends.bind Written.readEngine fun x => Ends.assume (fun _ h => h.2) fun hengine => ?_
    exact Ends.pure fun _ h => h.1.ending rfl hunarmed fun _ => by rw [hengine]

/-- A TRANSPOSE_COPY of rows in reach, launched. -/
theorem transposeCopy_completes {s : State} {tag : Fin 1024} {e : Entry} (hlaunch : Launch s tag.val 0x12 e)
    (hchecks : checksHold (transposeChecks s e) = true)
    (hsrc : ∀ r, r < bodyAt e 16 4 → reach s (bodyAt e 0 8 + r * bodyAt e 24 4) (packedBytes (bodyAt e 32 1) (bodyAt e 20 4)) = true)
    (hdst : reach s (bodyAt e 8 8) (bodyAt e 20 4 * bodyAt e 28 4) = true) :
    Executes s (.transposeCopy tag) tag.val fun _ o => o = ⟨0, 0, 0x7000 + bodyAt e 33 1, bodyAt e 20 4 * bodyAt e 28 4, 0⟩ := by
  obtain ⟨-, -, -, -, -, -, -, -, -, -, -, hclean, hunarmed⟩ := id hlaunch
  have hreach := (launchState_alike s e).reach_eq
  refine memory_executes (body := bodyTransposeCopy) (by simp [unitRows]) hlaunch (by decide) (fun _ => ofStore_const _) ?_
  exact bodyTransposeCopy_ends (t := launchState s e) (c := launchEntry s e) hclean hunarmed hchecks
    (fun r hr => (hreach ..).trans (hsrc r hr)) ((hreach ..).trans hdst)

end Sys2Proof.Machine
end

section
/-! PROOFS. Rows of tensors with and without scale records: how long they are, and read and written in reach (R122, R124, R129 to R133, R371). -/

namespace Sys2Proof.Machine

open Sys2Proof

/-! ## How long rows are -/

theorem length_quantisedCodes (elem kind : Nat) (escEn : Bool) (zp : Nat) (xs : List Val) :
    (quantiseBlock elem kind escEn zp xs).codes.length = xs.length := by
  unfold quantiseBlock
  dsimp only
  split
  · exact List.length_map ..
  · split
    · simp
    · simp

/-- A list cut into blocks of 32 has a block for each 32 of its elements or fewer. -/
theorem length_blocks_le {α : Type} : ∀ (fuel : Nat) (l : List α), (chunks 32 fuel l).length ≤ ceilDiv l.length 32
  | 0, _ => Nat.zero_le _
  | fuel + 1, l => by
    unfold chunks
    split
    · exact Nat.zero_le _
    · next hsome =>
      have hrest := length_blocks_le fuel (l.drop 32)
      have hpos : l.length ≠ 0 := fun h => hsome (by rw [List.length_eq_zero_iff.mp h]; rfl)
      unfold ceilDiv at hrest ⊢
      rw [List.length_drop] at hrest
      rw [List.length_cons]
      omega

theorem ceilDiv_mono (b : Nat) {m n : Nat} (h : m ≤ n) : ceilDiv m b ≤ ceilDiv n b :=
  Nat.div_le_div_right (Nat.sub_le_sub_right (Nat.add_le_add_right h b) 1)

/-- A coded row takes at most the bytes of its elements and one scale record for each block of 32. -/
structure RowFits (w : FmtWord) (n : Nat) (o : RowOut) : Prop where
  bytes : o.bytes.length ≤ rowBytes w.elem n
  records : o.records.length ≤ ceilDiv n 32

theorem quantiseRow_fits (w : FmtWord) (escEn : Bool) (xs : List Val) : RowFits w xs.length (quantiseRow w escEn xs) := by
  unfold quantiseRow
  split
  · exact ⟨by simp [length_packRow, rowBytes], Nat.zero_le _⟩
  · dsimp only
    split
    · exact ⟨by simp [length_packRow, rowBytes, length_quantisedCodes], Nat.zero_le _⟩
    · refine ⟨?_, by simpa using length_blocks_le _ xs⟩
      rw [length_packRow, rowBytes, List.flatMap_map]
      exact ceilDiv_mono 8 (Nat.mul_le_mul_right _
        (length_flatMap_chunks 32 (fun l => (length_quantisedCodes _ _ _ _ l).le) _ xs))

/-- So does a converted row. -/
theorem convertRow_fits (i o : FmtWord) (escEn rotated : Bool) (xs : List Val) : RowFits o xs.length (convertRow i o escEn rotated xs) := by
  have hquantised := quantiseRow_fits o escEn xs
  unfold convertRow
  split
  · split
    · exact ⟨by simp [length_packRow, rowBytes], Nat.zero_le _⟩
    · exact hquantised
  · split
    · unfold fsPoisonUncounted
      split
      · exact ⟨hquantised.bytes, hquantised.records⟩
      · exact hquantised
    · exact hquantised

theorem length_unpackP (w n : Nat) (row : List (Option Byte)) : (unpackP w n row).length = n := by
  rw [unpackP, List.length_map, length_seqFrom]

/-! ## Tensors in reach -/

section

variable {t : State} {w : FmtWord} {base stride width rows cols : Nat} (h : tensorReach t w base stride width rows cols = true)
include h

theorem reach_of_tensorReach {r : Nat} (hr : r < rows) : reach t (base + r * stride) width = true := by
  obtain ⟨hrows, -⟩ := Bool.and_eq_true_iff.mp h
  exact List.all_eq_true.mp hrows r (mem_seqFrom.mpr ⟨Nat.zero_le r, by rwa [Nat.zero_add]⟩)

theorem scales_of_tensorReach : w.scale = 0 ∨ reach t w.scaleBase (rows * (ceilDiv cols 32 * scaleSize w.scale)) = true := by
  obtain ⟨-, hscales⟩ := Bool.and_eq_true_iff.mp h
  simpa using hscales

end

theorem ReadAlike.tensorReach_eq {s t : State} (h : ReadAlike s t) : tensorReach t = tensorReach s := by
  funext w base stride width rows cols
  simp only [tensorReach, h.reach_eq]

/-- The scale records of a row of up to `cols` elements lie among those of its tensor. -/
theorem scales_of_row {t : State} {w : FmtWord} {rows cols row n m : Nat}
    (h : reach t w.scaleBase (rows * (ceilDiv cols 32 * scaleSize w.scale)) = true) (hrow : row < rows) (hn : n ≤ cols) (hm : m ≤ ceilDiv n 32) :
    reach t (w.scaleBase + row * ceilDiv n 32 * scaleSize w.scale) (scaleSize w.scale * m) = true := by
  have hblocks := ceilDiv_mono 32 hn
  refine reach_part h (Nat.le_add_right ..) ?_
  rw [Nat.add_assoc, Nat.mul_comm (scaleSize w.scale), ← Nat.add_mul, ← Nat.mul_assoc]
  refine Nat.add_le_add_left (Nat.mul_le_mul_right _ ?_) _
  calc row * ceilDiv n 32 + m ≤ row * ceilDiv n 32 + ceilDiv n 32 := Nat.add_le_add_left hm _
    _ = (row + 1) * ceilDiv n 32 := (Nat.succ_mul ..).symm
    _ ≤ rows * ceilDiv cols 32 := Nat.mul_le_mul hrow hblocks

section

variable {u : State} {k : Nat} (hclean : u.errs = []) (hunarmed : u.undertow = [])

theorem Written.declare (a n : Nat) : Keeps (Written u k) (Cmd.declare a n) := Ends.modify fun _ h => h.of_state rfl rfl rfl rfl

theorem Written.declareTensor (w : FmtWord) (base stride rows cols : Nat) : Keeps (Written u k) (Cmd.declareTensor w base stride rows cols) :=
  (Written.declare _ _).bind fun _ => Keeps.ite (fun _ => Keeps.pure _) fun _ => Written.declare _ _

include hclean

/-- A row of a tensor without scale records, read in reach, has as many values as columns. -/
theorem Written.readRow {w : FmtWord} {base stride row cols : Nat} (hw : w.scale = 0)
    (h : reach u (base + row * stride) (rowBytes w.elem cols) = true) :
    Ends (Written u k) (Cmd.readRow w base stride row cols) fun r env => Written u k env ∧ r.1.length = cols := by
  simp only [Cmd.readRow, Cmd.decodeRow, if_pos hw]
  refine Ends.bind (Written.readP hclean h) fun _ => Ends.bind (Keeps.pure _) fun _ => Ends.pure fun _ h => ⟨h.1, ?_⟩
  rw [List.length_map, length_unpackP]

include hunarmed

/-- A coded row written in reach with its scale records; its poisoned elements may be left undefined. -/
theorem Written.writeCoded {w : FmtWord} {base stride row : Nat} {xs : List Val} {o : RowOut} (hbytes : o.bytes.length ≤ stride)
    (h : reach u (base + row * stride) stride = true) (hscales : w.scale = 0 ∨
      reach u (w.scaleBase + row * ceilDiv xs.length 32 * scaleSize w.scale) (scaleSize w.scale * o.records.length) = true) :
    Keeps (Written u k) (Cmd.writeCoded w base stride row xs o) := by
  have hundef (a n fuel : Nat) : Keeps (Written u k) (Cmd.update fun t => undefDevice t a n fuel) :=
    Written.update fun _ => undefDevice_stands ..
  have hrow : Keeps (Written u k) (Cmd.writeRow w base stride row xs.length o) := by
    unfold Cmd.writeRow
    refine Keeps.bind (Written.write hclean hunarmed ?_) fun _ => Keeps.ite (fun _ => Keeps.pure _) fun hw =>
      Written.write hclean hunarmed ?_
    · rwa [length_padTo, Nat.max_eq_left hbytes]
    · rw [length_words]
      exact hscales.resolve_left hw
  unfold Cmd.writeCoded
  refine hrow.bind fun _ => Keeps.ite (fun _ => Keeps.pure _) fun _ => ?_
  refine Keeps.bind (Ends.modify fun _ h => h.of_state rfl rfl rfl rfl) fun _ => Keeps.marks.bind fun marked =>
    Keeps.ite (fun _ => Keeps.pure _) fun _ => Keeps.forM fun i _ => (hundef _ _ _).bind fun _ => Keeps.ite (fun _ => hundef _ _ _) fun _ =>
      Keeps.pure _

/-- A coded row of up to `cols` elements written to its tensor. -/
theorem Written.writeFitting {w : FmtWord} {base stride row rows cols : Nat} {xs : List Val} {o : RowOut} (hfits : RowFits w xs.length o)
    (hxs : xs.length ≤ cols) (hrow : row < rows) (hstride : rowBytes w.elem cols ≤ stride)
    (h : tensorReach u w base stride stride rows cols = true) : Keeps (Written u k) (Cmd.writeCoded w base stride row xs o) :=
  Written.writeCoded hclean hunarmed ((hfits.bytes.trans (rowBytes_mono _ hxs)).trans hstride) (reach_of_tensorReach h hrow)
    ((scales_of_tensorReach h).imp_right fun hscales => scales_of_row hscales hrow hxs hfits.records)

end

/-! ## Precision watch where no word names a layer (R138, R140, R218) -/

theorem substituted_plain {P : Env → Prop} (tide : Nat) {w : FmtWord} (base : Nat) (hw : pwNames w = false) :
    Ends P (Cmd.substituted tide w base) fun r env => P env ∧ r = (w, base) := by
  have hsame (t : State) : substitute t tide w base = (w, base, false) := by simp [substitute, hw]
  unfold Cmd.substituted
  simp only [hsame]
  exact Keeps.state.bind fun _ => Ends.pure fun _ h => ⟨h, rfl⟩

/-- Words that name no layer hold no command back. -/
theorem gateWords_plain {P : Env → Prop} (e : Entry) {words : List FmtWord} (h : ∀ w ∈ words, pwNames w = false) :
    Keeps P (Cmd.gateWords e words) := by
  have hnone : words.filter pwNames = [] := List.filter_eq_nil_iff.mpr fun w hw => by simp [h w hw]
  have hdecided (t : State) : allDecided t words (pktTide e.pkt) = true := by rw [allDecided, hnone]; rfl
  have htides : Keeps P (Cmd.userTides e words none) := by
    unfold Cmd.userTides
    simp only [hnone]
    exact Keeps.state.bind fun _ => Keeps.pure _
  unfold Cmd.gateWords
  simp only [hdecided]
  exact htides.bind fun _ => Keeps.state.bind fun _ => Keeps.pure _

end Sys2Proof.Machine
end

section
/-! PROOFS. CONVERT of a tensor without scale records (R137). -/

namespace Sys2Proof.Machine

open Sys2Proof

/-- The rows of a CONVERT fit the stride of its output. -/
theorem stride_of_convertChecks {t : State} {c : Entry} (h : checksHold (convertChecks t c) = true) :
    rowBytes (fmtWord (c.pkt.drop 80)).elem (bodyAt c 52 4) ≤ bodyAt c 60 4 := by
  unfold checksHold convertChecks at h
  simp only [List.all_append, List.all_cons, List.all_nil, Bool.and_eq_true, decide_eq_true_eq] at h
  obtain ⟨-, -, -, -, -, ⟨-, hstride⟩, -⟩ := h
  exact hstride

/-- A CONVERT between tensors in reach of which the first has no scale records and neither names a layer. -/
structure ConvertFits (s : State) (e : Entry) : Prop where
  clean : s.errs = []
  unarmed : s.undertow = []
  checks : checksHold (convertChecks s e) = true
  inUnwatched : pwNames (fmtWord (e.pkt.drop 64)) = false
  outUnwatched : pwNames (fmtWord (e.pkt.drop 80)) = false
  unscaled : (fmtWord (e.pkt.drop 64)).scale = 0
  src : tensorReach s (fmtWord (e.pkt.drop 64)) (bodyAt e 32 8) (bodyAt e 56 4)
    (rowBytes (fmtWord (e.pkt.drop 64)).elem (bodyAt e 52 4)) (bodyAt e 48 4) (bodyAt e 52 4) = true
  dst : tensorReach s (fmtWord (e.pkt.drop 80)) (bodyAt e 40 8) (bodyAt e 60 4) (bodyAt e 60 4) (bodyAt e 48 4) (bodyAt e 52 4) = true

theorem ConvertFits.launch {s : State} {e : Entry} (h : ConvertFits s e) : ConvertFits (launchState s e) (launchEntry s e) := by
  obtain ⟨hclean, hunarmed, hchecks, hin, hout, hunscaled, hsrc, hdst⟩ := h
  have hreach := (launchState_alike s e).tensorReach_eq
  exact ⟨hclean, hunarmed, hchecks, hin, hout, hunscaled, hreach ▸ hsrc, hreach ▸ hdst⟩

/-- The body of such a CONVERT ends DONE. -/
theorem bodyConvert_ends {t : State} {k : Nat} {c : Entry} (hfits : ConvertFits t c) :
    Ends (Stays t k) (bodyConvert c) fun o env => Ending t (fun _ => DoneIn (0x7000 + bodyAt c 64 1) o) env := by
  obtain ⟨hclean, hunarmed, hchecks, hin, hout, hunscaled, hsrc, hdst⟩ := hfits
  have hwords : ∀ w ∈ [fmtWord (c.pkt.drop 64), fmtWord (c.pkt.drop 80)], pwNames w = false := by simp [hin, hout]
  unfold bodyConvert
  refine Ends.bind_of_eq Stays.readState (Keeps.bind (Keeps.checks hchecks) fun _ => ?_)
  dsimp only
  refine Keeps.bind (gateWords_plain c hwords) fun _ => ?_
  refine Ends.bind_of_eq (substituted_plain _ _ hin) <| Ends.bind_of_eq (substituted_plain _ _ hout) ?_
  dsimp only
  refine Keeps.escEn.bind fun escEn => Ends.bind (Stays.enter _) fun _ => Ends.strengthen (fun _ h => h.written) ?_
  refine (Written.declareTensor _ _ _ _ _).bind fun _ => Keeps.bind (Keeps.mapM fun r hr => ?_) fun evs => ?_
  · have hr : r < bodyAt c 48 4 := by simpa using (mem_seqFrom.mp hr).2
    refine Ends.bind (Written.readRow hclean hunscaled (reach_of_tensorReach hsrc hr)) fun x => Ends.assume (fun _ h => h.2) fun hlength =>
      Ends.strengthen (fun _ h => h.1) ?_
    exact (Written.writeFitting hclean hunarmed (convertRow_fits ..) (hlength ▸ length_rotateRow ..) hr (stride_of_convertChecks hchecks)
      hdst).bind fun _ => Keeps.pure _
  · simp only [countWord_plain _ _ _ hin, countWord_plain _ _ _ hout]
    refine Keeps.bind (Written.update fun v => ⟨.refl v, rfl⟩) fun _ => (Written.overlapped _).bind fun _ => Ends.pure fun _ h => ?_
    exact h.ending rfl hunarmed fun _ => ⟨rfl, rfl, rfl⟩

/-- Such a CONVERT, launched. -/
theorem convert_completes {s : State} {tag : Fin 1024} {e : Entry} (hlaunch : Launch s tag.val 0x13 e) (hfits : ConvertFits s e) :
    Executes s (.convert tag) tag.val fun _ o => DoneIn (0x7000 + bodyAt e 64 1) o :=
  memory_executes (body := bodyConvert) (by simp [unitRows]) hlaunch (by decide) (fun _ => ofStore_const _) (bodyConvert_ends hfits.launch)

end Sys2Proof.Machine
end

section
/-! PROOFS. STORE_COMPRESSED of a tensor without scale records (R176 to R182). -/

namespace Sys2Proof.Machine

open Sys2Proof

/-! ## How long row records are (R177) -/

theorem length_pad64 (l : List Byte) : (pad64 l).length = up64 l.length := length_padTo ..

theorem up64_mono {m n : Nat} (h : m ≤ n) : up64 m ≤ up64 n := Nat.mul_le_mul_right _ (ceilDiv_mono 64 h)

/-- The most bytes that the record of a row takes: one without zeros (R180). -/
def recordMax (w cols : Nat) : Nat :=
  up64 (level2Bytes cols + 8 * ceilDiv cols 4096 + 8 * ceilDiv cols 64 + packedBytes w cols)

theorem length_rowRecord_le (w cols : Nat) (stored : List Bool) {codes : List Nat} (h : codes.length ≤ cols) :
    (rowRecord w cols stored codes).length ≤ recordMax w cols := by
  have hset (n : Nat) (p : Nat → Bool) : ((seqFrom 0 n).filter p).length ≤ n :=
    (List.length_filter_le ..).trans (length_seqFrom n 0).le
  have hvalues : packedBytes w codes.length ≤ packedBytes w cols := ceilDiv_mono 8 (Nat.mul_le_mul_right _ h)
  unfold rowRecord
  rw [length_pad64]
  refine up64_mono ?_
  simp only [List.length_append, length_toLE, length_flatMap_toLE, length_packRow]
  exact Nat.add_le_add (Nat.add_le_add (Nat.add_le_add_left (Nat.mul_le_mul_left 8 (hset ..)) _) (Nat.mul_le_mul_left 8 (hset ..))) hvalues

/-- The values of a record lie within it. -/
theorem values_of_parseRecord {w cols nnz head : Nat} {bs : List (Option Byte)} {stored : List Bool}
    (h : parseRecord w cols nnz bs = .ok (stored, head)) : head + packedBytes w nnz ≤ bs.length := by
  have hfits : up64 (head + packedBytes w nnz) = bs.length := by
    unfold parseRecord at h
    simp only [bind, Except.bind] at h
    repeat' split at h
    case h_2.isFalse.isFalse.isFalse.isFalse hwhole =>
      cases h
      exact not_not.mp hwhole
    all_goals cases h
  unfold up64 ceilDiv at hfits
  omega

/-- Pieces of lists, each made of one list, are together no longer than the lists. -/
theorem length_flatMap_zipIdx_le {α β : Type} {f : List α × Nat → List β} (h : ∀ p, (f p).length ≤ p.1.length) :
    ∀ (l : List (List α)) (i : Nat), ((l.zipIdx i).flatMap f).length ≤ l.flatten.length
  | [], _ => Nat.zero_le _
  | x :: l, i => by
    rw [List.zipIdx_cons, List.flatMap_cons, List.flatten_cons, List.length_append, List.length_append]
    exact Nat.add_le_add (h (x, i)) (length_flatMap_zipIdx_le h l (i + 1))

theorem length_flatten_chunks_le {α : Type} (n fuel : Nat) (l : List α) : (chunks n fuel l).flatten.length ≤ l.length := by
  simpa [List.flatMap_id] using length_flatMap_chunks n (f := fun x : List α => x) (fun _ => Nat.le_refl _) fuel l

/-- The codes of a quantised row with their values (R179). -/
def storedCodes (o : FmtWord) (cols : Nat) (q : RowOut) : List (Nat × Val) :=
  (chunks 32 (cols / 32 + 1) ((unpackP (fmtBits o.elem) cols (q.bytes.map some)).map (fun c => c.getD 0))).zipIdx.flatMap
    (fun b => b.1.zipIdx.map (fun c => (c.1, if o.scale = 0 then decodeElem o.elem 0 0 c.1
      else blockValue o.elem 0 (parseScale o.scale 0 ((q.records[b.2]?).getD 0)) c.2 c.1)))

theorem length_storedCodes_le (o : FmtWord) (cols : Nat) (q : RowOut) : (storedCodes o cols q).length ≤ cols := by
  refine (length_flatMap_zipIdx_le (fun _ => by simp) ..).trans ((length_flatten_chunks_le ..).trans ?_)
  rw [List.length_map, length_unpackP]

/-! ## The command (R179, R180) -/

/-- A STORE_COMPRESSED between tensors in reach of which the first has no scale records and neither names a layer. -/
structure StoreFits (s : State) (e : Entry) : Prop where
  clean : s.errs = []
  unarmed : s.undertow = []
  checks : checksHold (storeChecks s e) = true
  inUnwatched : pwNames (fmtWord (e.pkt.drop 64)) = false
  outUnwatched : pwNames (fmtWord (e.pkt.drop 80)) = false
  unscaled : (fmtWord (e.pkt.drop 64)).scale = 0
  src : tensorReach s (fmtWord (e.pkt.drop 64)) (bodyAt e 32 8) (bodyAt e 56 4)
    (rowBytes (fmtWord (e.pkt.drop 64)).elem (bodyAt e 52 4)) (bodyAt e 48 4) (bodyAt e 52 4) = true
  dst : reach s (bodyAt e 40 8) (firstRecord (bodyAt e 48 4) +
    bodyAt e 48 4 * recordMax (fmtBits (fmtWord (e.pkt.drop 80)).elem) (bodyAt e 52 4)) = true
  scales : (fmtWord (e.pkt.drop 80)).scale = 0 ∨
    reach s (fmtWord (e.pkt.drop 80)).scaleBase (bodyAt e 48 4 * ceilDiv (bodyAt e 52 4) 32) = true

theorem StoreFits.launch {s : State} {e : Entry} (h : StoreFits s e) : StoreFits (launchState s e) (launchEntry s e) := by
  obtain ⟨hclean, hunarmed, hchecks, hin, hout, hunscaled, hsrc, hdst, hscales⟩ := h
  have halike := launchState_alike s e
  exact ⟨hclean, hunarmed, hchecks, hin, hout, hunscaled, halike.tensorReach_eq ▸ hsrc, (halike.reach_eq ..).trans hdst,
    hscales.imp_right (halike.reach_eq ..).trans⟩

/-- What is known of a STORE_COMPRESSED once some of its rows are stored: where the next record begins, and an entry for each row. -/
def StoredRows (w rows cols r : Nat) (acc : Nat × List RowDir × Events × Nat) : Prop :=
  acc.1 ≤ firstRecord rows + r * recordMax w cols ∧ acc.2.1.length = r

/-- The directory lies before the first record. -/
theorem directory_before_records (rows : Nat) : 64 + 16 * rows ≤ firstRecord rows := by
  unfold firstRecord up64 ceilDiv
  omega

/-- A record of a row, with its entry behind the others. -/
theorem StoredRows.row {w rows cols r n : Nat} {acc : Nat × List RowDir × Events × Nat} {d : RowDir} {ev : Events}
    (h : StoredRows w rows cols r acc) {len : Nat} (hlen : len ≤ recordMax w cols) :
    StoredRows w rows cols (r + 1) (acc.1 + len, acc.2.1 ++ [d], ev, n) := by
  obtain ⟨hoff, hdirs⟩ := h
  refine ⟨?_, by simp [hdirs]⟩
  rw [Nat.succ_mul, ← Nat.add_assoc]
  exact Nat.add_le_add hoff hlen

/-- The record lies within the tensor, behind the records of the rows before it. -/
theorem StoredRows.reach {t : State} {w rows cols r dst len : Nat} {acc : Nat × List RowDir × Events × Nat} (h : StoredRows w rows cols r acc)
    (hr : r < rows) (hdst : reach t dst (firstRecord rows + rows * recordMax w cols) = true) (hlen : len ≤ recordMax w cols) :
    Machine.reach t (dst + acc.1) len = true := by
  have hrecords : (r + 1) * recordMax w cols ≤ rows * recordMax w cols := Nat.mul_le_mul_right _ hr
  rw [Nat.succ_mul] at hrecords
  obtain ⟨hoff, -⟩ := h
  exact reach_part hdst (Nat.le_add_right ..) (by omega)

/-- The scale records of a row lie among those of the tensor. -/
theorem scales_of_stored {t : State} {a rows cols r : Nat} {records : List Nat} (h : reach t a (rows * ceilDiv cols 32) = true) (hr : r < rows)
    (hrecords : records.length ≤ ceilDiv cols 32) : reach t (a + r * ceilDiv cols 32) (records.flatMap (toLE 1)).length = true := by
  have hrows : (r + 1) * ceilDiv cols 32 ≤ rows * ceilDiv cols 32 := Nat.mul_le_mul_right _ hr
  rw [Nat.succ_mul] at hrows
  rw [length_words, Nat.one_mul]
  exact reach_part h (Nat.le_add_right ..) (by omega)

/-- A step that is taken where a condition holds, before what follows. -/
theorem Keeps.optionalOf {α β : Type} {P : Env → Prop} {b : Prop} [Decidable b] {x : Cmd α} {f : Cmd β} {Q : β → Env → Prop}
    (hx : b → Keeps P x) (hf : Ends P f Q) : Ends P (if b then x >>= fun _ => f else f) Q := by
  split
  · next hb => exact (hx hb).bind fun _ => hf
  · exact hf

/-- The body of such a STORE_COMPRESSED ends DONE. -/
theorem bodyStoreCompressed_ends {t : State} {k : Nat} {c : Entry} (hfits : StoreFits t c) :
    Ends (Stays t k) (bodyStoreCompressed c) fun o env => Ending t (fun _ => DoneIn (0x7000 + bodyAt c 72 1) o) env := by
  obtain ⟨hclean, hunarmed, hchecks, hin, hout, hunscaled, hsrc, hdst, hscales⟩ := hfits
  have hwords : ∀ w ∈ [fmtWord (c.pkt.drop 64), fmtWord (c.pkt.drop 80)], pwNames w = false := by simp [hin, hout]
  unfold bodyStoreCompressed
  refine Ends.bind_of_eq Stays.readState (Keeps.bind (Keeps.checks hchecks) fun _ => ?_)
  dsimp only
  refine Keeps.bind (gateWords_plain c hwords) fun _ => ?_
  refine Ends.bind_of_eq (substituted_plain _ _ hin) <| Ends.bind_of_eq (substituted_plain _ _ hout) ?_
  dsimp only
  refine Keeps.escEn.bind fun escEn => Ends.bind (Stays.enter _) fun _ => Ends.strengthen (fun _ h => h.written) ?_
  refine (Written.declare _ _).bind fun _ => Keeps.optional (Written.declare _ _) ?_
  refine Ends.bind (Ends.foldlM_seqFrom (I := StoredRows (fmtBits (fmtWord (c.pkt.drop 80)).elem) (bodyAt c 48 4) (bodyAt c 52 4))
    (fun r acc _ hr hacc => ?_) ⟨by simp, rfl⟩) fun acc => Ends.assume (fun _ h => h.2) fun hacc => Ends.strengthen (fun _ h => h.1) ?_
  · rw [Nat.zero_add] at hr
    refine Ends.bind (Written.readRow hclean hunscaled (reach_of_tensorReach hsrc hr)) fun x => Ends.assume (fun _ h => h.2) fun hlength =>
      Ends.strengthen (fun _ h => h.1) ?_
    have hrecords := (quantiseRow_fits (fmtWord (c.pkt.drop 80)) escEn x.1).records
    rw [hlength] at hrecords
    generalize quantiseRow (fmtWord (c.pkt.drop 80)) escEn x.1 = q at hrecords ⊢
    -- Of the codes, of those kept and of the record only the lengths matter.
    have hcols := length_storedCodes_le (fmtWord (c.pkt.drop 80)) (bodyAt c 52 4) q
    generalize hcodes : storedCodes (fmtWord (c.pkt.drop 80)) (bodyAt c 52 4) q = codes at hcols
    unfold storedCodes at hcodes
    rw [hcodes]
    have hkept : ((codes.filter fun c => !c.2.isZero).map fun c => c.1).length ≤ bodyAt c 52 4 := by
      rw [List.length_map]
      exact (List.length_filter_le ..).trans hcols
    generalize (codes.filter fun c => !c.2.isZero).map (fun c => c.1) = kept at hkept ⊢
    have hlen := length_rowRecord_le (fmtBits (fmtWord (c.pkt.drop 80)).elem) (bodyAt c 52 4) (codes.map fun c => !c.2.isZero) hkept
    generalize rowRecord (fmtBits (fmtWord (c.pkt.drop 80)).elem) (bodyAt c 52 4) (codes.map fun c => !c.2.isZero) kept = record at hlen ⊢
    have hreach := hacc.reach hr hdst hlen
    refine Keeps.bind (Written.write hclean hunarmed hreach) fun _ => Keeps.optionalOf (fun hscale =>
      Written.write hclean hunarmed (scales_of_stored (hscales.resolve_left hscale) hr hrecords)) ?_
    refine Keeps.bind (Ends.modify fun _ h => h.of_state rfl rfl rfl rfl) fun _ => Keeps.marks.bind fun marked => Keeps.optional ?_
      (Ends.pure fun _ h => ⟨h, hacc.row hlen⟩)
    split
    · next head hparse =>
      have hvalues := values_of_parseRecord hparse
      rw [List.length_map] at hvalues
      exact Written.leaveUndefined hclean (reach_part hreach (Nat.le_add_right ..) (by omega))
    · exact Keeps.pure _
  · obtain ⟨-, hdirs⟩ := hacc
    have hbefore := directory_before_records (bodyAt c 48 4)
    refine Keeps.bind (Written.write hclean hunarmed (reach_part hdst (Nat.le_add_right ..) ?_)) fun _ =>
      Keeps.bind (Written.write hclean hunarmed (reach_part hdst (Nat.le_refl _) ?_)) fun _ => ?_
    · have hlength : (acc.2.1.flatMap fun d => toLE 8 d.offset ++ toLE 4 d.nnz ++ toLE 4 d.bytes).length = 16 * bodyAt c 48 4 := by
        simp [List.length_flatMap, length_toLE, hdirs, Nat.mul_comm]
      rw [hlength]
      omega
    · simp only [List.length_append, length_toLE]
      omega
    · simp only [countWord_plain _ _ _ hin, countWord_plain _ _ _ hout]
      refine Keeps.bind (Written.update fun v => ⟨.refl v, rfl⟩) fun _ => Ends.pure fun _ h => ?_
      exact h.ending rfl hunarmed fun _ => ⟨rfl, rfl, rfl⟩

/-- Such a STORE_COMPRESSED, launched. -/
theorem storeCompressed_completes {s : State} {tag : Fin 1024} {e : Entry} (hlaunch : Launch s tag.val 0x11 e) (hfits : StoreFits s e) :
    Executes s (.storeCompressed tag) tag.val fun _ o => DoneIn (0x7000 + bodyAt e 72 1) o :=
  memory_executes (body := bodyStoreCompressed) (by simp [unitRows]) hlaunch (by decide) (fun _ => ofStore_const _)
    (bodyStoreCompressed_ends hfits.launch)

end Sys2Proof.Machine
end

section
/-! PROOFS. The tensor commands complete (R137, R180, R249 to R251, R344). -/

namespace Sys2Proof.Machine

open Sys2Proof

/-- Settles O53: each command, launched, runs its body as `memory_executes` says, and the body ends DONE on what lies in reach. -/
theorem tensorCommandsComplete : Obligations.TensorCommandsComplete := by
  unfold Obligations.TensorCommandsComplete
  intro s tag e
  refine ⟨fun hlaunch hrunning hzero haligned => ⟨?record, ?sensors⟩, copy_completes, transposeCopy_completes, ?_⟩
  case record => exact fun hwhat hlast hreach => query_record hlaunch hrunning hzero haligned hwhat hlast hreach
  case sensors => exact fun hwhat hreach => query_sensors hlaunch hrunning hzero haligned hwhat hreach
  rintro i o rows cols rfl rfl rfl rfl hin hout hunscaled hsrc
  refine ⟨fun hlaunch hchecks hdst => ?convert, fun hlaunch hchecks hdst hscales => ?store⟩
  all_goals obtain ⟨-, -, -, -, -, -, -, -, -, -, -, hclean, hunarmed⟩ := id hlaunch
  case convert => exact convert_completes hlaunch ⟨hclean, hunarmed, hchecks, hin, hout, hunscaled, hsrc, hdst⟩
  case store => exact storeCompressed_completes hlaunch ⟨hclean, hunarmed, hchecks, hin, hout, hunscaled, hsrc, hdst, hscales⟩

end Sys2Proof.Machine
end

section
/-! PROOFS. What the vector engines change of the state: their counters in block 9 and what is stored; what is in reach stays so (R208, R229). -/

namespace Sys2Proof.Machine

open Sys2Proof

/-! ## The state beside the vector engines -/

/-- Below block 9 and outside the error log the registers stand, with the address map, the commands and the armed rules. -/
structure VectorStands (s t : State) : Prop where
  reg : ∀ off, off < 0x90000 → OutsideLog off → t.reg off = s.reg off
  pci : t.pci = s.pci
  errs : s.errs = [] → t.errs = []
  undertow : t.undertow = s.undertow
  entries : t.entries = s.entries

theorem MapStands.vector {s t : State} (h : MapStands s t) (hentries : t.entries = s.entries) : VectorStands s t :=
  ⟨fun off _ => h.reg off, h.pci, h.errs, h.undertow, hentries⟩

theorem VectorStands.refl (s : State) : VectorStands s s := (MapStands.refl s).vector rfl

theorem VectorStands.trans {s t u : State} (first : VectorStands s t) (second : VectorStands t u) : VectorStands s u :=
  ⟨fun off hlow h => (second.reg off hlow h).trans (first.reg off hlow h), second.pci.trans first.pci, fun h => second.errs (first.errs h),
    second.undertow.trans first.undertow, second.entries.trans first.entries⟩

theorem setReg_vectorStands (s : State) {off : Nat} (w : Word) (hoff : 0x90000 ≤ off) : VectorStands s (s.setReg off w) :=
  ⟨fun _ hlow _ => reg_setReg_ne s w (by omega), rfl, id, rfl, rfl⟩

theorem count64_vectorStands (s : State) {off : Nat} (n : Nat) (hoff : 0x90000 ≤ off) : VectorStands s (s.count64 off n) :=
  (setReg_vectorStands s _ hoff).trans (setReg_vectorStands _ _ (by omega))

section

variable {s t : State} (h : VectorStands s t)
include h

/-- The registers of memory stand, but for the counts of corrected errors. -/
theorem VectorStands.memory_reg {off : Nat} (hlow : 0x50000 ≤ off) (hhigh : off < 0x60000) (hce : ∀ st, st ≤ 8 → off ≠ Reg.STACK_CE st) :
    t.reg off = s.reg off :=
  h.reg off (by omega) (outsideLog_of_memory hlow hhigh hce)

theorem VectorStands.window_reg {off : Nat} (hlow : 0x50000 ≤ off) (hhigh : off < 0x50800) : t.reg off = s.reg off :=
  h.memory_reg hlow (by omega) fun st _ => by unfold Reg.STACK_CE; omega

theorem VectorStands.stack_reg {off st : Nat} (hst : st ≤ 8)
    (hoff : off = Reg.STACK_STATE st ∨ off = Reg.STACK_CHANNELS st ∨ off = Reg.STACK_CAPACITY st) : t.reg off = s.reg off := by
  unfold Reg.STACK_STATE Reg.STACK_CHANNELS Reg.STACK_CAPACITY at hoff
  exact h.memory_reg (by omega) (by omega) fun _ _ => by unfold Reg.STACK_CE; omega

/-- A window is where it was, and places addresses as it did. -/
theorem VectorStands.window_eq {w : Nat} (hw : w < 16) : winBase t w = winBase s w ∧ winEnd t w = winEnd s w ∧
    ∀ o, place o (winMode t w) (winStack t w) (winPbase t w) = place o (winMode s w) (winStack s w) (winPbase s w) := by
  have hpair {off : Nat} (hlow : 0x50000 ≤ off) (hhigh : off < 0x50020) : t.pair (off + 0x20 * w) = s.pair (off + 0x20 * w) := by
    rw [State.pair, State.pair, h.window_reg (by omega) (by omega), h.window_reg (by omega) (by omega)]
  have hfield {off : Nat} (hi lo : Nat) (hlow : 0x50000 ≤ off) (hhigh : off < 0x50020) :
      t.fieldAt (off + 0x20 * w) hi lo = s.fieldAt (off + 0x20 * w) hi lo := congrArg (fld · hi lo) (h.window_reg (by omega) (by omega))
  refine ⟨?base, ?limit, fun o => ?place⟩
  case base => rw [winBase, winBase, hpair (by decide) (by decide)]
  case limit => rw [winEnd, winEnd, hpair (by decide) (by decide)]
  case place =>
    rw [winMode, winStack, winPbase, hfield _ _ (by decide) (by decide), hfield _ _ (by decide) (by decide), hpair (by decide) (by decide)]
    rfl

theorem VectorStands.locate_eq (a : Nat) : locate t a = locate s a := by
  have hwindow : windowOf t a = windowOf s a := List.find?_congr fun w hw => by
    obtain ⟨hbase, hend, -⟩ := h.window_eq (w := w) (by simpa using (mem_seqFrom.mp hw).2)
    rw [winLoaded, winLoaded, bitAt_congr (h.window_reg (by decide) (by decide)), hbase, hend]
  have hcapacity {st : Nat} (hst : st ≤ 8) : stackCapacity t st = stackCapacity s st :=
    congrArg (fld · 16 0 * 2 ^ 20) (h.stack_reg hst (.inr (.inr rfl)))
  have hbay (b : Nat) : bayEnabled t b = bayEnabled s b := bitAt_congr (h.reg _ (by decide) outsideLog_bayMask) b
  by_cases hhbm : a < 0x009000000000
  · simp only [locate, if_pos hhbm, hwindow]
    cases hw : windowOf s a with
    | none => rfl
    | some w =>
      obtain ⟨hbase, -, hplace⟩ := h.window_eq (w := w) (by simpa using (mem_seqFrom.mp (List.mem_of_find?_eq_some hw)).2)
      have hstack : (place (a - winBase s w) (winMode s w) (winStack s w) (winPbase s w)).1 ≤ 8 := place_le _ _ _ _ (fld_lt _ _ _)
      simp only [hbase, hplace, hcapacity hstack]
  · simp only [locate, if_neg hhbm, hbay, h.pci]

/-- Where no word has an error pattern, what is in reach stays so. -/
theorem VectorStands.reach_of (hclean : s.errs = []) {a n : Nat} (hreach : reach s a n = true) : reach t a n = true := by
  refine reach_iff.mpr fun x hlow hhigh => ?_
  obtain ⟨p, hp, hheld, hhost, hgood⟩ := reached_of_reach hreach hlow hhigh
  refine ⟨p, (h.locate_eq x).trans hp, ?_, hhost, Eq.trans ?_ hgood⟩
  · cases hregion : p.region with
    | hbm st => exact (bitAt_congr (h.window_reg (off := Reg.HBM_HOLD) (by decide) (by decide)) st).trans (by rwa [hregion] at hheld)
    | _ => rfl
  · obtain ⟨key, r⟩ := p
    cases r with
    | hbm st =>
      have hst := locate_stack hp rfl
      have hchannels (i : Nat) := bitAt_congr (h.stack_reg hst (.inr (.inl rfl))) i
      have hstate : t.fieldAt (Reg.STACK_STATE st) 2 0 = s.fieldAt (Reg.STACK_STATE st) 2 0 := congrArg (fld · 2 0) (h.stack_reg hst (.inl rfl))
      simp only [wordState, fenced, channelOf, liveChannels, errorsAt_clean hclean, errorsAt_clean (h.errs hclean), hchannels, hstate,
        bitAt_congr (h.window_reg (off := Reg.HBM_ECC_MODE) (by decide) (by decide))]
    | skerry => rw [wordState_skerry hclean, wordState_skerry (h.errs hclean)]
    | _ => simp only [wordState, errorsAt_clean hclean, errorsAt_clean (h.errs hclean)]

theorem VectorStands.peekBytes_eq (hmem : t.mem = s.mem) (hundef : t.undef = s.undef) : ∀ n a, peekBytes t a n = peekBytes s a n
  | 0, _ => rfl
  | n + 1, a => by
    simp only [peekBytes, State.readByte, h.locate_eq, byteAt_congr hmem hundef, VectorStands.peekBytes_eq hmem hundef n]

end

/-! ## Executions beside the vector engines -/

/-- An execution of whose result something is known, before the rest. -/
theorem Ends.bindWith {α β : Type} {P : Env → Prop} {c : Cmd α} {f : α → Cmd β} {q : α → Prop} {Q : β → Env → Prop}
    (hc : Ends P c fun r env => P env ∧ q r) (hf : ∀ r, q r → Ends P (f r) Q) : Ends P (c >>= f) Q :=
  Ends.bind hc fun r env h => hf r h.2 env h.1

/-- Executions of one kind one after another: what is known of each result. -/
theorem Ends.mapM_all {α β : Type} {P : Env → Prop} {g : α → Cmd β} {q : β → Prop} : ∀ {l : List α},
    (∀ x ∈ l, Ends P (g x) fun y env => P env ∧ q y) → Ends P (l.mapM g) fun ys env => P env ∧ ys.length = l.length ∧ ∀ y ∈ ys, q y
  | [], _ => by
    rw [List.mapM_nil]
    exact Ends.pure fun _ h => ⟨h, rfl, by simp⟩
  | x :: l, h => by
    rw [List.mapM_cons]
    refine Ends.bindWith (h x (.head _)) fun y hy => Ends.bindWith (Ends.mapM_all fun z hz => h z (.tail _ hz)) fun ys hys => ?_
    exact Ends.pure fun _ h => ⟨h, congrArg (· + 1) hys.1, List.forall_mem_cons.mpr ⟨hy, hys.2⟩⟩

theorem Ends.ite {α : Type} {P : Env → Prop} {Q : α → Env → Prop} {b : Prop} [Decidable b] {c d : Cmd α} (hc : b → Ends P c Q)
    (hd : ¬ b → Ends P d Q) : Ends P (if b then c else d) Q := by
  split
  · exact hc ‹_›
  · exact hd ‹_›

/-- The execution of a command in the unit `k` that has changed of the state what vector engines change. -/
structure Vectoring (u : State) (k : Nat) (env : Env) : Prop where
  stands : VectorStands u env.s
  stays : Stays env.s k env

section

variable {u : State} {k : Nat}

theorem Stays.vectoring {v : State} {env : Env} (h : Stays v k env) (hstands : VectorStands u v) : Vectoring u k env := by
  obtain ⟨rfl, hengine, hpoison, hcorrected⟩ := h
  exact ⟨hstands, rfl, hengine, hpoison, hcorrected⟩

theorem Written.vectoring {v : State} {env : Env} (h : Written v k env) (hstands : VectorStands u v) : Vectoring u k env := by
  obtain ⟨hmap, hentries, hstays⟩ := h
  exact ⟨hstands.trans (hmap.vector hentries), hstays⟩

/-- What reads and writes in reach from every state that vector engines may leave. -/
theorem Vectoring.ends {α : Type} {c : Cmd α} {q : α → Prop}
    (h : ∀ v, VectorStands u v → Ends (Written v k) c fun r env => Written v k env ∧ q r) :
    Ends (Vectoring u k) c fun r env => Vectoring u k env ∧ q r :=
  fun env ⟨hstands, hstays⟩ => ((h env.s hstands).weaken fun _ _ h => ⟨h.1.vectoring hstands, h.2⟩) env hstays.written

theorem Vectoring.keeps {α : Type} {c : Cmd α} (h : ∀ v, VectorStands u v → Keeps (Written v k) c) : Keeps (Vectoring u k) c :=
  fun env ⟨hstands, hstays⟩ => ((h env.s hstands).weaken fun _ _ h => h.vectoring hstands) env hstays.written

theorem Vectoring.update {f : State → State} (hf : ∀ v, v.errs = [] → VectorStands v (f v)) (hclean : u.errs = []) :
    Keeps (Vectoring u k) (Cmd.update f) :=
  Ends.modify fun _ ⟨hstands, hstays⟩ =>
    ⟨hstands.trans (hf _ (hstands.errs hclean)), rfl, hstays.engine, hstays.unpoisoned, hstays.uncorrected⟩

/-- What only the environment's own records change. -/
theorem Vectoring.records {g : Env → Env} (hg : ∀ env, (g env).s = env.s ∧ (g env).engine = env.engine ∧ (g env).poison = env.poison ∧
    (g env).corrected = env.corrected) : Keeps (Vectoring u k) (modify g) :=
  Ends.modify fun env ⟨hstands, hstays⟩ => by
    obtain ⟨hs, hengine, hpoison, hcorrected⟩ := hg env
    exact (hstays.congr hs hengine hpoison hcorrected).vectoring hstands

theorem Vectoring.declare (a n : Nat) : Keeps (Vectoring u k) (Cmd.declare a n) := Vectoring.records fun _ => ⟨rfl, rfl, rfl, rfl⟩

end

end Sys2Proof.Machine
end


section
/-! PROOFS. Streams of fixed length in reach, read and written element by element (R194, R198, R371). -/

namespace Sys2Proof.Machine

open Sys2Proof

/-! ## Where the elements lie (R194) -/

/-- An element takes whole bytes or a part of one. -/
theorem VStream.width_cases (v : VStream) : v.width < 8 ∨ v.width % 8 = 0 := by
  have hformat : fmtBits v.code < 8 ∨ fmtBits v.code % 8 = 0 := by
    by_cases hcode : v.code ≤ 15
    · exact (by decide : ∀ code ≤ 15, fmtBits code < 8 ∨ fmtBits code % 8 = 0) _ hcode
    · unfold fmtBits
      simp (disch := omega) only [if_neg]
      decide
  unfold VStream.width
  cases v.raw with
  | true =>
    rw [if_pos rfl]
    split_ifs
    all_goals decide
  | false => exact hformat

/-- A stream of fixed length that is sound, and in reach on the tile whose scratchpad begins at an address. -/
structure StreamReady (u : State) (base : Nat) (v : VStream) : Prop where
  fixed : v.dyn = false
  pos : 1 ≤ v.len
  shape : 8 ≤ v.width ∨ v.stride = 0 ∨ v.stride = 1
  inReach : ∀ p ∈ v.pieces v.len, reach u (base + p.1) p.2 = true

/-- Whether the first elements of a stream are there: as many as it has, or any number where one is broadcast. -/
def VStream.Covers (v : VStream) (n : Nat) : Prop := v.stride = 0 ∨ n ≤ v.len

theorem VStream.bitOf_broadcast {v : VStream} (h : v.stride = 0) (i : Nat) : (v.bitOf i).toNat = 8 * v.addr := by
  have hbit : v.bitOf i = ((8 * v.addr : Nat) : Int) := by simp [VStream.bitOf, h]
  rw [hbit, Int.toNat_natCast]

theorem VStream.bitOf_packed {v : VStream} (h : v.stride = 1) (i : Nat) : (v.bitOf i).toNat = 8 * v.addr + i * v.width := by
  have hbit : v.bitOf i = ((8 * v.addr + i * v.width : Nat) : Int) := by simp [VStream.bitOf, h]
  rw [hbit, Int.toNat_natCast]

/-- Elements of whole bytes begin at a byte. -/
theorem VStream.bitOf_aligned {v : VStream} (h : v.width % 8 = 0) (i : Nat) : (v.bitOf i).toNat % 8 = 0 := by
  obtain ⟨m, hm⟩ : 8 ∣ v.width := Nat.dvd_of_mod_eq_zero h
  have hbit : v.bitOf i = 8 * ((v.addr : Int) + i * v.stride * m) := by
    rw [VStream.bitOf, hm]
    push_cast
    ring
  omega

section

variable {u : State} {base : Nat} {v : VStream} (h : StreamReady u base v)
include h

/-- One element of a stream is in reach. -/
theorem StreamReady.element {i n : Nat} (hn : v.Covers n) (hi : i < n) :
    reach u (base + (v.bitOf i).toNat / 8) (((v.bitOf i).toNat % 8 + v.width + 7) / 8) = true := by
  obtain ⟨-, hpos, hshape, hreach⟩ := h
  have hsome : v.len ≠ 0 := by omega
  unfold VStream.pieces at hreach
  rw [if_neg hsome] at hreach
  by_cases hbroadcast : v.stride = 0
  · rw [if_pos hbroadcast] at hreach
    rw [VStream.bitOf_broadcast hbroadcast]
    refine reach_part (hreach _ (.head _)) (by omega) ?_
    unfold ceilDiv
    omega
  replace hi : i < v.len := by have := hn.resolve_left hbroadcast; omega
  rw [if_neg hbroadcast] at hreach
  by_cases hpacked : v.stride = 1
  · rw [if_pos hpacked] at hreach
    have hend : (i + 1) * v.width ≤ v.len * v.width := Nat.mul_le_mul_right _ hi
    rw [Nat.succ_mul] at hend
    rw [VStream.bitOf_packed hpacked]
    refine reach_part (hreach _ (.head _)) (by omega) ?_
    unfold ceilDiv
    dsimp only
    omega
  · rw [if_neg hpacked] at hreach
    have hwhole := v.width_cases.resolve_left (by omega)
    have haligned := VStream.bitOf_aligned hwhole i
    have hpiece := hreach _ (List.mem_map_of_mem (mem_seqFrom.mpr ⟨Nat.zero_le i, by omega⟩))
    refine reach_part hpiece (Nat.le_refl _) (by dsimp only; omega)

/-- So are elements of parts of bytes, packed into a row. -/
theorem StreamReady.row (hsmall : v.width < 8) {n : Nat} (hn : n ≤ v.len) (hone : v.stride = 0 → n ≤ 1) :
    reach u (base + v.addr) (packedBytes v.width n) = true := by
  obtain ⟨-, hpos, hshape, hreach⟩ := h
  unfold VStream.pieces at hreach
  rw [if_neg (by omega)] at hreach
  by_cases hbroadcast : v.stride = 0
  · rw [if_pos hbroadcast] at hreach
    refine reach_part (hreach _ (.head _)) (Nat.le_refl _) (Nat.add_le_add_left (ceilDiv_mono 8 ?_) _)
    exact (Nat.mul_le_mul_right _ (hone hbroadcast)).trans (Nat.one_mul _).le
  · rw [if_neg hbroadcast, if_pos (by omega)] at hreach
    exact reach_part (hreach _ (.head _)) (Nat.le_refl _) (Nat.add_le_add_left (ceilDiv_mono 8 (Nat.mul_le_mul_right _ hn)) _)

end

/-! ## Reads -/

section

variable {u : State} {k base : Nat} {v : VStream} (hclean : u.errs = []) (h : StreamReady u base v)
include hclean h

/-- An element is read, and it is there. -/
theorem Vectoring.readElem {i n : Nat} (hn : v.Covers n) (hi : i < n) :
    Ends (Vectoring u k) (Cmd.readElem base v i) fun x env => Vectoring u k env ∧ x.isSome = true := by
  refine Vectoring.ends fun t ht => ?_
  unfold Cmd.readElem
  refine Ends.bindWith (Written.readP (ht.errs hclean) (ht.reach_of hclean (h.element hn hi))) fun bytes ⟨bs, _, hbs⟩ =>
    Ends.pure fun _ h => ⟨h, ?_⟩
  rw [hbs, plainBytes_map_some]
  rfl

/-- So are the first elements of a stream that covers them. -/
theorem Vectoring.readStream {n : Nat} (hn : v.Covers n) :
    Ends (Vectoring u k) (Cmd.readStream base v n) fun xs env => Vectoring u k env ∧ xs.length = n ∧ ∀ x ∈ xs, x.isSome = true := by
  unfold Cmd.readStream
  split
  · next hnone => exact Ends.pure fun _ h => ⟨h, hnone.symm, by simp⟩
  next hsome =>
  split
  · refine Ends.bindWith (Vectoring.readElem hclean h hn (Nat.pos_of_ne_zero hsome)) fun x hx =>
      Ends.pure fun _ h => ⟨h, List.length_replicate, fun y hy => ?_⟩
    rwa [List.eq_of_mem_replicate hy]
  · refine (Ends.mapM_all fun i hi => Vectoring.readElem hclean h hn (by simpa using (mem_seqFrom.mp hi).2)).weaken fun xs _ hxs => ?_
    obtain ⟨henv, hlength, hall⟩ := hxs
    exact ⟨henv, hlength.trans (length_seqFrom ..), hall⟩

theorem Vectoring.readPlain {n : Nat} (hn : v.Covers n) :
    Ends (Vectoring u k) (Cmd.readPlain base v n) fun xs env => Vectoring u k env ∧ xs.length = n := by
  unfold Cmd.readPlain
  refine Ends.bindWith (Vectoring.readStream hclean h hn) fun xs ⟨hlength, hall⟩ => ?_
  rw [← hlength]
  refine Keeps.mapM_length fun x hx => ?_
  obtain ⟨y, rfl⟩ := Option.isSome_iff_exists.mp (hall x hx)
  exact Keeps.pure _

end

/-! ## Writes -/

section

variable {u : State} {k base : Nat} {v : VStream} (hclean : u.errs = []) (hunarmed : u.undertow = []) (h : StreamReady u base v)

/-- A stream is as many outputs as it has room for. -/
theorem Vectoring.declareStream (n : Nat) : Keeps (Vectoring u k) (Cmd.declareStream base v n) := Keeps.forM fun _ _ => Vectoring.declare _ _

include hclean hunarmed h

/-- Elements are written to a stream that has room for them. -/
theorem Vectoring.writeStream {xs : List (Option Nat)} (hn : xs.length ≤ v.len) : Keeps (Vectoring u k) (Cmd.writeStream base v xs) := by
  unfold Cmd.writeStream
  split
  · next hsmall =>
    have hrow {ys : List (Option Nat)} (hys : ys.length ≤ v.len) (hone : v.stride = 0 → ys.length ≤ 1) : Keeps (Vectoring u k) (do
        modify (fun env => { env with poisoned := env.poisoned + (ys.filter (fun x => x.isNone)).length })
        if ← Cmd.marks then Cmd.write (base + v.addr) (packRow v.width (ys.map (fun x => x.getD 0)))
        else Cmd.writeP (base + v.addr) (packP v.width ys)) := by
      refine Keeps.bind (Vectoring.records fun _ => ⟨rfl, rfl, rfl, rfl⟩) fun _ => Keeps.marks.bind fun marked => Vectoring.keeps fun t ht => ?_
      have hreach := ht.reach_of hclean (h.row hsmall hys hone)
      have hclean' := ht.errs hclean
      have hunarmed' := ht.undertow.trans hunarmed
      refine Keeps.ite (fun _ => Written.write hclean' hunarmed' ?_) fun _ => Written.writeRuns hclean' hunarmed' ?_
      · rwa [length_packRow, List.length_map]
      · rwa [length_packP]
    dsimp only
    split
    · exact hrow (by simp only [List.length_drop]; omega) (fun _ => by simp only [List.length_drop]; omega)
    · next hstride => exact hrow hn fun heq => absurd heq hstride
  · next hlarge =>
    have hwhole := v.width_cases.resolve_left hlarge
    refine Keeps.forM fun x hx => Vectoring.keeps fun t ht => ?_
    have hi : x.2 < xs.length := (List.getElem?_eq_some_iff.mp (List.mem_zipIdx_iff_getElem?.mp hx)).1
    have hcell := ht.reach_of hclean (h.element (.inr hn) hi)
    refine Written.writeCells (size := v.width / 8) (ht.errs hclean) (ht.undertow.trans hunarmed) _ (fun bs hbs => ?_)
      (reach_part hcell (Nat.le_refl _) ?_)
    · obtain ⟨c, -, rfl⟩ := Option.map_eq_some_iff.mp (List.mem_singleton.mp hbs).symm
      exact length_toLE ..
    · simp only [List.length_singleton]
      omega

end

end Sys2Proof.Machine
end


section
/-! PROOFS. What the checks of a program say of an instruction whose streams are of fixed length (R193, R199, R202 to R205). -/

namespace Sys2Proof.Machine

open Sys2Proof

/-! ## Instructions -/

/-- An instruction of a VECTOR_RUN that passes the checks, whose success no operand's value decides. -/
structure InstrReady (l : List VStream) (i : VInstr) (o : OpInfo) : Prop where
  info : opInfo i.op = some o
  notSummary : i.op ≠ 0x70
  plain : i.op ≠ 0x32 ∧ i.op ≠ 0x41 ∧ i.op ≠ 0x42
  whole : 0x50 ≤ i.op ∧ i.op ≤ 0x55 → i.has1 = false
  in0 : o.use0 = true → i.in0 < l.length
  in1 : i.has1 = true → i.in1 < l.length
  in2 : o.use2 = true → i.in2 < l.length
  out : o.out = true → i.out < l.length
  rules : ∀ r ∈ lengthRules l i (fun k => some (streamAt l k).len), r.1 ≠ some false

theorem streamAt_fixed {l : List VStream} (hfixed : ∀ v ∈ l, v.dyn = false) (k : Nat) : (streamAt l k).dyn = false := by
  unfold streamAt
  cases hv : l[k]? with
  | none => rfl
  | some v => exact hfixed v (List.mem_of_getElem? hv)

theorem streamAt_mem {l : List VStream} {k : Nat} (h : k < l.length) : streamAt l k ∈ l := by
  unfold streamAt
  rw [List.getElem?_eq_getElem h]
  exact List.getElem_mem h

/-- The lengths of streams that are not dynamic are known before the program runs. -/
theorem staticLen_fixed {l : List VStream} (hfixed : ∀ v ∈ l, v.dyn = false) : staticLen l = fun k => some (streamAt l k).len := by
  funext k
  simp [staticLen, streamAt_fixed hfixed]

theorem instrReady_of_checks {s : State} {p : List Byte} {l : List VStream} {i : VInstr} (hfixed : ∀ v ∈ l, v.dyn = false)
    (hchecks : checksHold (instrChecks s p l i) = true) (hplain : plainInstr i = true) : ∃ o, InstrReady l i o := by
  unfold instrChecks at hchecks
  cases hinfo : opInfo i.op with
  | none =>
    rw [hinfo] at hchecks
    simp [checksHold] at hchecks
  | some o =>
    rw [hinfo] at hchecks
    simp only [checksHold, List.all_append, List.all_cons, List.all_nil, Bool.and_eq_true, Bool.and_true] at hchecks
    obtain ⟨⟨⟨⟨-, hsummary, -, ⟨⟨-, hthere⟩, -⟩, -⟩, hrules⟩, -⟩, -⟩ := hchecks
    rw [if_pos (by simpa using hthere), List.all_map, staticLen_fixed hfixed] at hrules
    simp only [List.all_eq_true, Function.comp, decide_eq_true_eq] at hrules
    simp only [Bool.or_eq_true, Bool.not_eq_true', decide_eq_true_eq] at hthere
    obtain ⟨h0, h1, h2, hout⟩ := hthere
    simp only [plainInstr, Bool.and_eq_true, Bool.or_eq_true, decide_eq_true_eq, Bool.not_eq_true'] at hplain
    obtain ⟨hplain, hwhole⟩ := hplain
    exact ⟨o, hinfo, by simpa using hsummary, hplain, fun hseg => hwhole.resolve_left (by omega),
      fun h => h0.resolve_left (by simp [h]),
      fun h => h1.resolve_left (by simp [h]), fun h => h2.resolve_left (by simp [h]), fun h => hout.resolve_left (by simp [h]), hrules⟩

/-! ## The table of operations -/

theorem opInfo_le {op : Nat} {o : OpInfo} (h : opInfo op = some o) : op ≤ 0x70 := by
  by_contra hlarge
  unfold opInfo at h
  simp (disch := omega) only [if_neg] at h
  cases h

/-- What the table says of every operation that is there: which read a first and a second stream, and which write one. -/
theorem opInfo_table : ∀ op ≤ 0x70, (opInfo op).all (fun o =>
    (o.use0 || [0, 0x43, 0x60].contains op) && (o.out || [0, 0x70].contains op) &&
    (o.use1 || decide (8 ≤ op ∧ op ≤ 15) || decide (0x50 ≤ op ∧ op ≤ 0x55) ||
      [0, 0x30, 0x31, 0x33, 0x43, 0x60, 0x70].contains op)) = true := by
  decide

/-! ## What an instruction reads and writes -/

/-- A stream of a program with so many elements to read. -/
def Covered (l : List VStream) (k n : Nat) : Prop := k < l.length ∧ (streamAt l k).Covers n

/-- A stream covers what it is read for where no rule on its length fails. -/
theorem covers_of_rules {rules : List (Option Bool × Nat)} (h : ∀ r ∈ rules, r.1 ≠ some false) {v : VStream} {n : Nat}
    (hrule : (if v.stride = 0 then some true else some (decide (n ≤ v.len)), 0x72) ∈ rules) : v.Covers n := by
  by_cases hbroadcast : v.stride = 0
  · exact .inl hbroadcast
  · exact .inr (by simpa [hbroadcast] using h _ hrule)

/-- A stream has room where no rule on its length fails. -/
theorem least_of_rules {rules : List (Option Bool × Nat)} (h : ∀ r ∈ rules, r.1 ≠ some false) {m n : Nat}
    (hrule : (some (decide (m ≤ n)), 0x72) ∈ rules) : m ≤ n := by simpa using h _ hrule

section

variable {l : List VStream} {i : VInstr} {o : OpInfo} (h : InstrReady l i o)
include h

theorem InstrReady.table : (o.use0 = true ∨ i.op = 0 ∨ i.op = 0x43 ∨ i.op = 0x60) ∧ (o.out = true ∨ i.op = 0) ∧
    (((o.use1 = true ∨ 8 ≤ i.op ∧ i.op ≤ 15) ∨ 0x50 ≤ i.op ∧ i.op ≤ 0x55) ∨ i.op ∈ [0, 0x30, 0x31, 0x33, 0x43, 0x60, 0x70]) := by
  have hrow := opInfo_table i.op (opInfo_le h.info)
  simp only [h.info, Option.all_some, Bool.and_eq_true, Bool.or_eq_true, decide_eq_true_eq, List.contains_eq_mem, List.mem_cons,
    List.not_mem_nil, or_false] at hrow ⊢
  obtain ⟨⟨hfirst, hout⟩, hsecond⟩ := hrow
  exact ⟨hfirst, hout.imp_right fun hop => hop.resolve_right h.notSummary, hsecond⟩

theorem InstrReady.readsFirst (hop : i.op ≠ 0 ∧ i.op ≠ 0x43 ∧ i.op ≠ 0x60) : o.use0 = true := h.table.1.resolve_right (by omega)

theorem InstrReady.writesOut (hop : i.op ≠ 0) : o.out = true := h.table.2.1.resolve_right hop

/-- The second operand is a stream where the table has one and IMM is not it (R199). -/
theorem InstrReady.hasSecond (huse : o.use1 = true) (hscalar : i.scalar = false) : i.has1 = true := by
  simp [VInstr.has1, h.info, huse, hscalar]

/-- IMM can be the second operand only where the modifier is defined. -/
theorem InstrReady.not_scalar (hmods : bit o.mods 0 = false) : i.scalar = false := by simp [VInstr.scalar, h.info, hmods]

/-- The row of an operation in the table. -/
theorem InstrReady.row {op : Nat} {r : OpInfo} (hop : i.op = op) (hrow : opInfo op = some r) : o = r :=
  Option.some.inj (h.info.symm.trans (hop ▸ hrow))

/-- COMPRESS reads its predicate. -/
theorem InstrReady.compressSecond (hop : i.op = 0x40) : i.has1 = true :=
  h.hasSecond (by rw [h.row hop rfl]) (h.not_scalar (by rw [h.row hop rfl]; rfl))

/-! ## The rules on lengths (Operations, R202 to R205) -/

/-- The streams of an element-wise operation cover its output. -/
theorem InstrReady.elementwise (hop : i.op ≠ 0x31 ∧ i.op ≠ 0x33 ∧ i.op ≠ 0x40 ∧ (i.op < 0x50 ∨ 0x55 < i.op)) :
    (o.use0 = true → Covered l i.in0 (streamAt l i.out).len) ∧ (i.has1 = true → Covered l i.in1 (streamAt l i.out).len) ∧
      (o.use2 = true → Covered l i.in2 (streamAt l i.out).len) := by
  obtain ⟨hinfo, hsummary, ⟨hdequant, hexpand, hgather⟩, -, h0, h1, h2, -, hrules⟩ := h
  obtain ⟨hquant, hrot, hcompress, hseg⟩ := hop
  unfold lengthRules at hrules
  rw [hinfo] at hrules
  dsimp only at hrules
  rw [if_neg hquant, if_neg hdequant, if_neg hrot, if_neg hsummary, if_neg hcompress, if_neg hexpand, if_neg hgather,
    if_neg (by omega)] at hrules
  exact ⟨fun hu => ⟨h0 hu, covers_of_rules hrules (by simp [hu])⟩, fun hu => ⟨h1 hu, covers_of_rules hrules (by simp [hu])⟩,
    fun hu => ⟨h2 hu, covers_of_rules hrules (by simp [hu])⟩⟩

/-- QUANT writes a scale record for each block of 32 of its output. -/
theorem InstrReady.quant (hop : i.op = 0x31) : Covered l i.in0 (streamAt l i.out).len ∧
    i.in2 < l.length ∧ ceilDiv (streamAt l i.out).len 32 ≤ (streamAt l i.in2).len := by
  have hfirst := h.readsFirst (by omega)
  have hthird : o.use2 = true := by rw [h.row hop rfl]
  obtain ⟨hinfo, -, -, -, h0, -, h2, -, hrules⟩ := h
  unfold lengthRules at hrules
  rw [hinfo] at hrules
  dsimp only at hrules
  rw [if_pos hop] at hrules
  exact ⟨⟨h0 hfirst, covers_of_rules hrules (by simp)⟩, h2 hthird, least_of_rules hrules (by simp)⟩

theorem InstrReady.rot (hop : i.op = 0x33) : Covered l i.in0 (streamAt l i.out).len := by
  have hfirst := h.readsFirst (by omega)
  obtain ⟨hinfo, -, -, -, h0, -, -, -, hrules⟩ := h
  unfold lengthRules at hrules
  rw [hinfo] at hrules
  dsimp only at hrules
  rw [if_neg (by omega), if_neg (by omega), if_pos hop] at hrules
  exact ⟨h0 hfirst, covers_of_rules hrules (by simp)⟩

/-- COMPRESS has room for all that it reads, and for its count. -/
theorem InstrReady.compress (hop : i.op = 0x40) : Covered l i.in0 (streamAt l i.in1).len ∧ i.in1 < l.length ∧
    (streamAt l i.in1).len ≤ (streamAt l i.out).len ∧ i.in2 < l.length ∧ 1 ≤ (streamAt l i.in2).len := by
  have hfirst := h.readsFirst (by omega)
  have hsecond := h.compressSecond hop
  have hthird : o.use2 = true := by rw [h.row hop rfl]
  obtain ⟨hinfo, -, -, -, h0, h1, h2, -, hrules⟩ := h
  unfold lengthRules at hrules
  rw [hinfo] at hrules
  dsimp only at hrules
  rw [if_neg (by omega), if_neg (by omega), if_neg (by omega), if_neg (by omega), if_pos hop] at hrules
  exact ⟨⟨h0 hfirst, covers_of_rules hrules (by simp)⟩, h1 hsecond, least_of_rules hrules (by simp), h2 hthird,
    least_of_rules hrules (by simp)⟩

/-- A segmented operation of one segment has room for its rows. -/
theorem InstrReady.segment (hop : 0x50 ≤ i.op ∧ i.op ≤ 0x55) : i.in0 < l.length ∧
    (if i.op ≤ 0x53 then i.imm else (streamAt l i.in0).len / i.imm * i.imm) ≤ (streamAt l i.out).len := by
  have hfirst := h.readsFirst (by omega)
  obtain ⟨hinfo, -, -, hwhole, h0, -, -, -, hrules⟩ := h
  unfold lengthRules at hrules
  rw [hinfo] at hrules
  dsimp only at hrules
  rw [if_neg (by omega), if_neg (by omega), if_neg (by omega), if_neg (by omega), if_neg (by omega), if_neg (by omega), if_neg (by omega),
    if_pos hop, if_neg (by simp [hwhole hop])] at hrules
  refine ⟨h0 hfirst, least_of_rules hrules ?_⟩
  split
  · simp
  · simp

end

end Sys2Proof.Machine
end

section
/-! PROOFS. What an instruction computes fits its output (Operations, R199, R201 to R206). -/

namespace Sys2Proof.Machine

open Sys2Proof

/-! ## Lengths at the run of an instruction (R195) -/

section

variable {l : List VStream} {i : VInstr} {o : OpInfo} (h : InstrReady l i o)
include h

/-- The streams that an instruction uses are among those whose lengths it takes. -/
theorem InstrReady.uses (hop : i.op ≠ 0) : i.out ∈ i.reads ++ i.writes ∧ (o.use0 = true → i.in0 ∈ i.reads ++ i.writes) ∧
    (i.has1 = true → i.in1 ∈ i.reads ++ i.writes) ∧ (o.use2 = true → i.in2 ∈ i.reads ++ i.writes) := by
  have hwrites : i.writes = i.out :: (if i.w2 then [i.in2] else []) := by simp [VInstr.writes, hop, h.notSummary]
  have hreads : i.reads = (if o.use0 then [i.in0] else []) ++ (if i.has1 then [i.in1] else []) ++
      (if o.use2 && !i.w2 then [i.in2] else []) := by simp [VInstr.reads, h.info]
  rw [hwrites, hreads]
  refine ⟨by simp, fun hu => by simp [hu], fun hu => by simp [hu], fun hu => ?_⟩
  cases hw : i.w2 with
  | true => simp
  | false => simp [hu]

/-- The rules on lengths speak of these streams alone. -/
theorem InstrReady.lengthRules_congr (hop : i.op ≠ 0) {f g : Nat → Option Nat} (hfg : ∀ k ∈ i.reads ++ i.writes, f k = g k) :
    lengthRules l i f = lengthRules l i g := by
  obtain ⟨hout, h0, h1, h2⟩ := h.uses hop
  replace hout := hfg _ hout
  replace h0 hu := hfg _ (h0 hu)
  replace h1 hu := hfg _ (h1 hu)
  replace h2 hu := hfg _ (h2 hu)
  unfold lengthRules
  rw [h.info]
  dsimp only
  rw [if_neg h.plain.1, if_neg h.plain.1, if_neg h.plain.2.1, if_neg h.plain.2.1, if_neg h.plain.2.2, if_neg h.plain.2.2,
    if_neg h.notSummary, if_neg h.notSummary, hout]
  refine ite_congr rfl (fun hquant => ?quant) fun _ => ite_congr rfl (fun hrot => ?rot) fun _ => ite_congr rfl (fun hcompress => ?compress)
    fun _ => ite_congr rfl (fun hseg => ?segment) fun hseg => ?elementwise
  case quant => rw [h0 (h.readsFirst (by omega)), h2 (by rw [h.row hquant rfl])]
  case rot => rw [h0 (h.readsFirst (by omega))]
  case compress => rw [h0 (h.readsFirst (by omega)), h1 (h.compressSecond hcompress), h2 (by rw [h.row hcompress rfl])]
  case segment => simp only [h.whole hseg, Bool.false_eq_true, if_false, h0 (h.readsFirst (by omega))]
  case elementwise =>
    exact congrArg₂ _ (congrArg₂ _ (ite_congr rfl (fun hu => by rw [h0 hu]) fun _ => rfl)
      (ite_congr rfl (fun hu => by rw [h1 hu]) fun _ => rfl)) (ite_congr rfl (fun hu => by rw [h2 hu]) fun _ => rfl)

end

/-! ## What is computed -/

/-- What an instruction computes has room in the streams that it writes. -/
structure OutFits (l : List VStream) (i : VInstr) (r : VecOut) : Prop where
  out : r.out.length ≤ (streamAt l i.out).len
  count : i.w2 = true → r.w2.length ≤ (streamAt l i.in2).len

theorem outFits_of_length {l : List VStream} {i : VInstr} {r : VecOut} (h : r.out.length ≤ (streamAt l i.out).len) (hw : i.w2 = false) :
    OutFits l i r := ⟨h, by simp [hw]⟩

theorem w2_of_op {i : VInstr} (hquant : i.op ≠ 0x31) (hcompress : i.op ≠ 0x40) : i.w2 = false := by simp [VInstr.w2, hquant, hcompress]

theorem length_segRows (op split d : Nat) (rows : List (List Val)) :
    (segRows op split d rows).length = (if op ≤ 0x53 then 1 else rows.length) * d := by
  simp [segRows, List.length_flatMap, length_seqFrom]

theorem length_compressList (a : List (Option Nat)) (p : List Nat) : (compressList a p).length ≤ p.length := by
  unfold compressList
  rw [List.length_map]
  exact (List.length_filter_le ..).trans (by simp)

/-- QUANT writes a code for each value, and a scale record for each block of 32. -/
theorem length_quantOut (x : VecCtx) (o : VStream) (kind : Nat) (vs : List Val) :
    (quantOut x o kind vs).1.out.length ≤ vs.length ∧ (quantOut x o kind vs).1.w2.length ≤ ceilDiv vs.length 32 := by
  unfold quantOut
  dsimp only
  refine ⟨?codes, ?records⟩
  case codes =>
    rw [List.flatMap_map]
    refine length_flatMap_chunks 32 (fun l => ?_) _ vs
    split
    · simp [length_quantisedCodes]
    · simp [length_quantisedCodes]
  case records =>
    rw [List.length_map, List.length_map]
    exact length_blocks_le _ vs

/-- The counts of a layer's events are bytes stored where no word has an error pattern. -/
theorem countPw_vectorStands {s : State} (hclean : s.errs = []) (layer tide : Nat) (e : Events) : VectorStands s (countPw s layer tide e) := by
  have hbump {t : State} (ht : VectorStands s t) (off k : Nat) : VectorStands s (bumpPw t layer off k) := by
    unfold bumpPw setPw storeBytes
    split
    · exact ht
    · rw [settleWrite, ht.errs hclean]
      exact ht.trans ((pokeBytes_mapStands ..).vector (pokeBytes_entries ..))
  exact hbump (hbump (hbump (hbump (hbump (hbump (.refl s) _ _) _ _) _ _) _ _) _ _) _ _

section

variable {u : State} {e : Nat} {x : VecCtx} {l : List VStream} {i : VInstr} {o : OpInfo} {len : Nat → Nat} (hclean : u.errs = [])
  (hstreams : ∀ v ∈ l, StreamReady u x.base v)
include hclean hstreams

theorem Vectoring.readAt {k n : Nat} (h : Covered l k n) : Ends (Vectoring u e) (Cmd.readStream x.base (streamAt l k) n) fun xs env =>
    Vectoring u e env ∧ xs.length = n :=
  (Vectoring.readStream hclean (hstreams _ (streamAt_mem h.1)) h.2).weaken fun _ _ h => ⟨h.1, h.2.1⟩

/-- The second operand of a floating-point operation. -/
theorem Vectoring.operandB {n : Nat} (h : i.scalar = false → Covered l i.in1 n) : Ends (Vectoring u e) (Cmd.operandB x l i n) fun vs env =>
    Vectoring u e env ∧ vs.length = n := by
  unfold Cmd.operandB
  split
  · exact Ends.pure fun _ h => ⟨h, List.length_replicate⟩
  · next hstream =>
    exact Ends.bindWith (Vectoring.readAt hclean hstreams (h (Bool.eq_false_of_not_eq_true hstream))) fun xs hxs =>
      Ends.pure fun _ h => ⟨h, (List.length_map ..).trans hxs⟩

/-- A segmented operation of one segment. -/
theorem Vectoring.segOp (h : InstrReady l i o) (hop : 0x50 ≤ i.op ∧ i.op ≤ 0x55)
    (hlen : ∀ k ∈ i.reads ++ i.writes, len k = (streamAt l k).len) :
    Ends (Vectoring u e) (Cmd.segOp x l i len) fun r env => Vectoring u e env ∧ OutFits l i r := by
  obtain ⟨hin, hroom⟩ := h.segment hop
  obtain ⟨hout, hfirst, -⟩ := h.uses (by omega)
  rw [← hlen _ hout, ← hlen _ (hfirst (h.readsFirst (by omega)))] at hroom
  have hrows : len i.in0 / i.imm * i.imm ≤ (streamAt l i.in0).len := by
    rw [hlen _ (hfirst (h.readsFirst (by omega)))]
    exact Nat.div_mul_le_self ..
  unfold Cmd.segOp Cmd.segments
  simp only [h.whole hop, Bool.false_eq_true, if_false, pure_bind, List.getLastD_cons, List.getLastD_nil]
  rw [if_neg (by split at hroom <;> omega)]
  refine Ends.bindWith (Vectoring.readAt hclean hstreams ⟨hin, .inr hrows⟩) fun xs _ => Ends.pure fun _ h => ⟨h, ?_⟩
  refine outFits_of_length ?_ (w2_of_op (by omega) (by omega))
  rw [← hlen _ hout]
  refine Nat.le_trans ?_ hroom
  simp only [floatsOut, outOf, List.length_map, List.map_cons, List.map_nil, List.flatMap_cons, List.flatMap_nil, List.append_nil, length_segRows]
  split
  · exact (Nat.one_mul _).le
  · exact Nat.mul_le_mul_right _ ((List.length_take_le ..).trans (Nat.sub_le ..))

/-- COMPRESS. -/
theorem Vectoring.compress (h : InstrReady l i o) (hop : i.op = 0x40) (hlen : ∀ k ∈ i.reads ++ i.writes, len k = (streamAt l k).len) :
    Ends (Vectoring u e) (Cmd.vecCompute x l i len) fun r env => Vectoring u e env ∧ OutFits l i r := by
  obtain ⟨hvalues, hpredicate, hroom, -, hcount⟩ := h.compress hop
  obtain ⟨-, -, hsecond, -⟩ := h.uses (by omega)
  unfold Cmd.vecCompute
  dsimp only
  rw [if_neg (by omega), if_neg (by omega), if_neg (by omega), if_pos hop, hlen _ (hsecond (h.compressSecond hop))]
  refine Ends.bindWith (Vectoring.readAt hclean hstreams hvalues) fun xs _ => ?_
  refine Ends.bindWith (Vectoring.readPlain hclean (hstreams _ (streamAt_mem hpredicate)) (.inr (Nat.le_refl _))) fun ps hps =>
    Ends.pure fun _ h => ⟨h, (length_compressList xs ps).trans (hps.le.trans hroom), fun _ => hcount⟩

omit hclean hstreams in
/-- What an instruction that is not COMPRESS nor segmented reads first covers its output. -/
theorem InstrReady.firstCovered (h : InstrReady l i o) (hop : i.op ≠ 0 ∧ i.op ≠ 0x40 ∧ (i.op < 0x50 ∨ 0x55 < i.op))
    (hreads : i.op ≠ 0x43 ∧ i.op ≠ 0x60) : Covered l i.in0 (streamAt l i.out).len := by
  obtain ⟨hend, hcompress, hseg⟩ := hop
  by_cases hquant : i.op = 0x31
  · exact (h.quant hquant).1
  by_cases hrot : i.op = 0x33
  · exact h.rot hrot
  exact (h.elementwise ⟨hquant, hrot, hcompress, hseg⟩).1 (h.readsFirst ⟨hend, hreads⟩)

omit hclean hstreams in
/-- So does the second operand of an operation of two or three, where IMM is not it. -/
theorem InstrReady.secondCovered (h : InstrReady l i o) (hop : i.op ∉ [0, 0x30, 0x31, 0x33, 0x40, 0x43, 0x60] ∧ (i.op < 8 ∨ 15 < i.op) ∧
    (i.op < 0x50 ∨ 0x55 < i.op)) (hscalar : i.scalar = false) : Covered l i.in1 (streamAt l i.out).len := by
  obtain ⟨hnot, hunary, hseg⟩ := hop
  simp only [List.mem_cons, List.not_mem_nil, or_false] at hnot
  have huse : o.use1 = true := by
    obtain ⟨-, -, hrow⟩ := h.table
    have hsummary := h.notSummary
    simp only [List.mem_cons, List.not_mem_nil, or_false] at hrow
    obtain (hrow | hrow) | hrow := hrow
    · exact hrow.resolve_right (by omega)
    · omega
    · omega
  exact (h.elementwise ⟨by omega, by omega, by omega, hseg⟩).2.1 (h.hasSecond huse hscalar)

omit hclean hstreams in
/-- CVT of an element always has a result (R201). -/
theorem Vectoring.cvt (a o : VStream) (n : Int) (c : Option Nat) : Keeps (Vectoring u e) (Cmd.cvt a o n c) := by
  unfold Cmd.cvt
  cases c with
  | none => exact Keeps.pure _
  | some c =>
    refine Keeps.ite (fun _ => Keeps.pure _) fun _ => Keeps.ite (fun _ => ?_) fun _ => Keeps.pure _
    split
    · exact Keeps.pure _
    · exact Keeps.pure _

/-- The computation of an instruction once its first operand is read: every other operand covers the output too. -/
theorem Vectoring.elementwise (h : InstrReady l i o) (hop : i.op ≠ 0 ∧ i.op ≠ 0x40 ∧ (i.op < 0x50 ∨ 0x55 < i.op))
    (hlen : ∀ k ∈ i.reads ++ i.writes, len k = (streamAt l k).len) :
    Ends (Vectoring u e) (Cmd.vecCompute x l i len) fun r env => Vectoring u e env ∧ OutFits l i r := by
  have hfirst := h.firstCovered hop
  have hout := hlen _ (h.uses hop.1).1
  obtain ⟨hend, hcompress, hseg⟩ := hop
  obtain ⟨hdequant, hexpand, hgather⟩ := h.plain
  have hpure {r : VecOut} (hquant : i.op ≠ 0x31) (hr : r.out.length ≤ (streamAt l i.out).len) :
      Ends (Vectoring u e) (Pure.pure r) fun r env => Vectoring u e env ∧ OutFits l i r :=
    Ends.pure fun _ h => ⟨h, outFits_of_length hr (w2_of_op hquant hcompress)⟩
  have hsecond (hop : i.op ≠ 0x30 ∧ i.op ≠ 0x31 ∧ i.op ≠ 0x33 ∧ i.op ≠ 0x43 ∧ i.op ≠ 0x60) (hbinary : i.op < 8 ∨ 15 < i.op) :=
    h.secondCovered ⟨by simp; omega, hbinary, hseg⟩
  have hthird (hquant : i.op ≠ 0x31) (hrot : i.op ≠ 0x33) := (h.elementwise ⟨hquant, hrot, hcompress, hseg⟩).2.2
  unfold Cmd.vecCompute
  dsimp only
  rw [if_neg (by omega), hout]
  refine Ends.ite (fun hiota => hpure (by omega) (by simp [outOf, length_seqFrom])) fun hiota =>
    Ends.ite (fun hdraw => hpure (by omega) (by simp [outOf, length_seqFrom])) fun hdraw => ?_
  rw [if_neg hcompress, if_neg (by omega)]
  refine Ends.bindWith (Vectoring.readAt hclean hstreams (hfirst ⟨hiota, hdraw⟩)) fun va hva => ?_
  rw [if_neg hexpand, if_neg hgather, if_neg hdequant]
  refine Ends.ite (fun hselect => ?select) fun hselect => Ends.ite (fun hint => ?integer) fun hint => Ends.ite (fun hcvt => ?convert) fun hcvt =>
    Ends.ite (fun hquant => ?quant) fun hquant => Ends.ite (fun hrot => ?rotate) fun hrot => Ends.ite (fun hcmp => ?compare) fun hcmp =>
    Ends.ite (fun hfma => ?fma) fun hfma => Ends.ite (fun hdrop => ?dropout) fun hdrop => Ends.ite (fun hunary => ?unary) fun hunary => ?binary
  case select =>
    have hscalar := h.not_scalar (by rw [h.row hselect rfl]; rfl)
    refine Ends.bindWith (Vectoring.readAt hclean hstreams (hsecond (by omega) (by omega) hscalar)) fun vb hvb =>
      Ends.bindWith (Vectoring.readAt hclean hstreams (hthird (by omega) (by omega) (by rw [h.row hselect rfl]))) fun vc hvc =>
        hpure (by omega) ?_
    simp [outOf, hva, hvb, hvc]
  case integer =>
    have hop : 0x20 ≤ i.op ∧ i.op ≤ 0x29 := by simpa [intOp] using hint
    have hend {vb : List (Option Nat)} (f : Option Nat × Option Nat → Option Nat) :
        Ends (Vectoring u e) (Pure.pure (outOf (streamAt l i.out) (((va.map (intElem (streamAt l i.in0))).zip vb).map f)))
          fun r env => Vectoring u e env ∧ OutFits l i r := hpure (by omega) (by simp [outOf, hva])
    refine Ends.ite (fun _ => (Keeps.pure _).bind fun _ => hend _) fun hscalar => ?_
    have hb := hsecond (by omega) (by omega) (Bool.eq_false_of_not_eq_true hscalar)
    exact Keeps.bind (Ends.bindWith (Vectoring.readAt hclean hstreams hb) fun _ _ => Keeps.pure _) fun _ => hend _
  case convert =>
    refine Ends.bindWith (Keeps.mapM_length fun c _ => Vectoring.cvt _ _ _ c) fun r hr => hpure (by omega) ?_
    simp [outOf, hva, hr]
  case quant =>
    obtain ⟨-, -, hrecords⟩ := h.quant hquant
    obtain ⟨hcodes, hcount⟩ := length_quantOut x (streamAt l i.out) (bits i.mod 2 1) (va.map (elemVal (streamAt l i.in0)))
    rw [List.length_map, hva] at hcodes hcount
    exact Keeps.optional (Vectoring.update (fun v hv => countPw_vectorStands hv _ _ _) hclean)
      (Ends.pure fun _ h => ⟨h, hcodes, fun _ => hcount.trans hrecords⟩)
  case rotate =>
    exact hpure (by omega) (by simpa [floatsOut, outOf, hva] using length_rotateRow i.imm (bit i.mod 1) (va.map (elemVal (streamAt l i.in0))))
  case compare =>
    refine Ends.bindWith (Vectoring.operandB hclean hstreams (hsecond (by omega) (by omega))) fun vb _ => hpure (by omega) ?_
    simp [outOf, hva]
  case fma =>
    refine Ends.bindWith (Vectoring.operandB hclean hstreams (hsecond (by omega) (by omega))) fun vb _ =>
      Ends.bindWith (Vectoring.readAt hclean hstreams (hthird (by omega) (by omega) (by rw [h.row hfma rfl]))) fun vc _ => hpure (by omega) ?_
    simp [floatsOut, outOf, hva]
  case dropout =>
    refine Ends.bindWith (Vectoring.operandB hclean hstreams (hsecond (by omega) (by omega))) fun vb _ =>
      Ends.bindWith (Vectoring.readAt hclean hstreams (hthird (by omega) (by omega) (by rw [h.row hdrop rfl]))) fun vc _ => hpure (by omega) ?_
    simp [floatsOut, outOf, hva]
  case unary => exact hpure (by omega) (by simp [floatsOut, outOf, hva])
  case binary =>
    refine Ends.bindWith (Vectoring.operandB hclean hstreams (hsecond (by omega) (by omega))) fun vb _ => hpure (by omega) ?_
    simp [floatsOut, outOf, hva]

end

end Sys2Proof.Machine
end

section
/-! PROOFS. Programs of the vector engine on one tile (R193, R195 to R198, R208). -/

namespace Sys2Proof.Machine

open Sys2Proof

/-! ## Executions that are watched -/

/-- An execution that ends without a stop leaves its handler nothing to do. -/
theorem Keeps.tryCatch {α : Type} {P : Env → Prop} {c : Cmd α} {handler : Stop → Cmd α} (h : Keeps P c) :
    Keeps P (MonadExcept.tryCatch c handler) := fun env henv => by
  obtain ⟨a, env', hrun, hP⟩ := h env henv
  refine ⟨a, env', ?_, hP⟩
  rw [ExceptT.run_tryCatch, StateT.run_bind, hrun]
  rfl

/-- Tile after tile of a VECTOR_RUN. -/
theorem Keeps.vecTiles {α : Type} {P : Env → Prop} {run : α → Cmd VecCount} {unrun : α → Cmd Unit} : ∀ {l : List α},
    (∀ p ∈ l, Keeps P (run p)) → Keeps P (Cmd.vecTiles run unrun l)
  | [], _ => Keeps.pure _
  | p :: l, h => by
    unfold Cmd.vecTiles
    exact (Keeps.tryCatch (h p (.head _))).bind fun _ => (Keeps.vecTiles fun q hq => h q (.tail _ hq)).bind fun _ => Keeps.pure _

/-! ## One instruction -/

/-- The lengths taken for the streams of an instruction, by index. -/
def lengthOfUsed (l : List VStream) (ks : List Nat) (k : Nat) : Nat :=
  (((ks.map fun k => (k, (streamAt l k).len)).find? (fun p => decide (p.1 = k))).map (fun p => p.2)).getD 0

theorem lengthOfUsed_eq (l : List VStream) {ks : List Nat} {k : Nat} (h : k ∈ ks) : lengthOfUsed l ks k = (streamAt l k).len := by
  unfold lengthOfUsed
  rw [List.find?_map]
  cases hfind : ks.find? ((fun p => decide (p.1 = k)) ∘ fun k => (k, (streamAt l k).len)) with
  | none => exact absurd (List.find?_eq_none.mp hfind k h) (by simp)
  | some j =>
    obtain rfl : j = k := by simpa using List.find?_some hfind
    rfl

section

variable {u : State} {e : Nat} {x : VecCtx} {l : List VStream} {i : VInstr} {o : OpInfo}

/-- The rules on lengths hold at the run of an instruction too. -/
theorem InstrReady.rulesHold (h : InstrReady l i o) (hop : i.op ≠ 0) :
    (lengthRules l i (fun k => some (lengthOfUsed l (i.reads ++ i.writes) k))).any (fun r => decide (r.1 = some false)) = false := by
  rw [h.lengthRules_congr hop (g := fun k => some (streamAt l k).len) fun k hk => congrArg some (lengthOfUsed_eq l hk)]
  exact List.any_eq_false.mpr fun r hr => by simpa using h.rules r hr

/-- The stream of the count or the records of QUANT and COMPRESS. -/
theorem InstrReady.countStream (h : InstrReady l i o) (hw : i.w2 = true) : i.in2 < l.length := by
  simp only [VInstr.w2, Bool.or_eq_true, decide_eq_true_eq] at hw
  obtain hquant | hcompress := hw
  · exact (h.quant hquant).2.1
  · obtain ⟨-, -, -, hin, -⟩ := h.compress hcompress
    exact hin

variable (hclean : u.errs = []) (hunarmed : u.undertow = []) (hstreams : ∀ v ∈ l, StreamReady u x.base v)
include hclean hstreams

/-- What an instruction computes fits what it writes. -/
theorem Vectoring.vecCompute (h : InstrReady l i o) (hop : i.op ≠ 0) :
    Ends (Vectoring u e) (Cmd.vecCompute x l i (lengthOfUsed l (i.reads ++ i.writes))) fun r env => Vectoring u e env ∧ OutFits l i r := by
  have hlen : ∀ k ∈ i.reads ++ i.writes, lengthOfUsed l (i.reads ++ i.writes) k = (streamAt l k).len := fun k => lengthOfUsed_eq l
  by_cases hseg : 0x50 ≤ i.op ∧ i.op ≤ 0x55
  · unfold Cmd.vecCompute
    dsimp only
    rw [if_pos hseg]
    exact Vectoring.segOp hclean hstreams h hseg hlen
  by_cases hcompress : i.op = 0x40
  · exact Vectoring.compress hclean hstreams h hcompress hlen
  · exact Vectoring.elementwise hclean hstreams h ⟨hop, hcompress, by omega⟩ hlen

include hunarmed

/-- An instruction runs to its end. -/
theorem Vectoring.vecInstr (bay : Nat) (h : InstrReady l i o) : Keeps (Vectoring u e) (Cmd.vecInstr x bay l i) := by
  have hfixed (k : Nat) : (streamAt l k).dyn = false := streamAt_fixed (fun v hv => (hstreams v hv).fixed) k
  have hinstrs (v : State) : VectorStands v (v.countWrap (Reg.VEC_BAY_CTR_INSTRS bay) 1) :=
    setReg_vectorStands v _ (Nat.le_add_right_of_le (by decide))
  have hsteps (v : State) (n : Nat) : VectorStands v (v.count64 (Reg.VEC_BAY_CTR_STEPS_LO bay) n) :=
    count64_vectorStands v n (Nat.le_add_right_of_le (by decide))
  unfold Cmd.vecInstr
  refine Ends.ite (fun hend => ?ending) fun hend => ?running
  case ending =>
    rw [if_neg h.notSummary]
    exact Keeps.bind (Vectoring.update (fun v _ => hinstrs v) hclean) fun _ => Keeps.pure _
  case running =>
    have hop : i.op ≠ 0 := fun heq => hend (.inl heq)
    simp only [Cmd.lengthOf, hfixed, Bool.false_eq_true, if_false, pure_bind, List.mapM_pure, Bool.false_and]
    refine Keeps.bind (Keeps.forM fun _ _ => Vectoring.declareStream _) fun _ =>
      Ends.ite (fun hbad => absurd hbad (Bool.eq_false_iff.mp (h.rulesHold hop))) fun _ => Ends.ite (fun hidle => absurd hidle (by simp)) fun _ => ?_
    refine Ends.bindWith (Vectoring.vecCompute hclean hstreams h hop) fun r hr => ?_
    refine Keeps.bind (Vectoring.writeStream hclean hunarmed (hstreams _ (streamAt_mem (h.out (h.writesOut hop)))) hr.out) fun _ => ?_
    refine Keeps.optionalOf (fun hw => Vectoring.writeStream hclean hunarmed (hstreams _ (streamAt_mem (h.countStream hw))) (hr.count hw)) ?_
    refine Keeps.bind (Keeps.forM fun w _ => Keeps.ite (fun _ => Keeps.forM fun p _ => Vectoring.update (fun v _ => ?_) hclean) fun _ =>
      Keeps.pure _) fun _ => Keeps.bind (Vectoring.update (fun v _ => (hsteps v _).trans (hinstrs _)) hclean) fun _ => Keeps.pure _
    exact (undefDevice_stands ..).1.vector (undefDevice_stands ..).2

/-- So does a program, one instruction after another (R198). -/
theorem Vectoring.vecProgram (bay : Nat) : ∀ {prog : List VInstr}, (∀ i ∈ prog, ∃ o, InstrReady l i o) →
    Keeps (Vectoring u e) (Cmd.vecProgram x bay l prog)
  | [], _ => Keeps.pure _
  | i :: rest, h => by
    obtain ⟨o, hi⟩ := h i (.head _)
    unfold Cmd.vecProgram
    exact (Keeps.tryCatch (Vectoring.vecInstr hclean hunarmed hstreams bay hi)).bind fun _ =>
      (Vectoring.vecProgram bay fun j hj => h j (.tail _ hj)).bind fun _ => Keeps.pure _

end

end Sys2Proof.Machine
end

section
/-! PROOFS. VECTOR_RUN of a program of fixed streams in reach (R43, R53, R193, R196 to R199). -/

namespace Sys2Proof.Machine

open Sys2Proof

/-! ## What a VECTOR_RUN starts from -/

/-- The bytes of a program image where it lies: instructions, then stream descriptors (R193). -/
def imageAt (s : State) (e : Entry) : List Byte :=
  peekBytes s (bodyAt e 0 8) (16 * bodyAt e 8 2) ++ peekBytes s (bodyAt e 0 8 + 4096) (16 * bodyAt e 10 2)

/-- A state in which a VECTOR_RUN without transfers can run: its image and its streams in reach, its program sound, nothing armed, no word with
an error pattern. -/
structure VectorFits (s : State) (e : Entry) (prog : List VInstr) (l : List VStream) : Prop where
  clean : s.errs = []
  unarmed : s.undertow = []
  checks : checksHold (vectorChecks s e) = true
  noInbound : bodyAt e 24 1 = 0
  noOutbound : bodyAt e 25 1 = 0
  noReuse : bit (bodyAt e 26 1) 0 = false
  instrs : reach s (bodyAt e 0 8) (16 * bodyAt e 8 2) = true
  descriptors : reach s (bodyAt e 0 8 + 4096) (16 * bodyAt e 10 2) = true
  image : imageParts (bodyAt e 8 2) (imageAt s e) = (prog, l)
  program : checksHold (programChecks s e.pkt l prog) = true
  plain : prog.all plainInstr = true
  streams : ∀ t, bodyAt e 12 2 ≤ t → t < bodyAt e 12 2 + bodyAt e 14 2 → streamsReach s t l = true

section

variable {s : State} {e : Entry} {prog : List VInstr} {l : List VStream}

theorem VectorFits.launch (h : VectorFits s e prog l) : VectorFits (launchState s e) (launchEntry s e) prog l := by
  obtain ⟨hclean, hunarmed, hchecks, hin, hout, hreuse, hinstrs, hdescriptors, himage, hprogram, hplain, hstreams⟩ := h
  have halike := launchState_alike s e
  refine ⟨hclean, hunarmed, hchecks, hin, hout, hreuse, (halike.reach_eq ..).trans hinstrs, (halike.reach_eq ..).trans hdescriptors, ?_,
    hprogram, hplain, fun t hlow hhigh => ?_⟩
  · unfold imageAt
    rw [halike.peekBytes_eq, halike.peekBytes_eq]
    exact himage
  · simp only [streamsReach, halike.reach_eq]
    exact hstreams t hlow hhigh

/-- The checks of a program that holds: of its descriptors and of its instructions. -/
theorem checks_of_program (h : checksHold (programChecks s e.pkt l prog) = true) :
    (∀ v ∈ l, checksHold v.checks = true) ∧ ∀ i ∈ prog, checksHold (instrChecks s e.pkt l i) = true := by
  simp only [checksHold, programChecks, List.all_append, Bool.and_eq_true, List.all_flatMap, List.all_eq_true] at h ⊢
  obtain ⟨⟨-, hdescriptors⟩, hinstrs⟩ := h
  exact ⟨hdescriptors, hinstrs⟩

theorem VectorFits.streamsReady (h : VectorFits s e prog l) {t : Nat} (hlow : bodyAt e 12 2 ≤ t) (hhigh : t < bodyAt e 12 2 + bodyAt e 14 2) :
    ∀ v ∈ l, StreamReady s (padBase t) v := fun v hv => by
  have hreach := List.all_eq_true.mp (h.streams t hlow hhigh) v hv
  have hchecks := (checks_of_program h.program).1 v hv
  simp only [Bool.and_eq_true, Bool.not_eq_true', List.all_eq_true] at hreach
  obtain ⟨hfixed, hpieces⟩ := hreach
  simp only [checksHold, VStream.checks, hfixed, List.all_cons, List.all_nil, Bool.and_true, Bool.and_eq_true, Bool.or_eq_true, decide_eq_true_eq,
    Bool.false_eq_true, if_false] at hchecks
  obtain ⟨-, -, ⟨⟨-, hshape⟩, -⟩, ⟨hpos, -⟩, -⟩ := hchecks
  exact ⟨hfixed, hpos, hshape, hpieces⟩

theorem VectorFits.instrsReady (h : VectorFits s e prog l) {t : Nat} (hlow : bodyAt e 12 2 ≤ t) (hhigh : t < bodyAt e 12 2 + bodyAt e 14 2) :
    ∀ i ∈ prog, ∃ o, InstrReady l i o := fun i hi =>
  instrReady_of_checks (fun v hv => (h.streamsReady hlow hhigh v hv).fixed) ((checks_of_program h.program).2 i hi)
    (List.all_eq_true.mp h.plain i hi)

/-- The image on every tile passes its checks, and there are no transfers to check (R197). -/
theorem VectorFits.lowest_none (h : VectorFits s e prog l) {images : List (List Byte)} (himages : ∀ im ∈ images, im = imageAt s e)
    {xfers : List (List Transfer)} (hxfers : ∀ xs ∈ xfers, xs = []) :
    lowest (images.flatMap (fun im => programChecks s e.pkt (imageParts (bodyAt e 8 2) im).2 (imageParts (bodyAt e 8 2) im).1) ++
      xfers.flatMap (fun xs => xs.flatMap Transfer.checks)) = none := by
  refine lowest_of_checksHold (List.all_eq_true.mpr fun q hq => ?_)
  obtain hq | hq := List.mem_append.mp hq
  · obtain ⟨im, him, hq⟩ := List.mem_flatMap.mp hq
    rw [himages im him, h.image] at hq
    exact List.all_eq_true.mp h.program q hq
  · obtain ⟨xs, hxs, hq⟩ := List.mem_flatMap.mp hq
    rw [hxfers xs hxs] at hq
    cases hq

end

/-! ## The image loaded tile after tile (R196) -/

/-- The execution of a VECTOR_RUN that loads its image: nothing is stored in memory. -/
structure Loading (u : State) (k : Nat) (env : Env) : Prop extends Vectoring u k env where
  mem : env.s.mem = u.mem
  undef : env.s.undef = u.undef

theorem Loading.read {u : State} {k a n : Nat} (hclean : u.errs = []) (h : reach u a n = true) :
    Ends (Loading u k) (Cmd.read a n) fun bs env => Loading u k env ∧ bs = peekBytes u a n := fun env henv => by
  obtain ⟨⟨hstands, hstays⟩, hmem, hundef⟩ := henv
  obtain ⟨bs, env', hrun, hstays', hbs⟩ := Stays.read (hstands.reach_of hclean h) env hstays
  refine ⟨bs, env', hrun, ⟨hstays'.vectoring hstands, ?_, ?_⟩, hbs.trans (hstands.peekBytes_eq hmem hundef n a)⟩
  · rw [hstays'.state, hmem]
  · rw [hstays'.state, hundef]

/-- An image may be reused only with REUSE = 1. -/
theorem reusable_none (s : State) {e : Entry} (h : bit (bodyAt e 26 1) 0 = false) (tile : Nat) : reusable s e tile = none := by
  simp [reusable, h]

theorem storeImage_loading {u : State} {k : Nat} (e : Entry) (tile bay : Nat) (image : List Byte) :
    Keeps (Loading u k) (Cmd.update fun s => (storeImage s e tile image).countWrap (Reg.VEC_BAY_CTR_LOADS bay) 1) :=
  Ends.modify fun env ⟨⟨hstands, hstays⟩, hmem, hundef⟩ => by
    have hstored : VectorStands env.s (storeImage env.s e tile image) := ⟨fun _ _ _ => rfl, rfl, id, rfl, rfl⟩
    have hcounted : VectorStands env.s ((storeImage env.s e tile image).countWrap (Reg.VEC_BAY_CTR_LOADS bay) 1) :=
      hstored.trans (setReg_vectorStands _ _ (Nat.le_add_right_of_le (by decide)))
    exact ⟨⟨hstands.trans hcounted, rfl, hstays.engine, hstays.unpoisoned, hstays.uncorrected⟩, hmem, hundef⟩

/-! ## The engine queues (R53) -/

/-- The execution leaves what is read of the state as it is. -/
def ReadsOn {α : Type} (c : Cmd α) : Prop := ∀ env, ReadAlike env.s (c.run.run env).2.s

section

variable {α β : Type}

theorem readsOn_pure (a : α) : ReadsOn (Pure.pure a) := fun _ => ⟨rfl, rfl, rfl, rfl, rfl⟩

theorem readsOn_stop (x : Stop) : ReadsOn (MonadExcept.throw x : Cmd α) := fun _ => ⟨rfl, rfl, rfl, rfl, rfl⟩

theorem readsOn_state : ReadsOn Cmd.state := fun _ => ⟨rfl, rfl, rfl, rfl, rfl⟩

theorem readsOn_modify {g : Env → Env} (h : ∀ env, ReadAlike env.s (g env).s) : ReadsOn (modify g : Cmd PUnit) := h

theorem ReadsOn.bind {c : Cmd α} {f : α → Cmd β} (hc : ReadsOn c) (hf : ∀ a, ReadsOn (f a)) : ReadsOn (c >>= f) := fun env => by
  have hfirst := hc env
  rw [ExceptT.run_bind, StateT.run_bind]
  generalize c.run.run env = r at hfirst
  obtain ⟨_ | a, env1⟩ := r
  · exact hfirst
  · exact hfirst.trans (hf a env1)

theorem ReadsOn.ite {b : Prop} [Decidable b] {c d : Cmd α} (hc : ReadsOn c) (hd : ReadsOn d) : ReadsOn (if b then c else d) := by
  split
  · exact hc
  · exact hd

end

theorem enterQueues_readsOn (e : Entry) : ReadsOn (Cmd.enterQueues e) := by
  unfold Cmd.enterQueues
  refine readsOn_state.bind fun s => ReadsOn.bind (readsOn_modify fun _ => ⟨rfl, rfl, rfl, rfl, rfl⟩) fun _ => ?_
  have hwaits (c : Entry) : ReadsOn (if !(queuesLeft c).isEmpty then throw (.pause .queueRoom)
      else if (queuesOf e).any (fun a => tileGated s (a % 512)) then throw (.pause .gated)
      else if rowsTaken s c then throw (.pause .serialised)
      else return () : Cmd Unit) :=
    ReadsOn.ite (readsOn_stop _) (ReadsOn.ite (readsOn_stop _) (ReadsOn.ite (readsOn_stop _) (readsOn_pure _)))
  exact ReadsOn.ite (ReadsOn.bind (readsOn_modify fun _ => ⟨rfl, rfl, rfl, rfl, rfl⟩) fun _ => hwaits _) (hwaits _)

/-- The operations of a command whose queues are free enter them, and what is read of the state stays. -/
theorem enterQueues_alike {t : State} {k : Nat} {e : Entry} (hclean : t.errs = []) (hunarmed : t.undertow = []) (hfree : QueuesFree t e)
    (htracked : ∃ d, entryOf t e.tag = some d ∧ d.reruns = 0) :
    Ends (Stays t k) (Cmd.enterQueues e) fun _ env => Calm t e.tag env ∧ ReadAlike t env.s := fun env henv => by
  obtain ⟨rfl, -, hunpoisoned, huncorrected⟩ := henv
  have hcalm : Calm env.s e.tag env := ⟨.refl _, hclean, hunarmed, hunpoisoned, huncorrected, htracked⟩
  obtain ⟨r, env', hrun, hend, -⟩ := enterQueues_ends env.s e env.s.slots env ⟨hcalm, hfree, rfl⟩
  have halike := enterQueues_readsOn e env
  rw [hrun] at halike
  exact ⟨r, env', hrun, hend, halike⟩

/-! ## The command -/

theorem StreamReady.alike {s u : State} (halike : ReadAlike s u) {base : Nat} {v : VStream} (h : StreamReady s base v) : StreamReady u base v :=
  ⟨h.fixed, h.pos, h.shape, fun p hp => (halike.reach_eq ..).trans (h.inReach p hp)⟩

theorem Vectoring.quiet {u : State} {k tag : Nat} {env : Env} (h : Vectoring u k env) (hunarmed : u.undertow = [])
    (htracked : ∃ d, entryOf u tag = some d ∧ d.reruns = 0) : Quiet tag env := by
  obtain ⟨hstands, hstays⟩ := h
  obtain ⟨d, hd, hreruns⟩ := htracked
  exact hstays.quiet (hstands.undertow.trans hunarmed) ((entryOf_congr hstands.entries _).trans hd) hreruns

/-- The body of such a VECTOR_RUN whose queues are free ends DONE. -/
theorem bodyVectorRun_ends {t : State} {c : Entry} {prog : List VInstr} {l : List VStream} (hfits : VectorFits t c prog l)
    (hfree : QueuesFree t c) (htracked : ∃ d, entryOf t c.tag = some d ∧ d.reruns = 0) :
    Ends (Stays t 0) (bodyVectorRun c) fun o env =>
      Quiet c.tag env ∧ DoneIn (if bodyAt c 14 2 = 1 then 0x4000 + bodyAt c 12 2 else 0xF000) o := by
  unfold bodyVectorRun
  refine Ends.bind_of_eq Stays.readState (Keeps.bind (Keeps.checks hfits.checks) fun _ => ?_)
  refine Ends.bind (enterQueues_alike hfits.clean hfits.unarmed hfree htracked) fun _ => ?_
  dsimp only
  generalize (if bodyAt c 14 2 = 1 then 0x4000 + bodyAt c 12 2 else 0xF000) = k
  refine Ends.bind (R := fun _ env => (Calm t c.tag env ∧ ReadAlike t env.s) ∧ env.engine = k)
    (Ends.modify fun env h => ⟨⟨h.1.of_state rfl rfl rfl, h.2⟩, rfl⟩) fun _ env henv => ?_
  obtain ⟨⟨hcalm, halike⟩, hengine⟩ := henv
  have hclean := hcalm.errs
  have hunarmed := hcalm.undertow
  have hstart : Loading env.s k env := ⟨⟨.refl _, rfl, hengine, hcalm.unpoisoned, hcalm.uncorrected⟩, rfl, rfl⟩
  refine (?_ : Ends (Loading env.s k) _ _) env hstart
  refine Ends.bindWith (q := fun ims => ∀ im ∈ ims, im = imageAt t c) ?images fun images himages => ?_
  case images =>
    refine (Ends.mapM_all fun tile _ => Keeps.state.bind fun v => ?_).weaken fun _ _ h => ⟨h.1, h.2.2⟩
    rw [reusable_none v hfits.noReuse]
    refine Ends.bindWith (Loading.read hclean ((halike.reach_eq ..).trans hfits.instrs)) fun b hb =>
      Ends.bindWith (Loading.read hclean ((halike.reach_eq ..).trans hfits.descriptors)) fun d hd =>
        Keeps.bind (storeImage_loading _ _ _ _) fun _ => Ends.pure fun _ h => ⟨h, ?_⟩
    rw [hb, hd, halike.peekBytes_eq, halike.peekBytes_eq]
    rfl
  refine Ends.bindWith (q := fun xfers => ∀ xs ∈ xfers, xs = []) ?transfers fun xfers hxfers => ?_
  case transfers =>
    refine (Ends.mapM_all fun tile _ => ?_).weaken fun _ _ h => ⟨h.1, h.2.2⟩
    rw [if_pos (by rw [hfits.noInbound, hfits.noOutbound])]
    exact Ends.pure fun _ h => ⟨h, rfl⟩
  rw [hfits.lowest_none himages hxfers]
  dsimp only
  refine Ends.strengthen (fun _ h => h.toVectoring) ((Keeps.field _ _ _).bind fun split => Keeps.escEn.bind fun escEn => ?_)
  refine Keeps.bind (Keeps.forM fun q hq => ?declares) fun _ => Keeps.bind (Keeps.vecTiles fun p hp => ?tile) fun r =>
    Ends.pure fun _ h => ⟨h.quiet hunarmed hcalm.tracked, rfl, rfl, rfl⟩
  case declares =>
    rw [hxfers _ (List.mem_of_getElem? (List.mem_zipIdx_iff_getElem?.mp hq))]
    exact Keeps.bind (Keeps.forM (by simp)) fun _ => Keeps.forM (by simp)
  case tile =>
    obtain ⟨tile, im, xs⟩ := p
    obtain ⟨htile, hpair⟩ := List.of_mem_zip hp
    obtain ⟨him, hxs⟩ := List.of_mem_zip hpair
    obtain ⟨hlow, hhigh⟩ := mem_seqFrom.mp htile
    obtain rfl := hxfers xs hxs
    obtain rfl := himages im him
    rw [hfits.image]
    have hstreams v hv := (hfits.streamsReady hlow hhigh v hv).alike halike
    exact Keeps.bind (Keeps.forM (by simp)) fun _ => Keeps.bind
      (Vectoring.vecProgram hclean hunarmed hstreams _ (hfits.instrsReady hlow hhigh)) fun _ =>
        Keeps.bind (Keeps.forM (by simp)) fun _ => Keeps.pure _

/-! ## From dispatch to completion -/

/-- A command without preparation that is launched finishes with its body's outcome, where its body ends quietly. -/
theorem launched_finishes {s : State} {tag op : Nat} {e : Entry} {body : Entry → Cmd Done} {p : Done → Prop} (hlaunch : Launch s tag op e)
    (hop : op < 0x60) (hbody : Ends (Stays (launchState s e) 0) (body (launchEntry s e)) fun o env => Quiet tag env ∧ p o) :
    ∃ o, FinishedWith (runRow op (.plain body) tag s) tag o ∧ p o := by
  have hfault := dispatchFault_of_launch hlaunch hop
  obtain ⟨hentry, hopcode, hready, hprepared, -, -, -, hgate, -, -, hcommit, -, -⟩ := hlaunch
  obtain rfl : e.tag = tag := entryOf_tag hentry
  rw [runRow_of_ready _ hentry hready hopcode hgate, runEntry_eq, startEntry_of_ready hready, startState_of_ready hready,
    startFault_of_ready hready, hfault]
  exact runFrom_unprepared (s := s) (job := .plain body) (e := dispatched s e) (by simp [hcommit]) hprepared rfl (launchState_tracked hentry)
    (stays_runEnv ..) hbody

/-- The queues of a command stay free at its dispatch. -/
theorem QueuesFree.launch {s : State} {e : Entry} (h : QueuesFree s e) : QueuesFree (launchState s e) (launchEntry s e) := by
  have hcounted : QueuesFree { s with readSeq := s.readSeq + 1 } e := h
  have hdispatched : QueuesFree (dispatchedState s e) (dispatched s e) := hcounted.setEntry _ (fun _ _ => rfl) rfl rfl
  exact hdispatched.setEntry (preparedEntry (runEnv (dispatchedState s e) (dispatched s e))) (fun _ hd => hd) rfl rfl

/-- Settles O57: the image is loaded on every tile, its program runs to its end there, and the command ends DONE. -/
theorem vectorRunCompletes : Obligations.VectorRunCompletes := by
  unfold Obligations.VectorRunCompletes
  intro s tag e prog l hlaunch hchecks hin hout hreuse _ hfree hinstrs hdescriptors himage hprogram hplain hstreams
  obtain ⟨hentry, -, -, -, hreruns, -, -, -, -, -, -, hclean, hunarmed⟩ := id hlaunch
  have htag : e.tag = tag.val := entryOf_tag hentry
  have hfits : VectorFits s e prog l :=
    ⟨hclean, hunarmed, hchecks, hin, hout, hreuse, hinstrs, hdescriptors, himage, hprogram, hplain, hstreams⟩
  have hrow : (.vectorRun tag, 0x40, .plain bodyVectorRun) ∈ unitRows tag [] := by simp [unitRows]
  refine executes_of_row (exec_unitRow hrow s) (launched_finishes (op := 0x40) hlaunch (by decide) ?_)
  rw [← htag]
  exact bodyVectorRun_ends hfits.launch hfree.launch ⟨_, launchState_tracked (htag ▸ hentry), hreruns⟩

end Sys2Proof.Machine
end
